-- ==== Sys2Proof/Word.lean ====
section
/-! DEFINITION. The word types of the device and their plainest arithmetic (00_scope.md R5: bit 0 is least
significant, memory is little-endian; 08_numbers_and_rounding.md R153). -/

namespace Sys2Proof

/-- A byte of memory. -/
abbrev Byte := BitVec 8

/-- A 32-bit register, word of a packet or element. -/
abbrev Word := BitVec 32

/-- A 64-bit value: a register pair, low half first (R87). -/
abbrev DWord := BitVec 64

/-- Bits hi down to lo of a natural number. -/
def bitsOf (n hi lo : Nat) : Nat := n / 2 ^ lo % 2 ^ (hi + 1 - lo)

/-- The value of a field read as signed (two's complement of the given width). -/
def signedOf (width n : Nat) : Int := if n < 2 ^ (width - 1) then (n : Int) else (n : Int) - 2 ^ width

/-- A 64-bit value from its two registers, low half first. -/
def pairOf (lo hi : Word) : DWord := BitVec.ofNat 64 (lo.toNat + 2 ^ 32 * hi.toNat)

/-- The low register of a pair. -/
def loOf (x : DWord) : Word := BitVec.ofNat 32 x.toNat

/-- The high register of a pair. -/
def hiOf (x : DWord) : Word := BitVec.ofNat 32 (x.toNat / 2 ^ 32)

/-- Little-endian bytes of a number. -/
def leBytes : Nat → Nat → List Byte
  | 0, _ => []
  | k + 1, n => BitVec.ofNat 8 n :: leBytes k (n / 256)

/-- The number whose little-endian bytes are given. -/
def ofLe : List Byte → Nat
  | [] => 0
  | b :: bs => b.toNat + 256 * ofLe bs

/-- Number of one bits among the low `k` bits of `n`. -/
def popCount : Nat → Nat → Nat
  | 0, _ => 0
  | k + 1, n => n % 2 + popCount k (n / 2)

end Sys2Proof
end

