-- ==== Sys2Proof/Config.lean ====
section
/-! DEFINITION. What the spec leaves open. Each constant has no body: nothing can be proved of the value it gives, so a
statement holds whatever it is. It is applied to the State's counter of free values (log 2). -/

namespace Sys2Proof.Config

/-- A free choice among `n` outcomes is this number modulo n: which writer wins under `.any` (R46, R48), old or new
bytes of an outside write (R59), old or new result of a short stall (R76), an order the device is free to take. -/
opaque freeChoice : Nat → Nat

/-- How many choices between commands and chains may pass before the oldest command, or a chain, has its turn (R42). -/
opaque raceBound : Nat

/-- The firmware's threshold of a long scoreboard wait, in µs less 1, modulo 10,000 (R336). -/
opaque waitThreshold : Nat

/-- A free value of `w` bits: the value of a result the spec does not fix. -/
opaque freeBits : Nat → (w : Nat) → BitVec w

/-- What the firmware maps of BAR4, and for which tenant (R406): offset, length, physical base and tenant of each part. -/
opaque barMaps : Nat → List (Nat × Nat × Nat × Nat)

/-- A byte of a snapshot in its window (R416), by unit, label and cycle of the latch and the offset: the spec gives no layout. -/
opaque snapByte : Nat → Nat → Nat → Nat → Byte

/-- What the boot ROM finds of a firmware image (R408): the spec gives neither the image's layout nor the fused keys. -/
opaque imageFormat : List Byte → Bool
opaque imageRsa : List Byte → Bool
opaque imageSlh : List Byte → Bool
/-- An image's version, its minimum-version field and the digest of its body, as numbers. -/
opaque imageVersion : List Byte → Nat
opaque imageMin : List Byte → Nat
opaque imageDigest : List Byte → Nat
/-- The boot ROM's digest (R410). -/
opaque romDigest : Nat

end Sys2Proof.Config
end

