-- ==== Sys2Proof/Syntax.lean ====
section
/-! DEFINITION. The instructions and events of the ISF-1248: one constructor per row of the opcode table.
A word row takes the fields that 04_words_formats_opcode_map.md (R78 to R82) gives its format, without the chain
and stall bits, which belong to the word (R70). An event row has no encoding; its arguments name what it acts on. -/

namespace Sys2Proof

/-- The issue policies of a core (R319, R320). -/
inductive IssuePolicy where
  | gto
  | rr
  deriving DecidableEq, Repr, Inhabited

/-- What a step-buffer entry in a step-spill area covers (R231): a line of global memory by its physical number, a scratch line of its
block, or 128 bytes of a sparse region's elements. -/
inductive SpillEntry where
  | memory (line : Nat)
  | scratch (line : Nat)
  | sparse (region line : Nat)
  deriving DecidableEq, Repr, Inhabited

/-- Where a soft error strikes (R360). `corr` says whether the error is correctable. -/
inductive ErrorSite where
  /-- a line of memory, by physical address (core store caches, L2 and Rhomer stacks) -/
  | memLine (corr : Bool) (addr : Nat)
  /-- a scratch line of a block: launch, block, line -/
  | scratchLine (corr : Bool) (l b line : Nat)
  /-- a line of a fibre's private memory: launch, block, fibre, line -/
  | privLine (corr : Bool) (l b f line : Nat)
  /-- a register window or journal of a home group: launch, block, group -/
  | window (corr : Bool) (l b g : Nat)
  /-- the round-log entry of a launch that covers a physical line -/
  | roundLog (corr : Bool) (l line : Nat)
  /-- the round-log entry of a launch that covers 128 bytes of a sparse region's elements -/
  | sparseLog (corr : Bool) (l region line : Nat)
  /-- a step-buffer entry that a block has spilled to its step-spill area -/
  | stepSpill (corr : Bool) (l b : Nat) (entry : SpillEntry)
  /-- a range-table entry: core and position -/
  | rangeEntry (corr : Bool) (core pos : Nat)
  /-- a gate: slice and index -/
  | gate (corr : Bool) (slice index : Nat)
  deriving DecidableEq, Repr, Inhabited

/-- What an outside agent reads: the BAR4 aperture, the gate windows of BAR2, the registers of BAR0 (R406), or, as an application core or
a root-port device, memory by physical address for a tenant (R405, R406). -/
inductive HostSpace where
  | aperture
  | window
  | register
  | memory (tenant : Nat)
  deriving DecidableEq, Repr, Inhabited

/-- Where such a read begins. -/
structure HostAddr where
  space : HostSpace
  off   : Nat
  deriving DecidableEq, Repr, Inhabited

/-- One retry of a flit on a port, which fails again or succeeds (R388). -/
structure FlitTry where
  port   : Nat
  failed : Bool
  deriving DecidableEq, Repr, Inhabited

/-- One line of an `rcp` as it arrives at the receiving module (R391), with what its command carries. -/
structure RcpLine where
  /-- the port it arrives at -/
  port : Nat
  /-- the sending module's id (R387) -/
  sender : Nat
  /-- the receiver's window number (R389) -/
  window : Nat
  /-- the sender's command, to tell transfers apart, and its contribution key (R242, R392) -/
  xfer : Nat
  block : Nat
  fibre : Nat
  seq : Nat
  /-- the remote offset of the first byte of the line (R271) -/
  off : Nat
  bytes : List (BitVec 8)
  /-- true under `.acc`; `size` is then the size code 3 or 4 (R273) -/
  acc : Bool
  size : Nat
  /-- true for the last line of the transfer to arrive -/
  last : Bool
  /-- flag bit 0 of the command: a gate arrival follows the last line -/
  raise : Bool
  deriving DecidableEq, Repr, Inhabited

/-- The operations and events of the table. -/
inductive Instr where
  /-- NOP (R123) -/
  | nop
  /-- YIELD (R123) -/
  | yield
  /-- BRK (R126) -/
  | brk
  /-- TRAP (R126) -/
  | trap (code : BitVec 12)
  /-- TRET (R127) -/
  | tret
  /-- EXIT (R128) -/
  | exit
  /-- STOP (R130) -/
  | stop
  /-- RSTOP (R131) -/
  | rstop
  /-- RSTOP_GATED (R131) -/
  | rstopGated (g : BitVec 6)
  /-- GADD (R132) -/
  | gadd (g : BitVec 6) (b : BitVec 6)
  /-- GREAD (R133) -/
  | gread (d : BitVec 6) (g : BitVec 6)
  /-- BR (R124) -/
  | br (delta : BitVec 19) (slot : BitVec 4)
  /-- CALL (R124) -/
  | call (a : BitVec 6) (delta : BitVec 13) (slot : BitVec 4)
  /-- BRX (R125) -/
  | brx (a : BitVec 6)
  /-- CALLX (R125) -/
  | callx (d : BitVec 6) (a : BitVec 6)
  /-- RET (R125) -/
  | ret (a : BitVec 6)
  /-- SPAWN (R135) -/
  | spawn (a : BitVec 6) (delta : BitVec 13) (slot : BitVec 4)
  /-- IADD (R136) -/
  | iadd (d : BitVec 6) (a : BitVec 6) (b : BitVec 6)
  /-- ISUB (R136) -/
  | isub (d : BitVec 6) (a : BitVec 6) (b : BitVec 6)
  /-- IMUL (R136) -/
  | imul (d : BitVec 6) (a : BitVec 6) (b : BitVec 6)
  /-- IMULHI (R136) -/
  | imulhi (d : BitVec 6) (a : BitVec 6) (b : BitVec 6)
  /-- IMULHIN (R136) -/
  | imulhin (d : BitVec 6) (a : BitVec 6) (b : BitVec 6)
  /-- IMAD (R136) -/
  | imad (d : BitVec 6) (a : BitVec 6) (b : BitVec 6)
  /-- IMIN (R136) -/
  | imin (d : BitVec 6) (a : BitVec 6) (b : BitVec 6)
  /-- IMAX (R136) -/
  | imax (d : BitVec 6) (a : BitVec 6) (b : BitVec 6)
  /-- IMINN (R136) -/
  | iminn (d : BitVec 6) (a : BitVec 6) (b : BitVec 6)
  /-- IMAXN (R136) -/
  | imaxn (d : BitVec 6) (a : BitVec 6) (b : BitVec 6)
  /-- IABS (R136) -/
  | iabs (d : BitVec 6) (a : BitVec 6)
  /-- INEG (R136) -/
  | ineg (d : BitVec 6) (a : BitVec 6)
  /-- IADDS (R136) -/
  | iadds (d : BitVec 6) (a : BitVec 6) (b : BitVec 6)
  /-- ISUBS (R136) -/
  | isubs (d : BitVec 6) (a : BitVec 6) (b : BitVec 6)
  /-- IADDSN (R136) -/
  | iaddsn (d : BitVec 6) (a : BitVec 6) (b : BitVec 6)
  /-- ISUBSN (R136) -/
  | isubsn (d : BitVec 6) (a : BitVec 6) (b : BitVec 6)
  /-- LADD (R137) -/
  | ladd (d : BitVec 6) (a : BitVec 6) (b : BitVec 6)
  /-- LSUB (R137) -/
  | lsub (d : BitVec 6) (a : BitVec 6) (b : BitVec 6)
  /-- LMUL (R137) -/
  | lmul (d : BitVec 6) (a : BitVec 6) (b : BitVec 6)
  /-- LMAD (R137) -/
  | lmad (d : BitVec 6) (a : BitVec 6) (b : BitVec 6)
  /-- LMIN (R137) -/
  | lmin (d : BitVec 6) (a : BitVec 6) (b : BitVec 6)
  /-- LMAX (R137) -/
  | lmax (d : BitVec 6) (a : BitVec 6) (b : BitVec 6)
  /-- LMINN (R137) -/
  | lminn (d : BitVec 6) (a : BitVec 6) (b : BitVec 6)
  /-- LMAXN (R137) -/
  | lmaxn (d : BitVec 6) (a : BitVec 6) (b : BitVec 6)
  /-- LSHL (R137) -/
  | lshl (d : BitVec 6) (a : BitVec 6) (b : BitVec 6)
  /-- LSHR (R137) -/
  | lshr (d : BitVec 6) (a : BitVec 6) (b : BitVec 6)
  /-- LSRA (R137) -/
  | lsra (d : BitVec 6) (a : BitVec 6) (b : BitVec 6)
  /-- LNEG (R137) -/
  | lneg (d : BitVec 6) (a : BitVec 6)
  /-- LABS (R137) -/
  | labs (d : BitVec 6) (a : BitVec 6)
  /-- AND (R138) -/
  | and (d : BitVec 6) (a : BitVec 6) (b : BitVec 6)
  /-- OR (R138) -/
  | or (d : BitVec 6) (a : BitVec 6) (b : BitVec 6)
  /-- XOR (R138) -/
  | xor (d : BitVec 6) (a : BitVec 6) (b : BitVec 6)
  /-- ANDN (R138) -/
  | andn (d : BitVec 6) (a : BitVec 6) (b : BitVec 6)
  /-- ORN (R138) -/
  | orn (d : BitVec 6) (a : BitVec 6) (b : BitVec 6)
  /-- XNOR (R138) -/
  | xnor (d : BitVec 6) (a : BitVec 6) (b : BitVec 6)
  /-- NOT (R138) -/
  | not (d : BitVec 6) (a : BitVec 6)
  /-- SHL (R138) -/
  | shl (d : BitVec 6) (a : BitVec 6) (b : BitVec 6)
  /-- SHR (R138) -/
  | shr (d : BitVec 6) (a : BitVec 6) (b : BitVec 6)
  /-- SRA (R138) -/
  | sra (d : BitVec 6) (a : BitVec 6) (b : BitVec 6)
  /-- ROTL (R138) -/
  | rotl (d : BitVec 6) (a : BitVec 6) (b : BitVec 6)
  /-- ROTR (R138) -/
  | rotr (d : BitVec 6) (a : BitVec 6) (b : BitVec 6)
  /-- POPC (R138) -/
  | popc (d : BitVec 6) (a : BitVec 6)
  /-- CLZ (R138) -/
  | clz (d : BitVec 6) (a : BitVec 6)
  /-- CTZ (R138) -/
  | ctz (d : BitVec 6) (a : BitVec 6)
  /-- BREV (R138) -/
  | brev (d : BitVec 6) (a : BitVec 6)
  /-- BFE (R139) -/
  | bfe (d : BitVec 6) (a : BitVec 6) (b : BitVec 6)
  /-- BFES (R139) -/
  | bfes (d : BitVec 6) (a : BitVec 6) (b : BitVec 6)
  /-- BFI (R139) -/
  | bfi (d : BitVec 6) (a : BitVec 6) (b : BitVec 6)
  /-- BSWAP (R138) -/
  | bswap (d : BitVec 6) (a : BitVec 6)
  /-- ICMP (R140) -/
  | icmp (p : BitVec 6) (a : BitVec 6) (b : BitVec 6) (cond : BitVec 4)
  /-- LCMP (R140) -/
  | lcmp (p : BitVec 6) (a : BitVec 6) (b : BitVec 6) (cond : BitVec 4)
  /-- MOV (R144) -/
  | mov (d : BitVec 6) (a : BitVec 6)
  /-- ISEL (R144) -/
  | isel (d : BitVec 6) (a : BitVec 6) (b : BitVec 6)
  /-- MOVS (R145) -/
  | movs (d : BitVec 6) (sr : BitVec 6)
  /-- MOVSW (R380) -/
  | movsw (sr : BitVec 6) (b : BitVec 6)
  /-- PAND (R146) -/
  | pand (p : BitVec 6) (a : BitVec 4) (b : BitVec 4)
  /-- POR (R146) -/
  | por (p : BitVec 6) (a : BitVec 4) (b : BitVec 4)
  /-- PXOR (R146) -/
  | pxor (p : BitVec 6) (a : BitVec 4) (b : BitVec 4)
  /-- PANDN (R146) -/
  | pandn (p : BitVec 6) (a : BitVec 4) (b : BitVec 4)
  /-- PNOT (R146) -/
  | pnot (p : BitVec 6) (a : BitVec 4)
  /-- PMOV (R146) -/
  | pmov (p : BitVec 6) (a : BitVec 4)
  /-- PWORD (R146) -/
  | pword (d : BitVec 6)
  /-- PSETW (R146) -/
  | psetw (a : BitVec 6) (b : BitVec 6)
  /-- IADDI (R141) -/
  | iaddi (d : BitVec 6) (a : BitVec 6) (imm : BitVec 11)
  /-- ANDI (R141) -/
  | andi (d : BitVec 6) (a : BitVec 6) (imm : BitVec 11)
  /-- ORI (R141) -/
  | ori (d : BitVec 6) (a : BitVec 6) (imm : BitVec 11)
  /-- XORI (R141) -/
  | xori (d : BitVec 6) (a : BitVec 6) (imm : BitVec 11)
  /-- SHLI (R141) -/
  | shli (d : BitVec 6) (a : BitVec 6) (n : BitVec 5)
  /-- SHRI (R141) -/
  | shri (d : BitVec 6) (a : BitVec 6) (n : BitVec 5)
  /-- SRAI (R141) -/
  | srai (d : BitVec 6) (a : BitVec 6) (n : BitVec 5)
  /-- ICMPI (R142) -/
  | icmpi (p : BitVec 6) (a : BitVec 6) (cond : BitVec 4) (imm : BitVec 7)
  /-- MOVI (R143) -/
  | movi (d : BitVec 6) (imm : BitVec 17)
  /-- MOVHI (R143) -/
  | movhi (d : BitVec 6) (imm : BitVec 15)
  /-- FADD (R179) -/
  | fadd (d : BitVec 6) (a : BitVec 6) (b : BitVec 6)
  /-- FSUB (R179) -/
  | fsub (d : BitVec 6) (a : BitVec 6) (b : BitVec 6)
  /-- FMUL (R179) -/
  | fmul (d : BitVec 6) (a : BitVec 6) (b : BitVec 6)
  /-- FFMA (R179) -/
  | ffma (d : BitVec 6) (a : BitVec 6) (b : BitVec 6)
  /-- FFMS (R179) -/
  | ffms (d : BitVec 6) (a : BitVec 6) (b : BitVec 6)
  /-- FNFMA (R179) -/
  | fnfma (d : BitVec 6) (a : BitVec 6) (b : BitVec 6)
  /-- FMIN (R181) -/
  | fmin (d : BitVec 6) (a : BitVec 6) (b : BitVec 6)
  /-- FMAX (R181) -/
  | fmax (d : BitVec 6) (a : BitVec 6) (b : BitVec 6)
  /-- FABS (R182) -/
  | fabs (d : BitVec 6) (a : BitVec 6)
  /-- FNEG (R182) -/
  | fneg (d : BitVec 6) (a : BitVec 6)
  /-- FDIV (R165) -/
  | fdiv (d : BitVec 6) (a : BitVec 6) (b : BitVec 6)
  /-- FSQRT (R165) -/
  | fsqrt (d : BitVec 6) (a : BitVec 6)
  /-- FRCP (R165) -/
  | frcp (d : BitVec 6) (a : BitVec 6)
  /-- FRSQ (R165) -/
  | frsq (d : BitVec 6) (a : BitVec 6)
  /-- FEXP2 (R165) -/
  | fexp2 (d : BitVec 6) (a : BitVec 6)
  /-- FLOG2 (R165) -/
  | flog2 (d : BitVec 6) (a : BitVec 6)
  /-- FSINPI (R165) -/
  | fsinpi (d : BitVec 6) (a : BitVec 6)
  /-- FCOSPI (R165) -/
  | fcospi (d : BitVec 6) (a : BitVec 6)
  /-- FKEY (R166) -/
  | fkey (d : BitVec 6) (a : BitVec 6)
  /-- FKEYINV (R167) -/
  | fkeyinv (d : BitVec 6) (a : BitVec 6)
  /-- FCMP (R183) -/
  | fcmp (p : BitVec 6) (a : BitVec 6) (b : BitVec 6) (cond : BitVec 3)
  /-- DCMP (R183) -/
  | dcmp (p : BitVec 6) (a : BitVec 6) (b : BitVec 6) (cond : BitVec 3)
  /-- DADD (R184) -/
  | dadd (d : BitVec 6) (a : BitVec 6) (b : BitVec 6)
  /-- DSUB (R184) -/
  | dsub (d : BitVec 6) (a : BitVec 6) (b : BitVec 6)
  /-- DMUL (R184) -/
  | dmul (d : BitVec 6) (a : BitVec 6) (b : BitVec 6)
  /-- DFMA (R184) -/
  | dfma (d : BitVec 6) (a : BitVec 6) (b : BitVec 6)
  /-- DMIN (R184) -/
  | dmin (d : BitVec 6) (a : BitVec 6) (b : BitVec 6)
  /-- DMAX (R184) -/
  | dmax (d : BitVec 6) (a : BitVec 6) (b : BitVec 6)
  /-- DABS (R184) -/
  | dabs (d : BitVec 6) (a : BitVec 6)
  /-- DNEG (R184) -/
  | dneg (d : BitVec 6) (a : BitVec 6)
  /-- DDIV (R165) -/
  | ddiv (d : BitVec 6) (a : BitVec 6) (b : BitVec 6)
  /-- DSQRT (R165) -/
  | dsqrt (d : BitVec 6) (a : BitVec 6)
  /-- DKEY (R184) -/
  | dkey (d : BitVec 6) (a : BitVec 6)
  /-- HADD2 (R185) -/
  | hadd2 (d : BitVec 6) (a : BitVec 6) (b : BitVec 6)
  /-- HSUB2 (R185) -/
  | hsub2 (d : BitVec 6) (a : BitVec 6) (b : BitVec 6)
  /-- HMUL2 (R185) -/
  | hmul2 (d : BitVec 6) (a : BitVec 6) (b : BitVec 6)
  /-- HFMA2 (R185) -/
  | hfma2 (d : BitVec 6) (a : BitVec 6) (b : BitVec 6)
  /-- HMIN2 (R185) -/
  | hmin2 (d : BitVec 6) (a : BitVec 6) (b : BitVec 6)
  /-- HMAX2 (R185) -/
  | hmax2 (d : BitVec 6) (a : BitVec 6) (b : BitVec 6)
  /-- HKEY2 (R185) -/
  | hkey2 (d : BitVec 6) (a : BitVec 6)
  /-- BADD2 (R185) -/
  | badd2 (d : BitVec 6) (a : BitVec 6) (b : BitVec 6)
  /-- BSUB2 (R185) -/
  | bsub2 (d : BitVec 6) (a : BitVec 6) (b : BitVec 6)
  /-- BMUL2 (R185) -/
  | bmul2 (d : BitVec 6) (a : BitVec 6) (b : BitVec 6)
  /-- BFMA2 (R185) -/
  | bfma2 (d : BitVec 6) (a : BitVec 6) (b : BitVec 6)
  /-- BMIN2 (R185) -/
  | bmin2 (d : BitVec 6) (a : BitVec 6) (b : BitVec 6)
  /-- BMAX2 (R185) -/
  | bmax2 (d : BitVec 6) (a : BitVec 6) (b : BitVec 6)
  /-- CVT (R188) -/
  | cvt (d : BitVec 6) (a : BitVec 6) (dt : BitVec 4) (sty : BitVec 4) (rm : BitVec 3)
  /-- FIX (R190) -/
  | fix (d : BitVec 6) (a : BitVec 6) (rm : BitVec 3) (scale : BitVec 7)
  /-- UNFIX (R190) -/
  | unfix (d : BitVec 6) (a : BitVec 6) (rm : BitVec 3) (scale : BitVec 7)
  /-- LSHFL (R147) -/
  | lshfl (d : BitVec 6) (a : BitVec 6) (b : BitVec 6)
  /-- LVOTEANY (R147) -/
  | lvoteany (p : BitVec 6) (a : BitVec 6)
  /-- LVOTEALL (R147) -/
  | lvoteall (p : BitVec 6) (a : BitVec 6)
  /-- LBALLOT (R147) -/
  | lballot (d : BitVec 6) (a : BitVec 6)
  /-- LRANK (R147) -/
  | lrank (d : BitVec 6) (a : BitVec 6)
  /-- LFIRST (R147) -/
  | lfirst (d : BitVec 6) (a : BitVec 6)
  /-- BXPOS (R148) -/
  | bxpos (d : BitVec 6) (a : BitVec 6) (b : BitVec 6)
  /-- BXCNT (R148) -/
  | bxcnt (d : BitVec 6) (a : BitVec 6) (b : BitVec 6)
  /-- BMERGE (R148) -/
  | bmerge (d : BitVec 6) (a : BitVec 6) (b : BitVec 6)
  /-- BMPRE (R148) -/
  | bmpre (d : BitVec 6) (a : BitVec 6) (b : BitVec 6)
  /-- LD (R201) -/
  | ld (d : BitVec 6) (cap : BitVec 4) (x : BitVec 6) (size : BitVec 3) (hint : BitVec 3) (f : BitVec 1)
  /-- ST (R202) -/
  | st (d : BitVec 6) (cap : BitVec 4) (x : BitVec 6) (size : BitVec 3) (rule : BitVec 3) (f : BitVec 1)
  /-- FADR (R203) -/
  | fadr (d : BitVec 6) (cap : BitVec 4) (x : BitVec 6) (size : BitVec 3) (f : BitVec 1)
  /-- MOVB (R205) -/
  | movb (d : BitVec 6) (bi : BitVec 5)
  /-- STB (R205) -/
  | stb (d : BitVec 6) (bi : BitVec 5) (rule : BitVec 3) (f : BitVec 1)
  /-- CAPSUB (R207) -/
  | capsub (d : BitVec 4) (a : BitVec 4) (b : BitVec 6)
  /-- CAPPERM (R208) -/
  | capperm (d : BitVec 4) (a : BitVec 4) (b : BitVec 6)
  /-- CAPGET (R209) -/
  | capget (d : BitVec 6) (a : BitVec 4) (sel : BitVec 6)
  /-- CAPTAG (R210) -/
  | captag (p : BitVec 6) (a : BitVec 4)
  /-- CAPMINT (R211) -/
  | capmint (d : BitVec 4) (a : BitVec 6)
  /-- TLD (R307) -/
  | tld (d : BitVec 6) (cap : BitVec 4) (x : BitVec 6)
  /-- TST (R308) -/
  | tst (d : BitVec 6) (cap : BitVec 4) (x : BitVec 6) (rule : BitVec 3) (f : BitVec 1)
  /-- TNEXT (R309) -/
  | tnext (d : BitVec 6) (a : BitVec 6) (cap : BitVec 4)
  /-- TCOUNT (R309) -/
  | tcount (d : BitVec 6) (cap : BitVec 4)
  /-- CP (R263) -/
  | cp (d : BitVec 6) (dst : BitVec 4) (src : BitVec 4) (x : BitVec 6) (size : BitVec 2)
  /-- CPT (R246) -/
  | cpt (d : BitVec 6) (a : BitVec 4) (b : BitVec 6)
  /-- CPD (R247) -/
  | cpd (d : BitVec 6) (a : BitVec 4) (b : BitVec 6)
  /-- CPS (R247) -/
  | cps (d : BitVec 6) (a : BitVec 4) (b : BitVec 6)
  /-- GATH (R249) -/
  | gath (d : BitVec 6) (a : BitVec 4) (b : BitVec 6)
  /-- SCAT (R250) -/
  | scat (d : BitVec 6) (a : BitVec 4) (b : BitVec 6)
  /-- MMB (R266) -/
  | mmb (d : BitVec 6) (a : BitVec 4) (b : BitVec 6)
  /-- MMA (R267) -/
  | mma (d : BitVec 6) (a : BitVec 4) (b : BitVec 6)
  /-- MMD (R268) -/
  | mmd (d : BitVec 6) (a : BitVec 4) (b : BitVec 6)
  /-- MMZ (R276) -/
  | mmz (d : BitVec 6) (a : BitVec 4) (b : BitVec 6)
  /-- LEASE (R274) -/
  | lease (d : BitVec 6) (a : BitVec 4) (b : BitVec 6)
  /-- UNLEASE (R275) -/
  | unlease (d : BitVec 6) (a : BitVec 4) (b : BitVec 6)
  /-- DIGEST (R248) -/
  | digest (d : BitVec 6) (a : BitVec 4) (b : BitVec 6)
  /-- RCP (R273) -/
  | rcp (d : BitVec 6) (a : BitVec 4) (b : BitVec 6)
  /-- RSPLIT (R317) -/
  | rsplit (d : BitVec 6) (a : BitVec 4) (b : BitVec 6)
  /-- RMERGE (R317) -/
  | rmerge (d : BitVec 6) (a : BitVec 4) (b : BitVec 6)
  /-- RINVAL (R317) -/
  | rinval (d : BitVec 6) (a : BitVec 4) (b : BitVec 6)
  /-- RRES (R317) -/
  | rres (d : BitVec 6) (a : BitVec 4) (b : BitVec 6)
  /-- RMOVE (R302) -/
  | rmove (d : BitVec 6) (a : BitVec 4) (b : BitVec 6)
  /-- BANKMODE (R369) -/
  | bankmode (d : BitVec 6) (a : BitVec 4) (b : BitVec 6)
  /-- RGKILL (R345) -/
  | rgkill (d : BitVec 6) (a : BitVec 4) (b : BitVec 6)
  /-- RGRESET (R345) -/
  | rgreset (d : BitVec 6) (a : BitVec 4) (b : BitVec 6)
  /-- RGRESUME (R370) -/
  | rgresume (d : BitVec 6) (a : BitVec 4) (b : BitVec 6)
  /-- RGPRI (R371) -/
  | rgpri (d : BitVec 6) (a : BitVec 4) (b : BitVec 6)
  /-- RGBUD (R372) -/
  | rgbud (d : BitVec 6) (a : BitVec 4) (b : BitVec 6)
  /-- FRET (R375) -/
  | fret (d : BitVec 6) (a : BitVec 4) (b : BitVec 6)
  /-- SNAP (R379) -/
  | snap (d : BitVec 6) (a : BitVec 4) (b : BitVec 6)
  /-- WDARM (R373) -/
  | wdarm (d : BitVec 6) (a : BitVec 4) (b : BitVec 6)
  /-- SNEW (R313) -/
  | snew (d : BitVec 6) (a : BitVec 4) (b : BitVec 6)
  /-- SGROW (R314) -/
  | sgrow (d : BitVec 6) (a : BitVec 4) (b : BitVec 6)
  /-- GCFG (R377) -/
  | gcfg (d : BitVec 6) (a : BitVec 4) (b : BitVec 6)
  /-- LAUNCH (R326) -/
  | launch (d : BitVec 6) (a : BitVec 4) (b : BitVec 6)
  /-- STEP_COMMIT (R23) -/
  | stepCommit (l : Nat) (b : Nat)
  /-- ROUND_COMMIT (R26) -/
  | roundCommit (l : Nat)
  /-- HELD_COMMIT_RETRY (R281) -/
  | heldCommitRetry (l : Nat)
  /-- LAUNCH_END (R28) -/
  | launchEnd (l : Nat)
  /-- TOKEN_LANDING (R238) -/
  | tokenLanding (cmd : Nat)
  /-- ENGINE_OUTPUT_LINE (R60) -/
  | engineOutputLine (cmd : Nat)
  /-- LOAD_DATA_RETURN (R219) -/
  | loadDataReturn (l : Nat) (b : Nat) (f : Nat)
  /-- CODE_LINE_FILL (R321) -/
  | codeLineFill (core : Nat) (l : Nat) (line : Nat)
  /-- RANGE_WALK (R295) -/
  | rangeWalk (core : Nat) (tenant : Nat) (va : Nat)
  /-- STAGED_COMMAND_ENQUEUE (R253) -/
  | stagedCommandEnqueue (cmd : Nat)
  /-- MATRIX_ROW_GRANT (R253) -/
  | matrixRowGrant (port : Nat)
  /-- MATRIX_PORT_GRANT (R255) -/
  | matrixPortGrant (port : Nat)
  /-- ENGINE_QUIESCE_STOP (R256) -/
  | engineQuiesceStop (cmd : Nat)
  /-- RCP_LINE_ARRIVAL (R391) -/
  | rcpLineArrival (msg : RcpLine)
  /-- WATCHDOG (R344) -/
  | watchdog (l : Nat) (b : Nat)
  /-- TIME_SLICE_EXPIRY (R333) -/
  | timeSliceExpiry (core : Nat)
  /-- GRACE_PERIOD_END (R333) -/
  | gracePeriodEnd (l : Nat) (b : Nat)
  /-- PLACEMENT_DECISION (R332) -/
  | placementDecision (slice : Nat)
  /-- BIND (R334) -/
  | bind (core : Nat)
  /-- UNBIND (R334) -/
  | unbind (core : Nat)
  /-- REBIND (R334) -/
  | rebind (core : Nat)
  /-- SCOREBOARD_WAIT_THRESHOLD (R336) -/
  | scoreboardWaitThreshold (l : Nat) (b : Nat) (g : Nat)
  /-- GTO_DEMOTION (R340) -/
  | gtoDemotion (core : Nat) (ctx : Nat)
  /-- COMPACTOR_MOVE (R303) -/
  | compactorMove (slice : Nat)
  /-- PORT_DOWN (R388) -/
  | portDown (port : Nat)
  /-- HOST_GATE_WRITE (R407) -/
  | hostGateWrite (off : Nat) (size : Nat) (v : BitVec 64)
  /-- HOST_APERTURE_WRITE (R406) -/
  | hostApertureWrite (off : Nat) (bytes : List (BitVec 8))
  /-- HOST_APERTURE_READ (R405 to R407, R416): a read by an outside agent -/
  | hostApertureRead (off : HostAddr) (len : Nat)
  /-- ROOT_PORT_DMA (R406); application core k writes as port 4 + k (R405) -/
  | rootPortDma (port : Nat) (tenant : Nat) (addr : Nat) (bytes : List (BitVec 8))
  /-- LTR_UPDATE (R411) -/
  | ltrUpdate (us : Nat)
  /-- POWER_STATE_ENTRY (R411) -/
  | powerStateEntry (slice : Nat)
  /-- POWER_WAKE (R412) -/
  | powerWake (slice : Nat)
  /-- CLOCK_THROTTLE (R413) -/
  | clockThrottle (excess : Bool)
  /-- CORE_FAILURE (R400) -/
  | coreFailure (core : Nat)
  /-- MATRIX_ENGINE_FAILURE (R400) -/
  | matrixEngineFailure (engine : Nat)
  /-- BOOTDB (R409) -/
  | bootdb (v : BitVec 64)
  /-- SNAPTRIG (R415) -/
  | snaptrig (v : BitVec 64)
  /-- REPLREQ (R414) -/
  | replreq (v : BitVec 64)
  /-- REGISTER_WRITE (R416) -/
  | registerWrite (off : Nat) (v : BitVec 64)
  /-- MAILBOX_UNKNOWN_COMMAND (R416) -/
  | mailboxUnknownCommand (code : Nat)
  /-- GET_MEASUREMENTS (R410) -/
  | getMeasurements (idx : Nat)
  /-- UNSUPPORTED_REQUEST (R410) -/
  | unsupportedRequest (code : Nat)
  /-- SOFT_ERROR (R360) -/
  | softError (site : ErrorSite)
  /-- FLIT_RETRY (R388) -/
  | flitRetry (port : FlitTry)
  /-- ENGINE_SOURCE_LINE (R257) -/
  | engineSourceLine (cmd : Nat)
  /-- UNASSIGNED_ENCODING (R95) -/
  | unassignedEncoding (w : BitVec 32)
  /-- ISSUE_POLICY_CHANGE (R339) -/
  | issuePolicyChange (core : Nat) (policy : IssuePolicy)
  /-- POD_EPISODE (R385) -/
  | podEpisode
  /-- C3_ENTRY (R411) -/
  | c3Entry
  /-- RESET (R408) -/
  | reset
  /-- SNAPTRIG_PIN (R415) -/
  | snaptrigPin
  /-- REGISTER_EXPORT_ENTRY (R417) -/
  | registerExportEntry
  /-- REGISTER_IMPORT_ENTRY (R417) -/
  | registerImportEntry
  /-- JOIN_POD_GROUP (R417) -/
  | joinPodGroup
  /-- REMOVE_POD_MEMBER (R395) -/
  | removePodMember
  /-- ATTACH_DEBUGGER (R351) -/
  | attachDebugger
  /-- DETACH_DEBUGGER (R351) -/
  | detachDebugger
  /-- SET_PARTITION_LAYOUT (R396) -/
  | setPartitionLayout
  /-- TENANT_SAVE (R366) -/
  | tenantSave
  /-- TENANT_RESTORE (R366) -/
  | tenantRestore
  /-- WRITE_RANGE_DESCRIPTOR (R417) -/
  | writeRangeDescriptor
  /-- GET_VERSION (R410) -/
  | getVersion
  /-- GET_CAPABILITIES (R410) -/
  | getCapabilities
  /-- NEGOTIATE_ALGORITHMS (R410) -/
  | negotiateAlgorithms
  /-- GET_DIGESTS (R410) -/
  | getDigests
  /-- GET_CERTIFICATE (R410) -/
  | getCertificate
  /-- CHALLENGE (R410) -/
  | challenge
  deriving DecidableEq, Repr, Inhabited

/-- True for the rows of the table that have an encoding (R94); the others are events of the device. -/
def Instr.isWord : Instr → Bool
  | .nop => true
  | .yield => true
  | .brk => true
  | .trap _ => true
  | .tret => true
  | .exit => true
  | .stop => true
  | .rstop => true
  | .rstopGated _ => true
  | .gadd _ _ => true
  | .gread _ _ => true
  | .br _ _ => true
  | .call _ _ _ => true
  | .brx _ => true
  | .callx _ _ => true
  | .ret _ => true
  | .spawn _ _ _ => true
  | .iadd _ _ _ => true
  | .isub _ _ _ => true
  | .imul _ _ _ => true
  | .imulhi _ _ _ => true
  | .imulhin _ _ _ => true
  | .imad _ _ _ => true
  | .imin _ _ _ => true
  | .imax _ _ _ => true
  | .iminn _ _ _ => true
  | .imaxn _ _ _ => true
  | .iabs _ _ => true
  | .ineg _ _ => true
  | .iadds _ _ _ => true
  | .isubs _ _ _ => true
  | .iaddsn _ _ _ => true
  | .isubsn _ _ _ => true
  | .ladd _ _ _ => true
  | .lsub _ _ _ => true
  | .lmul _ _ _ => true
  | .lmad _ _ _ => true
  | .lmin _ _ _ => true
  | .lmax _ _ _ => true
  | .lminn _ _ _ => true
  | .lmaxn _ _ _ => true
  | .lshl _ _ _ => true
  | .lshr _ _ _ => true
  | .lsra _ _ _ => true
  | .lneg _ _ => true
  | .labs _ _ => true
  | .and _ _ _ => true
  | .or _ _ _ => true
  | .xor _ _ _ => true
  | .andn _ _ _ => true
  | .orn _ _ _ => true
  | .xnor _ _ _ => true
  | .not _ _ => true
  | .shl _ _ _ => true
  | .shr _ _ _ => true
  | .sra _ _ _ => true
  | .rotl _ _ _ => true
  | .rotr _ _ _ => true
  | .popc _ _ => true
  | .clz _ _ => true
  | .ctz _ _ => true
  | .brev _ _ => true
  | .bfe _ _ _ => true
  | .bfes _ _ _ => true
  | .bfi _ _ _ => true
  | .bswap _ _ => true
  | .icmp _ _ _ _ => true
  | .lcmp _ _ _ _ => true
  | .mov _ _ => true
  | .isel _ _ _ => true
  | .movs _ _ => true
  | .movsw _ _ => true
  | .pand _ _ _ => true
  | .por _ _ _ => true
  | .pxor _ _ _ => true
  | .pandn _ _ _ => true
  | .pnot _ _ => true
  | .pmov _ _ => true
  | .pword _ => true
  | .psetw _ _ => true
  | .iaddi _ _ _ => true
  | .andi _ _ _ => true
  | .ori _ _ _ => true
  | .xori _ _ _ => true
  | .shli _ _ _ => true
  | .shri _ _ _ => true
  | .srai _ _ _ => true
  | .icmpi _ _ _ _ => true
  | .movi _ _ => true
  | .movhi _ _ => true
  | .fadd _ _ _ => true
  | .fsub _ _ _ => true
  | .fmul _ _ _ => true
  | .ffma _ _ _ => true
  | .ffms _ _ _ => true
  | .fnfma _ _ _ => true
  | .fmin _ _ _ => true
  | .fmax _ _ _ => true
  | .fabs _ _ => true
  | .fneg _ _ => true
  | .fdiv _ _ _ => true
  | .fsqrt _ _ => true
  | .frcp _ _ => true
  | .frsq _ _ => true
  | .fexp2 _ _ => true
  | .flog2 _ _ => true
  | .fsinpi _ _ => true
  | .fcospi _ _ => true
  | .fkey _ _ => true
  | .fkeyinv _ _ => true
  | .fcmp _ _ _ _ => true
  | .dcmp _ _ _ _ => true
  | .dadd _ _ _ => true
  | .dsub _ _ _ => true
  | .dmul _ _ _ => true
  | .dfma _ _ _ => true
  | .dmin _ _ _ => true
  | .dmax _ _ _ => true
  | .dabs _ _ => true
  | .dneg _ _ => true
  | .ddiv _ _ _ => true
  | .dsqrt _ _ => true
  | .dkey _ _ => true
  | .hadd2 _ _ _ => true
  | .hsub2 _ _ _ => true
  | .hmul2 _ _ _ => true
  | .hfma2 _ _ _ => true
  | .hmin2 _ _ _ => true
  | .hmax2 _ _ _ => true
  | .hkey2 _ _ => true
  | .badd2 _ _ _ => true
  | .bsub2 _ _ _ => true
  | .bmul2 _ _ _ => true
  | .bfma2 _ _ _ => true
  | .bmin2 _ _ _ => true
  | .bmax2 _ _ _ => true
  | .cvt _ _ _ _ _ => true
  | .fix _ _ _ _ => true
  | .unfix _ _ _ _ => true
  | .lshfl _ _ _ => true
  | .lvoteany _ _ => true
  | .lvoteall _ _ => true
  | .lballot _ _ => true
  | .lrank _ _ => true
  | .lfirst _ _ => true
  | .bxpos _ _ _ => true
  | .bxcnt _ _ _ => true
  | .bmerge _ _ _ => true
  | .bmpre _ _ _ => true
  | .ld _ _ _ _ _ _ => true
  | .st _ _ _ _ _ _ => true
  | .fadr _ _ _ _ _ => true
  | .movb _ _ => true
  | .stb _ _ _ _ => true
  | .capsub _ _ _ => true
  | .capperm _ _ _ => true
  | .capget _ _ _ => true
  | .captag _ _ => true
  | .capmint _ _ => true
  | .tld _ _ _ => true
  | .tst _ _ _ _ _ => true
  | .tnext _ _ _ => true
  | .tcount _ _ => true
  | .cp _ _ _ _ _ => true
  | .cpt _ _ _ => true
  | .cpd _ _ _ => true
  | .cps _ _ _ => true
  | .gath _ _ _ => true
  | .scat _ _ _ => true
  | .mmb _ _ _ => true
  | .mma _ _ _ => true
  | .mmd _ _ _ => true
  | .mmz _ _ _ => true
  | .lease _ _ _ => true
  | .unlease _ _ _ => true
  | .digest _ _ _ => true
  | .rcp _ _ _ => true
  | .rsplit _ _ _ => true
  | .rmerge _ _ _ => true
  | .rinval _ _ _ => true
  | .rres _ _ _ => true
  | .rmove _ _ _ => true
  | .bankmode _ _ _ => true
  | .rgkill _ _ _ => true
  | .rgreset _ _ _ => true
  | .rgresume _ _ _ => true
  | .rgpri _ _ _ => true
  | .rgbud _ _ _ => true
  | .fret _ _ _ => true
  | .snap _ _ _ => true
  | .wdarm _ _ _ => true
  | .snew _ _ _ => true
  | .sgrow _ _ _ => true
  | .gcfg _ _ _ => true
  | .launch _ _ _ => true
  | _ => false

end Sys2Proof
end

