-- ==== Sys2Proof/WellFormed.lean ====
section
/-! DEFINITION. What makes a word well formed on its own (the `ILLEGAL_FIELD` conditions of R77 to R91 and of the
instruction entries that do not depend on the launch), which registers it names, and how the modifier word may act
on it. Registers are numbered as R76 numbers them: 0 to 63 for v0 to v63, 64 to 79 for q0 to q15. -/

namespace Sys2Proof

/-- The modifier word's fields (R83). With every field 0 it stands for no modifier. -/
structure Mods where
  gn : Bool
  gq : BitVec 4
  pa : BitVec 5
  pb : BitVec 5
  c  : BitVec 6
  kind : BitVec 2
  deriving DecidableEq, Repr, Inhabited

/-- A word that no modifier precedes: guard q0, no permutation, no use of c. -/
def Mods.none : Mods := { gn := false, gq := 0, pa := 0, pb := 0, c := 0, kind := 0 }

/-- The 64-bit types of a conversion (R187). -/
def wide (t : BitVec 4) : Bool := t.toNat == 6 || t.toNat == 7 || t.toNat == 11

/-- Registers of the data operand by size code (R201). -/
def sizeRegs (size : BitVec 3) : Nat :=
  match size.toNat with
  | 4 => 2
  | 5 => 4
  | _ => 1

/-- The combinations of rule code, size code and F that R49 allows. -/
def rule49 (rule size f : Nat) : Bool :=
  match rule with
  | 0 => f == 0
  | 1 => f == 0
  | 2 => if f = 0 then 1 ≤ size && size ≤ 4 else size == 2 || size == 3
  | 3 => if f = 0 then 1 ≤ size && size ≤ 4 else size == 2 || size == 3
  | 4 => if f = 0 then 1 ≤ size && size ≤ 4 else size == 2 || size == 3 || size == 4
  | 5 => if f = 0 then 1 ≤ size && size ≤ 4 else size == 2 || size == 3 || size == 4
  | 6 => f == 0
  | _ => false

/-- Consecutive registers. -/
def run (k : Nat) (r : BitVec 6) : List Nat := (List.range k).map (r.toNat + ·)
/-- The registers of a pair (R87). -/
def pr (r : BitVec 6) : List Nat := [r.toNat, r.toNat + 1]
/-- The registers of a pair given by number. -/
def prN (n : Nat) : List Nat := [n, n + 1]
/-- The registers of a capability quad (R87). -/
def qd (q : BitVec 4) : List Nat := [4 * q.toNat, 4 * q.toNat + 1, 4 * q.toNat + 2, 4 * q.toNat + 3]
/-- The registers of a memory word's data operand. -/
def sizedRegs (d : BitVec 6) (size : BitVec 3) : List Nat := run (sizeRegs size) d
/-- The predicate a spec writes (R88). -/
def spec (p : BitVec 6) : List Nat := [64 + p.toNat % 16]
/-- q1 to q15 (R146). -/
def allPreds : List Nat := (List.range 15).map (65 + ·)
/-- The third source register (R86). -/
def third (m : Mods) (d : BitVec 6) : Nat := if m.kind = 2 then m.c.toNat else d.toNat
/-- The gate operand's register of an ENG word (R260). -/
def gateReg (m : Mods) : List Nat := if m.kind = 2 then [m.c.toNat] else []

/-- The conditions on a word alone that R77 to R91 and the instruction entries make `ILLEGAL_FIELD`. Fields that must be
zero have no place in `Instr`; Decode checks them. -/
def Instr.wf : Instr → Bool
  | .br _ slot => decide (slot.toNat < 10)
  | .call _ _ slot => decide (slot.toNat < 10)
  | .spawn a _ slot => decide (slot.toNat < 10 ∧ a.toNat ≤ 56)
  | .ladd d a b => decide (a.toNat % 2 = 0 ∧ b.toNat % 2 = 0 ∧ d.toNat % 2 = 0)
  | .lsub d a b => decide (a.toNat % 2 = 0 ∧ b.toNat % 2 = 0 ∧ d.toNat % 2 = 0)
  | .lmul d a b => decide (a.toNat % 2 = 0 ∧ b.toNat % 2 = 0 ∧ d.toNat % 2 = 0)
  | .lmad d a b => decide (a.toNat % 2 = 0 ∧ b.toNat % 2 = 0 ∧ d.toNat % 2 = 0)
  | .lmin d a b => decide (a.toNat % 2 = 0 ∧ b.toNat % 2 = 0 ∧ d.toNat % 2 = 0)
  | .lmax d a b => decide (a.toNat % 2 = 0 ∧ b.toNat % 2 = 0 ∧ d.toNat % 2 = 0)
  | .lminn d a b => decide (a.toNat % 2 = 0 ∧ b.toNat % 2 = 0 ∧ d.toNat % 2 = 0)
  | .lmaxn d a b => decide (a.toNat % 2 = 0 ∧ b.toNat % 2 = 0 ∧ d.toNat % 2 = 0)
  | .lshl d a _ => decide (a.toNat % 2 = 0 ∧ d.toNat % 2 = 0)
  | .lshr d a _ => decide (a.toNat % 2 = 0 ∧ d.toNat % 2 = 0)
  | .lsra d a _ => decide (a.toNat % 2 = 0 ∧ d.toNat % 2 = 0)
  | .lneg d a => decide (a.toNat % 2 = 0 ∧ d.toNat % 2 = 0)
  | .labs d a => decide (a.toNat % 2 = 0 ∧ d.toNat % 2 = 0)
  | .icmp p _ _ cond => decide (p.toNat < 48 ∧ cond.toNat < 10)
  | .lcmp p a b cond => decide (a.toNat % 2 = 0 ∧ b.toNat % 2 = 0 ∧ p.toNat < 48 ∧ cond.toNat < 10)
  | .movs _ sr => decide (sr.toNat < 25)
  | .movsw sr _ => decide ((18 ≤ sr.toNat ∧ sr.toNat ≤ 21 ∨ sr.toNat = 23))
  | .pand p _ _ => decide (p.toNat < 48)
  | .por p _ _ => decide (p.toNat < 48)
  | .pxor p _ _ => decide (p.toNat < 48)
  | .pandn p _ _ => decide (p.toNat < 48)
  | .pnot p _ => decide (p.toNat < 48)
  | .pmov p _ => decide (p.toNat < 48)
  | .icmpi p _ cond _ => decide (p.toNat < 48 ∧ cond.toNat < 10)
  | .fcmp p _ _ _ => decide (p.toNat < 48)
  | .dcmp p a b _ => decide (a.toNat % 2 = 0 ∧ b.toNat % 2 = 0 ∧ p.toNat < 48)
  | .dadd d a b => decide (a.toNat % 2 = 0 ∧ b.toNat % 2 = 0 ∧ d.toNat % 2 = 0)
  | .dsub d a b => decide (a.toNat % 2 = 0 ∧ b.toNat % 2 = 0 ∧ d.toNat % 2 = 0)
  | .dmul d a b => decide (a.toNat % 2 = 0 ∧ b.toNat % 2 = 0 ∧ d.toNat % 2 = 0)
  | .dfma d a b => decide (a.toNat % 2 = 0 ∧ b.toNat % 2 = 0 ∧ d.toNat % 2 = 0)
  | .dmin d a b => decide (a.toNat % 2 = 0 ∧ b.toNat % 2 = 0 ∧ d.toNat % 2 = 0)
  | .dmax d a b => decide (a.toNat % 2 = 0 ∧ b.toNat % 2 = 0 ∧ d.toNat % 2 = 0)
  | .dabs d a => decide (a.toNat % 2 = 0 ∧ d.toNat % 2 = 0)
  | .dneg d a => decide (a.toNat % 2 = 0 ∧ d.toNat % 2 = 0)
  | .ddiv d a b => decide (a.toNat % 2 = 0 ∧ b.toNat % 2 = 0 ∧ d.toNat % 2 = 0)
  | .dsqrt d a => decide (a.toNat % 2 = 0 ∧ d.toNat % 2 = 0)
  | .dkey d a => decide (a.toNat % 2 = 0 ∧ d.toNat % 2 = 0)
  | .cvt d a dt sty rm => decide (dt.toNat < 12 ∧ sty.toNat < 12 ∧ rm.toNat < 5 ∧ (wide dt = true → d.toNat % 2 = 0) ∧ (wide sty = true → a.toNat % 2 = 0))
  | .fix d _ rm _ => decide (d.toNat % 2 = 0 ∧ rm.toNat < 5)
  | .unfix _ a rm _ => decide (a.toNat % 2 = 0 ∧ rm.toNat < 5)
  | .lvoteany p _ => decide (p.toNat < 48)
  | .lvoteall p _ => decide (p.toNat < 48)
  | .lballot d _ => decide (d.toNat % 2 = 0)
  | .bxpos d a _ => decide (a.toNat % 2 = 0 ∧ d.toNat % 2 = 0)
  | .bxcnt _ a b => decide (a.toNat % 2 = 0 ∧ b.toNat % 2 = 0)
  | .bmerge d a b => decide (a.toNat % 2 = 0 ∧ b.toNat % 2 = 0 ∧ d.toNat % 2 = 0)
  | .bmpre _ a _ => decide (a.toNat % 2 = 0)
  | .ld d _ _ size hint f => decide (size.toNat < 6 ∧ d.toNat % sizeRegs size = 0 ∧ hint.toNat < 3 ∧ (f.toNat = 1 → size.toNat < 3))
  | .st d _ _ size rule f => decide (size.toNat < 6 ∧ d.toNat % sizeRegs size = 0 ∧ rule49 rule.toNat size.toNat f.toNat = true)
  | .fadr d _ _ size f => decide ((size.toNat = 3 ∨ size.toNat = 4 ∧ f.toNat = 0 ∧ d.toNat % 2 = 0))
  | .stb _ _ rule f => decide (rule49 rule.toNat 3 f.toNat = true)
  | .capsub _ _ b => decide (b.toNat % 2 = 0 ∧ b.toNat ≤ 60)
  | .capget d a sel => decide ((sel.toNat < 6 ∨ (sel.toNat = 16 ∨ sel.toNat = 17) ∧ a.toNat = 0 ∧ d.toNat < 16))
  | .captag p _ => decide (p.toNat < 48)
  | .capmint _ a => decide (a.toNat ≤ 60)
  | .tld _ _ x => decide (x.toNat ≤ 60)
  | .tst _ _ x rule _ => decide (x.toNat ≤ 60 ∧ rule.toNat < 7)
  | .tnext d a _ => decide (a.toNat % 2 = 0 ∧ d.toNat % 2 = 0)
  | .tcount d _ => decide (d.toNat % 2 = 0)
  | .cp _ _ _ x size => decide (size.toNat < 3 ∧ x.toNat < 63)
  | _ => true

/-- Registers read as source a (subject to pa, R85). -/
def Instr.aRegs : Instr → List Nat
  | .brx a => [a.toNat]
  | .callx _ a => [a.toNat]
  | .ret a => [a.toNat]
  | .iadd _ a _ => [a.toNat]
  | .isub _ a _ => [a.toNat]
  | .imul _ a _ => [a.toNat]
  | .imulhi _ a _ => [a.toNat]
  | .imulhin _ a _ => [a.toNat]
  | .imad _ a _ => [a.toNat]
  | .imin _ a _ => [a.toNat]
  | .imax _ a _ => [a.toNat]
  | .iminn _ a _ => [a.toNat]
  | .imaxn _ a _ => [a.toNat]
  | .iabs _ a => [a.toNat]
  | .ineg _ a => [a.toNat]
  | .iadds _ a _ => [a.toNat]
  | .isubs _ a _ => [a.toNat]
  | .iaddsn _ a _ => [a.toNat]
  | .isubsn _ a _ => [a.toNat]
  | .ladd _ a _ => pr a
  | .lsub _ a _ => pr a
  | .lmul _ a _ => pr a
  | .lmad _ a _ => pr a
  | .lmin _ a _ => pr a
  | .lmax _ a _ => pr a
  | .lminn _ a _ => pr a
  | .lmaxn _ a _ => pr a
  | .lshl _ a _ => pr a
  | .lshr _ a _ => pr a
  | .lsra _ a _ => pr a
  | .lneg _ a => pr a
  | .labs _ a => pr a
  | .and _ a _ => [a.toNat]
  | .or _ a _ => [a.toNat]
  | .xor _ a _ => [a.toNat]
  | .andn _ a _ => [a.toNat]
  | .orn _ a _ => [a.toNat]
  | .xnor _ a _ => [a.toNat]
  | .not _ a => [a.toNat]
  | .shl _ a _ => [a.toNat]
  | .shr _ a _ => [a.toNat]
  | .sra _ a _ => [a.toNat]
  | .rotl _ a _ => [a.toNat]
  | .rotr _ a _ => [a.toNat]
  | .popc _ a => [a.toNat]
  | .clz _ a => [a.toNat]
  | .ctz _ a => [a.toNat]
  | .brev _ a => [a.toNat]
  | .bfe _ a _ => [a.toNat]
  | .bfes _ a _ => [a.toNat]
  | .bfi _ a _ => [a.toNat]
  | .bswap _ a => [a.toNat]
  | .icmp _ a _ _ => [a.toNat]
  | .lcmp _ a _ _ => pr a
  | .mov _ a => [a.toNat]
  | .isel _ a _ => [a.toNat]
  | .psetw a _ => [a.toNat]
  | .iaddi _ a _ => [a.toNat]
  | .andi _ a _ => [a.toNat]
  | .ori _ a _ => [a.toNat]
  | .xori _ a _ => [a.toNat]
  | .shli _ a _ => [a.toNat]
  | .shri _ a _ => [a.toNat]
  | .srai _ a _ => [a.toNat]
  | .icmpi _ a _ _ => [a.toNat]
  | .fadd _ a _ => [a.toNat]
  | .fsub _ a _ => [a.toNat]
  | .fmul _ a _ => [a.toNat]
  | .ffma _ a _ => [a.toNat]
  | .ffms _ a _ => [a.toNat]
  | .fnfma _ a _ => [a.toNat]
  | .fmin _ a _ => [a.toNat]
  | .fmax _ a _ => [a.toNat]
  | .fabs _ a => [a.toNat]
  | .fneg _ a => [a.toNat]
  | .fdiv _ a _ => [a.toNat]
  | .fsqrt _ a => [a.toNat]
  | .frcp _ a => [a.toNat]
  | .frsq _ a => [a.toNat]
  | .fexp2 _ a => [a.toNat]
  | .flog2 _ a => [a.toNat]
  | .fsinpi _ a => [a.toNat]
  | .fcospi _ a => [a.toNat]
  | .fkey _ a => [a.toNat]
  | .fkeyinv _ a => [a.toNat]
  | .fcmp _ a _ _ => [a.toNat]
  | .dcmp _ a _ _ => pr a
  | .dadd _ a _ => pr a
  | .dsub _ a _ => pr a
  | .dmul _ a _ => pr a
  | .dfma _ a _ => pr a
  | .dmin _ a _ => pr a
  | .dmax _ a _ => pr a
  | .dabs _ a => pr a
  | .dneg _ a => pr a
  | .ddiv _ a _ => pr a
  | .dsqrt _ a => pr a
  | .dkey _ a => pr a
  | .hadd2 _ a _ => [a.toNat]
  | .hsub2 _ a _ => [a.toNat]
  | .hmul2 _ a _ => [a.toNat]
  | .hfma2 _ a _ => [a.toNat]
  | .hmin2 _ a _ => [a.toNat]
  | .hmax2 _ a _ => [a.toNat]
  | .hkey2 _ a => [a.toNat]
  | .badd2 _ a _ => [a.toNat]
  | .bsub2 _ a _ => [a.toNat]
  | .bmul2 _ a _ => [a.toNat]
  | .bfma2 _ a _ => [a.toNat]
  | .bmin2 _ a _ => [a.toNat]
  | .bmax2 _ a _ => [a.toNat]
  | .cvt _ a _ sty _ => (if wide sty then pr a else [a.toNat])
  | .fix _ a _ _ => [a.toNat]
  | .unfix _ a _ _ => pr a
  | .lshfl _ a _ => [a.toNat]
  | .lvoteany _ a => [a.toNat]
  | .lvoteall _ a => [a.toNat]
  | .lballot _ a => [a.toNat]
  | .lrank _ a => [a.toNat]
  | .lfirst _ a => [a.toNat]
  | .bxpos _ a _ => pr a
  | .bxcnt _ a _ => pr a
  | .bmerge _ a _ => pr a
  | .bmpre _ a _ => pr a
  | .tnext _ a _ => pr a
  | _ => []

/-- Registers read as source b (subject to pb, R85). -/
def Instr.bRegs : Instr → List Nat
  | .gadd _ b => [b.toNat]
  | .iadd _ _ b => [b.toNat]
  | .isub _ _ b => [b.toNat]
  | .imul _ _ b => [b.toNat]
  | .imulhi _ _ b => [b.toNat]
  | .imulhin _ _ b => [b.toNat]
  | .imad _ _ b => [b.toNat]
  | .imin _ _ b => [b.toNat]
  | .imax _ _ b => [b.toNat]
  | .iminn _ _ b => [b.toNat]
  | .imaxn _ _ b => [b.toNat]
  | .iadds _ _ b => [b.toNat]
  | .isubs _ _ b => [b.toNat]
  | .iaddsn _ _ b => [b.toNat]
  | .isubsn _ _ b => [b.toNat]
  | .ladd _ _ b => pr b
  | .lsub _ _ b => pr b
  | .lmul _ _ b => pr b
  | .lmad _ _ b => pr b
  | .lmin _ _ b => pr b
  | .lmax _ _ b => pr b
  | .lminn _ _ b => pr b
  | .lmaxn _ _ b => pr b
  | .lshl _ _ b => [b.toNat]
  | .lshr _ _ b => [b.toNat]
  | .lsra _ _ b => [b.toNat]
  | .and _ _ b => [b.toNat]
  | .or _ _ b => [b.toNat]
  | .xor _ _ b => [b.toNat]
  | .andn _ _ b => [b.toNat]
  | .orn _ _ b => [b.toNat]
  | .xnor _ _ b => [b.toNat]
  | .shl _ _ b => [b.toNat]
  | .shr _ _ b => [b.toNat]
  | .sra _ _ b => [b.toNat]
  | .rotl _ _ b => [b.toNat]
  | .rotr _ _ b => [b.toNat]
  | .bfe _ _ b => [b.toNat]
  | .bfes _ _ b => [b.toNat]
  | .bfi _ _ b => [b.toNat]
  | .icmp _ _ b _ => [b.toNat]
  | .lcmp _ _ b _ => pr b
  | .isel _ _ b => [b.toNat]
  | .movsw _ b => [b.toNat]
  | .psetw _ b => [b.toNat]
  | .fadd _ _ b => [b.toNat]
  | .fsub _ _ b => [b.toNat]
  | .fmul _ _ b => [b.toNat]
  | .ffma _ _ b => [b.toNat]
  | .ffms _ _ b => [b.toNat]
  | .fnfma _ _ b => [b.toNat]
  | .fmin _ _ b => [b.toNat]
  | .fmax _ _ b => [b.toNat]
  | .fdiv _ _ b => [b.toNat]
  | .fcmp _ _ b _ => [b.toNat]
  | .dcmp _ _ b _ => pr b
  | .dadd _ _ b => pr b
  | .dsub _ _ b => pr b
  | .dmul _ _ b => pr b
  | .dfma _ _ b => pr b
  | .dmin _ _ b => pr b
  | .dmax _ _ b => pr b
  | .ddiv _ _ b => pr b
  | .hadd2 _ _ b => [b.toNat]
  | .hsub2 _ _ b => [b.toNat]
  | .hmul2 _ _ b => [b.toNat]
  | .hfma2 _ _ b => [b.toNat]
  | .hmin2 _ _ b => [b.toNat]
  | .hmax2 _ _ b => [b.toNat]
  | .badd2 _ _ b => [b.toNat]
  | .bsub2 _ _ b => [b.toNat]
  | .bmul2 _ _ b => [b.toNat]
  | .bfma2 _ _ b => [b.toNat]
  | .bmin2 _ _ b => [b.toNat]
  | .bmax2 _ _ b => [b.toNat]
  | .lshfl _ _ b => [b.toNat]
  | .bxpos _ _ b => [b.toNat]
  | .bxcnt _ _ b => pr b
  | .bmerge _ _ b => pr b
  | .bmpre _ _ b => [b.toNat]
  | _ => []

/-- Registers and predicates read otherwise: the third source, capability quads, index, data and predicate operands. -/
def Instr.otherReads (m : Mods) : Instr → List Nat
  | .spawn a _ _ => run 8 a
  | .imad d _ _ => [third m d]
  | .lmad d _ _ => prN (third m d)
  | .bfi d _ _ => [third m d]
  | .isel d _ _ => [third m d]
  | .pand _ a b => [64 + a.toNat] ++ [64 + b.toNat]
  | .por _ a b => [64 + a.toNat] ++ [64 + b.toNat]
  | .pxor _ a b => [64 + a.toNat] ++ [64 + b.toNat]
  | .pandn _ a b => [64 + a.toNat] ++ [64 + b.toNat]
  | .pnot _ a => [64 + a.toNat]
  | .pmov _ a => [64 + a.toNat]
  | .pword _ => allPreds
  | .movhi d _ => [d.toNat]
  | .ffma d _ _ => [third m d]
  | .ffms d _ _ => [third m d]
  | .fnfma d _ _ => [third m d]
  | .dfma d _ _ => prN (third m d)
  | .hfma2 d _ _ => [third m d]
  | .bfma2 d _ _ => [third m d]
  | .ld _ cap x _ _ _ => qd cap ++ [x.toNat]
  | .st d cap x size _ _ => qd cap ++ [x.toNat] ++ (sizedRegs d size)
  | .fadr d cap x size _ => qd cap ++ [x.toNat] ++ (sizedRegs d size)
  | .stb d _ _ _ => [d.toNat]
  | .capsub _ a b => qd a ++ run 4 b
  | .capperm _ a b => qd a ++ [b.toNat]
  | .capget _ a sel => (if 16 ≤ sel.toNat then [] else qd a)
  | .captag _ a => qd a
  | .capmint _ a => run 4 a
  | .tld _ cap x => qd cap ++ run 4 x
  | .tst d cap x _ _ => qd cap ++ run 4 x ++ [d.toNat]
  | .tnext _ _ cap => qd cap
  | .tcount _ cap => qd cap
  | .cp _ dst src x _ => qd dst ++ qd src ++ pr x
  | .cpt _ a b => qd a ++ [b.toNat] ++ gateReg m
  | .cpd _ a b => qd a ++ [b.toNat] ++ gateReg m
  | .cps _ a b => qd a ++ [b.toNat] ++ gateReg m
  | .gath _ a b => qd a ++ [b.toNat] ++ gateReg m
  | .scat _ a b => qd a ++ [b.toNat] ++ gateReg m
  | .mmb _ a b => qd a ++ [b.toNat] ++ gateReg m
  | .mma _ a b => qd a ++ [b.toNat] ++ gateReg m
  | .mmd _ a b => qd a ++ [b.toNat] ++ gateReg m
  | .mmz _ a b => qd a ++ [b.toNat] ++ gateReg m
  | .lease _ a b => qd a ++ [b.toNat] ++ gateReg m
  | .unlease _ a b => qd a ++ [b.toNat] ++ gateReg m
  | .digest _ a b => qd a ++ [b.toNat] ++ gateReg m
  | .rcp _ a b => qd a ++ [b.toNat] ++ gateReg m
  | .rsplit _ a b => qd a ++ [b.toNat]
  | .rmerge _ a b => qd a ++ [b.toNat]
  | .rinval _ a b => qd a ++ [b.toNat]
  | .rres _ a b => qd a ++ [b.toNat]
  | .rmove _ a b => qd a ++ [b.toNat]
  | .bankmode _ a b => qd a ++ [b.toNat]
  | .rgkill _ a b => qd a ++ [b.toNat]
  | .rgreset _ a b => qd a ++ [b.toNat]
  | .rgresume _ a b => qd a ++ [b.toNat]
  | .rgpri _ a b => qd a ++ [b.toNat]
  | .rgbud _ a b => qd a ++ [b.toNat]
  | .fret _ a b => qd a ++ [b.toNat]
  | .snap _ a b => qd a ++ [b.toNat]
  | .wdarm _ a b => qd a ++ [b.toNat]
  | .snew _ a b => qd a ++ [b.toNat]
  | .sgrow _ a b => qd a ++ [b.toNat]
  | .gcfg _ a b => qd a ++ [b.toNat]
  | .launch _ a b => qd a ++ [b.toNat]
  | _ => []

/-- Registers and predicates written (R30, R72). `psetw` counts as writing q1 to q15 (R146). -/
def Instr.writes : Instr → List Nat
  | .gread d _ => [d.toNat]
  | .call a _ _ => [a.toNat]
  | .callx d _ => [d.toNat]
  | .spawn _ _ _ => [79]
  | .iadd d _ _ => [d.toNat]
  | .isub d _ _ => [d.toNat]
  | .imul d _ _ => [d.toNat]
  | .imulhi d _ _ => [d.toNat]
  | .imulhin d _ _ => [d.toNat]
  | .imad d _ _ => [d.toNat]
  | .imin d _ _ => [d.toNat]
  | .imax d _ _ => [d.toNat]
  | .iminn d _ _ => [d.toNat]
  | .imaxn d _ _ => [d.toNat]
  | .iabs d _ => [d.toNat]
  | .ineg d _ => [d.toNat]
  | .iadds d _ _ => [d.toNat]
  | .isubs d _ _ => [d.toNat]
  | .iaddsn d _ _ => [d.toNat]
  | .isubsn d _ _ => [d.toNat]
  | .ladd d _ _ => pr d
  | .lsub d _ _ => pr d
  | .lmul d _ _ => pr d
  | .lmad d _ _ => pr d
  | .lmin d _ _ => pr d
  | .lmax d _ _ => pr d
  | .lminn d _ _ => pr d
  | .lmaxn d _ _ => pr d
  | .lshl d _ _ => pr d
  | .lshr d _ _ => pr d
  | .lsra d _ _ => pr d
  | .lneg d _ => pr d
  | .labs d _ => pr d
  | .and d _ _ => [d.toNat]
  | .or d _ _ => [d.toNat]
  | .xor d _ _ => [d.toNat]
  | .andn d _ _ => [d.toNat]
  | .orn d _ _ => [d.toNat]
  | .xnor d _ _ => [d.toNat]
  | .not d _ => [d.toNat]
  | .shl d _ _ => [d.toNat]
  | .shr d _ _ => [d.toNat]
  | .sra d _ _ => [d.toNat]
  | .rotl d _ _ => [d.toNat]
  | .rotr d _ _ => [d.toNat]
  | .popc d _ => [d.toNat]
  | .clz d _ => [d.toNat]
  | .ctz d _ => [d.toNat]
  | .brev d _ => [d.toNat]
  | .bfe d _ _ => [d.toNat]
  | .bfes d _ _ => [d.toNat]
  | .bfi d _ _ => [d.toNat]
  | .bswap d _ => [d.toNat]
  | .icmp p _ _ _ => spec p
  | .lcmp p _ _ _ => spec p
  | .mov d _ => [d.toNat]
  | .isel d _ _ => [d.toNat]
  | .movs d _ => [d.toNat]
  | .pand p _ _ => spec p
  | .por p _ _ => spec p
  | .pxor p _ _ => spec p
  | .pandn p _ _ => spec p
  | .pnot p _ => spec p
  | .pmov p _ => spec p
  | .pword d => [d.toNat]
  | .psetw _ _ => allPreds
  | .iaddi d _ _ => [d.toNat]
  | .andi d _ _ => [d.toNat]
  | .ori d _ _ => [d.toNat]
  | .xori d _ _ => [d.toNat]
  | .shli d _ _ => [d.toNat]
  | .shri d _ _ => [d.toNat]
  | .srai d _ _ => [d.toNat]
  | .icmpi p _ _ _ => spec p
  | .movi d _ => [d.toNat]
  | .movhi d _ => [d.toNat]
  | .fadd d _ _ => [d.toNat]
  | .fsub d _ _ => [d.toNat]
  | .fmul d _ _ => [d.toNat]
  | .ffma d _ _ => [d.toNat]
  | .ffms d _ _ => [d.toNat]
  | .fnfma d _ _ => [d.toNat]
  | .fmin d _ _ => [d.toNat]
  | .fmax d _ _ => [d.toNat]
  | .fabs d _ => [d.toNat]
  | .fneg d _ => [d.toNat]
  | .fdiv d _ _ => [d.toNat]
  | .fsqrt d _ => [d.toNat]
  | .frcp d _ => [d.toNat]
  | .frsq d _ => [d.toNat]
  | .fexp2 d _ => [d.toNat]
  | .flog2 d _ => [d.toNat]
  | .fsinpi d _ => [d.toNat]
  | .fcospi d _ => [d.toNat]
  | .fkey d _ => [d.toNat]
  | .fkeyinv d _ => [d.toNat]
  | .fcmp p _ _ _ => spec p
  | .dcmp p _ _ _ => spec p
  | .dadd d _ _ => pr d
  | .dsub d _ _ => pr d
  | .dmul d _ _ => pr d
  | .dfma d _ _ => pr d
  | .dmin d _ _ => pr d
  | .dmax d _ _ => pr d
  | .dabs d _ => pr d
  | .dneg d _ => pr d
  | .ddiv d _ _ => pr d
  | .dsqrt d _ => pr d
  | .dkey d _ => pr d
  | .hadd2 d _ _ => [d.toNat]
  | .hsub2 d _ _ => [d.toNat]
  | .hmul2 d _ _ => [d.toNat]
  | .hfma2 d _ _ => [d.toNat]
  | .hmin2 d _ _ => [d.toNat]
  | .hmax2 d _ _ => [d.toNat]
  | .hkey2 d _ => [d.toNat]
  | .badd2 d _ _ => [d.toNat]
  | .bsub2 d _ _ => [d.toNat]
  | .bmul2 d _ _ => [d.toNat]
  | .bfma2 d _ _ => [d.toNat]
  | .bmin2 d _ _ => [d.toNat]
  | .bmax2 d _ _ => [d.toNat]
  | .cvt d _ dt _ _ => (if wide dt then pr d else [d.toNat])
  | .fix d _ _ _ => pr d
  | .unfix d _ _ _ => [d.toNat]
  | .lshfl d _ _ => [d.toNat]
  | .lvoteany p _ => spec p
  | .lvoteall p _ => spec p
  | .lballot d _ => pr d
  | .lrank d _ => [d.toNat]
  | .lfirst d _ => [d.toNat]
  | .bxpos d _ _ => pr d
  | .bxcnt d _ _ => [d.toNat]
  | .bmerge d _ _ => pr d
  | .bmpre d _ _ => [d.toNat]
  | .ld d _ _ size _ _ => (sizedRegs d size)
  | .fadr d _ _ size _ => (sizedRegs d size)
  | .movb d _ => [d.toNat]
  | .capsub d _ _ => qd d
  | .capperm d _ _ => qd d
  | .capget d _ sel => (if 16 ≤ sel.toNat then qd (BitVec.ofNat 4 d.toNat) else [d.toNat])
  | .captag p _ => spec p
  | .capmint d _ => qd d
  | .tld d _ _ => [d.toNat]
  | .tnext d _ _ => pr d
  | .tcount d _ => pr d
  | .cp d _ _ _ _ => [d.toNat]
  | .cpt d _ _ => [d.toNat]
  | .cpd d _ _ => [d.toNat]
  | .cps d _ _ => [d.toNat]
  | .gath d _ _ => [d.toNat]
  | .scat d _ _ => [d.toNat]
  | .mmb d _ _ => [d.toNat]
  | .mma d _ _ => [d.toNat]
  | .mmd d _ _ => [d.toNat]
  | .mmz d _ _ => [d.toNat]
  | .lease d _ _ => [d.toNat]
  | .unlease d _ _ => [d.toNat]
  | .digest d _ _ => [d.toNat]
  | .rcp d _ _ => [d.toNat]
  | .rsplit d _ _ => [d.toNat]
  | .rmerge d _ _ => [d.toNat]
  | .rinval d _ _ => [d.toNat]
  | .rres d _ _ => [d.toNat]
  | .rmove d _ _ => [d.toNat]
  | .bankmode d _ _ => [d.toNat]
  | .rgkill d _ _ => [d.toNat]
  | .rgreset d _ _ => [d.toNat]
  | .rgresume d _ _ => [d.toNat]
  | .rgpri d _ _ => [d.toNat]
  | .rgbud d _ _ => [d.toNat]
  | .fret d _ _ => [d.toNat]
  | .snap d _ _ => [d.toNat]
  | .wdarm d _ _ => [d.toNat]
  | .snew d _ _ => [d.toNat]
  | .sgrow d _ _ => [d.toNat]
  | .gcfg d _ _ => [d.toNat]
  | .launch d _ _ => [d.toNat]
  | _ => []

/-- What a word writes as it issues: `spawn` names q15, which its step commit writes (R36), and a fibre may spawn several
times in one step (R34). -/
def Instr.writesNow : Instr → List Nat
  | .spawn _ _ _ => []
  | i => i.writes

/-- The predicate that a spec with `.and` or `.or` reads (R88). -/
def Instr.specReads : Instr → List Nat
  | .icmp p _ _ _ => if p.toNat / 16 = 0 then [] else [64 + p.toNat % 16]
  | .lcmp p _ _ _ => if p.toNat / 16 = 0 then [] else [64 + p.toNat % 16]
  | .pand p _ _ => if p.toNat / 16 = 0 then [] else [64 + p.toNat % 16]
  | .por p _ _ => if p.toNat / 16 = 0 then [] else [64 + p.toNat % 16]
  | .pxor p _ _ => if p.toNat / 16 = 0 then [] else [64 + p.toNat % 16]
  | .pandn p _ _ => if p.toNat / 16 = 0 then [] else [64 + p.toNat % 16]
  | .pnot p _ => if p.toNat / 16 = 0 then [] else [64 + p.toNat % 16]
  | .pmov p _ => if p.toNat / 16 = 0 then [] else [64 + p.toNat % 16]
  | .icmpi p _ _ _ => if p.toNat / 16 = 0 then [] else [64 + p.toNat % 16]
  | .fcmp p _ _ _ => if p.toNat / 16 = 0 then [] else [64 + p.toNat % 16]
  | .dcmp p _ _ _ => if p.toNat / 16 = 0 then [] else [64 + p.toNat % 16]
  | .lvoteany p _ => if p.toNat / 16 = 0 then [] else [64 + p.toNat % 16]
  | .lvoteall p _ => if p.toNat / 16 = 0 then [] else [64 + p.toNat % 16]
  | .captag p _ => if p.toNat / 16 = 0 then [] else [64 + p.toNat % 16]
  | _ => []

/-- Words whose source a may be permuted (R85, R122, R129, R147, R206, R309). -/
def Instr.paLegal : Instr → Bool
  | .brx _ => true
  | .callx _ _ => true
  | .ret _ => true
  | .iadd _ _ _ => true
  | .isub _ _ _ => true
  | .imul _ _ _ => true
  | .imulhi _ _ _ => true
  | .imulhin _ _ _ => true
  | .imad _ _ _ => true
  | .imin _ _ _ => true
  | .imax _ _ _ => true
  | .iminn _ _ _ => true
  | .imaxn _ _ _ => true
  | .iabs _ _ => true
  | .ineg _ _ => true
  | .iadds _ _ _ => true
  | .isubs _ _ _ => true
  | .iaddsn _ _ _ => true
  | .isubsn _ _ _ => true
  | .ladd _ _ _ => true
  | .lsub _ _ _ => true
  | .lmul _ _ _ => true
  | .lmad _ _ _ => true
  | .lmin _ _ _ => true
  | .lmax _ _ _ => true
  | .lminn _ _ _ => true
  | .lmaxn _ _ _ => true
  | .lshl _ _ _ => true
  | .lshr _ _ _ => true
  | .lsra _ _ _ => true
  | .lneg _ _ => true
  | .labs _ _ => true
  | .and _ _ _ => true
  | .or _ _ _ => true
  | .xor _ _ _ => true
  | .andn _ _ _ => true
  | .orn _ _ _ => true
  | .xnor _ _ _ => true
  | .not _ _ => true
  | .shl _ _ _ => true
  | .shr _ _ _ => true
  | .sra _ _ _ => true
  | .rotl _ _ _ => true
  | .rotr _ _ _ => true
  | .popc _ _ => true
  | .clz _ _ => true
  | .ctz _ _ => true
  | .brev _ _ => true
  | .bfe _ _ _ => true
  | .bfes _ _ _ => true
  | .bfi _ _ _ => true
  | .bswap _ _ => true
  | .icmp _ _ _ _ => true
  | .lcmp _ _ _ _ => true
  | .mov _ _ => true
  | .isel _ _ _ => true
  | .psetw _ _ => true
  | .iaddi _ _ _ => true
  | .andi _ _ _ => true
  | .ori _ _ _ => true
  | .xori _ _ _ => true
  | .shli _ _ _ => true
  | .shri _ _ _ => true
  | .srai _ _ _ => true
  | .icmpi _ _ _ _ => true
  | .fadd _ _ _ => true
  | .fsub _ _ _ => true
  | .fmul _ _ _ => true
  | .ffma _ _ _ => true
  | .ffms _ _ _ => true
  | .fnfma _ _ _ => true
  | .fmin _ _ _ => true
  | .fmax _ _ _ => true
  | .fabs _ _ => true
  | .fneg _ _ => true
  | .fdiv _ _ _ => true
  | .fsqrt _ _ => true
  | .frcp _ _ => true
  | .frsq _ _ => true
  | .fexp2 _ _ => true
  | .flog2 _ _ => true
  | .fsinpi _ _ => true
  | .fcospi _ _ => true
  | .fkey _ _ => true
  | .fkeyinv _ _ => true
  | .fcmp _ _ _ _ => true
  | .dcmp _ _ _ _ => true
  | .dadd _ _ _ => true
  | .dsub _ _ _ => true
  | .dmul _ _ _ => true
  | .dfma _ _ _ => true
  | .dmin _ _ _ => true
  | .dmax _ _ _ => true
  | .dabs _ _ => true
  | .dneg _ _ => true
  | .ddiv _ _ _ => true
  | .dsqrt _ _ => true
  | .dkey _ _ => true
  | .hadd2 _ _ _ => true
  | .hsub2 _ _ _ => true
  | .hmul2 _ _ _ => true
  | .hfma2 _ _ _ => true
  | .hmin2 _ _ _ => true
  | .hmax2 _ _ _ => true
  | .hkey2 _ _ => true
  | .badd2 _ _ _ => true
  | .bsub2 _ _ _ => true
  | .bmul2 _ _ _ => true
  | .bfma2 _ _ _ => true
  | .bmin2 _ _ _ => true
  | .bmax2 _ _ _ => true
  | .cvt _ _ _ _ _ => true
  | .fix _ _ _ _ => true
  | .unfix _ _ _ _ => true
  | .bxpos _ _ _ => true
  | .bxcnt _ _ _ => true
  | .bmerge _ _ _ => true
  | .bmpre _ _ _ => true
  | .tnext _ _ _ => true
  | _ => false

/-- Words whose source b may be permuted (R85). -/
def Instr.pbLegal : Instr → Bool
  | .gadd _ _ => true
  | .iadd _ _ _ => true
  | .isub _ _ _ => true
  | .imul _ _ _ => true
  | .imulhi _ _ _ => true
  | .imulhin _ _ _ => true
  | .imad _ _ _ => true
  | .imin _ _ _ => true
  | .imax _ _ _ => true
  | .iminn _ _ _ => true
  | .imaxn _ _ _ => true
  | .iadds _ _ _ => true
  | .isubs _ _ _ => true
  | .iaddsn _ _ _ => true
  | .isubsn _ _ _ => true
  | .ladd _ _ _ => true
  | .lsub _ _ _ => true
  | .lmul _ _ _ => true
  | .lmad _ _ _ => true
  | .lmin _ _ _ => true
  | .lmax _ _ _ => true
  | .lminn _ _ _ => true
  | .lmaxn _ _ _ => true
  | .lshl _ _ _ => true
  | .lshr _ _ _ => true
  | .lsra _ _ _ => true
  | .and _ _ _ => true
  | .or _ _ _ => true
  | .xor _ _ _ => true
  | .andn _ _ _ => true
  | .orn _ _ _ => true
  | .xnor _ _ _ => true
  | .shl _ _ _ => true
  | .shr _ _ _ => true
  | .sra _ _ _ => true
  | .rotl _ _ _ => true
  | .rotr _ _ _ => true
  | .bfe _ _ _ => true
  | .bfes _ _ _ => true
  | .bfi _ _ _ => true
  | .icmp _ _ _ _ => true
  | .lcmp _ _ _ _ => true
  | .isel _ _ _ => true
  | .movsw _ _ => true
  | .psetw _ _ => true
  | .fadd _ _ _ => true
  | .fsub _ _ _ => true
  | .fmul _ _ _ => true
  | .ffma _ _ _ => true
  | .ffms _ _ _ => true
  | .fnfma _ _ _ => true
  | .fmin _ _ _ => true
  | .fmax _ _ _ => true
  | .fdiv _ _ _ => true
  | .fcmp _ _ _ _ => true
  | .dcmp _ _ _ _ => true
  | .dadd _ _ _ => true
  | .dsub _ _ _ => true
  | .dmul _ _ _ => true
  | .dfma _ _ _ => true
  | .dmin _ _ _ => true
  | .dmax _ _ _ => true
  | .ddiv _ _ _ => true
  | .hadd2 _ _ _ => true
  | .hsub2 _ _ _ => true
  | .hmul2 _ _ _ => true
  | .hfma2 _ _ _ => true
  | .hmin2 _ _ _ => true
  | .hmax2 _ _ _ => true
  | .badd2 _ _ _ => true
  | .bsub2 _ _ _ => true
  | .bmul2 _ _ _ => true
  | .bfma2 _ _ _ => true
  | .bmin2 _ _ _ => true
  | .bmax2 _ _ _ => true
  | .lshfl _ _ _ => true
  | .bxpos _ _ _ => true
  | .bxcnt _ _ _ => true
  | .bmerge _ _ _ => true
  | .bmpre _ _ _ => true
  | _ => false

/-- Words that read every lane at its step-start value (R147). -/
def Instr.laneRead : Instr → Bool
  | .lshfl _ _ _ => true
  | .lvoteany _ _ => true
  | .lvoteall _ _ => true
  | .lballot _ _ => true
  | .lrank _ _ => true
  | .lfirst _ _ => true
  | _ => false

/-- Words that take a gate operand through mk = 2 (R260). -/
def Instr.isEng : Instr → Bool
  | .cpt _ _ _ => true
  | .cpd _ _ _ => true
  | .cps _ _ _ => true
  | .gath _ _ _ => true
  | .scat _ _ _ => true
  | .mmb _ _ _ => true
  | .mma _ _ _ => true
  | .mmd _ _ _ => true
  | .mmz _ _ _ => true
  | .lease _ _ _ => true
  | .unlease _ _ _ => true
  | .digest _ _ _ => true
  | .rcp _ _ _ => true
  | _ => false

/-- Words that read a third source (R86). -/
def Instr.hasThird : Instr → Bool
  | .imad _ _ _ => true
  | .lmad _ _ _ => true
  | .bfi _ _ _ => true
  | .isel _ _ _ => true
  | .ffma _ _ _ => true
  | .ffms _ _ _ => true
  | .fnfma _ _ _ => true
  | .dfma _ _ _ => true
  | .hfma2 _ _ _ => true
  | .bfma2 _ _ _ => true
  | _ => false

/-- Words whose third source is a pair (R137, R177). -/
def Instr.thirdPair : Instr → Bool
  | .lmad _ _ _ => true
  | .dfma _ _ _ => true
  | _ => false

/-- MEM words, which take an offset extension (R86). -/
def Instr.isMem : Instr → Bool
  | .ld _ _ _ _ _ _ => true
  | .st _ _ _ _ _ _ => true
  | .fadr _ _ _ _ _ => true
  | _ => false

/-- The control words (R74). -/
def Instr.isControl : Instr → Bool
  | .brk => true
  | .trap _ => true
  | .tret => true
  | .exit => true
  | .stop => true
  | .rstop => true
  | .rstopGated _ => true
  | .br _ _ => true
  | .call _ _ _ => true
  | .brx _ => true
  | .callx _ _ => true
  | .ret _ => true
  | _ => false

/-- The pipes of R73. -/
inductive Pipe where
  | a
  | m
  | x
  deriving DecidableEq, Repr, Inhabited

/-- The pipe of a word (R73, R94). -/
def Instr.pipe : Instr → Pipe
  | .nop => .x
  | .yield => .x
  | .brk => .x
  | .trap _ => .x
  | .tret => .x
  | .exit => .x
  | .stop => .x
  | .rstop => .x
  | .rstopGated _ => .x
  | .gadd _ _ => .x
  | .gread _ _ => .x
  | .br _ _ => .x
  | .call _ _ _ => .x
  | .brx _ => .x
  | .callx _ _ => .x
  | .ret _ => .x
  | .spawn _ _ _ => .x
  | .mov _ _ => .x
  | .isel _ _ _ => .x
  | .movs _ _ => .x
  | .movsw _ _ => .x
  | .pand _ _ _ => .x
  | .por _ _ _ => .x
  | .pxor _ _ _ => .x
  | .pandn _ _ _ => .x
  | .pnot _ _ => .x
  | .pmov _ _ => .x
  | .pword _ => .x
  | .psetw _ _ => .x
  | .lshfl _ _ _ => .x
  | .lvoteany _ _ => .x
  | .lvoteall _ _ => .x
  | .lballot _ _ => .x
  | .lrank _ _ => .x
  | .lfirst _ _ => .x
  | .ld _ _ _ _ _ _ => .m
  | .st _ _ _ _ _ _ => .m
  | .fadr _ _ _ _ _ => .m
  | .movb _ _ => .m
  | .stb _ _ _ _ => .m
  | .capsub _ _ _ => .m
  | .capperm _ _ _ => .m
  | .capget _ _ _ => .m
  | .captag _ _ => .m
  | .capmint _ _ => .m
  | .tld _ _ _ => .m
  | .tst _ _ _ _ _ => .m
  | .tnext _ _ _ => .m
  | .tcount _ _ => .m
  | .cp _ _ _ _ _ => .m
  | .cpt _ _ _ => .m
  | .cpd _ _ _ => .m
  | .cps _ _ _ => .m
  | .gath _ _ _ => .m
  | .scat _ _ _ => .m
  | .mmb _ _ _ => .m
  | .mma _ _ _ => .m
  | .mmd _ _ _ => .m
  | .mmz _ _ _ => .m
  | .lease _ _ _ => .m
  | .unlease _ _ _ => .m
  | .digest _ _ _ => .m
  | .rcp _ _ _ => .m
  | .rsplit _ _ _ => .x
  | .rmerge _ _ _ => .x
  | .rinval _ _ _ => .x
  | .rres _ _ _ => .x
  | .rmove _ _ _ => .x
  | .bankmode _ _ _ => .x
  | .rgkill _ _ _ => .x
  | .rgreset _ _ _ => .x
  | .rgresume _ _ _ => .x
  | .rgpri _ _ _ => .x
  | .rgbud _ _ _ => .x
  | .fret _ _ _ => .x
  | .snap _ _ _ => .x
  | .wdarm _ _ _ => .x
  | .snew _ _ _ => .x
  | .sgrow _ _ _ => .x
  | .gcfg _ _ _ => .x
  | .launch _ _ _ => .x
  | _ => .a

/-- The four-cycle class (R76). -/
def Instr.fourCycle : Instr → Bool
  | .iadd _ _ _ => true
  | .isub _ _ _ => true
  | .imul _ _ _ => true
  | .imulhi _ _ _ => true
  | .imulhin _ _ _ => true
  | .imad _ _ _ => true
  | .imin _ _ _ => true
  | .imax _ _ _ => true
  | .iminn _ _ _ => true
  | .imaxn _ _ _ => true
  | .iabs _ _ => true
  | .ineg _ _ => true
  | .iadds _ _ _ => true
  | .isubs _ _ _ => true
  | .iaddsn _ _ _ => true
  | .isubsn _ _ _ => true
  | .ladd _ _ _ => true
  | .lsub _ _ _ => true
  | .lmul _ _ _ => true
  | .lmad _ _ _ => true
  | .lmin _ _ _ => true
  | .lmax _ _ _ => true
  | .lminn _ _ _ => true
  | .lmaxn _ _ _ => true
  | .lshl _ _ _ => true
  | .lshr _ _ _ => true
  | .lsra _ _ _ => true
  | .lneg _ _ => true
  | .labs _ _ => true
  | .and _ _ _ => true
  | .or _ _ _ => true
  | .xor _ _ _ => true
  | .andn _ _ _ => true
  | .orn _ _ _ => true
  | .xnor _ _ _ => true
  | .not _ _ => true
  | .shl _ _ _ => true
  | .shr _ _ _ => true
  | .sra _ _ _ => true
  | .rotl _ _ _ => true
  | .rotr _ _ _ => true
  | .popc _ _ => true
  | .clz _ _ => true
  | .ctz _ _ => true
  | .brev _ _ => true
  | .bfe _ _ _ => true
  | .bfes _ _ _ => true
  | .bfi _ _ _ => true
  | .bswap _ _ => true
  | .icmp _ _ _ _ => true
  | .lcmp _ _ _ _ => true
  | .mov _ _ => true
  | .isel _ _ _ => true
  | .pand _ _ _ => true
  | .por _ _ _ => true
  | .pxor _ _ _ => true
  | .pandn _ _ _ => true
  | .pnot _ _ => true
  | .pmov _ _ => true
  | .pword _ => true
  | .psetw _ _ => true
  | .iaddi _ _ _ => true
  | .andi _ _ _ => true
  | .ori _ _ _ => true
  | .xori _ _ _ => true
  | .shli _ _ _ => true
  | .shri _ _ _ => true
  | .srai _ _ _ => true
  | .icmpi _ _ _ _ => true
  | .movi _ _ => true
  | .movhi _ _ => true
  | .fadd _ _ _ => true
  | .fsub _ _ _ => true
  | .fmul _ _ _ => true
  | .ffma _ _ _ => true
  | .ffms _ _ _ => true
  | .fnfma _ _ _ => true
  | .fmin _ _ _ => true
  | .fmax _ _ _ => true
  | .fabs _ _ => true
  | .fneg _ _ => true
  | .fkey _ _ => true
  | .fkeyinv _ _ => true
  | .fcmp _ _ _ _ => true
  | .hadd2 _ _ _ => true
  | .hsub2 _ _ _ => true
  | .hmul2 _ _ _ => true
  | .hfma2 _ _ _ => true
  | .hmin2 _ _ _ => true
  | .hmax2 _ _ _ => true
  | .hkey2 _ _ => true
  | .badd2 _ _ _ => true
  | .bsub2 _ _ _ => true
  | .bmul2 _ _ _ => true
  | .bfma2 _ _ _ => true
  | .bmin2 _ _ _ => true
  | .bmax2 _ _ _ => true
  | .cvt _ _ dt sty _ => dt.toNat != 11 && sty.toNat != 11
  | .bxpos _ _ _ => true
  | .bxcnt _ _ _ => true
  | .bmerge _ _ _ => true
  | .bmpre _ _ _ => true
  | _ => false

/-- `cvt` takes no third field, not even the lane of a broadcast (R186). -/
def Instr.noC (i : Instr) : Bool :=
  match i with
  | .cvt .. => true
  | _ => false

/-- Whether the modifier may stand before this word (R84 to R86, R122, R129, R135, R143, R147, R205, R206, R258). -/
def Instr.modOk (i : Instr) (m : Mods) : Bool :=
  (m.pa == 0 || i.paLegal) && (m.pb == 0 || i.pbLegal) && (m.c == 0 || !i.noC) &&
  (m.kind == 0 || (m.kind == 1 && i.isMem)
    || (m.kind == 2 && (i.isEng || (i.hasThird && (!i.thirdPair || m.c.toNat % 2 == 0)))))

/-- Everything a word reads, its guard and the predicate it combines with included (R76, R118). -/
def Instr.reads (i : Instr) (m : Mods) : List Nat :=
  (64 + m.gq.toNat) :: (i.aRegs ++ i.bRegs ++ i.otherReads m ++ i.specReads)

/-- What a word reads at its newest value in the fibre itself: a permuted source and a lane source are read from
the journal (R119, R147). The guard is checked apart. -/
def Instr.newestReads (i : Instr) (m : Mods) : List Nat :=
  (if m.pa = 0 && !i.laneRead then i.aRegs else []) ++ (if m.pb = 0 then i.bRegs else [])
    ++ i.otherReads m ++ i.specReads

end Sys2Proof
end

