-- ==== Sys2Proof/Decode.lean ====
section
/-! DEFINITION. From bits to words (04_words_formats_opcode_map.md R66 to R96): total on any bits, rejecting by name;
then the encoder, written from the same formats (R78 to R83). -/

namespace Sys2Proof

/-- Why a word is no instruction (R95, R96). `PRIVILEGE` depends on the launch and stands with the packet checks. -/
inductive DecodeErr where
  | illegalOpcode
  | illegalField
  deriving DecidableEq, Repr, Inhabited

/-- The field of a word at bits hi to lo. -/
def fld (w hi lo : Nat) : BitVec (hi + 1 - lo) := BitVec.ofNat (hi + 1 - lo) (bitsOf w hi lo)

/-- An assigned word: its must-be-zero fields (R77) and its own conditions are checked. -/
def chk (z : Nat) (i : Instr) : Except DecodeErr Instr :=
  if z = 0 ∧ i.wf = true then .ok i else .error .illegalField

/-- Major 0x00 (R94): NOP, YIELD, BRK, TRAP, TRET, EXIT. -/
def decodeMisc (w : Nat) : Except DecodeErr Instr :=
  match bitsOf w 4 0 with
  | 0 => chk (bitsOf w 22 5) .nop
  | 1 => chk (bitsOf w 22 5) .yield
  | 2 => chk (bitsOf w 22 5) .brk
  | 3 => chk (bitsOf w 22 17) (.trap (fld w 16 5))
  | 4 => chk (bitsOf w 22 5) .tret
  | 5 => chk (bitsOf w 22 5) .exit
  | _ => .error .illegalOpcode

/-- Major 0x02 (R94): STOP, RSTOP, RSTOP_GATED, GADD, GREAD. -/
def decodeSync (w : Nat) : Except DecodeErr Instr :=
  match bitsOf w 4 0 with
  | 0 => chk (bitsOf w 22 5) .stop
  | 1 =>
    match bitsOf w 10 5 with
    | 0 => chk (bitsOf w 22 11) .rstop
    | 1 => chk (bitsOf w 22 17) (.rstopGated (fld w 16 11))
    | _ => .error .illegalField
  | 2 => chk (bitsOf w 22 17) (.gadd (fld w 16 11) (fld w 10 5))
  | 3 => chk (bitsOf w 10 5) (.gread (fld w 22 17) (fld w 16 11))
  | _ => .error .illegalOpcode

/-- Major 0x03 (R94): BR. -/
def decodeBr (w : Nat) : Except DecodeErr Instr :=
  chk (0) (.br (fld w 22 4) (fld w 3 0))

/-- Major 0x04 (R94): CALL. -/
def decodeCall (w : Nat) : Except DecodeErr Instr :=
  chk (0) (.call (fld w 22 17) (fld w 16 4) (fld w 3 0))

/-- Major 0x05 (R94): BRX, CALLX, RET. -/
def decodeJx (w : Nat) : Except DecodeErr Instr :=
  match bitsOf w 4 0 with
  | 0 => chk (bitsOf w 10 5 + bitsOf w 22 17) (.brx (fld w 16 11))
  | 1 => chk (bitsOf w 10 5) (.callx (fld w 22 17) (fld w 16 11))
  | 2 => chk (bitsOf w 10 5 + bitsOf w 22 17) (.ret (fld w 16 11))
  | _ => .error .illegalOpcode

/-- Major 0x06 (R94): SPAWN. -/
def decodeSpawn (w : Nat) : Except DecodeErr Instr :=
  chk (0) (.spawn (fld w 22 17) (fld w 16 4) (fld w 3 0))

/-- Major 0x08 (R94): IADD, ISUB, IMUL, IMULHI, IMULHIN, IMAD, IMIN, IMAX, IMINN, IMAXN, IABS, INEG, IADDS, ISUBS, IADDSN, ISUBSN. -/
def decodeIalu (w : Nat) : Except DecodeErr Instr :=
  match bitsOf w 4 0 with
  | 0 => chk (0) (.iadd (fld w 22 17) (fld w 16 11) (fld w 10 5))
  | 1 => chk (0) (.isub (fld w 22 17) (fld w 16 11) (fld w 10 5))
  | 2 => chk (0) (.imul (fld w 22 17) (fld w 16 11) (fld w 10 5))
  | 3 => chk (0) (.imulhi (fld w 22 17) (fld w 16 11) (fld w 10 5))
  | 4 => chk (0) (.imulhin (fld w 22 17) (fld w 16 11) (fld w 10 5))
  | 5 => chk (0) (.imad (fld w 22 17) (fld w 16 11) (fld w 10 5))
  | 6 => chk (0) (.imin (fld w 22 17) (fld w 16 11) (fld w 10 5))
  | 7 => chk (0) (.imax (fld w 22 17) (fld w 16 11) (fld w 10 5))
  | 8 => chk (0) (.iminn (fld w 22 17) (fld w 16 11) (fld w 10 5))
  | 9 => chk (0) (.imaxn (fld w 22 17) (fld w 16 11) (fld w 10 5))
  | 10 => chk (bitsOf w 10 5) (.iabs (fld w 22 17) (fld w 16 11))
  | 11 => chk (bitsOf w 10 5) (.ineg (fld w 22 17) (fld w 16 11))
  | 12 => chk (0) (.iadds (fld w 22 17) (fld w 16 11) (fld w 10 5))
  | 13 => chk (0) (.isubs (fld w 22 17) (fld w 16 11) (fld w 10 5))
  | 14 => chk (0) (.iaddsn (fld w 22 17) (fld w 16 11) (fld w 10 5))
  | 15 => chk (0) (.isubsn (fld w 22 17) (fld w 16 11) (fld w 10 5))
  | _ => .error .illegalOpcode

/-- Major 0x09 (R94): LADD, LSUB, LMUL, LMAD, LMIN, LMAX, LMINN, LMAXN, LSHL, LSHR, LSRA, LNEG, LABS. -/
def decodeIalu64 (w : Nat) : Except DecodeErr Instr :=
  match bitsOf w 4 0 with
  | 0 => chk (0) (.ladd (fld w 22 17) (fld w 16 11) (fld w 10 5))
  | 1 => chk (0) (.lsub (fld w 22 17) (fld w 16 11) (fld w 10 5))
  | 2 => chk (0) (.lmul (fld w 22 17) (fld w 16 11) (fld w 10 5))
  | 3 => chk (0) (.lmad (fld w 22 17) (fld w 16 11) (fld w 10 5))
  | 4 => chk (0) (.lmin (fld w 22 17) (fld w 16 11) (fld w 10 5))
  | 5 => chk (0) (.lmax (fld w 22 17) (fld w 16 11) (fld w 10 5))
  | 6 => chk (0) (.lminn (fld w 22 17) (fld w 16 11) (fld w 10 5))
  | 7 => chk (0) (.lmaxn (fld w 22 17) (fld w 16 11) (fld w 10 5))
  | 8 => chk (0) (.lshl (fld w 22 17) (fld w 16 11) (fld w 10 5))
  | 9 => chk (0) (.lshr (fld w 22 17) (fld w 16 11) (fld w 10 5))
  | 10 => chk (0) (.lsra (fld w 22 17) (fld w 16 11) (fld w 10 5))
  | 11 => chk (bitsOf w 10 5) (.lneg (fld w 22 17) (fld w 16 11))
  | 12 => chk (bitsOf w 10 5) (.labs (fld w 22 17) (fld w 16 11))
  | _ => .error .illegalOpcode

/-- Major 0x0A (R94): AND, OR, XOR, ANDN, ORN, XNOR, NOT, SHL, SHR, SRA, ROTL, ROTR, POPC, CLZ, CTZ, BREV, BFE, BFES, BFI, BSWAP. -/
def decodeLogic (w : Nat) : Except DecodeErr Instr :=
  match bitsOf w 4 0 with
  | 0 => chk (0) (.and (fld w 22 17) (fld w 16 11) (fld w 10 5))
  | 1 => chk (0) (.or (fld w 22 17) (fld w 16 11) (fld w 10 5))
  | 2 => chk (0) (.xor (fld w 22 17) (fld w 16 11) (fld w 10 5))
  | 3 => chk (0) (.andn (fld w 22 17) (fld w 16 11) (fld w 10 5))
  | 4 => chk (0) (.orn (fld w 22 17) (fld w 16 11) (fld w 10 5))
  | 5 => chk (0) (.xnor (fld w 22 17) (fld w 16 11) (fld w 10 5))
  | 6 => chk (bitsOf w 10 5) (.not (fld w 22 17) (fld w 16 11))
  | 7 => chk (0) (.shl (fld w 22 17) (fld w 16 11) (fld w 10 5))
  | 8 => chk (0) (.shr (fld w 22 17) (fld w 16 11) (fld w 10 5))
  | 9 => chk (0) (.sra (fld w 22 17) (fld w 16 11) (fld w 10 5))
  | 10 => chk (0) (.rotl (fld w 22 17) (fld w 16 11) (fld w 10 5))
  | 11 => chk (0) (.rotr (fld w 22 17) (fld w 16 11) (fld w 10 5))
  | 12 => chk (bitsOf w 10 5) (.popc (fld w 22 17) (fld w 16 11))
  | 13 => chk (bitsOf w 10 5) (.clz (fld w 22 17) (fld w 16 11))
  | 14 => chk (bitsOf w 10 5) (.ctz (fld w 22 17) (fld w 16 11))
  | 15 => chk (bitsOf w 10 5) (.brev (fld w 22 17) (fld w 16 11))
  | 16 => chk (0) (.bfe (fld w 22 17) (fld w 16 11) (fld w 10 5))
  | 17 => chk (0) (.bfes (fld w 22 17) (fld w 16 11) (fld w 10 5))
  | 18 => chk (0) (.bfi (fld w 22 17) (fld w 16 11) (fld w 10 5))
  | 19 => chk (bitsOf w 10 5) (.bswap (fld w 22 17) (fld w 16 11))
  | _ => .error .illegalOpcode

/-- Major 0x0B (R94): ICMP, LCMP. -/
def decodeIcmp (w : Nat) : Except DecodeErr Instr :=
  if bitsOf w 4 0 < 10 then chk (0) (.icmp (fld w 22 17) (fld w 16 11) (fld w 10 5) (fld w 3 0))
  else if 16 ≤ bitsOf w 4 0 ∧ bitsOf w 4 0 < 26 then chk (0) (.lcmp (fld w 22 17) (fld w 16 11) (fld w 10 5) (fld w 3 0))
  else .error .illegalOpcode

/-- Major 0x0C (R94): MOV, ISEL, MOVS, MOVSW. -/
def decodeMove (w : Nat) : Except DecodeErr Instr :=
  match bitsOf w 4 0 with
  | 0 => chk (bitsOf w 10 5) (.mov (fld w 22 17) (fld w 16 11))
  | 1 => chk (0) (.isel (fld w 22 17) (fld w 16 11) (fld w 10 5))
  | 2 => chk (bitsOf w 10 5) (.movs (fld w 22 17) (fld w 16 11))
  | 3 => chk (bitsOf w 22 17) (.movsw (fld w 16 11) (fld w 10 5))
  | _ => .error .illegalOpcode

/-- Major 0x0D (R94): PAND, POR, PXOR, PANDN, PNOT, PMOV, PWORD, PSETW. -/
def decodePred (w : Nat) : Except DecodeErr Instr :=
  match bitsOf w 4 0 with
  | 0 => chk (bitsOf w 10 9 + bitsOf w 16 15) (.pand (fld w 22 17) (fld w 14 11) (fld w 8 5))
  | 1 => chk (bitsOf w 10 9 + bitsOf w 16 15) (.por (fld w 22 17) (fld w 14 11) (fld w 8 5))
  | 2 => chk (bitsOf w 10 9 + bitsOf w 16 15) (.pxor (fld w 22 17) (fld w 14 11) (fld w 8 5))
  | 3 => chk (bitsOf w 10 9 + bitsOf w 16 15) (.pandn (fld w 22 17) (fld w 14 11) (fld w 8 5))
  | 4 => chk (bitsOf w 10 5 + bitsOf w 16 15) (.pnot (fld w 22 17) (fld w 14 11))
  | 5 => chk (bitsOf w 10 5 + bitsOf w 16 15) (.pmov (fld w 22 17) (fld w 14 11))
  | 6 => chk (bitsOf w 16 5) (.pword (fld w 22 17))
  | 7 => chk (bitsOf w 22 17) (.psetw (fld w 16 11) (fld w 10 5))
  | _ => .error .illegalOpcode

/-- Major 0x10 (R94): IADDI. -/
def decodeIaddi (w : Nat) : Except DecodeErr Instr :=
  chk (0) (.iaddi (fld w 22 17) (fld w 16 11) (fld w 10 0))

/-- Major 0x11 (R94): ANDI. -/
def decodeAndi (w : Nat) : Except DecodeErr Instr :=
  chk (0) (.andi (fld w 22 17) (fld w 16 11) (fld w 10 0))

/-- Major 0x12 (R94): ORI. -/
def decodeOri (w : Nat) : Except DecodeErr Instr :=
  chk (0) (.ori (fld w 22 17) (fld w 16 11) (fld w 10 0))

/-- Major 0x13 (R94): XORI. -/
def decodeXori (w : Nat) : Except DecodeErr Instr :=
  chk (0) (.xori (fld w 22 17) (fld w 16 11) (fld w 10 0))

/-- Major 0x14 (R94): SHLI, SHRI, SRAI. -/
def decodeShiftI (w : Nat) : Except DecodeErr Instr :=
  match bitsOf w 10 9 with
  | 0 => chk (bitsOf w 8 5) (.shli (fld w 22 17) (fld w 16 11) (fld w 4 0))
  | 1 => chk (bitsOf w 8 5) (.shri (fld w 22 17) (fld w 16 11) (fld w 4 0))
  | 2 => chk (bitsOf w 8 5) (.srai (fld w 22 17) (fld w 16 11) (fld w 4 0))
  | _ => .error .illegalField

/-- Major 0x15 (R94): ICMPI. -/
def decodeIcmpi (w : Nat) : Except DecodeErr Instr :=
  chk (0) (.icmpi (fld w 22 17) (fld w 16 11) (fld w 10 7) (fld w 6 0))

/-- Major 0x16 (R94): MOVI. -/
def decodeMovi (w : Nat) : Except DecodeErr Instr :=
  chk (0) (.movi (fld w 22 17) (fld w 16 0))

/-- Major 0x17 (R94): MOVHI. -/
def decodeMovhi (w : Nat) : Except DecodeErr Instr :=
  chk (bitsOf w 16 15) (.movhi (fld w 22 17) (fld w 14 0))

/-- Major 0x18 (R94): FADD, FSUB, FMUL, FFMA, FFMS, FNFMA, FMIN, FMAX, FABS, FNEG, FDIV, FSQRT, FRCP, FRSQ, FEXP2, FLOG2, FSINPI, FCOSPI, FKEY, FKEYINV. -/
def decodeFp32 (w : Nat) : Except DecodeErr Instr :=
  match bitsOf w 4 0 with
  | 0 => chk (0) (.fadd (fld w 22 17) (fld w 16 11) (fld w 10 5))
  | 1 => chk (0) (.fsub (fld w 22 17) (fld w 16 11) (fld w 10 5))
  | 2 => chk (0) (.fmul (fld w 22 17) (fld w 16 11) (fld w 10 5))
  | 3 => chk (0) (.ffma (fld w 22 17) (fld w 16 11) (fld w 10 5))
  | 4 => chk (0) (.ffms (fld w 22 17) (fld w 16 11) (fld w 10 5))
  | 5 => chk (0) (.fnfma (fld w 22 17) (fld w 16 11) (fld w 10 5))
  | 6 => chk (0) (.fmin (fld w 22 17) (fld w 16 11) (fld w 10 5))
  | 7 => chk (0) (.fmax (fld w 22 17) (fld w 16 11) (fld w 10 5))
  | 8 => chk (bitsOf w 10 5) (.fabs (fld w 22 17) (fld w 16 11))
  | 9 => chk (bitsOf w 10 5) (.fneg (fld w 22 17) (fld w 16 11))
  | 10 => chk (0) (.fdiv (fld w 22 17) (fld w 16 11) (fld w 10 5))
  | 11 => chk (bitsOf w 10 5) (.fsqrt (fld w 22 17) (fld w 16 11))
  | 12 => chk (bitsOf w 10 5) (.frcp (fld w 22 17) (fld w 16 11))
  | 13 => chk (bitsOf w 10 5) (.frsq (fld w 22 17) (fld w 16 11))
  | 14 => chk (bitsOf w 10 5) (.fexp2 (fld w 22 17) (fld w 16 11))
  | 15 => chk (bitsOf w 10 5) (.flog2 (fld w 22 17) (fld w 16 11))
  | 16 => chk (bitsOf w 10 5) (.fsinpi (fld w 22 17) (fld w 16 11))
  | 17 => chk (bitsOf w 10 5) (.fcospi (fld w 22 17) (fld w 16 11))
  | 18 => chk (bitsOf w 10 5) (.fkey (fld w 22 17) (fld w 16 11))
  | 19 => chk (bitsOf w 10 5) (.fkeyinv (fld w 22 17) (fld w 16 11))
  | _ => .error .illegalOpcode

/-- Major 0x19 (R94): FCMP, DCMP. -/
def decodeFcmp (w : Nat) : Except DecodeErr Instr :=
  if bitsOf w 4 0 < 8 then chk (0) (.fcmp (fld w 22 17) (fld w 16 11) (fld w 10 5) (fld w 2 0))
  else if bitsOf w 4 0 < 16 then chk (0) (.dcmp (fld w 22 17) (fld w 16 11) (fld w 10 5) (fld w 2 0))
  else .error .illegalOpcode

/-- Major 0x1A (R94): DADD, DSUB, DMUL, DFMA, DMIN, DMAX, DABS, DNEG, DDIV, DSQRT, DKEY. -/
def decodeFp64 (w : Nat) : Except DecodeErr Instr :=
  match bitsOf w 4 0 with
  | 0 => chk (0) (.dadd (fld w 22 17) (fld w 16 11) (fld w 10 5))
  | 1 => chk (0) (.dsub (fld w 22 17) (fld w 16 11) (fld w 10 5))
  | 2 => chk (0) (.dmul (fld w 22 17) (fld w 16 11) (fld w 10 5))
  | 3 => chk (0) (.dfma (fld w 22 17) (fld w 16 11) (fld w 10 5))
  | 4 => chk (0) (.dmin (fld w 22 17) (fld w 16 11) (fld w 10 5))
  | 5 => chk (0) (.dmax (fld w 22 17) (fld w 16 11) (fld w 10 5))
  | 6 => chk (bitsOf w 10 5) (.dabs (fld w 22 17) (fld w 16 11))
  | 7 => chk (bitsOf w 10 5) (.dneg (fld w 22 17) (fld w 16 11))
  | 8 => chk (0) (.ddiv (fld w 22 17) (fld w 16 11) (fld w 10 5))
  | 9 => chk (bitsOf w 10 5) (.dsqrt (fld w 22 17) (fld w 16 11))
  | 10 => chk (bitsOf w 10 5) (.dkey (fld w 22 17) (fld w 16 11))
  | _ => .error .illegalOpcode

/-- Major 0x1B (R94): HADD2, HSUB2, HMUL2, HFMA2, HMIN2, HMAX2, HKEY2, BADD2, BSUB2, BMUL2, BFMA2, BMIN2, BMAX2. -/
def decodeHalf2 (w : Nat) : Except DecodeErr Instr :=
  match bitsOf w 4 0 with
  | 0 => chk (0) (.hadd2 (fld w 22 17) (fld w 16 11) (fld w 10 5))
  | 1 => chk (0) (.hsub2 (fld w 22 17) (fld w 16 11) (fld w 10 5))
  | 2 => chk (0) (.hmul2 (fld w 22 17) (fld w 16 11) (fld w 10 5))
  | 3 => chk (0) (.hfma2 (fld w 22 17) (fld w 16 11) (fld w 10 5))
  | 4 => chk (0) (.hmin2 (fld w 22 17) (fld w 16 11) (fld w 10 5))
  | 5 => chk (0) (.hmax2 (fld w 22 17) (fld w 16 11) (fld w 10 5))
  | 6 => chk (bitsOf w 10 5) (.hkey2 (fld w 22 17) (fld w 16 11))
  | 16 => chk (0) (.badd2 (fld w 22 17) (fld w 16 11) (fld w 10 5))
  | 17 => chk (0) (.bsub2 (fld w 22 17) (fld w 16 11) (fld w 10 5))
  | 18 => chk (0) (.bmul2 (fld w 22 17) (fld w 16 11) (fld w 10 5))
  | 19 => chk (0) (.bfma2 (fld w 22 17) (fld w 16 11) (fld w 10 5))
  | 20 => chk (0) (.bmin2 (fld w 22 17) (fld w 16 11) (fld w 10 5))
  | 21 => chk (0) (.bmax2 (fld w 22 17) (fld w 16 11) (fld w 10 5))
  | _ => .error .illegalOpcode

/-- Major 0x1C (R94): CVT. -/
def decodeCvt (w : Nat) : Except DecodeErr Instr :=
  chk (0) (.cvt (fld w 22 17) (fld w 16 11) (fld w 10 7) (fld w 6 3) (fld w 2 0))

/-- Major 0x1D (R94): FIX, UNFIX. -/
def decodeFx (w : Nat) : Except DecodeErr Instr :=
  match bitsOf w 10 10 with
  | 0 => chk (0) (.fix (fld w 22 17) (fld w 16 11) (fld w 9 7) (fld w 6 0))
  | 1 => chk (0) (.unfix (fld w 22 17) (fld w 16 11) (fld w 9 7) (fld w 6 0))
  | _ => .error .illegalField

/-- Major 0x20 (R94): LSHFL, LVOTEANY, LVOTEALL, LBALLOT, LRANK, LFIRST. -/
def decodeLane (w : Nat) : Except DecodeErr Instr :=
  match bitsOf w 4 0 with
  | 0 => chk (0) (.lshfl (fld w 22 17) (fld w 16 11) (fld w 10 5))
  | 1 => chk (bitsOf w 10 5) (.lvoteany (fld w 22 17) (fld w 16 11))
  | 2 => chk (bitsOf w 10 5) (.lvoteall (fld w 22 17) (fld w 16 11))
  | 3 => chk (bitsOf w 10 5) (.lballot (fld w 22 17) (fld w 16 11))
  | 4 => chk (bitsOf w 10 5) (.lrank (fld w 22 17) (fld w 16 11))
  | 5 => chk (bitsOf w 10 5) (.lfirst (fld w 22 17) (fld w 16 11))
  | _ => .error .illegalOpcode

/-- Major 0x21 (R94): BXPOS, BXCNT, BMERGE, BMPRE. -/
def decodeBmap (w : Nat) : Except DecodeErr Instr :=
  match bitsOf w 4 0 with
  | 0 => chk (0) (.bxpos (fld w 22 17) (fld w 16 11) (fld w 10 5))
  | 1 => chk (0) (.bxcnt (fld w 22 17) (fld w 16 11) (fld w 10 5))
  | 2 => chk (0) (.bmerge (fld w 22 17) (fld w 16 11) (fld w 10 5))
  | 3 => chk (0) (.bmpre (fld w 22 17) (fld w 16 11) (fld w 10 5))
  | _ => .error .illegalOpcode

/-- Major 0x28 (R94): LD. -/
def decodeLd (w : Nat) : Except DecodeErr Instr :=
  chk (0) (.ld (fld w 22 17) (fld w 16 13) (fld w 12 7) (fld w 6 4) (fld w 3 1) (fld w 0 0))

/-- Major 0x29 (R94): ST. -/
def decodeSt (w : Nat) : Except DecodeErr Instr :=
  chk (0) (.st (fld w 22 17) (fld w 16 13) (fld w 12 7) (fld w 6 4) (fld w 3 1) (fld w 0 0))

/-- Major 0x2A (R94): FADR. -/
def decodeFadr (w : Nat) : Except DecodeErr Instr :=
  match bitsOf w 3 1 with
  | 3 => chk (0) (.fadr (fld w 22 17) (fld w 16 13) (fld w 12 7) (fld w 6 4) (fld w 0 0))
  | _ => .error .illegalField

/-- Major 0x2B (R94): MOVB, STB. -/
def decodeBreg (w : Nat) : Except DecodeErr Instr :=
  match bitsOf w 11 11 with
  | 0 => chk (bitsOf w 10 0) (.movb (fld w 22 17) (fld w 16 12))
  | 1 => chk (bitsOf w 6 0) (.stb (fld w 22 17) (fld w 16 12) (fld w 10 8) (fld w 7 7))
  | _ => .error .illegalField

/-- Major 0x2C (R94): CAPSUB, CAPPERM, CAPGET, CAPTAG, CAPMINT. -/
def decodeCap (w : Nat) : Except DecodeErr Instr :=
  match bitsOf w 4 0 with
  | 0 => chk (bitsOf w 16 15 + bitsOf w 22 21) (.capsub (fld w 20 17) (fld w 14 11) (fld w 10 5))
  | 1 => chk (bitsOf w 16 15 + bitsOf w 22 21) (.capperm (fld w 20 17) (fld w 14 11) (fld w 10 5))
  | 2 => chk (bitsOf w 16 15) (.capget (fld w 22 17) (fld w 14 11) (fld w 10 5))
  | 3 => chk (bitsOf w 10 5 + bitsOf w 16 15) (.captag (fld w 22 17) (fld w 14 11))
  | 4 => chk (bitsOf w 10 5 + bitsOf w 22 21) (.capmint (fld w 20 17) (fld w 16 11))
  | _ => .error .illegalOpcode

/-- Major 0x2D (R94): TLD, TST. -/
def decodeTensor (w : Nat) : Except DecodeErr Instr :=
  match bitsOf w 6 6 with
  | 0 => chk (bitsOf w 5 0) (.tld (fld w 22 17) (fld w 16 13) (fld w 12 7))
  | 1 => chk (bitsOf w 1 0) (.tst (fld w 22 17) (fld w 16 13) (fld w 12 7) (fld w 5 3) (fld w 2 2))
  | _ => .error .illegalField

/-- Major 0x2E (R94): TNEXT, TCOUNT. -/
def decodeTit (w : Nat) : Except DecodeErr Instr :=
  match bitsOf w 4 0 with
  | 0 => chk (bitsOf w 10 9) (.tnext (fld w 22 17) (fld w 16 11) (fld w 8 5))
  | 1 => chk (bitsOf w 16 9) (.tcount (fld w 22 17) (fld w 8 5))
  | _ => .error .illegalOpcode

/-- Major 0x30 (R94): CP. -/
def decodeCp (w : Nat) : Except DecodeErr Instr :=
  chk (bitsOf w 0 0) (.cp (fld w 22 17) (fld w 16 13) (fld w 12 9) (fld w 8 3) (fld w 2 1))

/-- Major 0x31 (R94): CPT, CPD, CPS, GATH, SCAT, MMB, MMA, MMD, MMZ, LEASE, UNLEASE, DIGEST, RCP. -/
def decodeEng (w : Nat) : Except DecodeErr Instr :=
  match bitsOf w 4 0 with
  | 0 => chk (bitsOf w 16 15) (.cpt (fld w 22 17) (fld w 14 11) (fld w 10 5))
  | 1 => chk (bitsOf w 16 15) (.cpd (fld w 22 17) (fld w 14 11) (fld w 10 5))
  | 2 => chk (bitsOf w 16 15) (.cps (fld w 22 17) (fld w 14 11) (fld w 10 5))
  | 3 => chk (bitsOf w 16 15) (.gath (fld w 22 17) (fld w 14 11) (fld w 10 5))
  | 4 => chk (bitsOf w 16 15) (.scat (fld w 22 17) (fld w 14 11) (fld w 10 5))
  | 5 => chk (bitsOf w 16 15) (.mmb (fld w 22 17) (fld w 14 11) (fld w 10 5))
  | 6 => chk (bitsOf w 16 15) (.mma (fld w 22 17) (fld w 14 11) (fld w 10 5))
  | 7 => chk (bitsOf w 16 15) (.mmd (fld w 22 17) (fld w 14 11) (fld w 10 5))
  | 8 => chk (bitsOf w 16 15) (.mmz (fld w 22 17) (fld w 14 11) (fld w 10 5))
  | 9 => chk (bitsOf w 16 15) (.lease (fld w 22 17) (fld w 14 11) (fld w 10 5))
  | 10 => chk (bitsOf w 16 15) (.unlease (fld w 22 17) (fld w 14 11) (fld w 10 5))
  | 11 => chk (bitsOf w 16 15) (.digest (fld w 22 17) (fld w 14 11) (fld w 10 5))
  | 12 => chk (bitsOf w 16 15) (.rcp (fld w 22 17) (fld w 14 11) (fld w 10 5))
  | _ => .error .illegalOpcode

/-- Major 0x38 (R94): RSPLIT, RMERGE, RINVAL, RRES, RMOVE, BANKMODE, RGKILL, RGRESET, RGRESUME, RGPRI, RGBUD, FRET, SNAP, WDARM, SNEW, SGROW, GCFG. -/
def decodeSys (w : Nat) : Except DecodeErr Instr :=
  match bitsOf w 4 0 with
  | 0 => chk (bitsOf w 16 15) (.rsplit (fld w 22 17) (fld w 14 11) (fld w 10 5))
  | 1 => chk (bitsOf w 16 15) (.rmerge (fld w 22 17) (fld w 14 11) (fld w 10 5))
  | 2 => chk (bitsOf w 16 15) (.rinval (fld w 22 17) (fld w 14 11) (fld w 10 5))
  | 3 => chk (bitsOf w 16 15) (.rres (fld w 22 17) (fld w 14 11) (fld w 10 5))
  | 4 => chk (bitsOf w 16 15) (.rmove (fld w 22 17) (fld w 14 11) (fld w 10 5))
  | 5 => chk (bitsOf w 16 15) (.bankmode (fld w 22 17) (fld w 14 11) (fld w 10 5))
  | 6 => chk (bitsOf w 16 15) (.rgkill (fld w 22 17) (fld w 14 11) (fld w 10 5))
  | 7 => chk (bitsOf w 16 15) (.rgreset (fld w 22 17) (fld w 14 11) (fld w 10 5))
  | 8 => chk (bitsOf w 16 15) (.rgresume (fld w 22 17) (fld w 14 11) (fld w 10 5))
  | 9 => chk (bitsOf w 16 15) (.rgpri (fld w 22 17) (fld w 14 11) (fld w 10 5))
  | 10 => chk (bitsOf w 16 15) (.rgbud (fld w 22 17) (fld w 14 11) (fld w 10 5))
  | 11 => chk (bitsOf w 16 15) (.fret (fld w 22 17) (fld w 14 11) (fld w 10 5))
  | 12 => chk (bitsOf w 16 15) (.snap (fld w 22 17) (fld w 14 11) (fld w 10 5))
  | 13 => chk (bitsOf w 16 15) (.wdarm (fld w 22 17) (fld w 14 11) (fld w 10 5))
  | 14 => chk (bitsOf w 16 15) (.snew (fld w 22 17) (fld w 14 11) (fld w 10 5))
  | 15 => chk (bitsOf w 16 15) (.sgrow (fld w 22 17) (fld w 14 11) (fld w 10 5))
  | 16 => chk (bitsOf w 16 15) (.gcfg (fld w 22 17) (fld w 14 11) (fld w 10 5))
  | _ => .error .illegalOpcode

/-- Major 0x39 (R94): LAUNCH. -/
def decodeLaunch (w : Nat) : Except DecodeErr Instr :=
  match bitsOf w 4 0 with
  | 0 => chk (bitsOf w 16 15) (.launch (fld w 22 17) (fld w 14 11) (fld w 10 5))
  | _ => .error .illegalOpcode

/-- The instruction of a word other than the modifier: bits 28 to 0 (R70, R94, R95). -/
def decodeBody (w : Nat) : Except DecodeErr Instr :=
  match bitsOf w 28 23 with
  | 0 => decodeMisc w
  | 2 => decodeSync w
  | 3 => decodeBr w
  | 4 => decodeCall w
  | 5 => decodeJx w
  | 6 => decodeSpawn w
  | 8 => decodeIalu w
  | 9 => decodeIalu64 w
  | 10 => decodeLogic w
  | 11 => decodeIcmp w
  | 12 => decodeMove w
  | 13 => decodePred w
  | 16 => decodeIaddi w
  | 17 => decodeAndi w
  | 18 => decodeOri w
  | 19 => decodeXori w
  | 20 => decodeShiftI w
  | 21 => decodeIcmpi w
  | 22 => decodeMovi w
  | 23 => decodeMovhi w
  | 24 => decodeFp32 w
  | 25 => decodeFcmp w
  | 26 => decodeFp64 w
  | 27 => decodeHalf2 w
  | 28 => decodeCvt w
  | 29 => decodeFx w
  | 32 => decodeLane w
  | 33 => decodeBmap w
  | 40 => decodeLd w
  | 41 => decodeSt w
  | 42 => decodeFadr w
  | 43 => decodeBreg w
  | 44 => decodeCap w
  | 45 => decodeTensor w
  | 46 => decodeTit w
  | 48 => decodeCp w
  | 49 => decodeEng w
  | 56 => decodeSys w
  | 57 => decodeLaunch w
  | _ => .error .illegalOpcode

/-- The modifier word's own fields (R83, R85, R86). What it may stand before is checked with its target. -/
def decodeMods (w : Nat) : Except DecodeErr Mods :=
  let m : Mods := { gn := bitsOf w 22 22 == 1, gq := fld w 21 18, pa := fld w 17 13, pb := fld w 12 8,
                    c := fld w 7 2, kind := fld w 1 0 }
  let bc := m.pa.toNat == 16 || m.pb.toNat == 16
  if bitsOf w 31 31 = 1 ∧ bitsOf w 30 29 = 0 ∧ m.pa.toNat ≤ 16 ∧ m.pb.toNat ≤ 16 ∧ m.kind.toNat < 3
      ∧ (m.kind.toNat = 0 → m.c.toNat = 0 ∨ bc = true) ∧ (m.kind.toNat ≠ 0 → bc = false)
  then .ok m else .error .illegalField

/-- What a word holds. -/
inductive WordBody where
  | mods (m : Mods)
  | instr (i : Instr)
  deriving DecidableEq, Repr, Inhabited

/-- A word with its common fields (R70). -/
structure Decoded where
  chain : Bool
  stall : Nat
  body  : WordBody
  deriving DecidableEq, Repr, Inhabited

/-- Decode one word (R70, R83, R94). -/
def decodeWord (w : Nat) : Except DecodeErr Decoded :=
  if bitsOf w 28 23 = 1 then
    match decodeMods w with
    | .ok m => .ok { chain := true, stall := 0, body := .mods m }
    | .error e => .error e
  else
    match decodeBody w with
    | .ok i => .ok { chain := bitsOf w 31 31 == 1, stall := bitsOf w 30 29, body := .instr i }
    | .error e => .error e

/-- Decode the four little-endian bytes of a word (R66); fewer bytes are no word. -/
def decodeBytes : List Byte → Except DecodeErr Decoded
  | b0 :: b1 :: b2 :: b3 :: _ => decodeWord (ofLe [b0, b1, b2, b3])
  | _ => .error .illegalOpcode

/-- The words marked (S) in R94 and R93, which fault with `PRIVILEGE` in user mode before any field is checked (R96). -/
def privWord (w : Nat) : Bool :=
  match bitsOf w 28 23 with
  | 0x38 => bitsOf w 4 0 ≤ 16
  | 0x2C => bitsOf w 4 0 == 4
  | 0x0C => bitsOf w 4 0 == 3 || (bitsOf w 4 0 == 2 && (bitsOf w 16 11 == 22 || bitsOf w 16 11 == 23))
  | _ => false

/-- The instruction the decoder reads from a table row's bits: bit 0 is the least significant of the first word, whose
bytes stand in memory little-endian (R66). -/
def decodeTableWord (nbits w : Nat) : Option Instr :=
  match decodeBytes (leBytes 4 (w % 2 ^ nbits)) with
  | .ok { body := .instr i, .. } => some i
  | _ => none

/-- Fixed bits and 1 field, each at the place of its lowest bit. -/
def place1 (m x0 p0 : Nat) : Nat := m + x0 * 2 ^ p0

/-- Fixed bits and 2 fields, each at the place of its lowest bit. -/
def place2 (m x0 p0 x1 p1 : Nat) : Nat := m + x0 * 2 ^ p0 + x1 * 2 ^ p1

/-- Fixed bits and 3 fields, each at the place of its lowest bit. -/
def place3 (m x0 p0 x1 p1 x2 p2 : Nat) : Nat := m + x0 * 2 ^ p0 + x1 * 2 ^ p1 + x2 * 2 ^ p2

/-- Fixed bits and 4 fields, each at the place of its lowest bit. -/
def place4 (m x0 p0 x1 p1 x2 p2 x3 p3 : Nat) : Nat := m + x0 * 2 ^ p0 + x1 * 2 ^ p1 + x2 * 2 ^ p2 + x3 * 2 ^ p3

/-- Fixed bits and 5 fields, each at the place of its lowest bit. -/
def place5 (m x0 p0 x1 p1 x2 p2 x3 p3 x4 p4 : Nat) : Nat := m + x0 * 2 ^ p0 + x1 * 2 ^ p1 + x2 * 2 ^ p2 + x3 * 2 ^ p3 + x4 * 2 ^ p4

/-- Fixed bits and 6 fields, each at the place of its lowest bit. -/
def place6 (m x0 p0 x1 p1 x2 p2 x3 p3 x4 p4 x5 p5 : Nat) : Nat := m + x0 * 2 ^ p0 + x1 * 2 ^ p1 + x2 * 2 ^ p2 + x3 * 2 ^ p3 + x4 * 2 ^ p4 + x5 * 2 ^ p5

/-- Bits 28 to 0 of a word: its major opcode and minor, and its fields in their places (R78 to R82, R94). Events have no
encoding. -/
def encodeBody : Instr → Nat
  | .nop => 0x0
  | .yield => 0x1
  | .brk => 0x2
  | .trap code => place1 0x3 code.toNat 5
  | .tret => 0x4
  | .exit => 0x5
  | .stop => 0x1000000
  | .rstop => 0x1000001
  | .rstopGated g => place1 0x1000021 g.toNat 11
  | .gadd g b => place2 0x1000002 g.toNat 11 b.toNat 5
  | .gread d g => place2 0x1000003 d.toNat 17 g.toNat 11
  | .br delta slot => place2 0x1800000 delta.toNat 4 slot.toNat 0
  | .call a delta slot => place3 0x2000000 a.toNat 17 delta.toNat 4 slot.toNat 0
  | .brx a => place1 0x2800000 a.toNat 11
  | .callx d a => place2 0x2800001 d.toNat 17 a.toNat 11
  | .ret a => place1 0x2800002 a.toNat 11
  | .spawn a delta slot => place3 0x3000000 a.toNat 17 delta.toNat 4 slot.toNat 0
  | .iadd d a b => place3 0x4000000 d.toNat 17 a.toNat 11 b.toNat 5
  | .isub d a b => place3 0x4000001 d.toNat 17 a.toNat 11 b.toNat 5
  | .imul d a b => place3 0x4000002 d.toNat 17 a.toNat 11 b.toNat 5
  | .imulhi d a b => place3 0x4000003 d.toNat 17 a.toNat 11 b.toNat 5
  | .imulhin d a b => place3 0x4000004 d.toNat 17 a.toNat 11 b.toNat 5
  | .imad d a b => place3 0x4000005 d.toNat 17 a.toNat 11 b.toNat 5
  | .imin d a b => place3 0x4000006 d.toNat 17 a.toNat 11 b.toNat 5
  | .imax d a b => place3 0x4000007 d.toNat 17 a.toNat 11 b.toNat 5
  | .iminn d a b => place3 0x4000008 d.toNat 17 a.toNat 11 b.toNat 5
  | .imaxn d a b => place3 0x4000009 d.toNat 17 a.toNat 11 b.toNat 5
  | .iabs d a => place2 0x400000a d.toNat 17 a.toNat 11
  | .ineg d a => place2 0x400000b d.toNat 17 a.toNat 11
  | .iadds d a b => place3 0x400000c d.toNat 17 a.toNat 11 b.toNat 5
  | .isubs d a b => place3 0x400000d d.toNat 17 a.toNat 11 b.toNat 5
  | .iaddsn d a b => place3 0x400000e d.toNat 17 a.toNat 11 b.toNat 5
  | .isubsn d a b => place3 0x400000f d.toNat 17 a.toNat 11 b.toNat 5
  | .ladd d a b => place3 0x4800000 d.toNat 17 a.toNat 11 b.toNat 5
  | .lsub d a b => place3 0x4800001 d.toNat 17 a.toNat 11 b.toNat 5
  | .lmul d a b => place3 0x4800002 d.toNat 17 a.toNat 11 b.toNat 5
  | .lmad d a b => place3 0x4800003 d.toNat 17 a.toNat 11 b.toNat 5
  | .lmin d a b => place3 0x4800004 d.toNat 17 a.toNat 11 b.toNat 5
  | .lmax d a b => place3 0x4800005 d.toNat 17 a.toNat 11 b.toNat 5
  | .lminn d a b => place3 0x4800006 d.toNat 17 a.toNat 11 b.toNat 5
  | .lmaxn d a b => place3 0x4800007 d.toNat 17 a.toNat 11 b.toNat 5
  | .lshl d a b => place3 0x4800008 d.toNat 17 a.toNat 11 b.toNat 5
  | .lshr d a b => place3 0x4800009 d.toNat 17 a.toNat 11 b.toNat 5
  | .lsra d a b => place3 0x480000a d.toNat 17 a.toNat 11 b.toNat 5
  | .lneg d a => place2 0x480000b d.toNat 17 a.toNat 11
  | .labs d a => place2 0x480000c d.toNat 17 a.toNat 11
  | .and d a b => place3 0x5000000 d.toNat 17 a.toNat 11 b.toNat 5
  | .or d a b => place3 0x5000001 d.toNat 17 a.toNat 11 b.toNat 5
  | .xor d a b => place3 0x5000002 d.toNat 17 a.toNat 11 b.toNat 5
  | .andn d a b => place3 0x5000003 d.toNat 17 a.toNat 11 b.toNat 5
  | .orn d a b => place3 0x5000004 d.toNat 17 a.toNat 11 b.toNat 5
  | .xnor d a b => place3 0x5000005 d.toNat 17 a.toNat 11 b.toNat 5
  | .not d a => place2 0x5000006 d.toNat 17 a.toNat 11
  | .shl d a b => place3 0x5000007 d.toNat 17 a.toNat 11 b.toNat 5
  | .shr d a b => place3 0x5000008 d.toNat 17 a.toNat 11 b.toNat 5
  | .sra d a b => place3 0x5000009 d.toNat 17 a.toNat 11 b.toNat 5
  | .rotl d a b => place3 0x500000a d.toNat 17 a.toNat 11 b.toNat 5
  | .rotr d a b => place3 0x500000b d.toNat 17 a.toNat 11 b.toNat 5
  | .popc d a => place2 0x500000c d.toNat 17 a.toNat 11
  | .clz d a => place2 0x500000d d.toNat 17 a.toNat 11
  | .ctz d a => place2 0x500000e d.toNat 17 a.toNat 11
  | .brev d a => place2 0x500000f d.toNat 17 a.toNat 11
  | .bfe d a b => place3 0x5000010 d.toNat 17 a.toNat 11 b.toNat 5
  | .bfes d a b => place3 0x5000011 d.toNat 17 a.toNat 11 b.toNat 5
  | .bfi d a b => place3 0x5000012 d.toNat 17 a.toNat 11 b.toNat 5
  | .bswap d a => place2 0x5000013 d.toNat 17 a.toNat 11
  | .icmp p a b cond => place4 0x5800000 p.toNat 17 a.toNat 11 b.toNat 5 cond.toNat 0
  | .lcmp p a b cond => place4 0x5800010 p.toNat 17 a.toNat 11 b.toNat 5 cond.toNat 0
  | .mov d a => place2 0x6000000 d.toNat 17 a.toNat 11
  | .isel d a b => place3 0x6000001 d.toNat 17 a.toNat 11 b.toNat 5
  | .movs d sr => place2 0x6000002 d.toNat 17 sr.toNat 11
  | .movsw sr b => place2 0x6000003 sr.toNat 11 b.toNat 5
  | .pand p a b => place3 0x6800000 p.toNat 17 a.toNat 11 b.toNat 5
  | .por p a b => place3 0x6800001 p.toNat 17 a.toNat 11 b.toNat 5
  | .pxor p a b => place3 0x6800002 p.toNat 17 a.toNat 11 b.toNat 5
  | .pandn p a b => place3 0x6800003 p.toNat 17 a.toNat 11 b.toNat 5
  | .pnot p a => place2 0x6800004 p.toNat 17 a.toNat 11
  | .pmov p a => place2 0x6800005 p.toNat 17 a.toNat 11
  | .pword d => place1 0x6800006 d.toNat 17
  | .psetw a b => place2 0x6800007 a.toNat 11 b.toNat 5
  | .iaddi d a imm => place3 0x8000000 d.toNat 17 a.toNat 11 imm.toNat 0
  | .andi d a imm => place3 0x8800000 d.toNat 17 a.toNat 11 imm.toNat 0
  | .ori d a imm => place3 0x9000000 d.toNat 17 a.toNat 11 imm.toNat 0
  | .xori d a imm => place3 0x9800000 d.toNat 17 a.toNat 11 imm.toNat 0
  | .shli d a n => place3 0xa000000 d.toNat 17 a.toNat 11 n.toNat 0
  | .shri d a n => place3 0xa000200 d.toNat 17 a.toNat 11 n.toNat 0
  | .srai d a n => place3 0xa000400 d.toNat 17 a.toNat 11 n.toNat 0
  | .icmpi p a cond imm => place4 0xa800000 p.toNat 17 a.toNat 11 cond.toNat 7 imm.toNat 0
  | .movi d imm => place2 0xb000000 d.toNat 17 imm.toNat 0
  | .movhi d imm => place2 0xb800000 d.toNat 17 imm.toNat 0
  | .fadd d a b => place3 0xc000000 d.toNat 17 a.toNat 11 b.toNat 5
  | .fsub d a b => place3 0xc000001 d.toNat 17 a.toNat 11 b.toNat 5
  | .fmul d a b => place3 0xc000002 d.toNat 17 a.toNat 11 b.toNat 5
  | .ffma d a b => place3 0xc000003 d.toNat 17 a.toNat 11 b.toNat 5
  | .ffms d a b => place3 0xc000004 d.toNat 17 a.toNat 11 b.toNat 5
  | .fnfma d a b => place3 0xc000005 d.toNat 17 a.toNat 11 b.toNat 5
  | .fmin d a b => place3 0xc000006 d.toNat 17 a.toNat 11 b.toNat 5
  | .fmax d a b => place3 0xc000007 d.toNat 17 a.toNat 11 b.toNat 5
  | .fabs d a => place2 0xc000008 d.toNat 17 a.toNat 11
  | .fneg d a => place2 0xc000009 d.toNat 17 a.toNat 11
  | .fdiv d a b => place3 0xc00000a d.toNat 17 a.toNat 11 b.toNat 5
  | .fsqrt d a => place2 0xc00000b d.toNat 17 a.toNat 11
  | .frcp d a => place2 0xc00000c d.toNat 17 a.toNat 11
  | .frsq d a => place2 0xc00000d d.toNat 17 a.toNat 11
  | .fexp2 d a => place2 0xc00000e d.toNat 17 a.toNat 11
  | .flog2 d a => place2 0xc00000f d.toNat 17 a.toNat 11
  | .fsinpi d a => place2 0xc000010 d.toNat 17 a.toNat 11
  | .fcospi d a => place2 0xc000011 d.toNat 17 a.toNat 11
  | .fkey d a => place2 0xc000012 d.toNat 17 a.toNat 11
  | .fkeyinv d a => place2 0xc000013 d.toNat 17 a.toNat 11
  | .fcmp p a b cond => place4 0xc800000 p.toNat 17 a.toNat 11 b.toNat 5 cond.toNat 0
  | .dcmp p a b cond => place4 0xc800008 p.toNat 17 a.toNat 11 b.toNat 5 cond.toNat 0
  | .dadd d a b => place3 0xd000000 d.toNat 17 a.toNat 11 b.toNat 5
  | .dsub d a b => place3 0xd000001 d.toNat 17 a.toNat 11 b.toNat 5
  | .dmul d a b => place3 0xd000002 d.toNat 17 a.toNat 11 b.toNat 5
  | .dfma d a b => place3 0xd000003 d.toNat 17 a.toNat 11 b.toNat 5
  | .dmin d a b => place3 0xd000004 d.toNat 17 a.toNat 11 b.toNat 5
  | .dmax d a b => place3 0xd000005 d.toNat 17 a.toNat 11 b.toNat 5
  | .dabs d a => place2 0xd000006 d.toNat 17 a.toNat 11
  | .dneg d a => place2 0xd000007 d.toNat 17 a.toNat 11
  | .ddiv d a b => place3 0xd000008 d.toNat 17 a.toNat 11 b.toNat 5
  | .dsqrt d a => place2 0xd000009 d.toNat 17 a.toNat 11
  | .dkey d a => place2 0xd00000a d.toNat 17 a.toNat 11
  | .hadd2 d a b => place3 0xd800000 d.toNat 17 a.toNat 11 b.toNat 5
  | .hsub2 d a b => place3 0xd800001 d.toNat 17 a.toNat 11 b.toNat 5
  | .hmul2 d a b => place3 0xd800002 d.toNat 17 a.toNat 11 b.toNat 5
  | .hfma2 d a b => place3 0xd800003 d.toNat 17 a.toNat 11 b.toNat 5
  | .hmin2 d a b => place3 0xd800004 d.toNat 17 a.toNat 11 b.toNat 5
  | .hmax2 d a b => place3 0xd800005 d.toNat 17 a.toNat 11 b.toNat 5
  | .hkey2 d a => place2 0xd800006 d.toNat 17 a.toNat 11
  | .badd2 d a b => place3 0xd800010 d.toNat 17 a.toNat 11 b.toNat 5
  | .bsub2 d a b => place3 0xd800011 d.toNat 17 a.toNat 11 b.toNat 5
  | .bmul2 d a b => place3 0xd800012 d.toNat 17 a.toNat 11 b.toNat 5
  | .bfma2 d a b => place3 0xd800013 d.toNat 17 a.toNat 11 b.toNat 5
  | .bmin2 d a b => place3 0xd800014 d.toNat 17 a.toNat 11 b.toNat 5
  | .bmax2 d a b => place3 0xd800015 d.toNat 17 a.toNat 11 b.toNat 5
  | .cvt d a dt sty rm => place5 0xe000000 d.toNat 17 a.toNat 11 dt.toNat 7 sty.toNat 3 rm.toNat 0
  | .fix d a rm scale => place4 0xe800000 d.toNat 17 a.toNat 11 rm.toNat 7 scale.toNat 0
  | .unfix d a rm scale => place4 0xe800400 d.toNat 17 a.toNat 11 rm.toNat 7 scale.toNat 0
  | .lshfl d a b => place3 0x10000000 d.toNat 17 a.toNat 11 b.toNat 5
  | .lvoteany p a => place2 0x10000001 p.toNat 17 a.toNat 11
  | .lvoteall p a => place2 0x10000002 p.toNat 17 a.toNat 11
  | .lballot d a => place2 0x10000003 d.toNat 17 a.toNat 11
  | .lrank d a => place2 0x10000004 d.toNat 17 a.toNat 11
  | .lfirst d a => place2 0x10000005 d.toNat 17 a.toNat 11
  | .bxpos d a b => place3 0x10800000 d.toNat 17 a.toNat 11 b.toNat 5
  | .bxcnt d a b => place3 0x10800001 d.toNat 17 a.toNat 11 b.toNat 5
  | .bmerge d a b => place3 0x10800002 d.toNat 17 a.toNat 11 b.toNat 5
  | .bmpre d a b => place3 0x10800003 d.toNat 17 a.toNat 11 b.toNat 5
  | .ld d cap x size hint f => place6 0x14000000 d.toNat 17 cap.toNat 13 x.toNat 7 size.toNat 4 hint.toNat 1 f.toNat 0
  | .st d cap x size rule f => place6 0x14800000 d.toNat 17 cap.toNat 13 x.toNat 7 size.toNat 4 rule.toNat 1 f.toNat 0
  | .fadr d cap x size f => place5 0x15000006 d.toNat 17 cap.toNat 13 x.toNat 7 size.toNat 4 f.toNat 0
  | .movb d bi => place2 0x15800000 d.toNat 17 bi.toNat 12
  | .stb d bi rule f => place4 0x15800800 d.toNat 17 bi.toNat 12 rule.toNat 8 f.toNat 7
  | .capsub d a b => place3 0x16000000 d.toNat 17 a.toNat 11 b.toNat 5
  | .capperm d a b => place3 0x16000001 d.toNat 17 a.toNat 11 b.toNat 5
  | .capget d a sel => place3 0x16000002 d.toNat 17 a.toNat 11 sel.toNat 5
  | .captag p a => place2 0x16000003 p.toNat 17 a.toNat 11
  | .capmint d a => place2 0x16000004 d.toNat 17 a.toNat 11
  | .tld d cap x => place3 0x16800000 d.toNat 17 cap.toNat 13 x.toNat 7
  | .tst d cap x rule f => place5 0x16800040 d.toNat 17 cap.toNat 13 x.toNat 7 rule.toNat 3 f.toNat 2
  | .tnext d a cap => place3 0x17000000 d.toNat 17 a.toNat 11 cap.toNat 5
  | .tcount d cap => place2 0x17000001 d.toNat 17 cap.toNat 5
  | .cp d dst src x size => place5 0x18000000 d.toNat 17 dst.toNat 13 src.toNat 9 x.toNat 3 size.toNat 1
  | .cpt d a b => place3 0x18800000 d.toNat 17 a.toNat 11 b.toNat 5
  | .cpd d a b => place3 0x18800001 d.toNat 17 a.toNat 11 b.toNat 5
  | .cps d a b => place3 0x18800002 d.toNat 17 a.toNat 11 b.toNat 5
  | .gath d a b => place3 0x18800003 d.toNat 17 a.toNat 11 b.toNat 5
  | .scat d a b => place3 0x18800004 d.toNat 17 a.toNat 11 b.toNat 5
  | .mmb d a b => place3 0x18800005 d.toNat 17 a.toNat 11 b.toNat 5
  | .mma d a b => place3 0x18800006 d.toNat 17 a.toNat 11 b.toNat 5
  | .mmd d a b => place3 0x18800007 d.toNat 17 a.toNat 11 b.toNat 5
  | .mmz d a b => place3 0x18800008 d.toNat 17 a.toNat 11 b.toNat 5
  | .lease d a b => place3 0x18800009 d.toNat 17 a.toNat 11 b.toNat 5
  | .unlease d a b => place3 0x1880000a d.toNat 17 a.toNat 11 b.toNat 5
  | .digest d a b => place3 0x1880000b d.toNat 17 a.toNat 11 b.toNat 5
  | .rcp d a b => place3 0x1880000c d.toNat 17 a.toNat 11 b.toNat 5
  | .rsplit d a b => place3 0x1c000000 d.toNat 17 a.toNat 11 b.toNat 5
  | .rmerge d a b => place3 0x1c000001 d.toNat 17 a.toNat 11 b.toNat 5
  | .rinval d a b => place3 0x1c000002 d.toNat 17 a.toNat 11 b.toNat 5
  | .rres d a b => place3 0x1c000003 d.toNat 17 a.toNat 11 b.toNat 5
  | .rmove d a b => place3 0x1c000004 d.toNat 17 a.toNat 11 b.toNat 5
  | .bankmode d a b => place3 0x1c000005 d.toNat 17 a.toNat 11 b.toNat 5
  | .rgkill d a b => place3 0x1c000006 d.toNat 17 a.toNat 11 b.toNat 5
  | .rgreset d a b => place3 0x1c000007 d.toNat 17 a.toNat 11 b.toNat 5
  | .rgresume d a b => place3 0x1c000008 d.toNat 17 a.toNat 11 b.toNat 5
  | .rgpri d a b => place3 0x1c000009 d.toNat 17 a.toNat 11 b.toNat 5
  | .rgbud d a b => place3 0x1c00000a d.toNat 17 a.toNat 11 b.toNat 5
  | .fret d a b => place3 0x1c00000b d.toNat 17 a.toNat 11 b.toNat 5
  | .snap d a b => place3 0x1c00000c d.toNat 17 a.toNat 11 b.toNat 5
  | .wdarm d a b => place3 0x1c00000d d.toNat 17 a.toNat 11 b.toNat 5
  | .snew d a b => place3 0x1c00000e d.toNat 17 a.toNat 11 b.toNat 5
  | .sgrow d a b => place3 0x1c00000f d.toNat 17 a.toNat 11 b.toNat 5
  | .gcfg d a b => place3 0x1c000010 d.toNat 17 a.toNat 11 b.toNat 5
  | .launch d a b => place3 0x1c800000 d.toNat 17 a.toNat 11 b.toNat 5
  | _ => 0

/-- A word with its chain bit and stall count (R70). -/
def encodeWord (chain : Bool) (stall : BitVec 2) (i : Instr) : Nat :=
  (if chain then 2 ^ 31 else 0) + stall.toNat * 2 ^ 29 + encodeBody i

/-- The modifier word (R83). -/
def encodeMods (m : Mods) : Nat :=
  2 ^ 31 + 2 ^ 23 + (if m.gn then 2 ^ 22 else 0) + m.gq.toNat * 2 ^ 18 + m.pa.toNat * 2 ^ 13 + m.pb.toNat * 2 ^ 8
    + m.c.toNat * 2 ^ 2 + m.kind.toNat

/-- The bytes of a word as they stand in memory (R66). -/
def encode (chain : Bool) (stall : BitVec 2) (i : Instr) : List Byte := leBytes 4 (encodeWord chain stall i)

end Sys2Proof
end

