-- ==== Sys2Proof/Machine/State.lean ====
section
/-! DEFINITION. The state of the ISF-1248 (INVENTORY.md, State): plain data, every piece the spec gives the machine,
and its value after reset. Field docstrings name the rule. -/

namespace Sys2Proof.Machine

/-- Why a step stops. -/
inductive Fault where
  /-- Raised by `step` alone, when the model's own record of the packet being issued names a launch or block that does
  not exist. No run from reset reaches it; it is no behaviour of the device. Safe. -/
  | corruptIssue
  deriving DecidableEq, Repr, Inhabited

/-- Why an instruction has no meaning. -/
inductive Refusal where
  /-- Raised by an arm of `exec` whose instruction is not modelled; carries its mnemonic. Safe. -/
  | notModelled (mnemonic : String)
  deriving DecidableEq, Repr, Inhabited

/-- Memory: the listed bytes, addresses strictly rising, none equal to what an unlisted address reads as (log 5). -/
abbrev Memory := List Host.Cell

/-- The fault codes (R98). -/
inductive FaultCode where
  | illegalOpcode | illegalField | lineHeader | target | privilege | regWindow | stallShort | journalFull
  | pendingRound | capTag | capBounds | capPerm | misaligned | rangeMiss | rangePerm | partialResidency
  | ownership | engineHazard | collision | indexExhausted | sparseCoord | memUncorrectable | format | fabric
  | watchdog | trapCode | breakCode | doubleTrap
  deriving DecidableEq, Repr, Inhabited

/-- The code numbers of R98. -/
def FaultCode.num : FaultCode → Nat
  | .illegalOpcode => 0x01 | .illegalField => 0x02 | .lineHeader => 0x03 | .target => 0x04
  | .privilege => 0x05 | .regWindow => 0x06 | .stallShort => 0x07 | .journalFull => 0x08
  | .pendingRound => 0x09 | .capTag => 0x0A | .capBounds => 0x0B | .capPerm => 0x0C
  | .misaligned => 0x0D | .rangeMiss => 0x0E | .rangePerm => 0x0F | .partialResidency => 0x10
  | .ownership => 0x11 | .engineHazard => 0x12 | .collision => 0x13 | .indexExhausted => 0x14
  | .sparseCoord => 0x15 | .memUncorrectable => 0x16 | .format => 0x17 | .fabric => 0x18
  | .watchdog => 0x19 | .trapCode => 0x1A | .breakCode => 0x1B | .doubleTrap => 0x1C

/-- The trap registers of a fibre (R349). -/
structure TrapRegs where
  mode   : Bool
  epc    : Word
  ecause : Word
  einfo0 : Word
  einfo1 : Word
  deriving DecidableEq, Repr, Inhabited

/-- Where a fibre stands (R22, R352). -/
inductive FStatus where
  | running
  | atStop
  /-- at `rstop`, executed in this step of the block -/
  | atRstop (step : Nat)
  /-- parked with this fault code -/
  | parked (code : Nat)
  /-- exited in this step of the block -/
  | exited (step : Nat)
  deriving DecidableEq, Repr, Inhabited

/-- How a fibre came to its packet (R69). -/
inductive Arrival where
  /-- by falling through from the packet at this code offset -/
  | fall (origin : Nat)
  /-- by a control transfer; `origin` is info0 of a TARGET fault -/
  | transfer (origin : Nat)
  /-- by `tret`, `fret` or a step's resumption, which check no target bit -/
  | resume
  deriving DecidableEq, Repr, Inhabited

/-- A register value on its way: a load's data (R201) or another scoreboarded result. -/
structure PendLoad where
  regs : List (Nat × Word)
  /-- the tag a 128-bit load sets: quad and tag (R194) -/
  tag  : Option (Nat × Bool)
  /-- the line its miss register fetches (R218), if it has one: `[p]` a physical line, `[launch, block, n]` a line of scratch,
  `[launch, block, fibre, n]` a line of private memory -/
  line : List Nat
  /-- the core that issued it, whose miss register it holds -/
  core : Nat
  /-- the virtual address it reads in global memory, and the cycle of its issue (R300) -/
  va   : Option Nat
  issued : Nat
  /-- the cycle from which its data may land (R201, R217); memory's own time is left out (log 8) -/
  due  : Nat
  deriving DecidableEq, Repr, Inhabited

/-- A pending `fadr` destination (R55). -/
structure PendFadr where
  reg   : Nat
  wide  : Bool
  /-- true at round scope -/
  round : Bool
  /-- position in the fibre's issue order, which names its contribution -/
  seq   : Nat
  /-- issued in this step of the block -/
  step  : Nat
  /-- the result, once its round has combined but the commit is held (R281) -/
  got   : Option Nat
  deriving DecidableEq, Repr, Inhabited

/-- A pending token (R238). -/
structure PendTok where
  reg  : Nat
  cmd  : Nat
  step : Nat
  deriving DecidableEq, Repr, Inhabited

/-- A four-cycle result that cannot be read yet (R76): register or predicate (64 + q), first cycle, value before. -/
structure Fresh where
  reg   : Nat
  ready : Nat
  old   : Word
  deriving DecidableEq, Repr, Inhabited

/-- What a control word, or a misaligned access taken by the trap-routine path, does once the packet's last chain has
issued (R74, R204). -/
inductive CtlAct where
  /-- continue at this code offset (R124, R125) -/
  | jump (dest : Nat)
  | stop
  | rstop (gate : Option Nat)
  | exit
  /-- `trap` and `brk`: the fault and its info word (R126) -/
  | trap (code : FaultCode) (info0 : Nat)
  | tret
  /-- a misaligned access: its info words (R204) -/
  | misaligned (info0 info1 : Nat)
  deriving DecidableEq, Repr, Inhabited

/-- A fibre (R14, R363). -/
structure Fibre where
  /-- block-local id (R14) -/
  id     : Nat
  /-- home group and lane (R15) -/
  group  : Nat
  lane   : Nat
  /-- v0 to v63; a launch uses the first W (R14) -/
  regs   : List Word
  /-- tag of each capability quad (R192) -/
  tags   : BitVec 16
  /-- the predicate word; bit 0 is kept 1 (R14) -/
  preds  : BitVec 16
  /-- code offset of the packet (R121) and the chain at which it resumes (R352) -/
  pc     : Nat
  chain  : Nat
  arrival : Arrival
  status : FStatus
  /-- step journal: step-start values of the registers written in the step (R30) -/
  journal : List (Nat × Word)
  jpreds  : Option (BitVec 16)
  /-- tags at step start -/
  startTags : BitVec 16
  /-- step-start values of registers that a token or load of an earlier step changed in this step (R238, R29) -/
  late   : List (Nat × Word)
  trap   : TrapRegs
  /-- step-start copy of the trap registers, saved at the step's first change (R349) -/
  trapSaved : Option TrapRegs
  /-- the latch of `clock` (R145) -/
  clockh : Word
  /-- private memory, newest and as the step began (R199) -/
  privMem   : List Host.Cell
  privStart : List Host.Cell
  /-- poisoned lines of it (R360) -/
  privPoison : List Nat
  /-- nibbles of it that the fibre has stored to in the step (R230) -/
  privNibs : List Nat
  loads  : List PendLoad
  fadrs  : List PendFadr
  tokens : List PendTok
  /-- q15 pending after `spawn` (R36) -/
  spawnPending : Bool
  fresh  : List Fresh
  /-- scoreboarded results of fixed latency (R76, R176): register or predicate (64 + q), and the first cycle in which it can be read -/
  busy   : List (Nat × Nat)
  /-- the cycle in which the fibre ended its step (R322) -/
  endAt  : Nat
  /-- parked by an engine hazard at the `rstop` that it executed in this step of the block, where it is again once resumed (R27,
  R353) -/
  rstopAt : Option Nat
  /-- a control word that waits for the end of the packet, with the word and its position (R74) -/
  ctl    : Option (CtlAct × Nat × Nat)
  /-- where the fibre began the step (R362) -/
  startPc : Nat
  startArrival : Arrival
  /-- it was waiting at an earlier `rstop`, or had exited, when the step began -/
  startStatus : FStatus
  /-- next position in the fibre's issue order (R45) -/
  seq    : Nat
  deriving DecidableEq, Repr, Inhabited

/-- A contribution's key: block, fibre, position in its issue order, position within a command (R20, R45, R242).
Remote contributions sort above, by sender (R392). -/
structure CKey where
  remote : Nat
  block  : Nat
  fibre  : Nat
  seq    : Nat
  sub    : Nat
  deriving DecidableEq, Repr, Inhabited

/-- What a contribution writes to (R45). -/
inductive CSpace where
  | scratch
  | breg
  | global
  /-- a sparse region, by number -/
  | sparse (region : Nat)
  deriving DecidableEq, Repr, Inhabited

/-- A contribution (R45). -/
structure Contrib where
  space : CSpace
  /-- scratch offset, register number, virtual address or sparse key -/
  addr  : Nat
  /-- bytes; a nibble store has size 1 and `nib` -/
  size  : Nat
  /-- nibble of the byte: 0 or 1 -/
  nib   : Option Nat
  value : Nat
  /-- a tagged 128-bit value (R47) -/
  tag   : Bool
  rule  : Nat
  flt   : Bool
  key   : CKey
  /-- through a write-only capability (R61) -/
  wo    : Bool
  /-- physical address it translated to (R300); 0 outside global memory -/
  phys  : Nat
  /-- the fibre's `fadr` destination (R54) -/
  dest  : Option (Nat × Bool)
  /-- start value of its element as it reached the home slice (R59) -/
  opened : Nat
  /-- cycle of its issue (R300); in a round log that of its arrival (R232) -/
  issued : Nat
  deriving DecidableEq, Repr, Inhabited

/-- A spawn request (R34, R35). -/
structure SpawnReq where
  fibre  : Nat
  seq    : Nat
  /-- one execution of `spawn`: the home group and the cycle tell executions apart (R34) -/
  group  : Nat
  exec   : Nat
  target : Nat
  origin : Nat
  regs   : List Word
  tag0   : Bool
  tag1   : Bool
  deriving DecidableEq, Repr, Inhabited

/-- An engine, supervisor or launch word recorded in the step buffer (R259, R310, R381), and `cp` (R263). -/
structure CmdReq where
  id    : Nat
  instr : Instr
  fibre : Nat
  seq   : Nat
  /-- fibres that receive the token, each with its register -/
  dests : List Nat
  reg   : Nat
  /-- the parameter-block capability as 128 bits, and the offset -/
  cap   : Nat
  off   : Nat
  gate  : Option Nat
  /-- lanes of a `cp`: fibre, destination and source capability, byte offsets -/
  lanes : List (Nat × Nat × Nat × Nat × Nat)
  deriving DecidableEq, Repr, Inhabited

/-- One output of an engine command: bytes to write at an address of a space. -/
structure OutLine where
  /-- 0 memory (virtual address), 1 scratch of the command's block -/
  scratch : Bool
  addr    : Nat
  /-- bytes with a mask: absent bytes are not written -/
  bytes   : List (Option Byte)
  /-- a tagged 16-byte value -/
  tag     : Bool
  /-- the command's progress, in its token's unit, once this line is written (R256, R257) -/
  done    : Nat
  /-- source bytes that must have been read before it can be written (R241) -/
  need    : Nat
  deriving DecidableEq, Repr, Inhabited

/-- A protected range (R240): scratch or virtual, first byte, length; or a sparse region. -/
inductive Protect where
  | bytes (scratch : Bool) (lo len : Nat)
  | region (num : Nat)
  deriving DecidableEq, Repr, Inhabited

/-- A fault record (R343), but for its timestamp. -/
structure FRec where
  code   : Nat
  cls    : Nat
  cohort : Nat
  block  : Nat
  rcb    : Nat
  frag   : Nat
  sib    : Nat
  launch : Nat
  pc     : Nat
  step   : Nat
  round  : Nat
  info0  : Nat
  info1  : Nat
  deriving DecidableEq, Repr, Inhabited

/-- Where a command stands. -/
inductive CmdPhase where
  /-- a matrix command in its core's staging or in its port's queue (R253, R255), or a `launch` word whose child runs
  (R326) -/
  | staged
  | running
  /-- stopped at a resumable point by a quiesce or the region path (R256, R344) -/
  | held
  /-- everything is done; the token has still to land -/
  | finished
  deriving DecidableEq, Repr, Inhabited

/-- A command in flight (R236 to R257, R310, R326). -/
structure Cmd where
  id     : Nat
  instr  : Instr
  launch : Nat
  block  : Nat
  fibre  : Nat
  seq    : Nat
  dests  : List Nat
  reg    : Nat
  gate   : Option Nat
  /-- the parameter block's bytes as read at dispatch -/
  params : List Byte
  /-- space and address of the parameter block (output lines go there for `lease`, `snew`) -/
  capBase : Nat
  capScratch : Bool
  capLen  : Nat
  capVal  : Nat
  lanes  : List (Nat × Nat × Nat × Nat × Nat)
  phase  : CmdPhase
  /-- units done: lines, blocks, positions, rows (R256) -/
  progress : Nat
  /-- source bytes read so far, for the copy and digest engines -/
  buf    : List Byte
  /-- outputs computed and not yet written, oldest first -/
  outs   : List OutLine
  /-- output lines written so far, of a command that writes while it reads (R241) -/
  written : Nat
  /-- virtual ranges, first byte and length, whose accesses of before the command its token waits for (R300) -/
  drain  : List (Nat × Nat)
  /-- the fault of the first node that a `cpd` could not read, met once the lines before it are written (R257) -/
  stop   : Option (FaultCode × Nat)
  /-- commands whose tokens land before its own (R345) -/
  after  : List Nat
  /-- lines of the launch's own round commits that have landed since its dispatch: the physical line and the bytes the command's
  source still shows there (R248, R401) -/
  before : List (Nat × List (Option Byte))
  /-- granules that become free as its token lands (R302) -/
  frees  : List Nat
  count  : Nat
  status : Nat
  protect : List Protect
  /-- launch number of a `launch` word's child (R326) -/
  child  : Option Nat
  /-- matrix port holdings: the port number, when it has one -/
  port   : Option Nat
  /-- cycle of its dispatch (R255) -/
  since  : Nat
  /-- the block was terminated or the fibre's token is to be discarded (R238) -/
  discard : Bool
  deriving DecidableEq, Repr, Inhabited

/-- A home group's placement (R15, R36, R334). -/
structure Group where
  index : Nat
  /-- earliest cycle of its next chain (R75) -/
  ready : Nat
  /-- cycles by which stall counts of `nop` chains push it out further, from its earliest cycle on (R75) -/
  pad   : Nat
  /-- bound to a core's context -/
  bound : Bool
  core  : Nat
  context : Nat
  /-- window base in 2 KiB units and its generation (R334, R364) -/
  wbase : Nat
  gen   : Nat
  deriving DecidableEq, Repr, Inhabited

/-- Where a block stands. -/
inductive BStatus where
  | waiting
  | bound
  | unbound
  /-- ended by the block path (R357) -/
  | terminated
  deriving DecidableEq, Repr, Inhabited

/-- A block (R18, R205). -/
structure Block where
  index  : Nat
  step   : Nat
  fibres : List Fibre
  groups : List Group
  bregs  : List Word
  scratch : List Host.Cell
  /-- 16-byte locations of scratch that hold a tag (R47) -/
  scratchTags : List Nat
  spawnLeft : Nat
  /-- the step buffer (R45, R132, R135, R259) -/
  contribs : List Contrib
  gadds    : List (Nat × Nat × Nat × Nat)
  spawns   : List SpawnReq
  reqs     : List CmdReq
  /-- for each gate of the launch, the counts it has held since the step began (R40) -/
  gateSeen : List (List Nat)
  /-- writes of `ltol` in the step: fibre, issue order, value (R2, R380) -/
  ltols    : List (Nat × Nat × Nat)
  /-- gates named by gated `rstop` of this step (R131), with the fibre -/
  named    : List (Nat × Nat)
  /-- scatter contributions into scratch waiting for a step commit (R250) -/
  heldScat : List Contrib
  /-- scratch lines written by engines, visible from the next step commit (R239) -/
  heldLines : List OutLine
  status : BStatus
  waitStart : Nat
  bindOrder : Nat
  /-- cycle of the last commit, bind or resume (R344) -/
  lastCommit : Nat
  /-- end of the grace period of a pre-emption (R333) -/
  graceEnd : Option Nat
  /-- physical core of its logical core and the number of cores it lies on (R335) -/
  core   : Nat
  cores  : Nat
  /-- granules of its step-spill area in tenant memory (R231), and the entries of the step there that hold an uncorrectable error
  (R360) -/
  area   : List Nat
  bufPoison : List SpillEntry
  deriving DecidableEq, Repr, Inhabited

/-- An outside write of the round (R59, R226): a line's bytes before it, and the cores that have returned the new ones. -/
structure Stale where
  /-- physical line number -/
  line : Nat
  old  : List Byte
  seen : List Nat
  deriving DecidableEq, Repr, Inhabited

/-- Why a launch waits at a round boundary (R281, R358). -/
inductive Hold where
  | none
  /-- collision, format, memory error: the commit has landed and the round counter waits -/
  | boundary
  /-- the commit of a sparse region lacks nodes (R281); `also`: another launch-path fault holds the round counter too -/
  | pool (region : Nat) (also : Bool)
  /-- lines of the commit are still to land (R56); the region that lacks nodes, if one does, and whether a launch-path fault holds
  the round counter -/
  | landing (region : Option Nat) (held : Bool)
  /-- the final round has committed; the token is still to be written (R28) -/
  | final
  deriving DecidableEq, Repr, Inhabited

/-- A lease (R229, R274): number, base, length, the round at whose commit it ends. -/
structure Lease where
  num  : Nat
  base : Nat
  len  : Nat
  last : Option Nat
  deriving DecidableEq, Repr, Inhabited

/-- The tree a launch has latched for its round (R289). -/
structure Latch where
  region  : Nat
  root    : Nat
  pub     : Nat
  entries : Nat
  deriving DecidableEq, Repr, Inhabited

/-- A fault recorded for a launch (R28, R345): its code, the fibres that park by it (block and fibre), and whether the launch's
token must carry it. -/
structure FaultNote where
  code   : Nat
  fibres : List (Nat × Nat)
  counts : Bool
  deriving DecidableEq, Repr, Inhabited

/-- A launch-path record that waits for the lines of its commit to land (R358): code and info words. -/
structure LaunchNote where
  code  : FaultCode
  info0 : Nat
  info1 : Nat
  deriving DecidableEq, Repr, Inhabited

/-- A launch (R19, R324). -/
structure Launch where
  id       : Nat
  tenant   : Nat
  /-- key of its region (R324): the control block's address and the tenant -/
  rcb      : Nat
  codebase : Nat
  codelen  : Nat
  entry    : Nat
  trapvec  : Nat
  nblocks  : Nat
  blockdim : Nat
  spawns   : Nat
  window   : Nat
  gates    : Nat
  scratchSize : Nat
  privSize : Nat
  gatebase : Nat
  gateslice : Nat
  det      : Bool
  sup      : Bool
  check    : Bool
  constbase : Nat
  database : Nat
  datalen  : Nat
  spillbase : Nat
  spilllen : Nat
  sparse   : Nat
  /-- the round counter (R25) -/
  round    : Nat
  blockList : List Block
  /-- in the order of arrival -/
  roundLog : List Contrib
  /-- contributions to sparse regions that a commit could not apply (R281) -/
  heldLog  : List Contrib
  /-- lines of a commit that have still to land, and the cycle of the last landing (R56) -/
  landing  : List (Nat × List (Option Byte))
  landAt   : Nat
  /-- the constant block's 1,024 bytes as the launch found them (R29) -/
  consts   : List Byte
  /-- granules by which the firmware has extended the spill range (R233) -/
  spillExt : List Nat
  /-- bytes written write-only in the round (virtual addresses), and the second writes (R61, R234) -/
  woBytes  : List Nat
  woSecond : List Contrib
  named    : List Nat
  stale    : List Stale
  /-- physical lines whose round-log entry holds an uncorrectable error (R360) -/
  logPoison : List Nat
  /-- 128-byte pieces of sparse regions' elements whose round-log entry does: region and piece (R360) -/
  sparsePoison : List (Nat × Nat)
  hold     : Hold
  /-- launch-path records of the commit that is landing (R358) -/
  notes    : List LaunchNote
  /-- killed, and ended with this code once its commands stand at resumable points (R345) -/
  dying    : Option Nat
  /-- faults in the order recorded (R28, R345) -/
  faults   : List FaultNote
  /-- regions whose pool an `sgrow` has grown since the commit was held (R281) -/
  grown    : List Nat
  suspended : Bool
  ended    : Bool
  latched  : List Latch
  leases   : List Lease
  /-- the command that waits for its token: its number (R326) -/
  parent   : Option Nat
  deriving DecidableEq, Repr, Inhabited

/-- What a debugger's attachment is (R351). -/
structure Debug where
  launch : Nat
  deriving DecidableEq, Repr, Inhabited

/-- A live region with the fields the firmware latched (R328, R329). -/
structure Region where
  /-- address of the control block, and the tenant above bit 47; the parent's alike, or 0 -/
  rcb      : Nat
  parent   : Nat
  tenant   : Nat
  regionid : Nat
  prio     : Nat
  depth    : Nat
  inherit  : Nat
  cores    : Nat
  banks    : Nat
  mehalves : Nat
  copyshare : Nat
  timeslice : Nat
  watchdog : Nat
  handler  : Nat
  hgate    : Nat
  hslice   : Nat
  domain   : Nat
  /-- killed since its last `rgreset`, with the code R345 gives -/
  killed   : Bool
  /-- code of the first record that names it since the last `rgreset` -/
  firstRecord : Option Nat
  suspended : Bool
  /-- the `WATCHDOG` record that waits for the region's engine commands to stop (R344) -/
  due      : Option FRec
  dbg      : Option Debug
  /-- latency tolerance as the firmware sees it, and as `movs` returns it: the value of the last committed step (R2, R380) -/
  ltol     : Nat
  ltolSeen : Nat
  /-- the firmware's own state of bytes 80 to 255: cores and banks held, oldest wait start, effective priority (R328) -/
  useCores : Nat
  useBanks : Nat
  waitSince : Nat
  effPrio  : Nat
  deriving DecidableEq, Repr, Inhabited

/-- A sparse region's share of the state outside memory (R284 to R291, R312). -/
structure Sparse where
  /-- region number, and the tenant above bit 15 -/
  num     : Nat
  tenant  : Nat
  /-- physical address of the descriptor -/
  desc    : Nat
  /-- nodes of the published tree -/
  used    : List Nat
  /-- retired nodes, each with the launches that have passed a round commit since the swap (R291) -/
  retired : List (Nat × List Nat)
  holders : List Nat
  /-- end of the range that held the pool at creation: physical (R314) -/
  poolLimit : Nat
  deriving DecidableEq, Repr, Inhabited

/-- A gate (R37) of a tenant's twelve logical slices (R398). A gate of no launch is in the free pool (R367). -/
structure Gate where
  tenant : Nat
  slice  : Nat
  index  : Nat
  count  : Nat
  thresh : Nat
  pod    : Bool
  host   : Bool
  remote : Bool
  launch : Nat
  deriving DecidableEq, Repr, Inhabited

/-- A resident B tile of a matrix port (R266). -/
structure BTile where
  n      : Nat
  kb     : Nat
  fmt    : Nat
  /-- elements and exponents as bytes, column by column (R213) -/
  elems  : List Byte
  exps   : List Byte
  deriving DecidableEq, Repr, Inhabited

/-- The content of a port that is saved and restored for a region (R255, R363). -/
structure PortCtx where
  region : Nat
  whole  : Bool
  btile  : Option BTile
  /-- words of the eight slots: index (slot × 16 + row) × 1,024 + column, those that are not 0 -/
  words  : List (Nat × Nat)
  deriving DecidableEq, Repr, Inhabited

/-- A matrix-engine port (R251): 2 × logical cluster + half. -/
structure Port where
  num    : Nat
  /-- the physical port that serves it, and whether its content is there now; otherwise it is kept as engine context (R399, R400) -/
  host   : Nat
  loaded : Bool
  /-- region that holds it (its RCB) -/
  holder : Option Nat
  /-- loaded whole: port A serves both halves -/
  whole  : Bool
  btile  : Option BTile
  words  : List (Nat × Nat)
  /-- queued commands, oldest first (R253) -/
  queue  : List Nat
  /-- performance counters (R251): rows granted, steps and commands -/
  perfRows  : Nat
  perfSteps : Nat
  perfCmds  : Nat
  saved  : List PortCtx
  deriving DecidableEq, Repr, Inhabited

/-- The modes of a core-store bank (R220). -/
inductive BankMode where
  | reg
  | scr
  | cache
  deriving DecidableEq, Repr, Inhabited

/-- A line of a core's CACHE banks (R224, R225): its line number, that of the physical line or of a fibre's private memory with
the fibre (launch, block, fibre), and whether it is kept across round commits (an RO fill). -/
structure CacheLine where
  line : Nat
  ro   : Bool
  own  : Option (Nat × Nat × Nat)
  deriving DecidableEq, Repr, Inhabited

/-- A range-table entry (R294). -/
structure RangeEntry where
  gen    : Nat
  tenant : Nat
  part   : Bool
  space  : Nat
  perm   : Nat
  pbase  : Nat
  limit  : Nat
  vbase  : Nat
  bitmap : Nat
  /-- the bitmap word cached with the entry: its number and its 64 bits (R297) -/
  word   : Option (Nat × Nat)
  deriving DecidableEq, Repr, Inhabited

/-- A cohort context (R15, R334). -/
structure Context where
  num    : Nat
  launch : Nat
  block  : Nat
  group  : Nat
  /-- bind order, raised when the context becomes the youngest (R123, R319) -/
  age    : Nat
  gen    : Nat
  /-- the SCR banks and the window base of its bind record (R334) -/
  banks  : Nat
  wbase  : Nat
  /-- consecutive cycles it has issued (R340), 0 after a demotion (R319), and the last of them -/
  streak : Nat
  last   : Nat
  deriving DecidableEq, Repr, Inhabited

/-- A bind record (R334). -/
structure BindRecord where
  valid   : Bool
  gen     : Nat
  banks   : Nat
  wbase   : Nat
  wsize   : Nat
  lslot   : Nat
  bslot   : Nat
  context : Nat
  group   : Nat
  op      : Nat
  zero    : Nat
  deriving DecidableEq, Repr, Inhabited

/-- An entry of a core's block table: the block, and the SCR banks that hold its scratch lines there (R223, R334). -/
structure BlockSlot where
  entry  : Nat
  launch : Nat
  block  : Nat
  banks  : Nat
  deriving DecidableEq, Repr, Inhabited

/-- A physical core (R220, R294, R318, R321, R334). -/
structure Core where
  num    : Nat
  banks  : List BankMode
  cache  : List CacheLine
  ranges : List RangeEntry
  /-- code lines held: launch and line number, most recently used last (R321) -/
  code   : List (Nat × Nat)
  policy : IssuePolicy
  contexts : List Context
  /-- the context that issued last on each slot (R320) -/
  lastIssued : List (Nat × Nat)
  /-- the cycle of each slot's last issue (R318) -/
  slotAt : List (Nat × Nat)
  nextAge : Nat
  pitch  : List BindRecord
  pitchAt : Nat
  /-- launch table: entry and launch; and block table (R334) -/
  launchTable : List (Nat × Nat)
  blockTable  : List BlockSlot
  failed : Bool
  spare  : Bool
  /-- logical cores it hosts (R399) -/
  hosts  : List Nat
  /-- the last generation given to a window area, by its base in units (R364) -/
  areas  : List (Nat × Nat)
  /-- the cycle since which each region has held it (R333) -/
  sliceSince : List (Nat × Nat)
  deriving DecidableEq, Repr, Inhabited

/-- The power states (R411). -/
inductive PState where
  | d0
  | c1
  | c2
  | c3
  deriving DecidableEq, Repr, Inhabited

/-- A move of the compactor that has swapped its range and waits for the accesses of before (R300, R302): tenant, cycle, the range's
first unit and end, and the source granules. -/
structure Drain where
  tenant : Nat
  since  : Nat
  lo     : Nat
  hi     : Nat
  frees  : List Nat
  deriving DecidableEq, Repr, Inhabited

/-- A load whose result is decided or discarded while its line is still on its way: the core and its miss register's line (R218),
the window area with the generation of its write (R364), the tenant and address it reads, and the cycles of its issue and of the
line's arrival (R300). -/
structure Stray where
  core   : Nat
  line   : List Nat
  base   : Nat
  gen    : Nat
  tenant : Nat
  va     : Option Nat
  issued : Nat
  due    : Nat
  deriving DecidableEq, Repr, Inhabited

/-- A slice (R303, R411, R414). -/
structure Slice where
  num     : Nat
  /-- compactor threshold and its move in flight: tenant, range start and new base in units (R303) -/
  threshold : Nat
  moving  : Option (Nat × Nat × Nat)
  draining : Option Drain
  power   : PState
  deriving DecidableEq, Repr, Inhabited

/-- A tenant (R295, R396). -/
structure Tenant where
  num    : Nat
  first  : Nat
  slices : Nat
  /-- physical base of the range directory, n and the firmware's capacity (R295, R317) -/
  dir    : Nat
  ndir   : Nat
  cap    : Nat
  deriving DecidableEq, Repr, Inhabited

/-- An export entry (R389). -/
structure Export where
  base   : Nat
  len    : Nat
  sender : Nat
  tenant : Nat
  launch : Nat
  gate   : Nat
  gslice : Nat
  window : Nat
  deriving DecidableEq, Repr, Inhabited

/-- An import entry (R390) under its object id. -/
structure Import where
  objid  : Nat
  len    : Nat
  module : Nat
  window : Nat
  deriving DecidableEq, Repr, Inhabited

/-- The pod barrier group of this module and its own counter in the network (R385, R393). -/
structure Pod where
  tag     : Nat
  members : List Nat
  count   : Nat
  deriving DecidableEq, Repr, Inhabited

/-- What leaves the module over Guyline (R273, R387). -/
inductive FabricMsg where
  /-- a line with the sender's contribution key: block, fibre, issue position (R242, R392) -/
  | line (dest window off : Nat) (bytes : List Byte) (acc : Bool) (size cmd : Nat) (key : Nat × Nat × Nat)
  | arrival (dest window : Nat)
  /-- the acknowledgement of received lines, or of their failure (R391) -/
  | ack (dest xfer : Nat) (ok : Bool)
  | pod (amount : Nat)
  deriving DecidableEq, Repr, Inhabited

/-- A Guyline port (R388). -/
structure GuyPort where
  num   : Nat
  up    : Bool
  /-- consecutive retries, and every retry recorded -/
  streak : Nat
  retries : Nat
  deriving DecidableEq, Repr, Inhabited

/-- What snapshot registers record besides. -/
inductive LogEntry where
  /-- a gate arrival dropped: tenant, logical slice and index (R38) -/
  | dropped (tenant slice index : Nat)
  | skippedBind (core index : Nat)
  | killed (rcb code : Nat)
  /-- the machine path: its record (R359) -/
  | machine (rec : FRec)
  | hostDrop (off : Nat)
  | dmaDrop (port addr : Nat)
  | portDown (port : Nat)
  | retry (port : Nat)
  | rcpFail (port window : Nat)
  /-- a correctable error in a snapshot unit's storage (R360) -/
  | correctable (unit : Nat)
  /-- the spill range of a launch could not be extended; the slice (R233) -/
  | spillFull (launch slice : Nat)
  deriving DecidableEq, Repr, Inhabited

/-- A unit's latched snapshot (R379, R415): label, cycle, and its trigger's place in R415's list. -/
structure Snap where
  unit  : Nat
  label : Nat
  cycle : Nat
  /-- 0 `snap`, 1 SNAPTRIG, 2 the pin, 3 a fault -/
  rank  : Nat
  /-- the range-table entries of a core as 128-bit records (R294) -/
  ranges : List Nat
  /-- what the unit has logged (R38, R233, R334, R360, R388, R391) -/
  log    : List LogEntry
  /-- performance counters of a matrix engine: rows, steps and commands of its two ports (R251) -/
  perf   : List Nat
  /-- window generations that a core's outstanding writes carry: area and generation (R364) -/
  gens   : List (Nat × Nat)
  deriving DecidableEq, Repr, Inhabited

/-- Boot (R408, R409). -/
structure Boot where
  /-- BOOTST -/
  status  : Nat
  /-- blown rollback fuses -/
  fuses   : Nat
  /-- the image in NVMe namespace 1 on root port 0, when a drive is present -/
  nvme    : Option (List Byte)
  /-- what the host has placed at BAR4 offset 0 on, before a firmware runs -/
  area    : List Host.Cell
  /-- an image check is in progress; `fromHost`: of the image the host has placed -/
  checking : Bool
  fromHost : Bool
  /-- the image that runs -/
  running : Option (List Byte)
  deriving DecidableEq, Repr, Inhabited

/-- A mailbox command that the firmware has begun and that waits to end. -/
inductive Begun where
  /-- a tenant save, while the partition is quiesced (R365): tenant, image area and its length, bytes beyond the granules' -/
  | save (tenant area len extra : Nat)
  /-- the removal of a range, while accesses of before are on their way (R300): tenant, cycle, first byte, length, new count -/
  | range (tenant since lo len count : Nat)
  deriving DecidableEq, Repr, Inhabited

/-- The management registers that hold something (R416). -/
structure Mgmt where
  replreq : Nat
  /-- the correctable errors exceed the firmware's rate threshold (R414) -/
  overRate : Bool
  /-- granules retired for good (R400) -/
  retired : List Nat
  snapmask : Nat
  mbox    : List Nat
  busy    : Bool
  status  : Nat
  /-- a command the firmware has still to run, and what it has begun of it -/
  pending : Option Nat
  begun   : Option Begun
  deriving DecidableEq, Repr, Inhabited

/-- The partition layout (R396, R397, R417): partition of each slice, and of each copy-engine group (15: idle). -/
structure Layout where
  slices : List Nat
  groups : List Nat
  deriving DecidableEq, Repr, Inhabited

/-- Power and clock (R411 to R413). -/
structure Power where
  ltr   : Nat
  /-- core clock in MHz -/
  clock : Nat
  lastHost : Nat
  deriving DecidableEq, Repr, Inhabited

/-- The asymmetric algorithm of SPDM (R410). -/
inductive SpdmAsym where
  | rsassaPss3072
  deriving DecidableEq, Repr, Inhabited

/-- The hash of SPDM (R410). -/
inductive SpdmHash where
  | sha384
  deriving DecidableEq, Repr, Inhabited

/-- A launch of a pod job as the runtime describes it (R384): the tenant and the image that it names, the module's rank, the number of
modules, and the capabilities to the neighbours' windows, 0 where there is none. -/
structure PodJob where
  tenant   : Nat
  codebase : Nat
  rank     : Nat
  modules  : Nat
  left     : Nat
  right    : Nat
  deriving DecidableEq, Repr, Inhabited

/-- What SPDM has answered (R410). -/
inductive SpdmMsg where
  | version (major minor : Nat)
  | capabilities
  | algorithms (asym : SpdmAsym) (hash : SpdmHash)
  | digests
  | certificate
  | challengeAuth
  | measurements (idx value : Nat) (signed slh : Bool)
  | unsupported
  deriving DecidableEq, Repr, Inhabited

/-- A part of BAR4 the firmware has mapped (R406): aperture offset, length, physical base, tenant. -/
structure BarMap where
  off    : Nat
  len    : Nat
  phys   : Nat
  tenant : Nat
  deriving DecidableEq, Repr, Inhabited

/-- A saved tenant (R363, R366): its parts as they stood, known by the digest of its image's bytes. -/
structure TenantImage where
  digest  : List Byte
  version : Nat
  tenant  : Tenant
  launches : List Launch
  regions : List Region
  sparse  : List Sparse
  gates   : List Gate
  cmds    : List Cmd
  /-- the tenant's content of matrix ports, by port -/
  ports   : List (Nat × PortCtx)
  barMap  : List BarMap
  scratchPoison : List (Nat × Nat × Nat)
  /-- the tenant's granules, their bytes and their poisoned lines, under the addresses they had -/
  granules : List Nat
  cells   : List Host.Cell
  poison  : List Nat
  deriving DecidableEq, Repr, Inhabited

/-- Lines of an `rcp` under `.acc` held in staging (R391). -/
structure Staging where
  sender : Nat
  xfer   : Nat
  window : Nat
  lines  : List RcpLine
  failed : Bool
  deriving DecidableEq, Repr, Inhabited

/-- The model's record of a packet being issued (log 3): the fragment's fibres, the packet, the words still to run. -/
structure Issue where
  launch : Nat
  block  : Nat
  group  : Nat
  /-- fibres of the fragment, in key order -/
  frag   : List Nat
  /-- fibres still in the packet -/
  live   : List Nat
  pc     : Nat
  words  : List (BitVec 32)
  /-- the position of the word being run, and its chain -/
  pos    : Nat
  chain  : Nat
  mods   : Mods
  /-- the block's fibres as they stood when the chain issued (R72) -/
  view   : List Fibre
  /-- parks of the chain: fibre, code, info0, info1 (R352) -/
  parks  : List (Nat × FaultCode × Nat × Nat)
  /-- cycle in which the chain issues (R75) -/
  cycle  : Nat
  deriving DecidableEq, Repr, Inhabited

/-- The machine. -/
structure State where
  /-- core cycles since reset (R145) -/
  clock    : Nat
  /-- MODEL: events that outside agents and the firmware make, with the cycle each is due (log 4) -/
  inputs   : List (Nat × Instr)
  /-- MODEL: the packet being issued (log 3) -/
  issue    : Option Issue
  /-- MODEL: the fragment to issue next: launch, block, group, pc, chain (log 3) -/
  pick     : Option (Nat × Nat × Nat × Nat × Nat)
  /-- MODEL: counter of free values (log 2) -/
  free     : Nat
  /-- MODEL: choices between commands and chains since the oldest command's turn, and command events since a chain (R42)
  (log 58) -/
  wait     : Nat
  run      : Nat
  mem      : Memory
  /-- poisoned 128-byte lines, by physical line number (R360) -/
  poison   : List Nat
  /-- owners of 64 KiB granules: granule, owner; unlisted granules are free, 0xFFF (R298) -/
  owners   : List (Nat × Nat)
  tenants  : List Tenant
  launches : List Launch
  nextLaunch : Nat
  cmds     : List Cmd
  nextCmd  : Nat
  regions  : List Region
  sparse   : List Sparse
  gates    : List Gate
  ports    : List Port
  cores    : List Core
  slices   : List Slice
  exports  : List Export
  imports  : List Import
  moduleId : Nat
  torus    : Nat × Nat × Nat
  pod      : Option Pod
  staging  : List Staging
  fabricOut : List FabricMsg
  guyPorts : List GuyPort
  snaps    : List Snap
  snapLog  : List LogEntry
  boot     : Boot
  mgmt     : Mgmt
  layout   : Layout
  images   : List TenantImage
  power    : Power
  hostReads : List (HostSpace × Nat × List Byte)
  spdmOut  : List SpdmMsg
  msix     : Nat
  barMap   : List BarMap
  failedEngines : List Nat
  /-- loads whose line is still on its way (R218, R300, R364) -/
  strays   : List Stray
  /-- MODEL: launches of pod jobs that the runtime has described and not yet started (R384) (log 74) -/
  jobs     : List PodJob
  /-- scratch lines of blocks that are poisoned: launch, block, line (R360) -/
  scratchPoison : List (Nat × Nat × Nat)
  deriving DecidableEq, Repr, Inhabited

/-- A physical core at reset: every bank REG (R220), nothing bound; 18 cores a slice, the last two spares, logical
cores 16 a slice on the others (R398, R400; log 6). -/
def Core.reset (c : Nat) : Core :=
  { num := c, banks := List.replicate 48 .reg, cache := [], ranges := [], code := [], policy := .gto,
    contexts := [], lastIssued := [], slotAt := [], nextAge := 0, pitch := [], pitchAt := 0, launchTable := [], blockTable := [],
    failed := false, spare := decide (16 ≤ c % 18),
    hosts := if c % 18 < 16 then [16 * (c / 18) + c % 18] else [], areas := [], sliceSince := [] }

/-- The machine right after reset (INVENTORY.md names each value; log 6, log 7). -/
def State.reset : State :=
  { clock := 0, inputs := [], issue := none, pick := none, free := 0, wait := 0, run := 0, mem := [], poison := [], owners := [],
    tenants := [], launches := [], nextLaunch := 1, cmds := [], nextCmd := 1, regions := [], sparse := [], gates := [],
    ports := (List.range 96).map fun p =>
      { num := p, host := p, loaded := false, holder := none, whole := false, btile := none, words := [], queue := [], perfRows := 0,
        perfSteps := 0, perfCmds := 0, saved := [] },
    cores := (List.range 216).map Core.reset,
    slices := (List.range 12).map fun s =>
      { num := s, threshold := 0, moving := none, draining := none, power := .d0 },
    exports := [], imports := [], moduleId := 0, torus := (1, 1, 1), pod := none, staging := [], fabricOut := [],
    guyPorts := (List.range 24).map fun p => { num := p, up := true, streak := 0, retries := 0 },
    snaps := [], snapLog := [],
    boot := { status := 1, fuses := 0, nvme := none, area := [], checking := false, fromHost := false, running := none },
    mgmt := { replreq := 0, overRate := false, retired := [], snapmask := 0, mbox := List.replicate 32 0, busy := false, status := 0,
              pending := none, begun := none },
    layout := { slices := List.replicate 12 0, groups := List.replicate 12 0 },
    images := [], power := { ltr := 0, clock := 2100, lastHost := 0 }, hostReads := [], spdmOut := [], msix := 0,
    barMap := [], failedEngines := [], strays := [], jobs := [], scratchPoison := [] }

end Sys2Proof.Machine
end

