-- ==== Sys2Proof/Machine/Memory.lean ====
section
/-! DEFINITION. Memory as a list of bytes in one canonical form, and the named operations on it (INVENTORY.md, Memory
and ordering). The same form serves a block's scratch and a fibre's private memory. -/

namespace Sys2Proof.Machine

/-- What an unlisted byte reads as: the spec gives memory no contents after power-on (log 5); scratch and private
memory start as zero bytes (R11, R199). -/
def unlisted : Byte := 0

/-- The canonical form: addresses strictly rising from `lo` on, no entry equal to what an unlisted byte reads as. -/
def cellsFrom : Nat → Memory → Bool
  | _, [] => true
  | lo, (a, b) :: m => decide (lo ≤ a) && decide (b ≠ unlisted) && cellsFrom (a + 1) m

/-- A memory in canonical form. -/
def Memory.wf (m : Memory) : Bool := cellsFrom 0 m

/-- Read one byte. -/
def Memory.get : Memory → Nat → Byte
  | [], _ => unlisted
  | (a, b) :: m, x => if x = a then b else if x < a then unlisted else Memory.get m x

/-- Write one byte. -/
def Memory.set : Memory → Nat → Byte → Memory
  | [], x, v => if v = unlisted then [] else [(x, v)]
  | (a, b) :: m, x, v =>
    if x < a then (if v = unlisted then (a, b) :: m else (x, v) :: (a, b) :: m)
    else if x = a then (if v = unlisted then m else (a, v) :: m)
    else (a, b) :: Memory.set m x v

/-- Read `n` bytes from an address on. -/
def Memory.bytes (m : Memory) : Nat → Nat → List Byte
  | _, 0 => []
  | x, n + 1 => m.get x :: m.bytes (x + 1) n

/-- Write bytes from an address on. -/
def Memory.setBytes (m : Memory) : Nat → List Byte → Memory
  | _, [] => m
  | x, b :: bs => Memory.setBytes (m.set x b) (x + 1) bs

/-- Write the bytes present, from an address on. -/
def Memory.setMasked (m : Memory) : Nat → List (Option Byte) → Memory
  | _, [] => m
  | x, some b :: bs => Memory.setMasked (m.set x b) (x + 1) bs
  | x, none :: bs => Memory.setMasked m (x + 1) bs

/-- A little-endian number (R5). -/
def Memory.num (m : Memory) (x n : Nat) : Nat := ofLe (m.bytes x n)

/-- Store a little-endian number (R5). -/
def Memory.setNum (m : Memory) (x n v : Nat) : Memory := m.setBytes x (leBytes n v)

/-- The end of installed memory (R227). -/
def memEnd : Nat := 1152 * 2 ^ 30

end Sys2Proof.Machine
end

