-- ==== Sys2Proof/Machine/Ranges.lean ====
section
/-! DEFINITION. Range translation: the directory, the walk, permission, residency and ownership
(16_sparse_regions_range_translation.md R293 to R301; 17 R315). -/

namespace Sys2Proof.Machine

/-- Size of a range unit, a chunk and a granule (R293, R297, R298). -/
def unit : Nat := 65536

/-- The last 64 KiB unit of installed memory (R315). -/
def lastUnit : Nat := 18874367

/-- The descriptor of 32 bytes as a number, read as a range-table entry (R294, R315). -/
def entryOf (d : Nat) : RangeEntry :=
  { gen := bitsOf d 116 109, tenant := bitsOf d 108 97, part := bitsOf d 96 96 == 1, space := bitsOf d 95 92,
    perm := bitsOf d 91 89, pbase := bitsOf d 88 64, limit := bitsOf d 63 32, vbase := bitsOf d 31 0,
    bitmap := bitsOf d 175 128, word := none }

/-- The descriptor of an entry (R315). -/
def descOf (e : RangeEntry) : Nat :=
  e.vbase + e.limit * 2 ^ 32 + e.pbase * 2 ^ 64 + e.perm * 2 ^ 89 + e.space * 2 ^ 92
    + (if e.part then 2 ^ 96 else 0) + e.tenant * 2 ^ 97 + e.gen * 2 ^ 109 + e.bitmap * 2 ^ 128

/-- The conditions under which a walk that reads the descriptor faults with `FORMAT` (R295, R315). -/
def descBad (tenant d : Nat) : Bool :=
  let e := entryOf d
  bitsOf d 255 176 != 0 || bitsOf d 127 117 != 0 || e.tenant != tenant || (e.space != 0 && e.space != 3)
    || e.limit ≤ e.vbase || (!e.part && e.bitmap != 0) || (e.part && (e.bitmap == 0))
    || lastUnit < e.pbase + (e.limit - e.vbase) - 1

/-- The tenant of a number. -/
def State.tenant? (s : State) (t : Nat) : Option Tenant := s.tenants.find? fun x => x.num == t

/-- Descriptor i of a tenant's directory. -/
def State.dirDesc (s : State) (t : Tenant) (i : Nat) : Nat := s.mem.num (t.dir + 32 * i) 32

/-- A physical address is poisoned (R360). -/
def State.poisoned (s : State) (pa : Nat) : Bool := s.poison.contains (pa / 128)

/-- The walker's binary search (R295) over descriptors lo to hi − 1; a poisoned line of the directory ends it (R348, R360). -/
def State.walkFrom (s : State) (t : Tenant) (u : Nat) : Nat → Nat → Nat → Except FaultCode RangeEntry
  | 0, _, _ => .error .rangeMiss
  | fuel + 1, lo, hi =>
    if hi ≤ lo then .error .rangeMiss
    else
      let mid := (lo + hi) / 2
      let d := s.dirDesc t mid
      let e := entryOf d
      if s.poisoned (t.dir + 32 * mid) then .error .memUncorrectable
      else if descBad t.num d then .error .format
      else if u < e.vbase then s.walkFrom t u fuel lo mid
      else if e.limit ≤ u then s.walkFrom t u fuel (mid + 1) hi
      else .ok e

/-- The range that covers a virtual address (R295). -/
def State.walk (s : State) (tenant va : Nat) : Except FaultCode RangeEntry :=
  match s.tenant? tenant with
  | none => .error .rangeMiss
  | some t => s.walkFrom t (va / unit) 17 0 t.ndir

/-- What an access needs of its range (R296). -/
inductive Access where
  | load
  /-- a const-space load may also use space 3 -/
  | constLoad
  | store
  | fetch
  deriving DecidableEq, Repr, Inhabited

/-- The permission check of R296. -/
def permOk (a : Access) (e : RangeEntry) : Bool :=
  match a with
  | .load => e.perm % 2 == 1 && e.space == 0
  | .constLoad => e.perm % 2 == 1
  | .store => e.perm / 2 % 2 == 1 && e.space == 0
  | .fetch => e.perm / 4 % 2 == 1 && e.space == 3

/-- The physical address of a virtual one through an entry (R294). -/
def RangeEntry.phys (e : RangeEntry) (va : Nat) : Nat := e.pbase * unit + (va - e.vbase * unit)

/-- Number of the bitmap word that covers an address (R297). -/
def RangeEntry.wordOf (e : RangeEntry) (va : Nat) : Nat := (va / unit - e.vbase) / 64

/-- The bitmap word that covers an address: the one cached with the entry, or else memory's (R297). -/
def State.bitmapWord (s : State) (e : RangeEntry) (va : Nat) : Nat :=
  match e.word with
  | some (n, bits) => if n = e.wordOf va then bits else s.mem.num (e.bitmap + 8 * e.wordOf va) 8
  | none => s.mem.num (e.bitmap + 8 * e.wordOf va) 8

/-- Residency of the chunk that holds an address (R297). -/
def State.resident (s : State) (e : RangeEntry) (va : Nat) : Bool :=
  !e.part || s.bitmapWord e va / 2 ^ ((va / unit - e.vbase) % 64) % 2 == 1

/-- The bitmap word must be read and cannot be (R360). -/
def State.bitmapPoisoned (s : State) (e : RangeEntry) (va : Nat) : Bool :=
  e.part && !(e.word.any fun w => w.1 == e.wordOf va) && s.poisoned (e.bitmap + 8 * e.wordOf va)

/-- The owner of a physical address (R298): unlisted granules are free. -/
def State.owner (s : State) (pa : Nat) : Nat :=
  match s.owners.find? (fun o => o.1 == pa / unit) with
  | some o => o.2
  | none => 0xFFF

/-- A range-table hit of R294 in a core, if a core is given. -/
def State.hit? (s : State) (core : Option Nat) (tenant va : Nat) : Option RangeEntry :=
  match core with
  | none => none
  | some c =>
    match s.cores.find? (fun k => k.num == c) with
    | none => none
    | some k => k.ranges.find? fun e => e.tenant == tenant && e.vbase ≤ va / unit && va / unit < e.limit

/-- Translation with every check of R296, in order: the range, permission, residency, ownership. -/
def State.translate (s : State) (core : Option Nat) (tenant : Nat) (a : Access) (va : Nat) : Except FaultCode Nat :=
  let r : Except FaultCode RangeEntry := match s.hit? core tenant va with
    | some e => .ok e
    | none => s.walk tenant va
  match r with
  | .error c => .error c
  | .ok e =>
    if !permOk a e then .error .rangePerm
    else if s.bitmapPoisoned e va then .error .memUncorrectable
    else if !s.resident e va then .error .partialResidency
    else if s.owner (e.phys va) != tenant then .error .ownership
    else .ok (e.phys va)

/-- An entry becomes the most recently used of a core's range table, in place of an older one of its range; at most 32 stay
(R294). -/
def Core.fillRange (k : Core) (e : RangeEntry) : Core :=
  { k with ranges := (e :: k.ranges.filter (fun x => !(x.tenant == e.tenant && x.vbase == e.vbase))).take 32 }

/-- A walked range with the bitmap word of the chunk it is filled for (R297). -/
def State.withWord (s : State) (e : RangeEntry) (va : Nat) : RangeEntry :=
  if e.part then { e with word := some (e.wordOf va, s.mem.num (e.bitmap + 8 * e.wordOf va) 8) } else e

/-- The lookup of an access in a core's range table, whatever the checks of R296 say of it: a hit makes its entry the most
recently used, a walk that finds a range fills an entry (R294, R295). -/
def State.touchRange (s : State) (core tenant va : Nat) : State :=
  let fill (e : RangeEntry) : State := { s with cores := s.cores.map fun k => if k.num = core then k.fillRange e else k }
  match s.hit? (some core) tenant va with
  | some e => fill e
  | none =>
    match s.walk tenant va with
    | .ok e => fill (s.withWord e va)
    | .error _ => s

/-- Drops a range from every core's table (R300). -/
def State.dropRange (s : State) (tenant vbase : Nat) : State :=
  { s with cores := s.cores.map fun k =>
      { k with ranges := k.ranges.filter fun x => !(x.tenant == tenant && x.vbase == vbase) } }

end Sys2Proof.Machine
end

