-- ==== Sys2Proof/Machine/Ops.lean ====
section
/-! DEFINITION. The named operations that every meaning uses: finding and updating the parts of the state, registers
with the step journal (R30 to R32), predicates, capabilities (R192 to R195), memory writes with their side of the
outside world, gates (R37, R38), fault records and their paths (R342 to R360), taking a trap and returning from it
(R126, R127, R349), killing a region (R345) and releasing a launch (R367). -/

namespace Sys2Proof.Machine

/-! ## Finding and updating -/

def State.launch? (s : State) (id : Nat) : Option Launch := s.launches.find? fun l => l.id == id
def Launch.block? (l : Launch) (i : Nat) : Option Block := l.blockList.find? fun b => b.index == i
def Block.fibre? (b : Block) (i : Nat) : Option Fibre := b.fibres.find? fun f => f.id == i
def Block.group? (b : Block) (i : Nat) : Option Group := b.groups.find? fun g => g.index == i
def State.region? (s : State) (rcb : Nat) : Option Region := s.regions.find? fun r => r.rcb == rcb
def State.cmd? (s : State) (id : Nat) : Option Cmd := s.cmds.find? fun c => c.id == id
def State.core? (s : State) (n : Nat) : Option Core := s.cores.find? fun c => c.num == n
def State.port? (s : State) (n : Nat) : Option Port := s.ports.find? fun p => p.num == n
/-- The name of a gate: tenant, logical slice and index (log 43). -/
def Gate.key (g : Gate) : Nat × Nat × Nat := (g.tenant, g.slice, g.index)
def State.gate? (s : State) (k : Nat × Nat × Nat) : Option Gate := s.gates.find? fun g => g.key == k
/-- A sparse region's key: its number (R312), with the tenant, as numbers are a partition's (R313) (log 43). -/
def skey (tenant num : Nat) : Nat := num % 65536 + 65536 * tenant
def State.sparse? (s : State) (n : Nat) : Option Sparse := s.sparse.find? fun r => r.num == n

def State.modLaunch (s : State) (id : Nat) (f : Launch → Launch) : State :=
  { s with launches := s.launches.map fun l => if l.id = id then f l else l }
def Launch.modBlock (l : Launch) (i : Nat) (f : Block → Block) : Launch :=
  { l with blockList := l.blockList.map fun b => if b.index = i then f b else b }
def Block.modFibre (b : Block) (i : Nat) (f : Fibre → Fibre) : Block :=
  { b with fibres := b.fibres.map fun x => if x.id = i then f x else x }
def Block.modGroup (b : Block) (i : Nat) (f : Group → Group) : Block :=
  { b with groups := b.groups.map fun x => if x.index = i then f x else x }
def State.modBlock (s : State) (l b : Nat) (f : Block → Block) : State := s.modLaunch l (·.modBlock b f)
def State.modFibre (s : State) (l b i : Nat) (f : Fibre → Fibre) : State := s.modBlock l b (·.modFibre i f)
def State.modRegion (s : State) (rcb : Nat) (f : Region → Region) : State :=
  { s with regions := s.regions.map fun r => if r.rcb = rcb then f r else r }
def State.modCmd (s : State) (id : Nat) (f : Cmd → Cmd) : State :=
  { s with cmds := s.cmds.map fun c => if c.id = id then f c else c }
def State.modCore (s : State) (n : Nat) (f : Core → Core) : State :=
  { s with cores := s.cores.map fun c => if c.num = n then f c else c }
def State.modPort (s : State) (n : Nat) (f : Port → Port) : State :=
  { s with ports := s.ports.map fun p => if p.num = n then f p else p }
def State.modGate (s : State) (k : Nat × Nat × Nat) (f : Gate → Gate) : State :=
  { s with gates := s.gates.map fun g => if g.key = k then f g else g }
def State.modSparse (s : State) (n : Nat) (f : Sparse → Sparse) : State :=
  { s with sparse := s.sparse.map fun r => if r.num = n then f r else r }
def State.modSlice (s : State) (n : Nat) (f : Slice → Slice) : State :=
  { s with slices := s.slices.map fun x => if x.num = n then f x else x }

/-- A free choice among n outcomes (log 2). -/
def State.choose (s : State) (n : Nat) : Nat × State :=
  (Config.freeChoice s.free % n, { s with free := s.free + 1 })

/-! ## Fibres: status -/

/-- Exited in this or an earlier step (R22). -/
def Fibre.hasExited (f : Fibre) : Bool :=
  match f.status with
  | .exited _ => true
  | _ => false

/-- Parked (R352). -/
def Fibre.isParked (f : Fibre) : Bool :=
  match f.status with
  | .parked _ => true
  | _ => false

/-- At `rstop` (R27). -/
def Fibre.isAtRstop (f : Fibre) : Bool :=
  match f.status with
  | .atRstop _ => true
  | _ => false

/-- Live: it has not exited. -/
def Fibre.live (f : Fibre) : Bool := !f.hasExited

/-- `LiveAtStart`: it had not exited before the block's current step began. -/
def Fibre.liveAtStart (f : Fibre) (step : Nat) : Bool :=
  match f.status with
  | .exited k => step ≤ k
  | _ => true

/-- It has ended the block's current step (R22). -/
def Fibre.ended (f : Fibre) : Bool :=
  match f.status with
  | .running => false
  | .parked _ => false
  | _ => true

/-! ## Registers -/

/-- Newest value of a register (R29). -/
def Fibre.reg (f : Fibre) (n : Nat) : Word := f.regs.getD n 0

/-- A predicate; q0 is true (R14). -/
def Fibre.pred (f : Fibre) (q : Nat) : Bool := q == 0 || f.preds.getLsbD q

/-- Step-start value of a register (R29, R32). -/
def Fibre.startReg (f : Fibre) (n : Nat) : Word :=
  match f.late.find? (fun x => x.1 == n) with
  | some x => x.2
  | none =>
    match f.journal.find? (fun x => x.1 == n) with
    | some x => x.2
    | none => f.reg n

/-- Tag of a capability quad (R192). -/
def Fibre.tag (f : Fibre) (q : Nat) : Bool := f.tags.getLsbD q

/-- A predicate word with one bit set to a value. -/
def setBit16 (w : BitVec 16) (i : Nat) (v : Bool) : BitVec 16 :=
  if v then w ||| (1#16 <<< i) else w &&& ~~~(1#16 <<< i)

/-- What a word raises at run time for one fibre. -/
structure Trap where
  code  : FaultCode
  info0 : Nat
  info1 : Nat
  /-- the virtual address whose walk found a range (R295) -/
  walked : Option Nat := none
  deriving DecidableEq, Repr, Inhabited

/-- Journal entries in use (R30). -/
def Fibre.journalUsed (f : Fibre) : Nat := f.journal.length + (if f.jpreds.isSome then 1 else 0)

/-- The register whose `fadr` result is pending covers this one (R55). -/
def Fibre.pendingFadr (f : Fibre) (n : Nat) : Option PendFadr :=
  f.fadrs.find? fun p => p.reg == n || (p.wide && p.reg + 1 == n)

/-- PENDING_ROUND for a register or predicate named by a word (R36, R55). -/
def Fibre.pendingRound (f : Fibre) (n : Nat) : Option Trap :=
  if n < 64 then
    match f.pendingFadr n with
    | some p => some { code := .pendingRound, info0 := p.reg, info1 := 0 }
    | none => none
  else if n = 79 ∧ f.spawnPending then some { code := .pendingRound, info0 := 79, info1 := 0 }
  else none

/-- A register waits for a load or a token (R76, R238). -/
def Fibre.waits (f : Fibre) (n : Nat) : Bool :=
  f.loads.any (fun p => p.regs.any fun r => r.1 == n) || f.tokens.any (fun t => t.reg == n)

/-- A four-cycle result is not readable yet (R76). -/
def Fibre.early (f : Fibre) (now n : Nat) : Option Fresh := f.fresh.find? fun x => x.reg == n && now < x.ready

/-- One journal entry, unless the register has one (R30); the number of the register when there is no room (R31). -/
def Fibre.saveReg (f : Fibre) (n : Nat) : Except Trap Fibre :=
  if f.journal.any (fun x => x.1 == n) then .ok f
  else if 24 ≤ f.journalUsed then .error { code := .journalFull, info0 := n, info1 := 0 }
  else .ok { f with journal := f.journal ++ [(n, f.reg n)] }

/-- The journal entry of the predicate word (R30). -/
def Fibre.savePreds (f : Fibre) : Except Trap Fibre :=
  if f.jpreds.isSome then .ok f
  else if 24 ≤ f.journalUsed then .error { code := .journalFull, info0 := 64, info1 := 0 }
  else .ok { f with jpreds := some f.preds }

/-- Journal entries for several registers, all or none. -/
def Fibre.saveRegs (f : Fibre) : List Nat → Except Trap Fibre
  | [] => .ok f
  | n :: ns =>
    match f.saveReg n with
    | .error t => .error t
    | .ok g => g.saveRegs ns

/-- The plain store of a register: the value, the quad's tag cleared (R120), no earlier four-cycle result left. -/
def Fibre.putReg (f : Fibre) (n : Nat) (v : Word) : Fibre :=
  { f with regs := f.regs.set n v, tags := setBit16 f.tags (n / 4) false,
           fresh := f.fresh.filter fun x => x.reg != n }

/-- Plain stores of several registers. -/
def Fibre.putRegs (f : Fibre) : List (Nat × Word) → Fibre
  | [] => f
  | (n, v) :: ws => (f.putReg n v).putRegs ws

/-- Set a quad's tag. -/
def Fibre.putTag (f : Fibre) (q : Nat) (t : Bool) : Fibre := { f with tags := setBit16 f.tags q t }

/-- The first PENDING_ROUND among registers. -/
def Fibre.pendingAny (f : Fibre) : List Nat → Option Trap
  | [] => none
  | n :: ns =>
    match f.pendingRound n with
    | some t => some t
    | none => f.pendingAny ns

/-- A register write of an instruction (R30, R31, R55, R120): nothing is written when it faults. -/
def Fibre.write (f : Fibre) (ws : List (Nat × Word)) : Except Trap Fibre :=
  match f.pendingAny (ws.map Prod.fst) with
  | some t => .error t
  | none =>
    match f.saveRegs (ws.map Prod.fst) with
    | .error t => .error t
    | .ok g => .ok (g.putRegs ws)

/-- A 64-bit write to a pair (R87). -/
def Fibre.writePair (f : Fibre) (n : Nat) (v : DWord) : Except Trap Fibre := f.write [(n, loOf v), (n + 1, hiOf v)]

/-- A capability written to a quad with its tag (R206). -/
def Fibre.writeCap (f : Fibre) (q v : Nat) : Except Trap Fibre :=
  match f.write ((List.range 4).map fun i => (4 * q + i, BitVec.ofNat 32 (v / 2 ^ (32 * i)))) with
  | .error t => .error t
  | .ok g => .ok (g.putTag q true)

/-- Write one predicate (R30, R36); writes to q0 are discarded (R14). -/
def Fibre.writePred (f : Fibre) (q : Nat) (v : Bool) : Except Trap Fibre :=
  if q = 0 then .ok f
  else
    match f.pendingRound (64 + q) with
    | some t => .error t
    | none =>
      match f.savePreds with
      | .error t => .error t
      | .ok g => .ok { g with preds := setBit16 g.preds q v, fresh := g.fresh.filter fun x => x.reg != 64 + q }

/-- `SetPred(spec, x)` (R88); `r` is the fibre as the chain's reads see it. -/
def Fibre.setPred (f r : Fibre) (spec : BitVec 6) (x : Bool) : Except Trap Fibre :=
  let q := spec.toNat % 16
  let v := match spec.toNat / 16 with
    | 0 => x
    | 1 => r.pred q && x
    | _ => r.pred q || x
  f.writePred q v

/-! ## Capabilities -/

/-- A capability's fields (R192). -/
structure Cap where
  base  : Nat
  len   : Nat
  space : Nat
  perm  : Nat
  objid : Nat
  zero  : Nat
  deriving DecidableEq, Repr, Inhabited

def capOf (n : Nat) : Cap :=
  { base := bitsOf n 47 0, len := bitsOf n 87 48, space := bitsOf n 91 88, perm := bitsOf n 99 92,
    objid := bitsOf n 115 100, zero := bitsOf n 127 116 }

def Cap.num (c : Cap) : Nat :=
  c.base % 2 ^ 48 + c.len * 2 ^ 48 + c.space * 2 ^ 88 + c.perm * 2 ^ 92 + c.objid * 2 ^ 100 + c.zero * 2 ^ 116

def Cap.canR (c : Cap) : Bool := c.perm % 2 == 1
def Cap.canW (c : Cap) : Bool := c.perm / 2 % 2 == 1
def Cap.isWO (c : Cap) : Bool := c.perm / 4 % 2 == 1
def Cap.hasCaps (c : Cap) : Bool := c.perm / 8 % 2 == 1
def Cap.hasSub (c : Cap) : Bool := c.perm / 16 % 2 == 1
def Cap.hasEng (c : Cap) : Bool := c.perm / 32 % 2 == 1
def Cap.isSup (c : Cap) : Bool := c.perm / 64 % 2 == 1

/-- The 128 bits of a fibre's quad. -/
def Fibre.quad (f : Fibre) (q : Nat) : Nat :=
  (f.reg (4 * q)).toNat + (f.reg (4 * q + 1)).toNat * 2 ^ 32 + (f.reg (4 * q + 2)).toNat * 2 ^ 64
    + (f.reg (4 * q + 3)).toNat * 2 ^ 96

/-- The pattern part of validity (R195). -/
def Cap.wellFormed (c : Cap) : Bool := c.zero == 0 && c.space < 8 && !(c.isWO && c.canR)

/-- The tag of a capability as everything but the registers' hidden state sees it: that of a lease that has ended is clear (R195,
R229, R275). A new lease takes the lowest free number, and an old capability that names this number then counts as tagged again: the
spec says of neither what it is (DESIGN CHOICE, log 75). -/
def Launch.tagOf (l : Launch) (tag : Bool) (c : Cap) : Bool := tag && (c.space != 5 || l.leases.any fun x => x.num == c.objid)

/-- Validity of R195, a lease that has ended included (R229). -/
def capValid (l : Launch) (tag : Bool) (c : Cap) : Bool := l.tagOf tag c && c.wellFormed

/-! ## Cores of a block -/

/-- Positions of a list's first occurrences. -/
def dedupNat : List Nat → List Nat
  | [] => []
  | a :: l => a :: (dedupNat l).filter (· != a)

/-- The slices of a tenant's partition. -/
def State.sliceIn (s : State) (tenant slice : Nat) : Bool :=
  match s.tenant? tenant with
  | some t => decide (t.first ≤ slice) && decide (slice < t.first + t.slices)
  | none => false

/-- The physical core of a tenant's partition that hosts a logical core (R399). -/
def State.hostOf (s : State) (tenant logical : Nat) : Option Core :=
  s.cores.find? fun k => k.hosts.contains logical && s.sliceIn tenant (k.num / 18)

/-- The logical cores that a block on up to nc cores may lie on: its cluster from its own core on, for eight also the next
cluster (R335). -/
def logicalCores (block nc : Nat) : List Nat :=
  let c := block % 192
  let cl := c / 4
  let own (k : Nat) : List Nat := (List.range 4).map fun i => 4 * k + (c % 4 + i) % 4
  if nc = 8 then own cl ++ own ((cl + 1) % 48) else own cl

/-- The nc physical cores of a block, in its bind order; fewer where cores of the cluster are multiplexed (R335, R399). -/
def State.physicalCores (s : State) (tenant block nc : Nat) : List Nat :=
  (dedupNat ((logicalCores block nc).filterMap fun c => (s.hostOf tenant c).map Core.num)).take nc

/-! ## Gates -/

/-- Who raises a gate, by the flag it needs (R38). -/
inductive GateSource where
  | device
  | remote
  | host
  | pod
  deriving DecidableEq, Repr, Inhabited

/-- The flag a source needs (R38). Beside the network's raises no arrival changes the count of a POD gate (R385). -/
def Gate.allows (g : Gate) : GateSource → Bool
  | .device => !g.pod
  | .remote => g.remote && !g.pod
  | .host => g.host && !g.pod
  | .pod => g.pod

/-- Saturating add of R37. -/
def Gate.add (g : Gate) (n : Nat) : Gate := { g with count := min (g.count + n) 0xFFFFFFFF }

/-- The slice wakes; in C3 the whole device does (R412). -/
def State.wake (s : State) (slice : Nat) : State :=
  let all := s.slices.any fun x => x.power == .c3
  { s with slices := s.slices.map fun (x : Slice) => if all || x.num == slice then { x with power := .d0 } else x }

/-- The device wakes from C3 (R412). -/
def State.wakeDevice (s : State) : State :=
  if s.slices.any fun x => x.power == .c3 then
    { s with slices := s.slices.map fun (x : Slice) => { x with power := .d0 } }
  else s

/-- The physical slice that holds a tenant's logical slice (R399). -/
def State.sliceHost (s : State) (tenant slice : Nat) : Nat :=
  match s.tenant? tenant with
  | some t => t.first + slice % t.slices
  | none => slice

/-- A launch's gate has changed its count: every block of the launch may have seen the new one since its step began (R40). -/
def Launch.seeGate (i count : Nat) (l : Launch) : Launch :=
  { l with blockList := l.blockList.map fun b =>
      { b with gateSeen := b.gateSeen.modify i fun cs => if cs.contains count then cs else cs ++ [count] } }

/-- A gate's count changes. -/
def State.changeGate (s : State) (k : Nat × Nat × Nat) (f : Gate → Gate) : State :=
  match s.gate? k with
  | none => s
  | some g => (s.modGate k f).modLaunch g.launch fun l => l.seeGate (k.2.2 - l.gatebase) (f g).count

/-- An arrival (R38): dropped and logged when the gate is in the free pool or its flag is clear. -/
def State.arrive (s : State) (src : GateSource) (k : Nat × Nat × Nat) (n : Nat) : State :=
  let s1 := s.wake (s.sliceHost k.1 k.2.1)
  match s.gate? k with
  | some g =>
    if g.allows src then s1.changeGate k (·.add n)
    else { s1 with snapLog := s.snapLog ++ [.dropped k.1 k.2.1 k.2.2] }
  | none => { s1 with snapLog := s.snapLog ++ [.dropped k.1 k.2.1 k.2.2] }

/-- Gate n of a launch (R37). -/
def Launch.gateIndex (l : Launch) (n : Nat) : Nat × Nat × Nat := (l.tenant, l.gateslice, l.gatebase + n)

/-! ## Regions -/

/-- A live region's key: the address of its control block (R328), with the tenant, as virtual addresses are a tenant's (log 43). -/
def rkey (tenant va : Nat) : Nat := va % 2 ^ 48 + tenant * 2 ^ 48

/-- The virtual address of a region's control block. -/
def Region.addr (r : Region) : Nat := r.rcb % 2 ^ 48

/-- The region whose value a field takes: up the tree while its inherit bit is set (R329); at most eight levels. -/
def State.effFrom (s : State) (bit : Nat) : Nat → Nat → Option Region
  | 0, _ => none
  | fuel + 1, rcb =>
    match s.region? rcb with
    | none => none
    | some r => if r.inherit / 2 ^ bit % 2 = 1 then s.effFrom bit fuel r.parent else some r

/-- Effective value of a field (R329); 0 where the region is not live. -/
def State.eff (s : State) (rcb bit : Nat) (field : Region → Nat) : Nat :=
  match s.effFrom bit 9 rcb with
  | some r => field r
  | none => 0

/-- Whether `rcb` is `top` or below it (R328). -/
def State.within (s : State) (top : Nat) : Nat → Nat → Bool
  | 0, _ => false
  | fuel + 1, rcb =>
    rcb == top ||
      match s.region? rcb with
      | none => false
      | some r => r.parent != 0 && s.within top fuel r.parent

/-- The region is `top` or one of its descendants. -/
def State.inTree (s : State) (top rcb : Nat) : Bool := s.within top 9 rcb

/-- The region that reports the records of `rcb`: up while the effective domain is 1 (R355). -/
def State.reporter (s : State) : Nat → Nat → Nat
  | 0, rcb => rcb
  | fuel + 1, rcb =>
    match s.region? rcb with
    | none => rcb
    | some r => if s.eff rcb 7 Region.domain = 1 ∧ r.parent ≠ 0 then s.reporter fuel r.parent else rcb

/-- The nearest region from `rcb` up that has a handler (R355). -/
def State.handlerOf (s : State) : Nat → Nat → Option Nat
  | 0, _ => none
  | fuel + 1, rcb =>
    match s.region? rcb with
    | none => none
    | some r =>
      if s.eff rcb 7 Region.handler ≠ 0 ∨ r.dbg.isSome then some rcb
      else if r.parent = 0 then none else s.handlerOf fuel r.parent

/-! ## Memory writes that other agents see -/

/-- Cores whose CACHE banks hold a line. -/
def State.cachers (s : State) (line : Nat) : List Nat :=
  (s.cores.filter fun c => c.cache.any fun x => x.own.isNone && x.line == line).map Core.num

/-- A write that lands at a line's home L2 (R226, R360): the bytes land, copies of the line are invalidated, and a
write of a whole line ends its poison. -/
def State.landBytes (s : State) (pa : Nat) (bs : List (Option Byte)) : State :=
  let line := pa / 128
  let whole := pa % 128 = 0 ∧ 128 ≤ bs.length ∧ bs.all Option.isSome
  { s with mem := s.mem.setMasked pa bs,
           poison := if whole then s.poison.filter (· != line) else s.poison,
           cores := s.cores.map fun c => { c with cache := c.cache.filter fun x => x.own.isSome || x.line != line } }

/-- An outside write to a launch keeps the line's old bytes until the round ends (R59). -/
def Launch.noteStale (m : Memory) (line : Nat) (l : Launch) : Launch :=
  if l.ended || l.stale.any (fun x => x.line == line) then l
  else { l with stale := l.stale ++ [{ line := line, old := m.bytes (line * 128) 128, seen := [] }] }

/-- A line's bytes land for every observer: each launch but `own` may read the line as old or new until its round ends (R59)
(log 2). -/
def State.landRaw (s : State) (own : Option Nat) (pa : Nat) (bs : List (Option Byte)) : State :=
  let s1 := { s with
    launches := s.launches.map fun (l : Launch) => if own == some l.id then l else l.noteStale s.mem (pa / 128) }
  s1.landBytes pa bs

/-- A physical address for the firmware's own accesses through a tenant's directory (log 19). -/
def State.fwPhys (s : State) (tenant va : Nat) : Option Nat :=
  match s.walk tenant va with
  | .ok e => some (e.phys va)
  | .error _ => none

/-- A byte of a live region's firmware state, which software cannot write (R328). -/
def State.fwByte (s : State) (pa : Nat) : Bool :=
  s.regions.any fun r => match s.fwPhys r.tenant r.addr with
    | some p => decide (p + 80 ≤ pa) && decide (pa < p + 256)
    | none => false

/-- What of a software's write takes effect (R328) (log 59). -/
def State.softBytes (s : State) (pa : Nat) (bs : List (Option Byte)) : List (Option Byte) :=
  if s.regions.isEmpty then bs else bs.zipIdx.map fun x => if s.fwByte (pa + x.2) then none else x.1

/-- A write of any agent but the firmware. -/
def State.outsideWrite (s : State) (own : Option Nat) (pa : Nat) (bs : List (Option Byte)) : State :=
  s.landRaw own pa (s.softBytes pa bs)

/-- Bytes cut at line boundaries, each piece with its address. -/
def cutLines : Nat → Nat → List Byte → List (Nat × List Byte)
  | 0, _, _ => []
  | fuel + 1, a, bs =>
    if bs.isEmpty then []
    else
      let k := 128 - a % 128
      (a, bs.take k) :: cutLines fuel (a + k) (bs.drop k)

/-- A run of bytes is written, line by line. -/
def State.writeRun (s : State) (pa : Nat) (bs : List Byte) : State :=
  (cutLines (bs.length + 1) pa bs).foldl (fun s p => s.outsideWrite none p.1 (p.2.map some)) s

/-- Read a number of the tenant's memory by virtual address; 0 where no range covers it. -/
def State.fwNum (s : State) (tenant va n : Nat) : Nat :=
  match s.fwPhys tenant va with
  | some pa => s.mem.num pa n
  | none => 0

/-- The firmware writes bytes of the tenant's memory, as an outside write. -/
def State.fwWrite (s : State) (tenant va : Nat) (bs : List Byte) : State :=
  match s.fwPhys tenant va with
  | some pa => (cutLines (bs.length + 1) pa bs).foldl (fun s p => s.landRaw none p.1 (p.2.map some)) s
  | none => s

/-- A command in flight goes on reading the bytes that its own launch's later commits write as its dispatch found them (R248, R401);
a byte that it has kept already stays as kept. -/
def Cmd.keepLine (m : Memory) (own n : Nat) (bs : List (Option Byte)) (c : Cmd) : Cmd :=
  let was := ((c.before.find? fun x => x.1 == n).map Prod.snd).getD []
  let kept : List (Option Byte) := bs.zipIdx.map fun x =>
    (was.getD x.2 none).orElse fun _ => x.1.map fun _ => m.get (128 * n + x.2)
  if c.launch = own ∧ c.phase ≠ .finished then { c with before := (n, kept) :: c.before.filter fun x => x.1 != n } else c

/-- One line of a launch's own commit lands (R26, R56); a line whose round-log entry was in error is poisoned (R360). -/
def State.landLine (s : State) (own : Nat) (bad : List Nat) (n : Nat) (m : List (Option Byte)) : State :=
  let s0 : State := { s with cmds := s.cmds.map (Cmd.keepLine s.mem own n m) }
  let s1 := s0.outsideWrite (some own) (128 * n) m
  if bad.contains n then { s1 with poison := if s1.poison.contains n then s1.poison else n :: s1.poison } else s1

/-- Lines of a launch's own commit land one by one. -/
def State.landLines (s : State) (own : Nat) (bad : List Nat) : List (Nat × List (Option Byte)) → State
  | [] => s
  | (n, m) :: rest => (s.landLine own bad n m).landLines own bad rest

/-! ## Commands and tokens -/

/-- The token word: status in bits [7:0], count in [31:8] saturating (R28, R244). -/
def tokenWord (status count : Nat) : Word := BitVec.ofNat 32 (status % 256 + 256 * min count 0xFFFFFF)

/-- A command is done: its token waits to land (R238). -/
def State.finishCmd (s : State) (id status count : Nat) : State :=
  s.modCmd id fun c => { c with phase := .finished, status := status, count := count, outs := [] }

/-- A fault recorded for a launch (R28, R345): `counts` when its token must carry it. -/
def Launch.noteFault (code : Nat) (fibres : List (Nat × Nat)) (counts : Bool) (l : Launch) : Launch :=
  { l with faults := l.faults ++ [{ code := code, fibres := fibres, counts := counts }] }

/-- The first fault recorded on any path (R345). -/
def Launch.anyFault (l : Launch) : Option Nat := l.faults.head?.map FaultNote.code

/-- The first fault recorded by which the launch faulted (R28). -/
def Launch.firstFault (l : Launch) : Option Nat := (l.faults.find? FaultNote.counts).map FaultNote.code

/-- The last note that names a fibre counts: its kill mark has ended it (R28, R356). -/
def countLast (f : Nat × Nat) : List FaultNote → List FaultNote
  | [] => []
  | n :: ns =>
    if ns.any fun m => m.fibres.contains f then n :: countLast f ns
    else if n.fibres.contains f then { n with counts := true } :: ns
    else n :: ns

/-- A fibre's park fault counts once its kill mark ends it. -/
def Launch.countKill (block fibre : Nat) (l : Launch) : Launch := { l with faults := countLast (block, fibre) l.faults }

/-- A fibre's loads, as lines on their way to its core (R218, R364). -/
def Block.straysOf (b : Block) (tenant : Nat) (f : Fibre) : List Stray :=
  let g := b.group? f.group
  f.loads.map fun p =>
    { core := p.core, line := p.line, base := (g.map Group.wbase).getD 0, gen := (g.map Group.gen).getD 0, tenant := tenant, va := p.va,
      issued := p.issued, due := p.due }

/-- Lines that are still to arrive although nothing waits for their loads any more (R218). -/
def State.keepStrays (s : State) (xs : List Stray) : State :=
  { s with strays := (s.strays ++ xs).filter fun x => decide (s.clock < x.due) }

/-- Granules that a launch has beside its own memory: what extends its spill range and its blocks' step-spill areas (R231, R233). -/
def Launch.extras (l : Launch) : List Nat := l.spillExt ++ l.blockList.flatMap Block.area

/-- Release at a launch's end (R367). -/
def State.releaseLaunch (s0 : State) (id : Nat) : State :=
  let s := s0.keepStrays (match s0.launch? id with
    | some l => l.blockList.flatMap fun b => b.fibres.flatMap (b.straysOf l.tenant)
    | none => [])
  { s with
    launches := s.launches.map fun l =>
      if l.id = id then
        { l with ended := true, leases := [], roundLog := [], heldLog := [], landing := [], blockList := [], stale := [], notes := [],
                 dying := none }
      else l,
    owners := match s.launch? id with
      | some l => s.owners.filter fun o => !l.extras.contains o.1
      | none => s.owners,
    gates := s.gates.filter fun g => g.launch != id,
    exports := s.exports.filter fun e => e.launch != id,
    cores := s.cores.map fun (c : Core) => { c with
      contexts := c.contexts.filter fun x => x.launch != id, code := c.code.filter fun x => x.1 != id,
      launchTable := c.launchTable.filter fun x => x.2 != id,
      blockTable := c.blockTable.filter fun x => x.launch != id },
    sparse := s.sparse.map fun r => { r with
      holders := r.holders.filter (· != id),
      retired := r.retired.map fun x => (x.1, x.2.filter (· != id)) } }

/-- The launch's token: its parent's command finishes (R28, R345). -/
def State.launchToken (s : State) (id status count : Nat) : State :=
  match s.launch? id with
  | some { parent := some c, .. } => s.finishCmd c status count
  | _ => s

/-- End one launch of a killed region (R345 items 2 to 5), with a code where no fault is recorded for it. The lines of a commit that has
begun land first (R56) (log 60). -/
def State.killLaunch (s : State) (other : Nat) (l : Launch) : State :=
  let code := l.anyFault.getD other
  let s0 := s.landLines l.id l.logPoison l.landing
  let mine := s0.cmds.filter fun c => c.launch == l.id
  let s1 := { s0 with cmds := s0.cmds.filter fun c => c.launch != l.id,
                      owners := s0.owners.filter fun o => !(mine.any fun c => c.frees.contains o.1) }
  let s2 := { s1 with
    ports := s1.ports.map fun (p : Port) => { p with queue := p.queue.filter fun q => s1.cmds.any fun c => c.id == q } }
  (s2.launchToken l.id code 0).releaseLaunch l.id

/-- A gather command that runs: it may stand inside a position (R256). -/
def Cmd.gathers (c : Cmd) : Bool :=
  match c.instr with
  | .gath .. => c.phase == .running
  | .scat .. => c.phase == .running
  | _ => false

/-- A launch of a killed region ends: at once where its commands stand at resumable points, as any command but a gather engine's does
after each line (R256), otherwise as soon as they do; until then it is suspended (R345 items 1 and 2). -/
def State.killOne (s : State) (other : Nat) (l : Launch) : State :=
  if (s.cmds.any fun c => c.launch == l.id && c.gathers) = true then
    s.modLaunch l.id fun x => { x with suspended := true, dying := some (x.dying.getD other) }
  else s.killLaunch other l

/-- End several launches. -/
def State.killLaunches (s : State) (other : Nat) : List Launch → State
  | [] => s
  | l :: ls => (s.killOne other l).killLaunches other ls

/-- The live launches of a region and its descendants. -/
def State.launchesOf (s : State) (rcb : Nat) : List Launch :=
  s.launches.filter fun l => !l.ended && s.inTree rcb l.rcb

/-- A region and its descendants are killed (R345, R355, R359): every launch ends, with `other` where no fault is recorded for it, and
every port is released with its contents. -/
def State.killRegion (s : State) (rcb other : Nat) : State :=
  let s1 := s.killLaunches other (s.launchesOf rcb)
  { s1 with
    regions := s1.regions.map fun r => if s.inTree rcb r.rcb then { r with killed := true, suspended := false, due := none } else r,
    ports := s1.ports.map fun (p : Port) =>
      let p1 := { p with saved := p.saved.filter fun x => !s.inTree rcb x.region }
      match p1.holder with
      | some h => if s.inTree rcb h then { p1 with holder := none, whole := false, btile := none, words := [] } else p1
      | none => p1 }

/-! ## Fault records -/

/-- The record's 64 bytes (R343). -/
def FRec.bytes (r : FRec) (clock : Nat) : List Byte :=
  leBytes 1 r.code ++ leBytes 1 r.cls ++ leBytes 2 r.cohort ++ leBytes 4 r.block ++ leBytes 8 (r.rcb % 2 ^ 48)
    ++ leBytes 8 r.frag ++ leBytes 8 r.sib ++ leBytes 4 r.launch ++ leBytes 4 r.pc ++ leBytes 4 r.step
    ++ leBytes 4 r.round ++ leBytes 4 r.info0 ++ leBytes 4 r.info1 ++ leBytes 8 clock

/-- Write a record into a region's log (R342): nothing with logsize 0; logidx rises by 1 with the record, and the first one that
names a region since its reset is kept for its refusals (R345). -/
def State.logRecord (s : State) (rep : Region) (r : FRec) : State :=
  let base := s.fwNum rep.tenant (rep.addr + 64) 8
  let size := s.fwNum rep.tenant (rep.addr + 72) 4
  let idx := s.fwNum rep.tenant (rep.addr + 76) 4
  if size = 0 then s
  else
    let s0 := s.modRegion r.rcb fun x => { x with firstRecord := x.firstRecord.orElse fun _ => some r.code }
    let s1 := s0.fwWrite rep.tenant (base + 64 * (idx % size)) (r.bytes s.clock)
    s1.fwWrite rep.tenant (rep.addr + 76) (leBytes 4 (idx + 1))

/-- A unit's next snapshot: it replaces the one before, but of triggers that meet in one cycle the source first in R415's
list gives the label. -/
def latchOne (old : Option Snap) (new : Snap) : Snap :=
  match old with
  | none => new
  | some x => if x.cycle = new.cycle ∧ x.rank < new.rank then x else new

/-- A range-table entry as snapshot registers show it (R294). -/
def RangeEntry.record (e : RangeEntry) : Nat :=
  2 ^ 127 + e.gen % 256 * 2 ^ 109 + e.tenant % 4096 * 2 ^ 97 + (if e.part then 2 ^ 96 else 0) + e.space % 16 * 2 ^ 92
    + e.perm % 8 * 2 ^ 89 + e.pbase % 2 ^ 25 * 2 ^ 64 + e.limit % 2 ^ 32 * 2 ^ 32 + e.vbase % 2 ^ 32

/-- The 32 range-table entries of a core's unit, the invalid ones 0; other units hold none (R294). -/
def State.rangeRecords (s : State) (unit : Nat) : List Nat :=
  match (s.cores[unit]?) with
  | none => []
  | some k => k.ranges.map RangeEntry.record ++ List.replicate (32 - k.ranges.length) 0

/-- The unit whose snapshot registers hold a log entry (R416): none for what the firmware, the endpoint and the root ports log. -/
def State.logUnit (s : State) : LogEntry → Option Nat
  | .dropped tenant slice _ => some (216 + s.sliceHost tenant slice)
  | .skippedBind core _ => some (216 + core / 18)
  | .portDown port => some (372 + port)
  | .retry port => some (372 + port)
  | .rcpFail port _ => some (372 + port)
  | .correctable unit => some unit
  | .spillFull _ slice => some (216 + slice)
  | .killed .. => none
  | .machine .. => none
  | .hostDrop .. => none
  | .dmaDrop .. => none

/-- Performance counters of a matrix engine: those of the two ports that it serves (R251). -/
def State.perfOf (s : State) (unit : Nat) : List Nat :=
  if unit < 228 ∨ 276 ≤ unit then []
  else (s.ports.filter fun p => p.host / 2 == unit - 228).flatMap fun p => [p.num, p.perfRows, p.perfSteps, p.perfCmds]

/-- Window generations of a core that outstanding writes carry: of loads whose line is on its way, and of loads and tokens that home
groups wait for (R364). -/
def State.gensOut (s : State) (core : Nat) : List (Nat × Nat) :=
  ((s.strays.filter fun x => x.core == core && decide (s.clock < x.due)).map fun x => (x.base, x.gen))
    ++ s.launches.flatMap fun l => l.blockList.flatMap fun b => (b.groups.filter fun g => g.core == core && g.gen != 0).flatMap fun g =>
      if b.fibres.any fun f => f.group == g.index && !(f.loads.isEmpty && f.tokens.isEmpty) then [(g.wbase, g.gen)] else []

/-- Units latch (R379, R415). -/
def State.latchUnits (s : State) (units : List Nat) (label rank : Nat) : State :=
  let new (u : Nat) : Snap :=
    { unit := u, label := label, cycle := s.clock, rank := rank, ranges := s.rangeRecords u,
      log := s.snapLog.filter fun x => s.logUnit x == some u, perf := s.perfOf u, gens := if u < 216 then s.gensOut u else [] }
  { s with snaps := (s.snaps.filter fun x => !units.contains x.unit) ++ units.map fun u =>
      latchOne (s.snaps.find? fun x => x.unit == u) (new u) }

/-- Units latch on a trigger that gives no label: the label is a free value (log 2). -/
def State.latchFree (s : State) (units : List Nat) (rank : Nat) : State :=
  { s.latchUnits units (Config.freeBits s.free 16).toNat rank with free := s.free + 1 }

/-- Latch snapshots on a fault of a class that SNAPMASK selects (R415). -/
def State.snapFault (s : State) (cls : Nat) : State :=
  if s.mgmt.snapmask / 2 ^ cls % 2 = 1 then s.latchFree (List.range 396) 3 else s

/-- Report a record (R342, R355): the log of the reporting region, then its handler's gate, or the nearest handler's
above it; with no handler anywhere the firmware kills the faulting region with the fault's code (R345) (log 72). -/
def State.report (s : State) (r : FRec) : State :=
  let s0 := s.snapFault r.cls
  let rep := s0.reporter 9 r.rcb
  match s0.region? rep with
  | none => s0
  | some region =>
    let s1 := s0.logRecord region r
    match s1.handlerOf 9 rep with
    | some h => s1.arrive .device (region.tenant, s1.eff h 7 Region.hslice, s1.eff h 7 Region.hgate) 1
    | none =>
      let s2 := s1.killRegion r.rcb r.code
      { s2 with snapLog := s2.snapLog ++ [.killed r.rcb r.code] }

/-- Bits of lanes. -/
def laneMask (fs : List Fibre) : Nat := fs.foldl (fun m f => m ||| 2 ^ f.lane) 0

/-! ## The park path -/

/-- Mark fibres parked where they stand (R352): the packet and the chain at which they resume. -/
def Block.parkAt (b : Block) (ids : List Nat) (code : FaultCode) (pc chain : Nat) : Block :=
  { b with fibres := b.fibres.map fun f =>
      if ids.contains f.id then { f with status := .parked code.num, pc := pc, chain := chain, arrival := .resume }
      else f }

/-- One record for the parked fibres of one home group (R352). -/
def State.parkRecord (s : State) (l : Launch) (b : Block) (group : Nat) (ids : List Nat) (code : FaultCode)
    (pc info0 info1 : Nat) : State :=
  let mine := b.fibres.filter fun f => ids.contains f.id
  let sibs := b.fibres.filter fun f => f.group == group && f.live && !ids.contains f.id
  s.report { code := code.num, cls := 1, cohort := group, block := b.index, rcb := l.rcb, frag := laneMask mine,
             sib := laneMask sibs, launch := l.id, pc := pc, step := b.step, round := l.round, info0 := info0,
             info1 := info1 }

/-- The park path for fibres of one home group (R352): parked, recorded, the handler's gate raised. -/
def State.park (s : State) (l b group : Nat) (ids : List Nat) (code : FaultCode) (pc chain info0 info1 : Nat) : State :=
  let s1 := s.modBlock l b (·.parkAt ids code pc chain)
  match s1.launch? l with
  | none => s1
  | some ln =>
    match ln.block? b with
    | none => s1
    | some bl => (s1.modLaunch l (Launch.noteFault code.num (ids.map fun i => (b, i)) false)).parkRecord ln bl group ids code
        pc info0 info1

/-- Who a machine-path record names besides its launch and block: the fibres of one home group whose access failed, with their
packet (R343); none for an access of an engine. -/
structure Reported where
  group : Nat
  ids   : List Nat
  pc    : Nat
  deriving DecidableEq, Repr, Inhabited

/-- The machine path (R359): the region is killed, with a record of class 5 (log 72). -/
def State.machinePath (s : State) (l : Launch) (b : Option Block) (who : Option Reported) (addr : Nat) : State :=
  let s1 := s.modLaunch l.id (Launch.noteFault FaultCode.ownership.num [] true)
  let s2 := s1.killRegion l.rcb FaultCode.ownership.num
  let fs := (b.map Block.fibres).getD []
  let mine := fs.filter fun f => who.any fun w => w.ids.contains f.id
  let sibs := fs.filter fun f => who.any fun w => f.group == w.group && f.live && !w.ids.contains f.id
  let note : FRec :=
    { code := FaultCode.ownership.num, cls := 5, cohort := (who.map Reported.group).getD 0,
      block := (b.map Block.index).getD 0, rcb := l.rcb, frag := laneMask mine, sib := laneMask sibs, launch := l.id,
      pc := (who.map Reported.pc).getD 0, step := (b.map Block.step).getD 0, round := l.round, info0 := addr % 2 ^ 32,
      info1 := addr / 2 ^ 32 % 2 ^ 16 }
  ({ s2 with snapLog := s2.snapLog ++ [LogEntry.machine note] } : State).report note

/-! ## The trap-routine path -/

/-- Taking a trap (R126, R204, R349): the trap registers are set, their step-start copies kept, and the fibre goes on
at the trap vector; `origin` is the packet whose fault was taken. -/
def Fibre.takeTrap (f : Fibre) (code : FaultCode) (next info0 info1 vec origin : Nat) : Fibre :=
  { f with
    trapSaved := f.trapSaved.orElse fun _ => some f.trap,
    trap := { mode := true, epc := BitVec.ofNat 32 next, ecause := BitVec.ofNat 32 code.num,
              einfo0 := BitVec.ofNat 32 info0, einfo1 := BitVec.ofNat 32 info1 },
    pc := vec, chain := 0, arrival := .transfer origin }

/-- Returning from a trap (R127): `trapmode` is cleared and the fibre goes on at `epc`, with no target check. -/
def Fibre.returnTrap (f : Fibre) : Fibre :=
  { f with trapSaved := f.trapSaved.orElse fun _ => some f.trap,
           trap := { f.trap with mode := false }, pc := f.trap.epc.toNat, chain := 0, arrival := .resume }

/-! ## The block path -/

/-- The block path (R357): the step buffer is dropped, the commands in flight lose their tokens, the block counts as
exited. -/
def State.terminateBlock (s : State) (l b : Nat) : State :=
  let s1 := s.modBlock l b fun x =>
    { x with status := .terminated, contribs := [], gadds := [], ltols := [], spawns := [], reqs := [], named := [], bufPoison := [],
             fibres := x.fibres.map fun f =>
               if f.hasExited then f else { f with status := .exited x.step, ctl := none } }
  { s1 with cmds := s1.cmds.map fun c => if c.launch = l ∧ c.block = b then { c with discard := true } else c }

/-- The block path with its record of class 2, naming one fibre (R357). -/
def State.blockPath (s : State) (l b fibre : Nat) (code : FaultCode) (info0 info1 : Nat) : State :=
  match s.launch? l with
  | none => s
  | some ln =>
    match ln.block? b with
    | none => s
    | some bl =>
      let f := (bl.fibre? fibre).getD default
      let s1 := (s.terminateBlock l b).modLaunch l (Launch.noteFault code.num [] true)
      s1.report { code := code.num, cls := 2, cohort := f.group, block := b, rcb := ln.rcb, frag := 2 ^ f.lane,
                  sib := 0, launch := l, pc := f.pc, step := bl.step, round := ln.round, info0 := info0,
                  info1 := info1 }

/-- The launch path's record of class 3 (R358). -/
def State.launchPath (s : State) (l : Nat) (code : FaultCode) (info0 info1 : Nat) : State :=
  match s.launch? l with
  | none => s
  | some ln =>
    let s1 := s.modLaunch l (Launch.noteFault code.num [] (code != .indexExhausted))
    s1.report { code := code.num, cls := 3, cohort := 0, block := 0, rcb := ln.rcb, frag := 0, sib := 0, launch := l,
                pc := 0, step := ((ln.block? 0).map Block.step).getD 0, round := ln.round, info0 := info0, info1 := info1 }

end Sys2Proof.Machine
end

