-- ==== Sys2Proof/Machine/Flags.lean ====
section
/-! DEFINITION. The conditions that set predicates (R78, R140): the device has no other flags (R136). The float
conditions stand in Float.lean (R183). -/

namespace Sys2Proof.Machine

/-- The ten integer conditions by code, for operands of a width (R78, R140). -/
def icond (w cond : Nat) (a b : Nat) : Bool :=
  match cond with
  | 0 => a == b
  | 1 => a != b
  | 2 => signedOf w a < signedOf w b
  | 3 => signedOf w a ≤ signedOf w b
  | 4 => signedOf w b < signedOf w a
  | 5 => signedOf w b ≤ signedOf w a
  | 6 => a < b
  | 7 => a ≤ b
  | 8 => b < a
  | _ => b ≤ a

/-- The predicate word with the bits of b taken from a (`psetw`, R146): q0 and bits [31:16] take no part. -/
def psetwWord (old : BitVec 16) (a b : Word) : BitVec 16 :=
  let m : BitVec 16 := b.setWidth 16 &&& 0xFFFE#16
  (old &&& ~~~m) ||| (a.setWidth 16 &&& m)

/-- The predicate word as `pword` reads it (R146). -/
def pwordOf (p : BitVec 16) : Word := (p ||| 1#16).setWidth 32

end Sys2Proof.Machine
end

