-- ==== Sys2Proof/Machine/Operands.lean ====
section
/-! DEFINITION. Operand forms and the way a word acts on its fragment: guards (R118), permuted and third sources (R85,
R119), what a chain reads (R72), pending and early registers (R36, R55, R76), and the per-fibre runner that every word
goes through. -/

namespace Sys2Proof.Machine

/-- What a word sees while it issues: the state, the launch, the block with its fibres as they stood when the chain
issued (R72), and the issue record. -/
structure Env where
  s  : State
  l  : Launch
  b  : Block
  is : Issue
  deriving DecidableEq, Repr, Inhabited

/-- The environment of the word being issued, if one is. -/
def State.env? (s : State) : Option Env :=
  match s.issue with
  | none => none
  | some is =>
    match s.launch? is.launch with
    | none => none
    | some l =>
      match l.block? is.block with
      | none => none
      | some b => some { s := s, l := l, b := { b with fibres := is.view }, is := is }

/-- The lane a permutation code selects for lane i (R85); `c` is the modifier's field. -/
def permLane (code i c : Nat) : Nat :=
  if code ≤ 6 then i ^^^ 2 ^ (code - 1)
  else if code ≤ 13 then (i / 8) * 8 + (i % 8 + (code - 6)) % 8
  else if code = 14 then (i / 8) * 8 + (7 - i % 8)
  else if code = 15 then 63 - i
  else c

/-- The fibre at a lane of a home group. -/
def Block.atLane? (b : Block) (group lane : Nat) : Option Fibre :=
  b.fibres.find? fun f => f.group == group && f.lane == lane

/-- A partner's step-start register: 0 for a lane that does not exist or exited in an earlier step (R29). -/
def Env.laneReg (e : Env) (group lane n : Nat) : Word :=
  match e.b.atLane? group lane with
  | some f => if f.liveAtStart e.b.step then f.startReg n else 0
  | none => 0

/-- Whether a lane counts in a lane operation (R147). -/
def Env.laneLive (e : Env) (group lane : Nat) : Bool :=
  match e.b.atLane? group lane with
  | some f => f.liveAtStart e.b.step
  | none => false

/-- A source register under a permutation code (R119). -/
def Env.src (e : Env) (f : Fibre) (code : BitVec 5) (n : Nat) : Word :=
  if code = 0 then f.reg n
  else e.laneReg f.group (permLane code.toNat f.lane e.is.mods.c.toNat) n

/-- Source a (R119). -/
def Env.srcA (e : Env) (f : Fibre) (a : BitVec 6) : Word := e.src f e.is.mods.pa a.toNat
/-- Source b (R119). -/
def Env.srcB (e : Env) (f : Fibre) (b : BitVec 6) : Word := e.src f e.is.mods.pb b.toNat
/-- Source a as a pair (R119). -/
def Env.pairA (e : Env) (f : Fibre) (a : BitVec 6) : DWord :=
  pairOf (e.src f e.is.mods.pa a.toNat) (e.src f e.is.mods.pa (a.toNat + 1))
/-- Source b as a pair (R119). -/
def Env.pairB (e : Env) (f : Fibre) (b : BitVec 6) : DWord :=
  pairOf (e.src f e.is.mods.pb b.toNat) (e.src f e.is.mods.pb (b.toNat + 1))
/-- The third source (R86, R119), never permuted. -/
def Env.srcT (e : Env) (f : Fibre) (d : BitVec 6) : Word := f.reg (third e.is.mods d)
/-- The third source as a pair. -/
def Env.pairT (e : Env) (f : Fibre) (d : BitVec 6) : DWord :=
  pairOf (f.reg (third e.is.mods d)) (f.reg (third e.is.mods d + 1))
/-- A pair of the fibre's own registers. -/
def Fibre.pair (f : Fibre) (n : Nat) : DWord := pairOf (f.reg n) (f.reg (n + 1))

/-- The word being issued, and its position (R97). -/
def Issue.word (is : Issue) : Nat := (is.words.getD is.pos 0).toNat

/-- The code offset of the packet after this one (R121). -/
def nextPacket (pc : Nat) : Nat := if pc % 128 = 116 then pc - 116 + 136 else pc + 12

/-- One thing an access tells the issuing core: the virtual address it translated, if it did (R294); the line, physical or of
the private memory of a fibre; whether a fill of it is kept across round commits, the hint, and whether it goes through the
CACHE banks (R201, R224, R225). -/
structure Touch where
  va   : Option Nat
  line : Nat
  own  : Option (Nat × Nat × Nat)
  keep : Bool
  hint : Nat
  cached : Bool
  deriving DecidableEq, Repr, Inhabited

/-- What a word does for one fibre. -/
structure Eff where
  fibre    : Fibre
  contribs : List Contrib := []
  gadds    : List (Nat × Nat × Nat × Nat) := []
  spawns   : List SpawnReq := []
  /-- writes of `ltol`: fibre, issue order, value -/
  ltols    : List (Nat × Nat × Nat) := []
  touch    : List Touch := []
  /-- lines of outside writes whose new value this core has returned (R226) -/
  seen     : List Nat := []
  /-- free choices used -/
  used     : Nat := 0
  deriving DecidableEq, Repr, Inhabited

/-- An effect on the fibre alone. -/
def own (r : Except Trap Fibre) : Except Trap Eff :=
  match r with
  | .ok f => .ok { fibre := f }
  | .error t => .error t

/-- The fibre as an early reader may see it (R76): without checking, each register read too early holds the value
before or after, as a free choice decides; `k` counts the choices (log 45). -/
def Fibre.earlyView (f : Fibre) (now k : Nat) : List Nat → Fibre × Nat
  | [] => (f, k)
  | n :: ns =>
    match f.early now n with
    | none => f.earlyView now k ns
    | some x =>
      let g := if Config.freeChoice k % 2 = 1 then
          (if n < 64 then { f with regs := f.regs.set n x.old }
           else { f with preds := setBit16 f.preds (n - 64) (x.old != 0) })
        else f
      g.earlyView now (k + 1) ns

/-- Registers and predicates named by a word: a pending value (R36, R55). -/
def regCheck (f : Fibre) : List Nat → Option Trap := f.pendingAny

/-- After a word's writes: an early write may leave the earlier result in place (R76). A result that lands later than the word
issues is the later one, and as any write of a register it leaves its quad untagged (R194) (log 45). -/
def Fibre.earlyWrites (f0 f : Fibre) (now k : Nat) : List Nat → Fibre × Nat
  | [] => (f, k)
  | n :: ns =>
    match f0.early now n with
    | none => f0.earlyWrites f now k ns
    | some _ =>
      let g := if Config.freeChoice k % 2 = 1 then
          (if n < 64 then { f with regs := f.regs.set n (f0.reg n), tags := setBit16 f.tags (n / 4) false }
           else { f with preds := setBit16 f.preds (n - 64) (f0.pred (n - 64)) })
        else f
      f0.earlyWrites g now (k + 1) ns

/-- Cycles after which a scoreboarded result of fixed latency can be read (R176, R338); 0 for a result of another class. -/
def boardCycles (i : Instr) : Nat :=
  if i.fourCycle then 0
  else
    match i with
    | .fdiv .. => 20
    | .fsqrt .. => 20
    | .frcp .. => 20
    | .frsq .. => 20
    | .fexp2 .. => 20
    | .flog2 .. => 20
    | .fsinpi .. => 20
    | .fcospi .. => 20
    | .ddiv .. => 20
    | .dsqrt .. => 20
    | .call .. => 4
    | .callx .. => 4
    | .ld .. => 0
    | .st .. => 0
    | .fadr .. => 0
    | _ => 8

/-- Scoreboard entries of a word beyond those of registers and predicates: the trap registers that `movsw` writes (R380), by
128 + their code. -/
def boardWrites : Instr → List Nat
  | .movsw sr _ => [128 + sr.toNat]
  | i => i.writesNow

/-- The trap register that `movs` reads (R380). -/
def boardReads : Instr → List Nat
  | .movs _ sr => [128 + sr.toNat]
  | _ => []

/-- A word's results become readable `n` cycles after its issue in cycle `now` (R338). A `dcmp` aimed at `q0` makes its entry too,
although the result is discarded: the spec does not say whether it does (DESIGN CHOICE, log 76). -/
def Fibre.markBusy (f : Fibre) (now n : Nat) (regs : List Nat) : Fibre :=
  if n = 0 ∨ regs = [] then f
  else { f with busy := f.busy.filter (fun x => decide (now < x.2)) ++ regs.map fun r => (r, now + n) }

/-- The first cycle in which none of some registers is waited for (R76, R338). -/
def Fibre.readableAt (f : Fibre) (regs : List Nat) : Nat :=
  f.busy.foldl (fun m x => if regs.contains x.1 then max m x.2 else m) 0

/-- The four-cycle results of a word that issued in cycle `now` (R76); `f0` is the fibre before the write. -/
def Fibre.markFresh (f0 f : Fibre) (now : Nat) (regs : List Nat) : Fibre :=
  { f with fresh := (f.fresh.filter fun x => now < x.ready && !regs.contains x.reg) ++
      (regs.filter (· != 64)).map fun n =>
        { reg := n, ready := now + 4,
          old := if n < 64 then f0.reg n else (if f0.pred (n - 64) then 1 else 0) } }

/-- A request without one fibre as a receiver. -/
def CmdReq.without (q : CmdReq) (id : Nat) : CmdReq :=
  { q with dests := q.dests.filter (· != id), lanes := q.lanes.filter fun l => l.1 != id }

/-- A fibre's failure in the chain (R352): it stands as the chain found it, without what the chain's words have done for
it, and is parked when the chain ends (log 14). -/
def State.failFibre (s : State) (is : Issue) (vf : Fibre) (t : Trap) : State :=
  let s1 := s.modBlock is.launch is.block fun b =>
    let late (q : CmdReq) : Bool := q.fibre == vf.id && decide (vf.seq ≤ q.seq)
    let gone := (b.reqs.filter late).map CmdReq.id
    { (b.modFibre vf.id fun _ => vf) with
      contribs := b.contribs.filter fun c => !(c.key.fibre == vf.id && vf.seq ≤ c.key.seq),
      gadds := b.gadds.filter fun g => !(g.2.2.1 == vf.id && vf.seq ≤ g.2.2.2),
      spawns := b.spawns.filter fun r => !(r.fibre == vf.id && vf.seq ≤ r.seq),
      ltols := b.ltols.filter fun r => !(r.1 == vf.id && vf.seq ≤ r.2.1),
      reqs := (b.reqs.filter fun q => !late q).map fun q =>
        if vf.tokens.any (fun t => t.cmd == q.id) then q else q.without vf.id,
      fibres := b.fibres.map fun f =>
        if f.id = vf.id then vf else { f with tokens := f.tokens.filter fun t => !gone.contains t.cmd } }
  { s1 with issue := some { is with live := is.live.filter (· != vf.id),
                                    parks := is.parks ++ [(vf.id, t.code, t.info0, t.info1)] } }

/-- Record an access in a core's CACHE banks (R224, R225). -/
def Core.touchLine (k : Core) (t : Touch) : Core :=
  let ways := (k.banks.filter (· == .cache)).length
  if !t.cached || ways = 0 then k
  else
    let set := t.line % 256
    let same := k.cache.filter fun x => x.line % 256 == set && !(x.line == t.line && x.own == t.own)
    let others := k.cache.filter fun x => x.line % 256 != set
    let hit := k.cache.find? fun x => x.line == t.line && x.own == t.own
    let kept := same.drop (same.length + 1 - ways)
    let new : CacheLine := match hit with
      | some x => x
      | none => { line := t.line, ro := t.keep, own := t.own }
    let ordered := match hit, t.hint with
      | some _, _ => kept ++ [new]
      | none, 1 => new :: kept
      | none, 2 => kept ++ [new]
      | none, _ => kept.take (ways / 2) ++ new :: kept.drop (ways / 2)
    { k with cache := others ++ ordered }

/-- Record one access in its core: range table and CACHE banks. -/
def State.touchOne (s : State) (core tenant : Nat) (t : Touch) : State :=
  let s1 := match t.va with
    | some va => s.touchRange core tenant va
    | none => s
  s1.modCore core fun k => k.touchLine t

/-- Record the accesses of a fibre in its core. -/
def State.touchAll (s : State) (core tenant : Nat) (ts : List Touch) : State :=
  ts.foldl (fun s t => s.touchOne core tenant t) s

/-- A core has returned the newer bytes of some lines: no fibre on it, of any launch, reads the older ones again (R226). -/
def State.noteSeen (s : State) (core : Nat) (lines : List Nat) : State :=
  if lines.isEmpty then s
  else
    { s with launches := s.launches.map fun (l : Launch) => { l with
        stale := l.stale.map fun y => if lines.contains y.line then { y with seen := core :: y.seen } else y } }

/-- The core a home group issues from (R335). -/
def Block.coreOf (b : Block) (group : Nat) : Nat := ((b.group? group).map Group.core).getD b.core

/-- Store a fibre's effect. -/
def State.putEff (s : State) (is : Issue) (core tenant : Nat) (x : Eff) (f : Fibre) : State :=
  let s1 := s.modBlock is.launch is.block fun b =>
    { (b.modFibre f.id fun _ => f) with
      contribs := b.contribs ++ x.contribs, gadds := b.gadds ++ x.gadds, spawns := b.spawns ++ x.spawns,
      ltols := b.ltols ++ x.ltols }
  { ((s1.noteSeen core x.seen).touchAll core tenant x.touch) with free := s.free + x.used }

/-- True when the packet being issued holds a control word (R204). -/
def Issue.hasControl (is : Issue) : Bool :=
  is.words.any fun w =>
    match decodeWord w.toNat with
    | .ok { body := .instr i, .. } => i.isControl
    | _ => false

/-- A faulting access still fills the range-table entry that its walk found (R295). -/
def State.walkTrap (s : State) (core tenant : Nat) (t : Trap) : State :=
  match t.walked with
  | some va => s.touchRange core tenant va
  | none => s

/-- A misaligned access in a trap routine is `DOUBLE_TRAP` with the code that would have been raised (R350). -/
def Fibre.trapOf (f : Fibre) (t : Trap) : Trap :=
  if t.code = .misaligned ∧ f.trap.mode then { code := .doubleTrap, info0 := FaultCode.misaligned.num, info1 := 0 } else t

/-- What a run-time fault of a fibre becomes (R204, R350): a misaligned `ld`, `st` or `fadr` waits for the packet's end
when it takes the trap-routine path; inside a trap routine it is `DOUBLE_TRAP`. -/
def State.raiseFor (s : State) (e : Env) (i : Instr) (vf cf : Fibre) (t : Trap) : State :=
  if t.code = .misaligned ∧ cf.trap.mode then s.failFibre e.is vf (cf.trapOf t)
  else if t.code = .misaligned ∧ i.isMem ∧ e.l.trapvec ≠ 0xFFFFFFFF ∧ !e.is.hasControl then
    s.modFibre e.is.launch e.is.block vf.id fun f =>
      if f.ctl.isSome then f
      else { f with ctl := some (.misaligned t.info0 t.info1, e.is.word, e.is.pos) }
  else s.failFibre e.is vf t

/-- One word for one fibre of the fragment: guard, register checks, early reads, the word's own effect, its writes. -/
def State.runFibre (i : Instr) (eff : Env → Fibre → Fibre → Except Trap Eff) (id : Nat) (s : State) : State :=
  match s.env? with
  | none => s
  | some e =>
    match e.b.fibre? id, (s.launch? e.is.launch).bind (·.block? e.is.block) |>.bind (·.fibre? id) with
    | some vf, some cf =>
      let m := e.is.mods
      let now := e.is.cycle
      let gq := 64 + m.gq.toNat
      match (if m.gq = 0 then none else regCheck vf [gq]) with
      | some t => s.failFibre e.is vf t
      | none =>
        let g := vf.earlyView now s.free (if m.gq = 0 then [] else [gq])
        if g.1.pred m.gq.toNat == m.gn then { s with free := g.2 }
        else
          let named := i.newestReads m ++ i.writesNow
          match regCheck vf named with
          | some t => ({ s with free := g.2 } : State).failFibre e.is vf t
          | none =>
            let r := g.1.earlyView now g.2 (i.newestReads m)
            let s1 : State := { s with free := r.2 }
            match eff { e with s := s1 } r.1 cf with
            | .error t => (s1.walkTrap (e.b.coreOf cf.group) e.l.tenant t).raiseFor e i vf cf t
            | .ok x =>
              let w := vf.earlyWrites x.fibre now (s1.free + x.used) i.writesNow
              let f := if i.fourCycle then cf.markFresh w.1 now i.writesNow
                else w.1.markBusy now (boardCycles i) (boardWrites i)
              { (s1.putEff e.is (e.b.coreOf cf.group) e.l.tenant x f) with free := w.2 }
    | _, _ => s

/-- A word for every fibre of the fragment that is still in the packet, in key order (R17, R20). -/
def State.eachFibre (i : Instr) (eff : Env → Fibre → Fibre → Except Trap Eff) : List Nat → State → State
  | [], s => s
  | id :: ids, s => State.eachFibre i eff ids (State.runFibre i eff id s)

/-- A word that acts once for each active fibre (R17, R118). With no word being issued it has no effect (log 14). -/
def State.actEach (s : State) (i : Instr) (eff : Env → Fibre → Fibre → Except Trap Eff) : State :=
  match s.issue with
  | none => s
  | some is => State.eachFibre i eff is.live s

/-- Whether the guard lets a fibre act, and whether it can be evaluated (R17). -/
def Env.active (e : Env) (f : Fibre) : Bool := f.pred e.is.mods.gq.toNat != e.is.mods.gn

/-- The elected fibre: the active fibre with the lowest key (R17). -/
def Env.elected (e : Env) : Option Fibre :=
  (e.is.live.filterMap e.b.fibre?).find? e.active

/-- The three outcomes of this machine. -/
abbrev Out := Host.Outcome State Fault Refusal

/-- A word with one 32-bit result: `v[d]` of each active fibre receives `v` (R120). -/
def State.setReg (s : State) (i : Instr) (d : BitVec 6) (v : Env → Fibre → Word) : Out :=
  .next (s.actEach i fun e r f => own (f.write [(d.toNat, v e r)]))

/-- A word with one 64-bit result, in the pair d (R87). -/
def State.setPair (s : State) (i : Instr) (d : BitVec 6) (v : Env → Fibre → DWord) : Out :=
  .next (s.actEach i fun e r f => own (f.writePair d.toNat (v e r)))

/-- A word that applies a truth value to a predicate spec (R88). -/
def State.setSpec (s : State) (i : Instr) (p : BitVec 6) (x : Env → Fibre → Bool) : Out :=
  .next (s.actEach i fun e r f => own (f.setPred r p (x e r)))

end Sys2Proof.Machine
end

