-- ==== Sys2Proof/Machine/Cap.lean ====
section
/-! DEFINITION. The capability instructions (10_isa_memory_capabilities.md R206 to R211). -/

namespace Sys2Proof.Machine

/-- A fault of a CAP word: the word in info0, 0 in info1 (R206). -/
def Env.capTrap (e : Env) (code : FaultCode) : Trap := { code := code, info0 := e.is.word, info1 := 0 }

/-- The checks that `capsub` and `capperm` share (R207, R208). -/
def Env.deriveCap (e : Env) (f : Fibre) (a : BitVec 4) : Except Trap Cap :=
  let c := capOf (f.quad a.toNat)
  if !capValid e.l (f.tag a.toNat) c then .error (e.capTrap .capTag)
  else if !c.hasSub || (c.isSup && !e.l.sup) then .error (e.capTrap .capPerm)
  else .ok c

/-- The permissions `capperm` leaves (R208). -/
def narrowPerm (p m : Nat) : Nat :=
  let q := p &&& (m % 256)
  let q1 := if m / 4 % 2 = 1 ∧ p / 2 % 2 = 1 then (q ||| 4) - (q ||| 4) % 2 else q
  q1 % 128

/-- CAPSUB (R207). -/
def execCapsub (d a : BitVec 4) (b : BitVec 6) (s : State) : Out :=
  .next (s.actEach (.capsub d a b) fun e r f =>
    match e.deriveCap r a with
    | .error t => .error t
    | .ok c =>
      let o := (r.pair b.toNat).toNat
      let n := (r.pair (b.toNat + 2)).toNat
      if c.len < o + n || 2 ^ 48 < c.base + o + n then .error (e.capTrap .capBounds)
      else own (f.writeCap d.toNat { c with base := c.base + o, len := n }.num))

/-- CAPPERM (R208). -/
def execCapperm (d a : BitVec 4) (b : BitVec 6) (s : State) : Out :=
  .next (s.actEach (.capperm d a b) fun e r f =>
    match e.deriveCap r a with
    | .error t => .error t
    | .ok c => own (f.writeCap d.toNat { c with perm := narrowPerm c.perm (r.reg b.toNat).toNat }.num))

/-- The fibre's private capability (R209) and its register-window capability (R200). -/
def privateCap (p : Nat) : Cap := { base := 0, len := p, space := 2, perm := 0x1B, objid := 0, zero := 0 }
def windowCap (w : Nat) : Cap := { base := 0, len := 4 * w, space := 6, perm := 0x1B, objid := 0, zero := 0 }

/-- The plain selectors of R209. -/
def capField (n : Nat) (tag : Bool) (sel : Nat) : Word :=
  match sel with
  | 0 => BitVec.ofNat 32 n
  | 1 => BitVec.ofNat 32 (bitsOf n 47 32)
  | 2 => BitVec.ofNat 32 (bitsOf n 79 48)
  | 3 => BitVec.ofNat 32 (bitsOf n 87 80)
  | 4 => BitVec.ofNat 32 (bitsOf n 91 88 + bitsOf n 99 92 * 2 ^ 4 + bitsOf n 115 100 * 2 ^ 12)
  | _ => if tag then 1 else 0

/-- CAPGET (R209); the tag of a lease that has ended reads as clear (R229, R275). -/
def execCapget (d : BitVec 6) (a : BitVec 4) (sel : BitVec 6) (s : State) : Out :=
  .next (s.actEach (.capget d a sel) fun e r f =>
    if sel = 16 then own (f.writeCap (d.toNat % 16) (privateCap e.l.privSize).num)
    else if sel = 17 then own (f.writeCap (d.toNat % 16) (windowCap e.l.window).num)
    else own (f.write [(d.toNat, capField (r.quad a.toNat) (e.l.tagOf (r.tag a.toNat) (capOf (r.quad a.toNat))) sel.toNat)]))

/-- CAPTAG (R210). -/
def execCaptag (p : BitVec 6) (a : BitVec 4) (s : State) : Out :=
  s.setSpec (.captag p a) p fun e f => capValid e.l (f.tag a.toNat) (capOf (f.quad a.toNat))

/-- The 128 bits of four registers from `a` on. -/
def Fibre.image (f : Fibre) (a : Nat) : Nat := (f.pair a).toNat + (f.pair (a + 2)).toNat * 2 ^ 64

/-- What `capmint` writes of an image: its bit 7 of the permissions as 0 (R193, R211). -/
def minted (n : Nat) : Nat := { capOf n with perm := (capOf n).perm % 128 : Cap }.num

/-- CAPMINT (R211) (log 23). -/
def execCapmint (d : BitVec 4) (a : BitVec 6) (s : State) : Out :=
  .next (s.actEach (.capmint d a) fun e r f =>
    if (capOf (r.image a.toNat)).wellFormed then own (f.writeCap d.toNat (minted (r.image a.toNat)))
    else .error (e.capTrap .capTag))

end Sys2Proof.Machine
end

