-- ==== Sys2Proof/Machine/Control.lean ====
section
/-! DEFINITION. Control words, transfers, steps, rounds, gates and `spawn` (06_isa_control_integer_lanes.md R122 to
R135), and what happens once a packet's last chain has issued (04 R74; 10 R204; 21 R349 to R352). -/

namespace Sys2Proof.Machine

/-! ## Parking what a chain or a packet's end has failed -/

/-- The fault codes in increasing order of number (R98, R352). -/
def allCodes : List FaultCode :=
  [.illegalOpcode, .illegalField, .lineHeader, .target, .privilege, .regWindow, .stallShort, .journalFull,
   .pendingRound, .capTag, .capBounds, .capPerm, .misaligned, .rangeMiss, .rangePerm, .partialResidency, .ownership,
   .engineHazard, .collision, .indexExhausted, .sparseCoord, .memUncorrectable, .format, .fabric, .watchdog,
   .trapCode, .breakCode, .doubleTrap]

/-- The entry of the fibre with the lowest key. -/
def lowestPark (ps : List (Nat × FaultCode × Nat × Nat)) : Option (Nat × FaultCode × Nat × Nat) :=
  ps.foldl (fun m p => match m with
    | none => some p
    | some q => if p.1 < q.1 then some p else some q) none

/-- One fragment's record for a code: the park path, or the machine path for `OWNERSHIP` (R348, R352, R359). -/
def State.parkCode (s : State) (l b group pc chain : Nat) (ps : List (Nat × FaultCode × Nat × Nat)) (code : FaultCode) :
    State :=
  let mine := ps.filter fun p => p.2.1 == code
  match lowestPark mine with
  | none => s
  | some p =>
    if code = .ownership then
      match s.launch? l with
      | none => s
      | some ln =>
        s.machinePath ln (ln.block? b) (some { group := group, ids := mine.map Prod.fst, pc := pc }) (p.2.2.1 + p.2.2.2 * 2 ^ 32)
    else s.park l b group (mine.map Prod.fst) code pc chain p.2.2.1 p.2.2.2

/-- The records of a chain's failures, in increasing order of code (R352). -/
def State.flushParks (s : State) (l b group pc chain : Nat) (ps : List (Nat × FaultCode × Nat × Nat)) : State :=
  allCodes.foldl (fun s c => s.parkCode l b group pc chain ps c) s

/-! ## The words -/

/-- NOP (R123). -/
def execNop (s : State) : Out := .next (s.actEach .nop fun _ _ f => own (.ok f))

/-- The context of a home group becomes the youngest on its slot under GTO (R123, R319). -/
def Core.youngest (k : Core) (l b g : Nat) : Core :=
  if k.policy = .gto then
    { k with contexts := k.contexts.map fun (c : Context) =>
                 if c.launch = l ∧ c.block = b ∧ c.group = g then { c with age := k.nextAge, streak := 0 } else c,
             nextAge := k.nextAge + 1 }
  else k

/-- YIELD (R123): with an active fibre, the cohort becomes the youngest. -/
def execYield (s : State) : Out :=
  let s1 := s.actEach .yield fun _ _ f => own (.ok f)
  match s.env?, s1.issue with
  | some e, some is1 =>
    if (is1.live.filterMap e.b.fibre?).any e.active then
      .next (s1.modCore (e.b.coreOf e.is.group) fun k => k.youngest e.is.launch e.is.block e.is.group)
    else .next s1
  | _, _ => .next s1

/-- Records what a control word does at the packet's end (R74), and the cycle in which it issued (R322). -/
def Env.setCtl (e : Env) (f : Fibre) (a : CtlAct) : Fibre :=
  if f.ctl.isSome then f else { f with ctl := some (a, e.is.word, e.is.pos), endAt := e.is.cycle }

/-- A control word that writes no register; `a` may fault at issue. -/
def State.controlled (s : State) (i : Instr) (a : Env → Fibre → Except Trap CtlAct) : Out :=
  .next (s.actEach i fun e r f => own ((a e r).map (e.setCtl f)))

/-- A control word that writes no register and does not fault at issue. -/
def State.control (s : State) (i : Instr) (a : Env → Fibre → CtlAct) : Out :=
  s.controlled i fun e f => .ok (a e f)

/-- A fault of a control word that names the word and its position (R97, R127). -/
def Env.wordTrap (e : Env) (code : FaultCode) : Trap := { code := code, info0 := e.is.word, info1 := e.is.pos }

/-- `trap` and `brk`: in a trap routine `DOUBLE_TRAP` with the code that would have been raised (R126, R350). -/
def trapAct (f : Fibre) (code : FaultCode) (info0 : Nat) : Except Trap CtlAct :=
  if f.trap.mode then .error { code := .doubleTrap, info0 := code.num, info1 := 0 } else .ok (.trap code info0)

/-- `stop`, `rstop` and `exit`: in a trap routine `DOUBLE_TRAP` (R127). -/
def Env.stepAct (e : Env) (f : Fibre) (a : CtlAct) : Except Trap CtlAct :=
  if f.trap.mode then .error (e.wordTrap .doubleTrap) else .ok a

/-- A control word that writes a link register in its own chain (R124, R125). -/
def State.linking (s : State) (i : Instr) (reg : Nat) (a : Env → Fibre → CtlAct) : Out :=
  .next (s.actEach i fun e r f =>
    own ((f.write [(reg, BitVec.ofNat 32 (nextPacket e.is.pc))]).map fun g => e.setCtl g (a e r)))

/-- The destination of `br`, `call` and `spawn`: a packet of a line (R79, R124). One before the image's first line counts as
beyond every image, so that it is `TARGET` (R69). -/
def destOf (pc : Nat) (delta : Int) (slot : Nat) : Nat :=
  ((((pc / 128 * 128 : Nat) : Int) + delta * 128 + 8 + 12 * slot) % 2 ^ 33).toNat

/-- BRK (R126). -/
def execBrk (s : State) : Out := s.controlled .brk fun _ f => trapAct f .breakCode 0
/-- TRAP (R126). -/
def execTrap (code : BitVec 12) (s : State) : Out := s.controlled (.trap code) fun _ f => trapAct f .trapCode code.toNat
/-- TRET (R127): outside a trap routine `ILLEGAL_FIELD`. -/
def execTret (s : State) : Out :=
  s.controlled .tret fun e f => if f.trap.mode then .ok .tret else .error (e.wordTrap .illegalField)
/-- EXIT (R128). -/
def execExit (s : State) : Out := s.controlled .exit fun e f => e.stepAct f .exit
/-- STOP (R130). -/
def execStop (s : State) : Out := s.controlled .stop fun e f => e.stepAct f .stop
/-- RSTOP (R131). -/
def execRstop (s : State) : Out := s.controlled .rstop fun e f => e.stepAct f (.rstop none)
/-- BR (R124). -/
def execBr (delta : BitVec 19) (slot : BitVec 4) (s : State) : Out :=
  s.control (.br delta slot) fun e _ => .jump (destOf e.is.pc delta.toInt slot.toNat)
/-- CALL (R124). -/
def execCall (a : BitVec 6) (delta : BitVec 13) (slot : BitVec 4) (s : State) : Out :=
  s.linking (.call a delta slot) a.toNat fun e _ => .jump (destOf e.is.pc delta.toInt slot.toNat)
/-- BRX (R125). -/
def execBrx (a : BitVec 6) (s : State) : Out := s.control (.brx a) fun e f => .jump (e.srcA f a).toNat
/-- CALLX (R125): A is read before the link is written. -/
def execCallx (d a : BitVec 6) (s : State) : Out :=
  s.linking (.callx d a) d.toNat fun e f => .jump (e.srcA f a).toNat
/-- RET (R125). -/
def execRet (a : BitVec 6) (s : State) : Out := s.control (.ret a) fun e f => .jump (e.srcA f a).toNat

/-- A gate index at or above the launch's gate count (R39). -/
def Env.gateTrap (e : Env) : Trap := e.wordTrap .illegalField

/-- RSTOP_GATED (R131): the gate's index is checked first (R39), then the trap mode (R127) (log 13). -/
def execRstopGated (g : BitVec 6) (s : State) : Out :=
  s.controlled (.rstopGated g) fun e f =>
    if e.l.gates ≤ g.toNat then .error e.gateTrap else e.stepAct f (.rstop (some g.toNat))

/-- GADD (R132): the amount waits in the step buffer. -/
def execGadd (g b : BitVec 6) (s : State) : Out :=
  .next (s.actEach (.gadd g b) fun e r f =>
    if e.l.gates ≤ g.toNat then .error e.gateTrap
    else .ok { fibre := { f with seq := f.seq + 1 }, gadds := [(g.toNat, (e.srcB r b).toNat, f.id, f.seq)] })

/-- The count `gread` returns (R40): one of those the gate has held since the step began; when there are several, a free choice
decides which. Answers the choices used too (log 16). -/
def Env.gateCount (e : Env) (g : Nat) : Nat × Nat :=
  let now := ((e.s.gate? (e.l.gateIndex g)).map Gate.count).getD 0
  match e.b.gateSeen.getD g [] with
  | [] => (now, 0)
  | [n] => (n, 0)
  | ns => (ns.getD (Config.freeChoice e.s.free % ns.length) now, 1)

/-- GREAD (R133). -/
def execGread (d g : BitVec 6) (s : State) : Out :=
  .next (s.actEach (.gread d g) fun e _ f =>
    if e.l.gates ≤ g.toNat then .error e.gateTrap
    else
      match f.write [(d.toNat, BitVec.ofNat 32 (e.gateCount g.toNat).1)] with
      | .error t => .error t
      | .ok h => .ok { fibre := h, used := (e.gateCount g.toNat).2 })

/-- SPAWN (R135): a request in the step buffer; q15 stays pending until the commit (R36). -/
def execSpawn (a : BitVec 6) (delta : BitVec 13) (slot : BitVec 4) (s : State) : Out :=
  .next (s.actEach (.spawn a delta slot) fun e r f =>
    match f.savePreds with
    | .error t => .error t
    | .ok g =>
      let whole := a.toNat % 4 = 0
      .ok { fibre := { g with spawnPending := true, seq := g.seq + 1 },
            spawns := [{ fibre := f.id, seq := f.seq, group := e.is.group, exec := e.is.cycle,
                         target := destOf e.is.pc delta.toInt slot.toNat, origin := e.is.pc,
                         regs := (List.range 8).map fun k => r.reg (a.toNat + k),
                         tag0 := decide whole && r.tag (a.toNat / 4),
                         tag1 := decide whole && r.tag (a.toNat / 4 + 1) }] })

/-- UNASSIGNED_ENCODING (R95): `ILLEGAL_OPCODE` by the park path in every fibre of the fragment, whatever its guards
(R118), at the packet's first chain, with the word and its position (R97). -/
def execUnassignedEncoding (w : BitVec 32) (s : State) : Out :=
  match s.issue with
  | none => .next s
  | some is => .next { s with issue := some { is with
      live := [], parks := is.parks ++ is.live.map fun id => (id, FaultCode.illegalOpcode, w.toNat, is.pos) } }

/-! ## The packet's end -/

/-- The chain a position of a packet belongs to: the words before it whose C bit is clear (R71). -/
def chainAt (words : List (BitVec 32)) (pos : Nat) : Nat := ((words.take pos).filter fun w => !w.getLsbD 31).length

/-- Everything a fibre has on its way from memory lands (R22, R201). -/
def Fibre.landLoad (f : Fibre) (p : PendLoad) : Fibre :=
  let g := f.putRegs p.regs
  match p.tag with
  | some (q, t) => g.putTag q t
  | none => g

/-- All loads land; a `stop` waits for them (R22). -/
def Fibre.landAll (f : Fibre) : Fibre := { f.loads.foldl Fibre.landLoad f with loads := [] }

/-- What a fibre leaves at `exit` (R128, R199). Tokens, `fadr` results of earlier steps and what is poisoned of its private memory
stay until the step commits, since an abort undoes the exit (R362). -/
def Fibre.leave (f : Fibre) (step : Nat) : Fibre := { f with status := .exited step, ctl := none, loads := [], privMem := [], rstopAt := none }

/-- The first cycle in which every result that the fibre still waits for can be read (R22, R322). -/
def Fibre.settledAt (f : Fibre) : Nat :=
  let a := f.loads.foldl (fun m p => max m p.due) f.endAt
  let b := f.fresh.foldl (fun m x => max m x.ready) a
  f.busy.foldl (fun m x => max m x.2) b

/-- A fibre that ends its step by `stop` or `rstop` (R22): it falls through to the next packet when it goes on (R69). -/
def Fibre.endStep (f : Fibre) (status : FStatus) : Fibre := { f.landAll with status := status, endAt := f.settledAt }

/-- What the packet's end does to one fibre: its next state, or the fault it parks on with the packet and chain at
which it resumes, and the gate it names. -/
inductive EndOf where
  | goes (f : Fibre)
  | parks (f : Fibre) (code : FaultCode) (info0 info1 pc chain : Nat)
  deriving DecidableEq, Repr, Inhabited

/-- The packet's end for one fibre (R74, R124 to R131, R204). `debug` is the region's debug state (R351) (log 13). The faults of
R127 and R350 were raised when the word issued. -/
def Fibre.endPacket (f : Fibre) (pc step vec : Nat) (debug : Bool) : EndOf :=
  let next := nextPacket pc
  let g := { f with ctl := none, pc := next, chain := 0, arrival := .fall pc }
  match f.ctl with
  | none => .goes g
  | some (act, _, _) =>
    match act with
    | .jump d => .goes { g with pc := d, arrival := .transfer pc }
    | .misaligned i0 i1 => .goes ({ f with ctl := none }.takeTrap .misaligned next i0 i1 vec pc)
    | .trap code i0 =>
      if vec = 0xFFFFFFFF ∨ (debug ∧ code = .breakCode) then .parks g code i0 0 next 0
      else .goes ({ f with ctl := none }.takeTrap code next i0 0 vec pc)
    | .tret => .goes { f with ctl := none }.returnTrap
    | .stop => .goes (g.endStep .atStop)
    | .rstop _ => .goes (g.endStep (.atRstop step))
    | .exit => .goes (g.leave step)

/-- The gate a fibre's `rstop` names at the packet's end. -/
def Fibre.namesGate (f : Fibre) : Option Nat :=
  match f.ctl with
  | some (.rstop g, _, _) => g
  | _ => none

/-- A fibre's loads, as lines on their way. -/
def State.straysOf (s : State) (l b : Nat) (f : Fibre) : List Stray :=
  match s.launch? l with
  | none => []
  | some ln => match ln.block? b with
    | none => []
    | some bl => bl.straysOf ln.tenant f

/-- The packet's end for the fibres that have come through it. Answers the state and what parks. A line that is still on its way
when its fibre ends the step or exits keeps its miss register until it arrives (R218). -/
def State.endFibres (s : State) (is : Issue) (l : Launch) (step : Nat) (debug : Bool) :
    List Nat → State × List ((Nat × FaultCode × Nat × Nat) × Nat × Nat)
  | [] => (s, [])
  | id :: ids =>
    match ((s.launch? is.launch).bind (·.block? is.block)).bind (·.fibre? id) with
    | none => s.endFibres is l step debug ids
    | some f =>
      let s1 := match f.namesGate with
        | some g => s.modBlock is.launch is.block fun b => { b with named := b.named ++ [(g, id)] }
        | none => s
      match f.endPacket is.pc step l.trapvec debug with
      | .goes g => ((s1.keepStrays (if g.loads.isEmpty then s1.straysOf is.launch is.block f else [])).modFibre is.launch is.block id fun _ => g).endFibres is l step debug ids
      | .parks g code i0 i1 pc chain =>
        let r := (s1.modFibre is.launch is.block id fun _ => g).endFibres is l step debug ids
        (r.1, ((id, code, i0, i1), pc, chain) :: r.2)

/-- Once the last chain has issued (R74): every fibre goes on, and the failures are recorded (R352). At most one
packet and chain of resumption occur among them, since a packet has one control word. -/
def State.finishPacket (s : State) (is : Issue) : State :=
  match s.env? with
  | none => s
  | some e =>
    let debug := ((s.region? e.l.rcb).bind Region.dbg).isSome
    let r := s.endFibres is e.l e.b.step debug is.live
    match r.2 with
    | [] => r.1
    | x :: _ => r.1.flushParks is.launch is.block is.group x.2.1 x.2.2 (r.2.map Prod.fst)

end Sys2Proof.Machine
end

