-- ==== Sys2Proof/Machine/Mem.lean ====
section
/-! DEFINITION. Loads, stores, `fadr` and the block registers (10_isa_memory_capabilities.md R196 to R205; the
write-only path's issue checks of 03 R61). -/

namespace Sys2Proof.Machine

/-- What an access wants to do. -/
inductive MemOp where
  | load
  /-- a store with its rule -/
  | store (rule : Nat)
  | fadr
  deriving DecidableEq, Repr, Inhabited

/-- An access that has passed the checks 1 to 4 of R197. -/
structure Acc where
  cap  : Cap
  addr : Nat
  /-- bytes: 1 for `.x4` -/
  size : Nat
  nib  : Option Nat
  idx  : Nat
  deriving DecidableEq, Repr, Inhabited

/-- Bytes an access covers, by size code; `.x4` covers part of one (R90, R196). -/
def sizeBytes (size : Nat) : Nat := if size = 0 then 1 else 2 ^ (size - 1)

/-- The alignment an access needs (R197 item 4). -/
def sizeAlign (size : Nat) : Nat := if size ≤ 1 then 1 else 2 ^ (size - 1)

/-- Check 2 of R197 by the table of R198; `none` where the space lets the access through. -/
def spaceCheck (c : Cap) (op : MemOp) (sup : Bool) : Option FaultCode :=
  if c.isSup && !sup then some .capPerm
  else
    match op with
    | .load => if !c.canR || c.space = 4 || c.space = 7 then some .capPerm else none
    | .fadr => if !c.canR || !c.canW || (c.space != 0 && c.space != 1) then some .capPerm else none
    | .store rule =>
      if !c.canW || c.space = 3 || c.space = 4 || c.space = 7 then some .capPerm
      else if c.isWO && c.space != 0 && c.space != 5 then some .capPerm
      else if c.isWO && rule != 0 && rule != 1 && rule != 6 then some .illegalField
      else if (c.space = 2 || c.space = 6) && rule != 0 && rule != 1 then some .illegalField
      else none

/-- The element index (R196). -/
def Env.memIdx (e : Env) (f : Fibre) (x : BitVec 6) : Nat :=
  ((f.reg x.toNat).toNat + (if e.is.mods.kind = 1 then e.is.mods.c.toNat else 0)) % 2 ^ 32

/-- Checks 1 to 4 of R197. -/
def Env.access (e : Env) (f : Fibre) (q : BitVec 4) (x : BitVec 6) (size : BitVec 3) (op : MemOp) : Except Trap Acc :=
  let idx := e.memIdx f x
  let sz := size.toNat
  let n := sizeBytes sz
  let c := capOf (f.quad q.toNat)
  let off := if sz = 0 then idx / 2 else idx * n
  let bad (code : FaultCode) : Except Trap Acc := .error { code := code, info0 := e.is.word, info1 := idx }
  if !capValid e.l (f.tag q.toNat) c then bad .capTag
  else
    match spaceCheck c op e.l.sup with
    | some code => bad code
    | none =>
      if c.len < off + n || 2 ^ 48 < c.base + off + n then bad .capBounds
      else if (c.base + off) % sizeAlign sz ≠ 0 then bad .misaligned
      else .ok { cap := c, addr := c.base + off, size := n, nib := if sz = 0 then some (idx % 2) else none, idx := idx }

/-- The fault of checks 5 and 6 of R197. -/
def addrTrap (code : FaultCode) (addr : Nat) : Trap :=
  { code := code, info0 := addr % 2 ^ 32, info1 := addr / 2 ^ 32 % 2 ^ 16 }

/-- The same of an access to memory: its walk fills the range table (R295). -/
def walkedTrap (code : FaultCode) (addr : Nat) : Trap := { addrTrap code addr with walked := some addr }

/-- Check 5 of R197. -/
def Env.phys (e : Env) (f : Fibre) (a : Access) (va : Nat) : Except Trap Nat :=
  match e.s.translate (some (e.b.coreOf f.group)) e.l.tenant a va with
  | .ok pa => .ok pa
  | .error c => .error (walkedTrap c va)

/-- What a load of global memory returns: the round-start bytes, or, in a line an outside agent has written in the
round, old or new bytes as a free choice decides, and new ones once this core has returned them (R29, R59, R226). A core that returns a
line's newest bytes has seen them for every launch. Answers the bytes, the lines now seen as new, and the choices used. -/
def Env.globalBytes (e : Env) (core pa n : Nat) : List Byte × List Nat × Nat :=
  let unseen := e.s.launches.any fun (l : Launch) => l.stale.any fun x => x.line == pa / 128 && !x.seen.contains core
  let newest := (e.s.mem.bytes pa n, if unseen then [pa / 128] else [], 0)
  match e.l.stale.find? fun x => x.line == pa / 128 with
  | none => newest
  | some x =>
    if x.seen.contains core then newest
    else if Config.freeChoice e.s.free % 2 = 0 then ((x.old.drop (pa % 128)).take n, [], 1)
    else (e.s.mem.bytes pa n, [x.line], 1)

/-- Bytes of the register window (R200). -/
def Fibre.windowBytes (f : Fibre) (addr n : Nat) : List Byte :=
  (List.range n).map fun i => BitVec.ofNat 8 ((f.reg ((addr + i) / 4)).toNat / 256 ^ ((addr + i) % 4))

/-- Registers that a window access names. -/
def windowRegs (addr n : Nat) : List Nat := (List.range ((addr + n - 1) / 4 + 1 - addr / 4)).map (addr / 4 + ·)

/-- The core that is home to a scratch line of the block (R223). -/
def Env.scratchHome (e : Env) (core line : Nat) : Nat :=
  let cs := e.s.physicalCores e.l.tenant e.b.index e.b.cores
  cs.getD (line % cs.length) core

/-- A line is held in a core's CACHE banks (R224). -/
def State.cached (s : State) (core line : Nat) (own : Option (Nat × Nat × Nat)) : Bool :=
  (s.core? core).any fun k => k.cache.any fun x => x.line == line && x.own == own

/-- What a load read: bytes, tag, what the core records, the line its miss register fetches (R218), and the cycles it takes
at least (R201), what memory beyond the L2 adds left out (log 8). -/
structure Got where
  bytes : List Byte
  tag   : Bool := false
  touch : List Touch := []
  seen  : List Nat := []
  used  : Nat := 0
  line  : List Nat := []
  va    : Option Nat := none
  cycles : Nat := 0
  deriving DecidableEq, Repr, Inhabited

/-- The line a load must fetch for its core, if it must (R218): none of the window or of the core's own scratch, none that a CACHE
bank holds. -/
def Env.missLine (e : Env) (f : Fibre) (space addr pa : Nat) : List Nat :=
  let core := e.b.coreOf f.group
  match space with
  | 1 => if e.scratchHome core (addr / 128) = core then [] else [e.l.id, e.b.index, addr / 128]
  | 2 =>
    if e.s.cached core (addr / 128) (some (e.l.id, e.b.index, f.id)) then [] else [e.l.id, e.b.index, f.id, addr / 128]
  | 6 => []
  | _ => if e.s.cached core (pa / 128) none then [] else [pa / 128]

/-- The launch's constant block holds a run of bytes (R29). -/
def Launch.isConst (l : Launch) (space addr size : Nat) : Bool :=
  space == 3 && decide (l.constbase ≤ addr) && decide (addr + size ≤ l.constbase + 1024)

/-- The data of a load by space (R198), with checks 5 and 6. -/
def Env.loadData (e : Env) (f : Fibre) (a : Acc) (hint : Nat) : Except Trap Got :=
  let tagged := a.size = 16 ∧ a.cap.hasCaps
  let core := e.b.coreOf f.group
  match a.cap.space with
  | 1 =>
    if e.s.scratchPoison.contains (e.l.id, e.b.index, a.addr / 128) then .error (addrTrap .memUncorrectable a.addr)
    else
      let line := e.missLine f 1 a.addr 0
      .ok { bytes := Memory.bytes e.b.scratch a.addr a.size,
            tag := decide tagged && e.b.scratchTags.contains a.addr, line := line, cycles := if line.isEmpty then 24 else 60 }
  | 2 =>
    if f.privPoison.contains (a.addr / 128) then .error (addrTrap .memUncorrectable a.addr)
    else
      .ok { bytes := Memory.bytes f.privMem a.addr a.size, line := e.missLine f 2 a.addr 0,
            cycles := if (e.missLine f 2 a.addr 0).isEmpty then 30 else 220,
            touch := [{ va := none, line := a.addr / 128, own := some (e.l.id, e.b.index, f.id), keep := true, hint := hint,
                        cached := true }] }
  | 6 =>
    match f.pendingAny (windowRegs a.addr a.size) with
    | some t => .error t
    | none => .ok { bytes := f.windowBytes a.addr a.size, tag := decide tagged && f.tag (a.addr / 16), cycles := 8 }
  | sp =>
    match e.phys f (if sp = 3 then .constLoad else .load) a.addr with
    | .error t => .error t
    | .ok pa =>
      if e.s.poisoned pa then .error (walkedTrap .memUncorrectable a.addr)
      else
        let g := if e.l.isConst sp a.addr a.size then ((e.l.consts.drop (a.addr - e.l.constbase)).take a.size, [], 0)
          else e.globalBytes core pa a.size
        .ok { bytes := g.1,
              touch := [{ va := some a.addr, line := pa / 128, own := none, keep := sp == 3 || !a.cap.canW, hint := hint,
                          cached := true }],
              seen := g.2.1, used := g.2.2, line := e.missLine f sp a.addr pa, va := some a.addr,
              cycles := if (e.missLine f sp a.addr pa).isEmpty then 30 else 220 }

/-- The registers of a load's result (R201): extension, nibble, pair or quad. -/
def loadWords (d size : Nat) (sx : Bool) (nib : Option Nat) (bs : List Byte) : List (Nat × Word) :=
  let n := match nib with
    | some k => ofLe bs / 16 ^ k % 16
    | none => ofLe bs
  let bits := match size with
    | 0 => 4
    | k => 8 * 2 ^ (k - 1)
  if size ≤ 2 then [(d, if sx then BitVec.ofInt 32 (signedOf bits n) else BitVec.ofNat 32 n)]
  else (List.range (bits / 32)).map fun i => (d + i, BitVec.ofNat 32 (n / 2 ^ (32 * i)))

/-- The journal and pending checks of a result that lands later (R30, R31, R55). -/
def Fibre.reserve (f : Fibre) (regs : List Nat) : Except Trap Fibre :=
  match f.pendingAny regs with
  | some t => .error t
  | none => f.saveRegs regs

/-- LD (R201): the data are fixed at issue and land with the load's return (R22, R76). -/
def execLd (d : BitVec 6) (cap : BitVec 4) (x : BitVec 6) (size hint : BitVec 3) (f : BitVec 1) (s : State) : Out :=
  .next (s.actEach (.ld d cap x size hint f) fun e r c =>
    match e.access r cap x size .load with
    | .error t => .error t
    | .ok a =>
      match e.loadData r a hint.toNat with
      | .error t => .error t
      | .ok g =>
        let ws := loadWords d.toNat size.toNat (f == 1) a.nib g.bytes
        match c.reserve (ws.map Prod.fst) with
        | .error t => .error t
        | .ok h =>
          .ok { fibre := { h with loads := h.loads ++
                    [{ regs := ws, tag := if size = 5 then some (d.toNat / 4, g.tag) else none,
                       line := g.line, core := e.b.coreOf c.group, va := g.va, issued := e.is.cycle, due := e.is.cycle + g.cycles }] },
                touch := g.touch, seen := g.seen, used := g.used })

/-- A contribution's key for the word a fibre issues (R45). -/
def Env.ckey (e : Env) (f : Fibre) : CKey :=
  { remote := 0, block := e.b.index, fibre := f.id, seq := f.seq, sub := 0 }

/-- The next position in the issue order (R45). -/
def Fibre.bump (f : Fibre) : Fibre := { f with seq := f.seq + 1 }

/-- The data operand of a store as a number (R202). -/
def storeValue (f : Fibre) (d size : Nat) : Nat :=
  match size with
  | 0 => (f.reg d).toNat % 16
  | 1 => (f.reg d).toNat % 256
  | 2 => (f.reg d).toNat % 65536
  | 3 => (f.reg d).toNat
  | 4 => (f.pair d).toNat
  | _ => f.quad (d / 4)

/-- Put a nibble into a byte. -/
def withNibble (b : Byte) (nib v : Nat) : Byte :=
  if nib = 0 then BitVec.ofNat 8 (b.toNat / 16 * 16 + v % 16) else BitVec.ofNat 8 (b.toNat % 16 + v % 16 * 16)

/-- The bytes a store writes over the bytes before it. -/
def storeBytes (nib : Option Nat) (size v : Nat) (old : List Byte) : List Byte :=
  match nib with
  | some k => [withNibble (old.headD 0) k v]
  | none => leBytes size v

/-- A store through the register window (R200). -/
def Fibre.windowStore (f : Fibre) (a : Acc) (v : Nat) (tag : Bool) : Except Trap Fibre :=
  let regs := windowRegs a.addr a.size
  let new := storeBytes a.nib a.size v (f.windowBytes a.addr a.size)
  let word (n : Nat) : Word := BitVec.ofNat 32 (ofLe ((List.range 4).map fun k =>
    let p := 4 * n + k
    if a.addr ≤ p ∧ p < a.addr + a.size then new.getD (p - a.addr) 0
    else BitVec.ofNat 8 ((f.reg n).toNat / 256 ^ k)))
  match f.write (regs.map fun n => (n, word n)) with
  | .error t => .error t
  | .ok g => .ok (if tag && a.size = 16 && a.cap.hasCaps then g.putTag (a.addr / 16) true else g)

/-- The nibbles of its space that an access covers. -/
def Acc.nibbles (a : Acc) : List Nat :=
  match a.nib with
  | some k => [2 * a.addr + k]
  | none => (List.range (2 * a.size)).map (2 * a.addr + ·)

/-- ST (R202). -/
def execSt (d : BitVec 6) (cap : BitVec 4) (x : BitVec 6) (size rule : BitVec 3) (f : BitVec 1) (s : State) : Out :=
  .next (s.actEach (.st d cap x size rule f) fun e r c =>
    match e.access r cap x size (.store rule.toNat) with
    | .error t => .error t
    | .ok a =>
      let v := storeValue r d.toNat size.toNat
      let tag := size = 5 ∧ r.tag (d.toNat / 4) ∧ a.cap.hasCaps
      let con (sp : CSpace) (pa : Nat) : Contrib :=
        { space := sp, addr := a.addr, size := a.size, nib := a.nib, value := v,
          tag := sp == .scratch && decide tag, rule := rule.toNat, flt := f == 1,
          key := e.ckey c, wo := a.cap.isWO, phys := pa, dest := none, opened := 0, issued := e.is.cycle }
      match a.cap.space with
      | 1 => .ok { fibre := c.bump, contribs := [con .scratch 0] }
      | 2 =>
        let old := Memory.bytes c.privMem a.addr a.size
        .ok { fibre := { c.bump with privMem := Memory.setBytes c.privMem a.addr (storeBytes a.nib a.size v old),
                                     privNibs := c.privNibs ++ a.nibbles } }
      | 6 => own ((c.bump.windowStore a v (r.tag (d.toNat / 4))).map fun g =>
          g.markBusy e.is.cycle 8 (windowRegs a.addr a.size))
      | _ =>
        match e.phys c .store a.addr with
        | .error t => .error t
        | .ok pa =>
          .ok { fibre := c.bump, contribs := [con .global pa],
                touch := [{ va := some a.addr, line := pa / 128, own := none, keep := false, hint := 0, cached := false }] })

/-- FADR (R203): a contribution under `.acc`, and a destination that stays pending until the commit (R54, R55). Its effect follows
every check of R197, that of its start value's line included. -/
def execFadr (d : BitVec 6) (cap : BitVec 4) (x : BitVec 6) (size : BitVec 3) (f : BitVec 1) (s : State) : Out :=
  .next (s.actEach (.fadr d cap x size f) fun e r c =>
    match e.access r cap x size .fadr with
    | .error t => .error t
    | .ok a =>
      let wide := size == 4
      let regs := if wide then [d.toNat, d.toNat + 1] else [d.toNat]
      let con (sp : CSpace) (pa : Nat) : Contrib :=
        { space := sp, addr := a.addr, size := a.size, nib := none, value := storeValue r d.toNat size.toNat,
          tag := false, rule := 3, flt := f == 1, key := e.ckey c, wo := false, phys := pa,
          dest := some (d.toNat, wide), opened := 0, issued := e.is.cycle }
      let pend (g : Fibre) (round : Bool) : Fibre :=
        { g.bump with fadrs := g.fadrs ++
            [{ reg := d.toNat, wide := wide, round := round, seq := g.seq, step := e.b.step, got := none }] }
      let takes (round : Bool) (x : Contrib) (touch : List Touch) : Except Trap Eff :=
        match c.reserve regs with
        | .error t => .error t
        | .ok g => .ok { fibre := pend g round, contribs := [x], touch := touch }
      if a.cap.space = 1 then
        if e.s.scratchPoison.contains (e.l.id, e.b.index, a.addr / 128) then .error (addrTrap .memUncorrectable a.addr)
        else takes false (con .scratch 0) []
      else
        match e.phys c .store a.addr with
        | .error t => .error t
        | .ok pa =>
          if e.s.poisoned pa then .error (walkedTrap .memUncorrectable a.addr)
          else takes true (con .global pa)
            [{ va := some a.addr, line := pa / 128, own := none, keep := false, hint := 0, cached := false }])

/-- MOVB (R205). -/
def execMovb (d : BitVec 6) (bi : BitVec 5) (s : State) : Out :=
  s.setReg (.movb d bi) d fun e _ => e.b.bregs.getD bi.toNat 0

/-- STB (R205). -/
def execStb (d : BitVec 6) (bi : BitVec 5) (rule : BitVec 3) (f : BitVec 1) (s : State) : Out :=
  .next (s.actEach (.stb d bi rule f) fun e r c =>
    .ok { fibre := c.bump,
          contribs := [{ space := .breg, addr := bi.toNat, size := 4, nib := none, value := (r.reg d.toNat).toNat,
                         tag := false, rule := rule.toNat, flt := f == 1, key := e.ckey c, wo := false, phys := 0,
                         dest := none, opened := 0, issued := e.is.cycle }] })

end Sys2Proof.Machine
end

