-- ==== Sys2Proof/Machine/Issue.lean ====
section
/-! DEFINITION. Words that act once for their fragment: engine words, supervisor words, `launch`, and `cp`. Each records a
command in the step buffer and makes its token register pending (14_isa_engine_commands.md R258 to R263; 17 R310; 22 R368,
R381; 13 R238). -/

namespace Sys2Proof.Machine

/-- What the issue of a word asks of its parameter block: ENG in the capability (R259), and the block's size and
alignment (R259, R381). -/
structure OnceForm where
  eng  : Bool
  size : Nat
  deriving DecidableEq, Repr, Inhabited

/-- An engine word (R259). -/
def engForm : OnceForm := { eng := true, size := 64 }
/-- A supervisor word (R310, R368). -/
def sysForm : OnceForm := { eng := false, size := 64 }
/-- `launch` (R381). -/
def launchForm : OnceForm := { eng := false, size := 128 }

/-- The fibres of the fragment that act, and the failures of guards that cannot be read (R17, R36, R76, R118). -/
def State.onceActive (e : Env) : List Nat → State → List Nat × State
  | [], s => ([], s)
  | id :: ids, s =>
    match e.b.fibre? id with
    | none => State.onceActive e ids s
    | some vf =>
      let m := e.is.mods
      let gq := if m.gq = 0 then [] else [64 + m.gq.toNat]
      match regCheck vf gq with
      | some t =>
        match s.issue with
        | some is => State.onceActive e ids (s.failFibre is vf t)
        | none => ([], s)
      | none =>
        let g := vf.earlyView e.is.cycle s.free gq
        let r := State.onceActive e ids { s with free := g.2 }
        if g.1.pred m.gq.toNat == m.gn then r else (id :: r.1, r.2)

/-- The checks on the capability and the offset at issue (R259, R310, R381), and the gate operand (R39, R260). -/
def Env.onceCheck (e : Env) (f : Fibre) (k : OnceForm) (a : BitVec 4) (b : BitVec 6) :
    Except Trap (Nat × Nat × Option Nat) :=
  let n := f.quad a.toNat
  let c := capOf n
  let off := (f.reg b.toNat).toNat
  let bad (code : FaultCode) : Except Trap (Nat × Nat × Option Nat) :=
    .error { code := code, info0 := e.is.word, info1 := off }
  let gate := if k.eng ∧ e.is.mods.kind = 2 then some ((f.reg e.is.mods.c.toNat).toNat % 64) else none
  if !capValid e.l (f.tag a.toNat) c then bad .capTag
  else if !c.canR || (k.eng && !c.hasEng) || (c.isSup && !e.l.sup) || 1 < c.space then bad .capPerm
  else if off % k.size != 0 || (c.base + off) % k.size != 0 then bad .illegalField
  else if c.len < off + k.size then bad .capBounds
  else
    match gate with
    | some g => if e.l.gates ≤ g then .error e.gateTrap else .ok (n, off, gate)
    | none => .ok (n, off, none)

/-- The token register becomes pending in each receiving fibre (R238); a fibre that cannot take it faults alone. -/
def State.onceTokens (e : Env) (d cmd : Nat) : List Nat → State → List Nat × State
  | [], s => ([], s)
  | id :: ids, s =>
    match e.b.fibre? id, ((s.launch? e.is.launch).bind (·.block? e.is.block)).bind (·.fibre? id), s.issue with
    | some vf, some cf, some is =>
      match regCheck vf [d] with
      | some t => State.onceTokens e d cmd ids (s.failFibre is vf t)
      | none =>
        match cf.reserve [d] with
        | .error t => State.onceTokens e d cmd ids (s.failFibre is vf t)
        | .ok g =>
          let r := State.onceTokens e d cmd ids (s.modFibre e.is.launch e.is.block id fun _ =>
            { g with tokens := g.tokens ++ [{ reg := d, cmd := cmd, step := e.b.step }] })
          (id :: r.1, r.2)
    | _, _, _ => State.onceTokens e d cmd ids s

/-- A command enters the step buffer with the key of its issuing fibre (R242, R259). -/
def State.recordReq (s : State) (e : Env) (q : CmdReq) : State :=
  let s1 := s.modBlock e.is.launch e.is.block fun b =>
    { (b.modFibre q.fibre fun f => { f with seq := f.seq + 1 }) with reqs := b.reqs ++ [q] }
  { s1 with nextCmd := s1.nextCmd + 1 }

/-- A word that acts once for its fragment through the elected fibre (R17, R259). -/
def State.once (s : State) (i : Instr) (k : OnceForm) (d : BitVec 6) (a : BitVec 4) (b : BitVec 6) : State :=
  match s.env? with
  | none => s
  | some e =>
    let r := State.onceActive e e.is.live s
    match r.1, r.2.issue with
    | el :: rest, some is =>
      match e.b.fibre? el, ((r.2.launch? e.is.launch).bind (·.block? e.is.block)).bind (·.fibre? el) with
      | some vf, some cf =>
        match regCheck vf (i.newestReads e.is.mods ++ [d.toNat]) with
        | some t => r.2.failFibre is vf t
        | none =>
          let ev := vf.earlyView e.is.cycle r.2.free (i.newestReads e.is.mods)
          let s1 : State := { r.2 with free := ev.2 }
          match e.onceCheck ev.1 k a b with
          | .error t => s1.failFibre is vf t
          | .ok (n, off, gate) =>
            match cf.reserve [d.toNat] with
            | .error t => s1.failFibre is vf t
            | .ok _ =>
              let g := State.onceTokens e d.toNat s1.nextCmd (el :: rest) s1
              g.2.recordReq e
                { id := s1.nextCmd, instr := i, fibre := el, seq := cf.seq, dests := g.1, reg := d.toNat, cap := n,
                  off := off, gate := gate, lanes := [] }
      | _, _ => r.2
    | _, _ => r.2

/-! ## `cp` -/

/-- The checks of R263 on one fibre: its lane of the command. -/
def Env.cpCheck (e : Env) (f : Fibre) (dst src : BitVec 4) (x : BitVec 6) (size : BitVec 2) :
    Except Trap (Nat × Nat × Nat × Nat) :=
  let n := 4 * 2 ^ size.toNat
  let di := (f.reg x.toNat).toNat
  let si := (f.reg (x.toNat + 1)).toNat
  let t := capOf (f.quad dst.toNat)
  let c := capOf (f.quad src.toNat)
  let bad (code : FaultCode) (idx : Nat) : Except Trap (Nat × Nat × Nat × Nat) :=
    .error { code := code, info0 := e.is.word, info1 := idx }
  let past (k : Cap) (o : Nat) : Bool := k.len < o + n || decide (2 ^ 48 < k.base + o + n)
  let tOk := t.canW && t.hasEng && (t.space == 0 || t.space == 1 || t.space == 5) && (!t.isSup || e.l.sup)
  let cOk := c.canR && c.hasEng && (c.space == 0 || c.space == 1 || c.space == 3 || c.space == 5) && (!c.isSup || e.l.sup)
  if !capValid e.l (f.tag dst.toNat) t then bad .capTag di
  else if !capValid e.l (f.tag src.toNat) c then bad .capTag si
  else if !tOk then bad .capPerm di
  else if !cOk then bad .capPerm si
  else if past t (di * n) then bad .capBounds di
  else if past c (si * n) then bad .capBounds si
  else if (t.base + di * n) % n != 0 then bad .misaligned di
  else if (c.base + si * n) % n != 0 then bad .misaligned si
  else .ok (f.quad dst.toNat, f.quad src.toNat, di * n, si * n)

/-- The lanes of a `cp` that pass; the others fail alone (R263, R350). -/
def State.cpLanes (e : Env) (i : Instr) (dst src : BitVec 4) (x : BitVec 6) (size : BitVec 2) :
    List Nat → State → List (Nat × Nat × Nat × Nat × Nat) × State
  | [], s => ([], s)
  | id :: ids, s =>
    match e.b.fibre? id, s.issue with
    | some vf, some is =>
      match regCheck vf (i.newestReads e.is.mods) with
      | some t => State.cpLanes e i dst src x size ids (s.failFibre is vf t)
      | none =>
        let ev := vf.earlyView e.is.cycle s.free (i.newestReads e.is.mods)
        let s1 : State := { s with free := ev.2 }
        match e.cpCheck ev.1 dst src x size with
        | .error t => State.cpLanes e i dst src x size ids (s1.failFibre is vf (vf.trapOf t))
        | .ok lane =>
          let r := State.cpLanes e i dst src x size ids s1
          ((id, lane) :: r.1, r.2)
    | _, _ => State.cpLanes e i dst src x size ids s

/-- `cp` as one command of its fragment (R245, R263). -/
def State.issueCp (s : State) (d : BitVec 6) (dst src : BitVec 4) (x : BitVec 6) (size : BitVec 2) : State :=
  match s.env? with
  | none => s
  | some e =>
    let act := State.onceActive e e.is.live s
    let ln := State.cpLanes e (.cp d dst src x size) dst src x size act.1 act.2
    let tk := State.onceTokens e d.toNat ln.2.nextCmd (ln.1.map Prod.fst) ln.2
    match tk.1 with
    | [] => tk.2
    | el :: _ =>
      match ((tk.2.launch? e.is.launch).bind (·.block? e.is.block)).bind (·.fibre? el) with
      | none => tk.2
      | some f =>
        tk.2.recordReq e
          { id := ln.2.nextCmd, instr := .cp d dst src x size, fibre := el, seq := f.seq, dests := tk.1,
            reg := d.toNat, cap := 0, off := 0, gate := none,
            lanes := ln.1.filter fun l => tk.1.contains l.1 }

/-! ## The words. Each is carried out when its command is dispatched at the step's commit (R237). -/

/-- CP (R262, R263). -/
def execCp (d : BitVec 6) (dst src : BitVec 4) (x : BitVec 6) (size : BitVec 2) (s : State) : Out :=
  .next (s.issueCp d dst src x size)
/-- CPT (R258, R246). -/
def execCpt (d : BitVec 6) (a : BitVec 4) (b : BitVec 6) (s : State) : Out := .next (s.once (.cpt d a b) engForm d a b)
/-- CPD (R258, R247). -/
def execCpd (d : BitVec 6) (a : BitVec 4) (b : BitVec 6) (s : State) : Out := .next (s.once (.cpd d a b) engForm d a b)
/-- CPS (R258, R247). -/
def execCps (d : BitVec 6) (a : BitVec 4) (b : BitVec 6) (s : State) : Out := .next (s.once (.cps d a b) engForm d a b)
/-- GATH (R258, R249). -/
def execGath (d : BitVec 6) (a : BitVec 4) (b : BitVec 6) (s : State) : Out := .next (s.once (.gath d a b) engForm d a b)
/-- SCAT (R258, R250). -/
def execScat (d : BitVec 6) (a : BitVec 4) (b : BitVec 6) (s : State) : Out := .next (s.once (.scat d a b) engForm d a b)
/-- MMB (R258, R266). -/
def execMmb (d : BitVec 6) (a : BitVec 4) (b : BitVec 6) (s : State) : Out := .next (s.once (.mmb d a b) engForm d a b)
/-- MMA (R258, R267). -/
def execMma (d : BitVec 6) (a : BitVec 4) (b : BitVec 6) (s : State) : Out := .next (s.once (.mma d a b) engForm d a b)
/-- MMD (R258, R268). -/
def execMmd (d : BitVec 6) (a : BitVec 4) (b : BitVec 6) (s : State) : Out := .next (s.once (.mmd d a b) engForm d a b)
/-- MMZ (R258, R276). -/
def execMmz (d : BitVec 6) (a : BitVec 4) (b : BitVec 6) (s : State) : Out := .next (s.once (.mmz d a b) engForm d a b)
/-- LEASE (R258, R274). -/
def execLease (d : BitVec 6) (a : BitVec 4) (b : BitVec 6) (s : State) : Out := .next (s.once (.lease d a b) engForm d a b)
/-- UNLEASE (R258, R275). -/
def execUnlease (d : BitVec 6) (a : BitVec 4) (b : BitVec 6) (s : State) : Out := .next (s.once (.unlease d a b) engForm d a b)
/-- DIGEST (R258, R248). -/
def execDigest (d : BitVec 6) (a : BitVec 4) (b : BitVec 6) (s : State) : Out := .next (s.once (.digest d a b) engForm d a b)
/-- RCP (R258, R273). -/
def execRcp (d : BitVec 6) (a : BitVec 4) (b : BitVec 6) (s : State) : Out := .next (s.once (.rcp d a b) engForm d a b)
/-- RSPLIT (R310, R317). -/
def execRsplit (d : BitVec 6) (a : BitVec 4) (b : BitVec 6) (s : State) : Out := .next (s.once (.rsplit d a b) sysForm d a b)
/-- RMERGE (R310, R317). -/
def execRmerge (d : BitVec 6) (a : BitVec 4) (b : BitVec 6) (s : State) : Out := .next (s.once (.rmerge d a b) sysForm d a b)
/-- RINVAL (R310, R317). -/
def execRinval (d : BitVec 6) (a : BitVec 4) (b : BitVec 6) (s : State) : Out := .next (s.once (.rinval d a b) sysForm d a b)
/-- RRES (R310, R317). -/
def execRres (d : BitVec 6) (a : BitVec 4) (b : BitVec 6) (s : State) : Out := .next (s.once (.rres d a b) sysForm d a b)
/-- RMOVE (R310, R302). -/
def execRmove (d : BitVec 6) (a : BitVec 4) (b : BitVec 6) (s : State) : Out := .next (s.once (.rmove d a b) sysForm d a b)
/-- BANKMODE (R368, R369). -/
def execBankmode (d : BitVec 6) (a : BitVec 4) (b : BitVec 6) (s : State) : Out := .next (s.once (.bankmode d a b) sysForm d a b)
/-- RGKILL (R368, R345). -/
def execRgkill (d : BitVec 6) (a : BitVec 4) (b : BitVec 6) (s : State) : Out := .next (s.once (.rgkill d a b) sysForm d a b)
/-- RGRESET (R368, R345). -/
def execRgreset (d : BitVec 6) (a : BitVec 4) (b : BitVec 6) (s : State) : Out := .next (s.once (.rgreset d a b) sysForm d a b)
/-- RGRESUME (R368, R370). -/
def execRgresume (d : BitVec 6) (a : BitVec 4) (b : BitVec 6) (s : State) : Out := .next (s.once (.rgresume d a b) sysForm d a b)
/-- RGPRI (R368, R371). -/
def execRgpri (d : BitVec 6) (a : BitVec 4) (b : BitVec 6) (s : State) : Out := .next (s.once (.rgpri d a b) sysForm d a b)
/-- RGBUD (R368, R372). -/
def execRgbud (d : BitVec 6) (a : BitVec 4) (b : BitVec 6) (s : State) : Out := .next (s.once (.rgbud d a b) sysForm d a b)
/-- FRET (R368, R375). -/
def execFret (d : BitVec 6) (a : BitVec 4) (b : BitVec 6) (s : State) : Out := .next (s.once (.fret d a b) sysForm d a b)
/-- SNAP (R368, R379). -/
def execSnap (d : BitVec 6) (a : BitVec 4) (b : BitVec 6) (s : State) : Out := .next (s.once (.snap d a b) sysForm d a b)
/-- WDARM (R368, R373). -/
def execWdarm (d : BitVec 6) (a : BitVec 4) (b : BitVec 6) (s : State) : Out := .next (s.once (.wdarm d a b) sysForm d a b)
/-- SNEW (R310, R313). -/
def execSnew (d : BitVec 6) (a : BitVec 4) (b : BitVec 6) (s : State) : Out := .next (s.once (.snew d a b) sysForm d a b)
/-- SGROW (R310, R314). -/
def execSgrow (d : BitVec 6) (a : BitVec 4) (b : BitVec 6) (s : State) : Out := .next (s.once (.sgrow d a b) sysForm d a b)
/-- GCFG (R368, R377). -/
def execGcfg (d : BitVec 6) (a : BitVec 4) (b : BitVec 6) (s : State) : Out := .next (s.once (.gcfg d a b) sysForm d a b)
/-- LAUNCH (R381). -/
def execLaunch (d : BitVec 6) (a : BitVec 4) (b : BitVec 6) (s : State) : Out := .next (s.once (.launch d a b) launchForm d a b)

end Sys2Proof.Machine
end

