-- ==== Sys2Proof/Machine/Float.lean ====
section
/-! DEFINITION. The binary floating-point formats, exact values, rounding and conversions of
08_numbers_and_rounding.md (R154 to R164), and the order keys of R166 and R167. Values are exact dyadics
m × 2^e; nothing here uses the arithmetic of the machine that runs the model. -/

namespace Sys2Proof.Machine

/-- A binary format: width of the exponent and of the fraction (R154). -/
structure Fmt where
  ebits : Nat
  fbits : Nat
  deriving DecidableEq, Repr, Inhabited

/-- FP16 (R154). -/
def f16 : Fmt := { ebits := 5, fbits := 10 }
/-- BF16 (R154). -/
def bf16 : Fmt := { ebits := 8, fbits := 7 }
/-- FP32 (R154). -/
def f32 : Fmt := { ebits := 8, fbits := 23 }
/-- FP64 (R154). -/
def f64 : Fmt := { ebits := 11, fbits := 52 }

/-- Bits of the format. -/
def Fmt.width (f : Fmt) : Nat := 1 + f.ebits + f.fbits
/-- Bias, which is also emax (R154). -/
def Fmt.bias (f : Fmt) : Int := 2 ^ (f.ebits - 1) - 1
/-- emin (R154). -/
def Fmt.emin (f : Fmt) : Int := 1 - f.bias
/-- The weight exponent of a subnormal's last bit: emin − p + 1 (R155). -/
def Fmt.qmin (f : Fmt) : Int := f.emin - f.fbits
/-- The sign bit as a number. -/
def Fmt.signBit (f : Fmt) : Nat := 2 ^ (f.ebits + f.fbits)
/-- The pattern of +∞. -/
def Fmt.infBits (f : Fmt) : Nat := (2 ^ f.ebits - 1) * 2 ^ f.fbits
/-- The canonical NaN (R156). -/
def Fmt.nan (f : Fmt) : Nat := f.infBits + 2 ^ (f.fbits - 1)
/-- A pattern with its sign. -/
def Fmt.signed (f : Fmt) (neg : Bool) (b : Nat) : Nat := if neg then f.signBit + b else b

/-- A float's value (R155): finite nonzero values are m × 2^e. -/
inductive FVal where
  | nan
  | inf (neg : Bool)
  | zero (neg : Bool)
  | fin (m : Int) (e : Int)
  deriving DecidableEq, Repr, Inhabited

/-- Read a pattern (R155). -/
def Fmt.read (f : Fmt) (b : Nat) : FVal :=
  let frac := b % 2 ^ f.fbits
  let ex := b / 2 ^ f.fbits % 2 ^ f.ebits
  let neg := b / f.signBit % 2 == 1
  if ex = 2 ^ f.ebits - 1 then (if frac = 0 then .inf neg else .nan)
  else if ex = 0 then
    (if frac = 0 then .zero neg else .fin (if neg then -(frac : Int) else frac) f.qmin)
  else
    let m : Int := frac + 2 ^ f.fbits
    .fin (if neg then -m else m) (f.qmin + ex - 1)

/-- True of NaN patterns (R155). -/
def Fmt.isNan (f : Fmt) (b : Nat) : Bool := f.read b == .nan

/-- The rounding modes, by their codes (R91). -/
inductive RMode where
  | rne
  | rtz
  | rup
  | rdn
  | rto
  deriving DecidableEq, Repr, Inhabited

/-- The mode of a rounding code; codes 5 to 7 never decode (R91). -/
def RMode.ofCode (c : Nat) : RMode :=
  match c with
  | 0 => .rne
  | 1 => .rtz
  | 2 => .rup
  | 3 => .rdn
  | _ => .rto

/-- One rounding decision of R157: n is the truncation, `rem` over `den` what was cut off. -/
def roundUnit (mode : RMode) (neg : Bool) (n rem den : Nat) : Nat :=
  if rem = 0 then n
  else
    match mode with
    | .rne => if 2 * rem > den || (2 * rem == den && n % 2 == 1) then n + 1 else n
    | .rtz => n
    | .rup => if neg then n else n + 1
    | .rdn => if neg then n + 1 else n
    | .rto => if n % 2 = 0 then n + 1 else n

/-- `Overflow(sign, mode)` (R158). -/
def Fmt.overflow (f : Fmt) (mode : RMode) (neg : Bool) : Nat :=
  let inf := f.signed neg f.infBits
  let big := f.signed neg (f.infBits - 1)
  match mode with
  | .rne => inf
  | .rtz => big
  | .rup => if neg then big else inf
  | .rdn => if neg then inf else big
  | .rto => big

/-- `Round(x, fmt, mode)` of R157 for x = ± m × 2^e with m > 0. -/
def Fmt.round (f : Fmt) (mode : RMode) (neg : Bool) (m : Nat) (e : Int) : Nat :=
  let top : Int := (Nat.log2 m : Int) + e
  let e0 := max top f.emin
  let q := e0 - f.fbits
  let n :=
    if q ≤ e then m * 2 ^ (e - q).toNat
    else
      let den := 2 ^ (q - e).toNat
      roundUnit mode neg (m / den) (m % den) den
  let bits := (q - f.qmin).toNat * 2 ^ f.fbits + n
  if f.infBits ≤ bits then f.overflow mode neg else f.signed neg bits

/-- `RoundInt(x, mode)` of R157 for x = m × 2^e. -/
def roundInt (mode : RMode) (m : Int) (e : Int) : Int :=
  let neg := decide (m < 0)
  let n :=
    if 0 ≤ e then m.natAbs * 2 ^ e.toNat
    else
      let den := 2 ^ (-e).toNat
      roundUnit mode neg (m.natAbs / den) (m.natAbs % den) den
  if neg then -(n : Int) else n

/-- Round a finite exact value; `zneg` is the sign a zero takes (R157, R160). -/
def Fmt.roundDy (f : Fmt) (mode : RMode) (m e : Int) (zneg : Bool) : Nat :=
  if m = 0 then f.signed zneg 0 else f.round mode (decide (m < 0)) m.natAbs e

/-- Negation of a value. -/
def FVal.neg : FVal → FVal
  | .nan => .nan
  | .inf s => .inf (!s)
  | .zero s => .zero (!s)
  | .fin m e => .fin (-m) e

/-- The exact product, with the special operands of R180. -/
def FVal.mul (x y : FVal) : FVal :=
  match x, y with
  | .nan, _ => .nan
  | _, .nan => .nan
  | .inf _, .zero _ => .nan
  | .zero _, .inf _ => .nan
  | .inf s, .inf t => .inf (s != t)
  | .inf s, .fin m _ => .inf (s != decide (m < 0))
  | .fin m _, .inf t => .inf (decide (m < 0) != t)
  | .zero s, .zero t => .zero (s != t)
  | .zero s, .fin m _ => .zero (s != decide (m < 0))
  | .fin m _, .zero t => .zero (decide (m < 0) != t)
  | .fin m e, .fin n g => .fin (m * n) (e + g)

/-- Exact sum of two dyadics. -/
def dyAdd (m e n g : Int) : Int × Int :=
  if e ≤ g then (m + n * 2 ^ (g - e).toNat, e) else (m * 2 ^ (e - g).toNat + n, g)

/-- `ExactSum` of the finite terms (R50). -/
def exactSum : List FVal → Int × Int
  | [] => (0, 0)
  | .fin m e :: ts =>
    let r := exactSum ts
    if r.1 = 0 then (m, e) else dyAdd m e r.1 r.2
  | _ :: ts => exactSum ts

/-- A sum of terms rounded once: the special operands of R180 and R50, and the zero signs of R160. -/
def Fmt.sum (f : Fmt) (mode : RMode) (ts : List FVal) : Nat :=
  if ts.any (· == .nan) || (ts.any (· == .inf false) && ts.any (· == .inf true)) then f.nan
  else if ts.any (· == .inf false) then f.signed false f.infBits
  else if ts.any (· == .inf true) then f.signed true f.infBits
  else
    let s := exactSum ts
    f.roundDy mode s.1 s.2 (ts.all (· == .zero true))

/-- Round(A + B) (R179). -/
def Fmt.add (f : Fmt) (a b : Nat) : Nat := f.sum .rne [f.read a, f.read b]
/-- Round(A + (−B)) (R179). -/
def Fmt.sub (f : Fmt) (a b : Nat) : Nat := f.sum .rne [f.read a, (f.read b).neg]
/-- Round(A × B) (R179). -/
def Fmt.mul (f : Fmt) (a b : Nat) : Nat := f.sum .rne [(f.read a).mul (f.read b)]
/-- Round(A × B + T), rounded once (R179). -/
def Fmt.fma (f : Fmt) (a b t : Nat) : Nat := f.sum .rne [(f.read a).mul (f.read b), f.read t]
/-- Round(A × B + (−T)) (R179). -/
def Fmt.fms (f : Fmt) (a b t : Nat) : Nat := f.sum .rne [(f.read a).mul (f.read b), (f.read t).neg]
/-- Round(−(A × B) + T) (R179). -/
def Fmt.fnma (f : Fmt) (a b t : Nat) : Nat := f.sum .rne [((f.read a).mul (f.read b)).neg, f.read t]

/-- The order key of a pattern (R166). -/
def Fmt.key (f : Fmt) (b : Nat) : Nat :=
  if b / f.signBit % 2 = 0 then b + f.signBit else 2 ^ f.width - 1 - b

/-- The pattern of a key (R167). -/
def Fmt.keyInv (f : Fmt) (k : Nat) : Nat :=
  if k / f.signBit % 2 = 1 then k - f.signBit else 2 ^ f.width - 1 - k

/-- `fmin` (R181): a NaN gives the canonical NaN, −0 is below +0, an operand's bits are kept. -/
def Fmt.fmin (f : Fmt) (a b : Nat) : Nat :=
  if f.isNan a || f.isNan b then f.nan else if f.key a ≤ f.key b then a else b

/-- `fmax` (R181). -/
def Fmt.fmax (f : Fmt) (a b : Nat) : Nat :=
  if f.isNan a || f.isNan b then f.nan else if f.key a ≤ f.key b then b else a

/-- `fabs` (R182). -/
def Fmt.abs (f : Fmt) (a : Nat) : Nat := a % f.signBit
/-- `fneg` (R182). -/
def Fmt.negate (f : Fmt) (a : Nat) : Nat := if a / f.signBit % 2 = 1 then a - f.signBit else a + f.signBit

/-- Numerical comparison of two values that are no NaN: A < B (R183). -/
def FVal.lt (x y : FVal) : Bool :=
  match x, y with
  | .nan, _ => false
  | _, .nan => false
  | .inf s, .inf t => s && !t
  | .inf s, _ => s
  | _, .inf t => !t
  | .zero _, .zero _ => false
  | .zero _, .fin n _ => decide (0 < n)
  | .fin m _, .zero _ => decide (m < 0)
  | .fin m e, .fin n g => decide ((dyAdd m e (-n) g).1 < 0)

/-- The conditions of R183 by code. -/
def fcond (x y : FVal) (cond : Nat) : Bool :=
  let un := x == .nan || y == .nan
  let lt := x.lt y
  let gt := y.lt x
  match cond with
  | 0 => !un && !lt && !gt
  | 1 => un || lt || gt
  | 2 => !un && lt
  | 3 => !un && !gt
  | 4 => !un && gt
  | 5 => !un && !lt
  | 6 => !un
  | _ => un

/-- Clamp to a range (R161, R164). -/
def clampInt (x lo hi : Int) : Int := if x < lo then lo else if hi < x then hi else x

/-- Float to integer (R161): NaN gives 0, ±∞ the extremes, otherwise RoundInt clamped. -/
def FVal.toInt (x : FVal) (mode : RMode) (lo hi : Int) : Int :=
  match x with
  | .nan => 0
  | .inf true => lo
  | .inf false => hi
  | .zero _ => 0
  | .fin m e => clampInt (roundInt mode m e) lo hi

/-- An exact value into a float format (R163); a NaN becomes canonical. -/
def Fmt.ofVal (f : Fmt) (mode : RMode) (x : FVal) : Nat :=
  match x with
  | .nan => f.nan
  | .inf s => f.signed s f.infBits
  | .zero s => f.signed s 0
  | .fin m e => f.roundDy mode m e false

/-- Round to integral in one format (R162); a zero result keeps the sign of x. -/
def Fmt.integral (f : Fmt) (mode : RMode) (b : Nat) : Nat :=
  match f.read b with
  | .nan => f.nan
  | .fin m e => f.roundDy .rne (roundInt mode m e) 0 (decide (m < 0))
  | _ => b

/-- The types of `cvt` (R89). -/
inductive CvtType where
  | int (signed : Bool) (bits : Nat)
  | flt (f : Fmt)
  deriving DecidableEq, Repr, Inhabited

/-- The type of a code; codes 12 to 15 never decode (R89). -/
def CvtType.ofCode (c : Nat) : CvtType :=
  match c with
  | 0 => .int true 8
  | 1 => .int false 8
  | 2 => .int true 16
  | 3 => .int false 16
  | 4 => .int true 32
  | 5 => .int false 32
  | 6 => .int true 64
  | 7 => .int false 64
  | 8 => .flt f16
  | 9 => .flt bf16
  | 10 => .flt f32
  | _ => .flt f64

/-- Bits of the type that a source register holds (R187). -/
def CvtType.bits : CvtType → Nat
  | .int _ n => n
  | .flt f => f.width

/-- The integer that the low bits of a pattern stand for. -/
def intOf (signed : Bool) (bits n : Nat) : Int :=
  if signed then signedOf bits (n % 2 ^ bits) else (n % 2 ^ bits : Nat)

/-- Smallest value of an integer type (R153). -/
def intLo (signed : Bool) (bits : Nat) : Int := if signed then -(2 ^ (bits - 1)) else 0
/-- Largest value of an integer type (R153). -/
def intHi (signed : Bool) (bits : Nat) : Int := if signed then 2 ^ (bits - 1) - 1 else 2 ^ bits - 1

/-- The low `w` bits of an integer in two's complement. -/
def intBits (w : Nat) (x : Int) : Nat := (x % (2 ^ w : Nat)).toNat

/-- `cvt` (R187, R188): the bits written, 32 wide for results of up to 32 bits and 64 wide otherwise. An integer
result is extended by its type. -/
def cvtBits (dt st : CvtType) (mode : RMode) (src : Nat) : Nat :=
  match st, dt with
  | .int s n, .int t k => intBits 64 (clampInt (intOf s n src) (intLo t k) (intHi t k))
  | .int s n, .flt f => f.roundDy mode (intOf s n src) 0 false
  | .flt f, .int t k => intBits 64 ((f.read (src % 2 ^ f.width)).toInt mode (intLo t k) (intHi t k))
  | .flt f, .flt g =>
    if f = g then f.integral mode (src % 2 ^ f.width) else g.ofVal mode (f.read (src % 2 ^ f.width))

/-- `fix` (R190): x × 2^scale to s64 under the mode. -/
def fixBits (mode : RMode) (scale : Int) (src : Nat) : Nat :=
  let x := match f32.read src with
    | .fin m e => FVal.fin m (e + scale)
    | v => v
  intBits 64 (x.toInt mode (intLo true 64) (intHi true 64))

/-- `unfix` (R190): n × 2^(−scale) to FP32; a zero result is +0. -/
def unfixBits (mode : RMode) (scale : Int) (src : Nat) : Nat :=
  f32.roundDy mode (intOf true 64 src) (-scale) false

end Sys2Proof.Machine
end

