-- ==== Sys2Proof/Machine/Psb.lean ====
section
/-! DEFINITION. Pair-scaled blocks, INT8 blocks, the conversions of `cpt` and the dot product of `mma`
(08_numbers_and_rounding.md R168 to R175; 11 R213; 13 R246; 14 R265, R268). Formats: 0 PSB4, 1 PSB8, 2 PSB16, 3 INT8,
4 FP16, 5 BF16, 6 FP32 (R214). -/

namespace Sys2Proof.Machine

/-- Bits of an element of a tile format (R168, R171). -/
def elemBits (fmt : Nat) : Nat :=
  match fmt with
  | 0 => 4
  | 2 => 16
  | _ => 8

/-- Storage bytes of a block of 32 elements (R265). -/
def blockBytes (fmt : Nat) : Nat :=
  match fmt with
  | 0 => 18
  | 1 => 34
  | 2 => 66
  | 3 => 32
  | 4 => 64
  | 5 => 64
  | _ => 128

/-- The float format of a storage or drain code (R214). -/
def psbFloat (fmt : Nat) : Fmt :=
  match fmt with
  | 4 => f16
  | 5 => bf16
  | _ => f32

/-- A block as it stands in a tile: 32 element patterns and two exponent bytes (R168, R213). -/
structure Psb where
  elems : List Nat
  e0 : Nat
  e1 : Nat
  deriving DecidableEq, Repr, Inhabited

/-- Read a number of `n` bytes at byte `i` of a list. -/
def numAt (bs : List Byte) (i n : Nat) : Nat := ofLe ((bs.drop i).take n)

/-- The elements of a storage block in a tile format (R170, R171). -/
def unpackBlock (fmt : Nat) (bs : List Byte) : Psb :=
  let es := (List.range 32).map fun i =>
    match fmt with
    | 0 => numAt bs (i / 2) 1 / 16 ^ (i % 2) % 16
    | 2 => numAt bs (2 * i) 2
    | _ => numAt bs i 1
  if fmt = 3 then { elems := es, e0 := 0, e1 := 0 }
  else { elems := es, e0 := numAt bs (blockBytes fmt - 2) 1, e1 := numAt bs (blockBytes fmt - 1) 1 }

/-- Pairs of nibbles as bytes. -/
def packNibbles : List Nat → List Byte
  | a :: b :: l => BitVec.ofNat 8 (a % 16 + 16 * (b % 16)) :: packNibbles l
  | _ => []

/-- A storage block from its elements (R170, R171). -/
def packBlock (fmt : Nat) (b : Psb) : List Byte :=
  let body := match fmt with
    | 0 => packNibbles b.elems
    | 2 => (b.elems.map fun e => leBytes 2 e).flatten
    | _ => b.elems.map fun e => BitVec.ofNat 8 e
  if fmt = 3 then body else body ++ [BitVec.ofNat 8 b.e0, BitVec.ofNat 8 b.e1]

/-- The exponent byte an element selects (R168). -/
def Psb.expOf (b : Psb) (fmt e : Nat) : Nat := if e / 2 ^ (elemBits fmt - 1) % 2 = 1 then b.e1 else b.e0

/-- The signed magnitude of an element (R168). -/
def psbMag (fmt e : Nat) : Int :=
  let j := elemBits fmt - 2
  let m : Int := (e % 2 ^ j : Nat)
  if e / 2 ^ j % 2 = 1 then -m else m

/-- An element's value (R169). -/
def Psb.value (b : Psb) (fmt e : Nat) : FVal :=
  let j := elemBits fmt - 2
  if b.expOf fmt e = 255 then .nan
  else if e % 2 ^ j = 0 then .zero false
  else .fin (psbMag fmt e) ((b.expOf fmt e : Int) - 127 - j)

/-- The 32 values of a storage block of any format but INT8. -/
def blockValues (fmt : Nat) (bs : List Byte) : List FVal :=
  if fmt < 3 then
    let b := unpackBlock fmt bs
    b.elems.map (b.value fmt)
  else
    let f := psbFloat fmt
    let n := f.width / 8
    (List.range 32).map fun i => f.read (numAt bs (n * i) n)

/-- ⌊log2 |m × 2^e|⌋ for m ≠ 0. -/
def dyLog (m : Int) (e : Int) : Int := (Nat.log2 m.natAbs : Int) + e

/-- The element for one value (R172). -/
def psbElem (fmt : Nat) (mode : RMode) (e0 e1 : Int) (x : FVal) : Nat :=
  let j := elemBits fmt - 2
  let lim : Int := 2 ^ j - 1
  match x with
  | .fin m e =>
    let small := decide (dyLog m e < e1 - 127)
    let scaled (ex : Int) : Int := roundInt mode m (e - (ex - 127 - j))
    let n1 := scaled (if small then e1 else e0)
    let again := small && decide (lim < n1.natAbs)
    let n2 := if again then scaled e0 else n1
    let n3 := if lim < n2.natAbs then (if n2 < 0 then -lim else lim) else n2
    if n3 = 0 then 0
    else (if small && !again then 2 ^ (j + 1) else 0) + (if n3 < 0 then 2 ^ j else 0) + n3.natAbs
  | _ => 0

/-- Conversion of 32 values into a PSB block (R172, R173). -/
def toPsb (fmt : Nat) (mode : RMode) (xs : List FVal) : Psb :=
  if xs.any fun x => x == .nan || x == .inf false || x == .inf true then
    { elems := xs.map fun _ => 0, e0 := 255, e1 := 255 }
  else
    let logs := xs.filterMap fun x => match x with
      | .fin m e => if m = 0 then none else some (dyLog m e)
      | _ => none
    match logs with
    | [] => { elems := xs.map fun _ => 0, e0 := 0, e1 := 0 }
    | l :: ls =>
      let e := ls.foldl max l
      let e0 : Int := min (max (e + 129) 0) 254
      let e1 : Int := max (e0 - (elemBits fmt - 2 : Nat)) 0
      { elems := xs.map (psbElem fmt mode e0 e1), e0 := e0.toNat, e1 := e1.toNat }

/-- The pairs of storage and tile format that `cpt` converts (R246). -/
def cptPair (storage tile : Nat) : Bool := if tile = 3 then storage == 3 else storage != 3

/-- Storage block into a tile block (R246). -/
def intoTile (storage tile : Nat) (mode : RMode) (bs : List Byte) : Psb :=
  if storage = tile then unpackBlock storage bs else toPsb tile mode (blockValues storage bs)

/-- A bitmap bit of `cpt` (R213): an element with m ≠ 0, or one that selects 0xFF. For INT8, a nonzero element (log 22). -/
def Psb.live (b : Psb) (fmt : Nat) : Bool :=
  b.elems.any fun e =>
    if fmt = 3 then e % 256 != 0
    else e % 2 ^ (elemBits fmt - 2) != 0 || b.expOf fmt e == 255

/-- Tile block into storage; a block whose bitmap bit is 0 becomes zeros with exponent bytes 0 (R246). -/
def outOfTile (storage tile : Nat) (mode : RMode) (b : Psb) (bit : Bool) : List Byte :=
  if !bit then List.replicate (blockBytes storage) 0
  else if storage = tile then packBlock storage b
  else if storage < 3 then packBlock storage (toPsb storage mode (b.elems.map (b.value tile)))
  else
    let f := psbFloat storage
    ((b.elems.map fun e => leBytes (f.width / 8) (f.ofVal mode (b.value tile e)))).flatten

/-- One k-block of R174: the accumulator after it. -/
def dotPsb (fmt acc : Nat) (a b : Psb) : Nat :=
  let j := elemBits fmt - 2
  if (a.elems.any fun e => a.expOf fmt e == 255) || (b.elems.any fun e => b.expOf fmt e == 255) then f32.nan
  else
    let sel (e : Nat) : Nat := e / 2 ^ (elemBits fmt - 1) % 2
    let part (sa sb : Nat) : Int := ((a.elems.zip b.elems).filter fun p => sel p.1 == sa && sel p.2 == sb).foldl
      (fun t p => t + psbMag fmt p.1 * psbMag fmt p.2) 0
    let term (sa sb : Nat) : FVal :=
      .fin (part sa sb) (((if sa = 1 then a.e1 else a.e0) + (if sb = 1 then b.e1 else b.e0) : Nat) - 254 - 2 * j)
    let v := exactSum [term 0 0, term 0 1, term 1 0, term 1 1]
    match f32.read acc with
    | .nan => acc
    | .inf _ => acc
    | x => if v.1 = 0 then acc else f32.sum .rne [x, .fin v.1 v.2]

/-- One k-block of R175. -/
def dotInt (acc : Nat) (a b : Psb) : Nat :=
  intBits 32 ((acc : Int) + (a.elems.zip b.elems).foldl (fun t p => t + signedOf 8 (p.1 % 256) * signedOf 8 (p.2 % 256)) 0)

/-- A drained word (R268). -/
def drainWord (fmt : Nat) (mode : RMode) (w : Nat) : List Byte :=
  if fmt = 6 then leBytes 4 w else leBytes 2 ((psbFloat fmt).ofVal mode (f32.read w))

end Sys2Proof.Machine
end

