-- ==== Sys2Proof/Machine/Sha.lean ====
section
/-! DEFINITION. SHA-256 of FIPS 180-4, which `digest` computes (13_copy_gather_matrix_engines.md R248). The rule names the public
standard, which defines its constants as fractional parts of roots of primes; they are computed here, and not listed. -/

namespace Sys2Proof.Machine

/-! ## Constants -/

/-- The largest x below `lo + 2 ^ n` whose k-th power does not exceed a number, bit by bit. -/
def rootFrom (k limit : Nat) : Nat → Nat → Nat
  | 0, lo => lo
  | n + 1, lo => rootFrom k limit n (if (lo + 2 ^ n) ^ k ≤ limit then lo + 2 ^ n else lo)

/-- The first 32 bits of the fractional part of the k-th root of a number below 512. -/
def rootBits (k p : Nat) : Word := BitVec.ofNat 32 (rootFrom k (p * 2 ^ (32 * k)) 37 0)

/-- A number has no divisor from 2 on below itself. -/
def isPrime (p : Nat) : Bool := 2 ≤ p && (List.range (p - 2)).all fun d => p % (d + 2) != 0

/-- The first n primes below 312, of which there are 64. -/
def primes (n : Nat) : List Nat := ((List.range 312).filter isPrime).take n

/-- The constants of the 64 rounds: cube roots. -/
def roundConstants : List Word := (primes 64).map (rootBits 3)

/-- The hash value to begin with: square roots. -/
def firstHash : List Word := (primes 8).map (rootBits 2)

/-! ## Bytes -/

/-- A big-endian number. -/
def beNum (bs : List Byte) : Nat := ofLe bs.reverse

/-- Big-endian bytes of a number. -/
def beBytes (n v : Nat) : List Byte := (leBytes n v).reverse

/-- Message blocks, padding included (R248). -/
def shaCount (n : Nat) : Nat := (n + 9 + 63) / 64

/-- The padded message: a one bit, zeros up to whole blocks, and the length in bits in the last eight bytes. -/
def padded (m : List Byte) : List Byte :=
  m ++ 0x80 :: (List.replicate (64 * shaCount m.length - m.length - 9) 0 ++ beBytes 8 (8 * m.length))

/-! ## One block -/

/-- A word turned right by each of some amounts, and the results added bit by bit. -/
def turned (rs : List Nat) (w : Word) : Word := rs.foldl (fun x r => x ^^^ w.rotateRight r) 0

/-- Word t of the schedule from the ones before it, newest first. -/
def nextWord (before : List Word) : Word :=
  let ago (n : Nat) : Word := before.getD (n - 1) 0
  let far := turned [7, 18] (ago 15) ^^^ ago 15 >>> 3
  let near := turned [17, 19] (ago 2) ^^^ ago 2 >>> 10
  far + near + ago 7 + ago 16

/-- The schedule of a block, newest word first: its own sixteen words, then `n` more. -/
def schedule (block : List Byte) : Nat → List Word
  | 0 => ((List.range 16).map fun i => BitVec.ofNat 32 (beNum ((block.drop (4 * i)).take 4))).reverse
  | n + 1 => let ws := schedule block n; nextWord ws :: ws

/-- The working words as two sequences, the last four of each, newest first: those that enter at a, and those that enter at e. -/
structure Working where
  top : List Word
  mid : List Word
  deriving DecidableEq, Repr, Inhabited

/-- One round; `kw` is the sum of its constant and its schedule word. -/
def Working.round (w : Working) (kw : Word) : Working :=
  let a (i : Nat) : Word := w.top.getD i 0
  let e (i : Nat) : Word := w.mid.getD i 0
  let pick := e 2 ^^^ (e 0 &&& (e 1 ^^^ e 2))
  let most := (a 0 &&& a 1) ||| (a 2 &&& (a 0 ||| a 1))
  let carry := kw + e 3 + pick + turned [6, 11, 25] (e 0)
  { top := (carry + most + turned [2, 13, 22] (a 0)) :: w.top.take 3, mid := (carry + a 3) :: w.mid.take 3 }

/-- The hash value after one block. -/
def hashBlock (h : List Word) (block : List Byte) : List Word :=
  let kws := List.zipWith (· + ·) roundConstants (schedule block 48).reverse
  let w := kws.foldl Working.round { top := h.take 4, mid := h.drop 4 }
  List.zipWith (· + ·) h (w.top ++ w.mid)

/-- The hash value after `n` blocks of a message. -/
def hashBlocks : Nat → List Byte → List Word → List Word
  | 0, _, h => h
  | n + 1, m, h => hashBlocks n (m.drop 64) (hashBlock h (m.take 64))

/-- The 32-byte digest in the standard byte order. -/
def sha256 (m : List Byte) : List Byte :=
  (hashBlocks (shaCount m.length) (padded m) firstHash).flatMap fun w => beBytes 4 w.toNat

end Sys2Proof.Machine
end

