-- ==== Sys2Proof/Machine/Contrib.lean ====
section
/-! DEFINITION. Combining the contributions of one scope (03_forbidden_shapes.md R45 to R54): the byte rules by
nibbles (R47), the arithmetic rules by elements (R49 to R51), collisions (R52, R53), and the ranks of `fadr` (R54). -/

namespace Sys2Proof.Machine

/-- A key as a list, highest part first: remote contributions sort above the launch's own (R392), then the fibre's order
key, then the issue order (R20, R45, R242). -/
def CKey.parts (k : CKey) : List Nat := [k.remote, k.block, k.fibre, k.seq, k.sub]

/-- Lexicographic order on equally long lists. -/
def lexLt : List Nat → List Nat → Bool
  | a :: as, b :: bs => decide (a < b) || (a == b && lexLt as bs)
  | _, _ => false

/-- A key is lower (R20, R45). -/
def CKey.lt (a b : CKey) : Bool := lexLt a.parts b.parts

/-- The fibre a contribution counts for (R46). -/
def CKey.owner (k : CKey) : Nat × Nat × Nat := (k.remote, k.block, k.fibre)

/-- Insert by key. -/
def insertKey (c : Contrib) : List Contrib → List Contrib
  | [] => [c]
  | d :: ds => if c.key.lt d.key then c :: d :: ds else d :: insertKey c ds

/-- Contributions in key order. -/
def sortKeys : List Contrib → List Contrib
  | [] => []
  | c :: cs => insertKey c (sortKeys cs)

/-- Insert a number into a rising list without repeats. -/
def insertNat (n : Nat) : List Nat → List Nat
  | [] => [n]
  | m :: ms => if n < m then n :: m :: ms else if n = m then m :: ms else m :: insertNat n ms

/-- The first byte of a contribution's location: block registers lie four bytes apart, elements of a sparse region
their size apart. -/
def Contrib.base (c : Contrib) : Nat :=
  match c.space with
  | .breg => 4 * c.addr
  | .sparse _ => c.size * c.addr
  | _ => c.addr

/-- True of the arithmetic rules (R46). -/
def Contrib.arith (c : Contrib) : Bool := 2 ≤ c.rule && c.rule ≤ 5

/-- The contribution touches nibble `u`, counted from nibble 0 of byte 0 (R45). -/
def Contrib.touches (u : Nat) (c : Contrib) : Bool :=
  match c.nib with
  | some k => u == 2 * c.base + k
  | none => decide (2 * c.base ≤ u) && decide (u < 2 * (c.base + c.size))

/-- The nibble it writes there. -/
def Contrib.nibbleAt (c : Contrib) (u : Nat) : Nat :=
  match c.nib with
  | some _ => c.value % 16
  | none => c.value / 16 ^ (u - 2 * c.base) % 16

/-- The bytes that contributions touch, rising. -/
def touchedBytes (cs : List Contrib) : List Nat :=
  cs.foldl (fun m c => (List.range c.size).foldl (fun m i => insertNat (c.base + i) m) m) []

/-- Why two contributions to one place collide, the lower-keyed first: 0 for different rules or F, 1 for unequal extents, 2 under
`.fault` (R52 items 1 to 3, R53). -/
def Contrib.cause (c x : Contrib) : Option Nat :=
  if x.rule ≠ c.rule ∨ (c.arith ∧ x.flt ≠ c.flt) then some 0
  else if c.arith then (if x.base ≠ c.base ∨ x.size ≠ c.size then some 1 else none)
  else if c.rule = 6 then some 2
  else none

/-- Two contributions meet in a nibble of a byte. The nibbles of one byte do not interact (R47), so two `.x4` stores to them do
not meet, whatever their rules (log 56). -/
def Contrib.meets (a : Nat) (c x : Contrib) : Bool :=
  (c.touches (2 * a) && x.touches (2 * a)) || (c.touches (2 * a + 1) && x.touches (2 * a + 1))

/-- The contributions that collide with `c` at a byte, with the causes. -/
def clashesOf (a : Nat) (c : Contrib) (cs : List Contrib) : List (Nat × Contrib × Contrib) :=
  cs.filterMap fun x => if c.meets a x then (c.cause x).map fun k => (k, c, x) else none

/-- Every pair that collides at a byte, lowest keys first; `cs` is in key order. -/
def clashes (a : Nat) : List Contrib → List (Nat × Contrib × Contrib)
  | [] => []
  | c :: cs => clashesOf a c cs ++ clashes a cs

/-- A collision: byte address, cause, pair. -/
structure Collide where
  byte  : Nat
  cause : Nat
  lo    : Contrib
  hi    : Contrib
  deriving DecidableEq, Repr, Inhabited

/-- The collision at a byte (R53): the pair with the lowest keys, and the lowest cause that holds there (log 57). -/
def clashAt (cs : List Contrib) (a : Nat) : Option Collide :=
  let ps := clashes a (cs.filter fun c => c.touches (2 * a) || c.touches (2 * a + 1))
  match ps with
  | [] => none
  | p :: _ => some { byte := a, cause := (ps.map fun x => x.1).foldl min p.1, lo := p.2.1, hi := p.2.2 }

/-- Every collision, by rising byte address. `cs` is in key order and of one space. -/
def collisions (cs : List Contrib) : List Collide := (touchedBytes cs).filterMap (clashAt cs)

/-- A nibble keeps its start value: its byte collides, or it belongs to an arithmetic element that collides somewhere (R53). -/
def deadNibble (cs : List Contrib) (u : Nat) : Bool :=
  (clashAt cs (u / 2)).isSome || (cs.filter (·.touches u)).any fun c =>
    c.arith && (List.range c.size).any fun i => (clashAt cs (c.base + i)).isSome

/-- Distinct owners in key order. -/
def owners : List Contrib → List (Nat × Nat × Nat)
  | [] => []
  | c :: cs => c.key.owner :: (owners cs).filter (· != c.key.owner)

/-- The last contribution of an owner. -/
def lastOf (o : Nat × Nat × Nat) (cs : List Contrib) : Option Contrib := (cs.filter fun c => c.key.owner == o).getLast?

/-- Which free choice decides a nibble under `.any`: one for a whole extent that every contribution shares, otherwise one
for the byte, or for the nibble where `.x4` stores part it (R48). The three kinds take numbers of their own. -/
def anyIndex (cs here : List Contrib) (u : Nat) : Nat :=
  match here with
  | [] => u
  | c :: rest =>
    if rest.all fun x => x.base == c.base && x.size == c.size && x.nib == c.nib then
      (match c.nib with
        | none => 4 * c.base
        | some _ => 4 * (u / 2) + 2 + u % 2)
    else if here == cs.filter (·.touches (2 * (u / 2) + (1 - u % 2))) then 4 * (u / 2) + 1
    else 4 * (u / 2) + 2 + u % 2

/-- The contribution whose value a nibble takes under a byte rule (R46, R48). -/
def winner (det : Bool) (k : Nat) (cs : List Contrib) (u : Nat) : Option Contrib :=
  let here := cs.filter (·.touches u)
  let os := owners here
  let i := match here with
    | c :: _ => if c.rule = 1 ∧ !det then Config.freeChoice (k + anyIndex cs here u) % os.length else 0
    | [] => 0
  match os[i]? with
  | some o => lastOf o here
  | none => none

/-- The float format of an element size (R49). -/
def sizeFmt (size : Nat) : Fmt :=
  match size with
  | 2 => f16
  | 4 => f32
  | _ => f64

/-- Signed reading of an element. -/
def signedElem (size v : Nat) : Int := signedOf (8 * size) (v % 2 ^ (8 * size))

/-- The arithmetic rules on one element (R50, R51): `vals` in key order, `start` used under `.acc` alone. -/
def arithValue (rule size : Nat) (flt : Bool) (start : Nat) (vals : List Nat) : Nat :=
  let terms := if rule = 3 then start :: vals else vals
  if rule ≤ 3 then
    (if flt then (sizeFmt size).sum .rne (terms.map (sizeFmt size).read)
     else terms.foldl (· + ·) 0 % 2 ^ (8 * size))
  else
    match vals with
    | [] => start
    | v :: vs =>
      if flt then vs.foldl (if rule = 4 then (sizeFmt size).fmax else (sizeFmt size).fmin)
        (if (sizeFmt size).isNan v then (sizeFmt size).nan else v)
      else if rule = 4 then vs.foldl (fun m x => if signedElem size m < signedElem size x then x else m) v
      else vs.foldl (fun m x => if signedElem size x < signedElem size m then x else m) v

/-- The contributions to one arithmetic element. -/
def elemOf (c : Contrib) (cs : List Contrib) : List Contrib :=
  cs.filter fun x => x.arith && x.base == c.base && x.size == c.size

/-- A little-endian number of start bytes. -/
def startNum (start : Nat → Byte) (a n : Nat) : Nat := ofLe ((List.range n).map fun i => start (a + i))

/-- The start value of an element where every element keeps its start value for the whole scope. -/
def startOf (start : Nat → Byte) (c : Contrib) : Nat := startNum start c.base c.size

/-- The value of a nibble after the commit, when some contribution touches it and it does not collide; `first` is the start
value that an element's accumulator holds (R59). -/
def newNibble (det : Bool) (k : Nat) (first : Contrib → Nat) (cs : List Contrib) (u : Nat) : Option Nat :=
  match cs.find? (·.touches u) with
  | none => none
  | some c =>
    if deadNibble cs u then none
    else if c.arith then
      let v := arithValue c.rule c.size c.flt (first c) ((elemOf c cs).map (·.value))
      some (v / 16 ^ (u - 2 * c.base) % 16)
    else (winner det k cs u).map (·.nibbleAt u)

/-- The byte after the commit: a nibble that nothing changes keeps its start value (R45). -/
def newByte (det : Bool) (k : Nat) (start : Nat → Byte) (first : Contrib → Nat) (cs : List Contrib) (a : Nat) : Byte :=
  let old := (start a).toNat
  let lo := (newNibble det k first cs (2 * a)).getD (old % 16)
  let hi := (newNibble det k first cs (2 * a + 1)).getD (old / 16)
  BitVec.ofNat 8 (lo + 16 * hi)

/-- The bytes that one scope writes in one space. -/
def combine (det : Bool) (k : Nat) (start : Nat → Byte) (first : Contrib → Nat) (cs : List Contrib) : List (Nat × Byte) :=
  (touchedBytes cs).map fun a => (a, newByte det k start first cs a)

/-- A 16-byte location keeps a tag: all 32 nibbles come from one tagged `.x128` contribution (R47). -/
def keepsTag (det : Bool) (k : Nat) (cs : List Contrib) (a : Nat) : Bool :=
  match winner det k cs (2 * a) with
  | none => false
  | some c => c.tag && c.size == 16 && c.base == a && !c.arith
      && (List.range 32).all fun i => winner det k cs (2 * a + i) == some c

/-- The value with which the home slice opened the accumulator of a contribution's element: that of the first arrival (R59). -/
def openedIn (arrivals : List Contrib) (c : Contrib) : Nat :=
  ((arrivals.find? fun x => x.arith && x.space == c.space && x.base == c.base && x.size == c.size).map Contrib.opened).getD c.opened

/-- What a `fadr` receives (R54, R53): the start value combined with every contribution of a lower key; the start value
alone where its element collides. -/
def fadrResult (start : Nat → Byte) (first : Contrib → Nat) (cs : List Contrib) (c : Contrib) : Nat :=
  if deadNibble cs (2 * c.base) then startNum start c.base c.size
  else arithValue 3 c.size c.flt (first c) (((elemOf c cs).filter fun x => x.key.lt c.key).map (·.value))

/-- Room for the free choices of one space: four for every byte address (R48). -/
def anySpan : Nat := 2 ^ 70

/-- How many free choices a commit may use: one span for memory and one for each sparse region (R48). -/
def anyRoom : Nat := anySpan * 65537

/-- The info words of a collision (R53). -/
def Collide.info (x : Collide) (round : Bool) : Nat × Nat :=
  let base := x.lo.rule % 8 + x.hi.rule % 8 * 8 + x.cause % 4 * 64
  match x.lo.space with
  | .breg => (x.byte / 4, base + 256)
  | .scratch => (x.byte, base)
  | .global => (x.byte % 2 ^ 32, base + (if round then x.byte / 2 ^ 32 % 2 ^ 16 * 2 ^ 16 else 0))
  | .sparse r => (x.byte / x.lo.size % 2 ^ 32, base + 512 + r % 2 ^ 16 * 2 ^ 16)

end Sys2Proof.Machine
end

