-- ==== Sys2Proof/Machine/Sparse.lean ====
section
/-! DEFINITION. Sparse regions: keys, nodes, the latched tree, coordinate access, and the rebuild of a region's tree at a
round commit (15_program_sparse_region.md R277 to R281; 16 R282 to R292; 17 R304 to R309, R312). -/

namespace Sys2Proof.Machine

/-! ## Descriptor, keys, nodes -/

/-- The region descriptor's fields (R312), with the tenant that owns the region. -/
structure RDesc where
  tenant : Nat
  root : Nat
  pub  : Nat
  entries : Nat
  num  : Nat
  rank : Nat
  typ  : Nat
  ext  : List Nat
  pool : Nat
  nodes : Nat
  deriving DecidableEq, Repr, Inhabited

/-- The root of the empty tree (R287). -/
def noNode : Nat := 0xFFFFFFFF

/-- Read a descriptor from memory (R312). -/
def readDesc (m : Memory) (tenant a : Nat) : RDesc :=
  { tenant := tenant, root := m.num a 4, pub := m.num (a + 4) 4, entries := m.num (a + 8) 8, num := m.num (a + 16) 2,
    rank := m.num (a + 18) 1, typ := m.num (a + 19) 1,
    ext := [m.num (a + 24) 4, m.num (a + 28) 4, m.num (a + 32) 4, m.num (a + 36) 4],
    pool := m.num (a + 40) 8, nodes := m.num (a + 48) 4 }

/-- The descriptor of a live region. -/
def State.rdesc (s : State) (sp : Sparse) : RDesc := readDesc s.mem sp.tenant sp.desc

/-- Bytes of an element type (R305). -/
def typeSize (typ : Nat) : Nat :=
  match typ with
  | 0 => 4
  | 1 => 8
  | 2 => 2
  | 3 => 2
  | 4 => 4
  | _ => 8

/-- A value that keeps no entry: 0, +0 or −0 of the type (R283). -/
def zeroElem (typ v : Nat) : Bool :=
  v == 0 || (decide (2 ≤ typ) && v == 2 ^ (8 * typeSize typ - 1))

/-- The key of four coordinates, or the number of the first coordinate that fails (R282). -/
def keyOf (rank : Nat) (ext coords : List Nat) : Except Nat Nat :=
  let bad (i : Nat) : Bool :=
    if i < rank then decide (ext.getD i 1 ≤ coords.getD i 0) else coords.getD i 0 != 0
  match (List.range 4).find? bad with
  | some i => .error i
  | none =>
    let e (i : Nat) : Nat := if i < rank then ext.getD i 1 else 1
    .ok (((coords.getD 0 0 * e 1 + coords.getD 1 0) * e 2 + coords.getD 2 0) * e 3 + coords.getD 3 0)

/-- A node (R284). -/
structure Node where
  leaf  : Bool
  level : Nat
  /-- keys of a leaf, separators of an inner node -/
  keys  : List Nat
  vals  : List Nat
  kids  : List Nat
  fence : Nat
  deriving DecidableEq, Repr, Inhabited

def allOnes : Nat := 2 ^ 64 - 1

/-- Strictly ascending. -/
def ascending : List Nat → Bool
  | a :: b :: l => decide (a < b) && ascending (b :: l)
  | _ => true

/-- Read and check a node (R284, R286); none stands for `FORMAT`. Bytes that R284 calls zero and R286 does not name are not
looked at. -/
def readNode (m : Memory) (d : RDesc) (n : Nat) : Option Node :=
  let a := d.pool + 128 * n
  let h := m.num a 8
  let kind := h % 256
  let cnt := h / 256 % 256
  let slot (i : Nat) : Nat := m.num (a + 16 + 8 * i) 8
  let word (i : Nat) : Nat := m.num (a + 72 + 4 * i) 4
  if bitsOf h 31 16 != d.num then none
  else if kind = 1 then
    let keys := (List.range cnt).map slot
    let vals := (List.range cnt).map fun i => m.num (a + 72 + 8 * i) (typeSize d.typ)
    let rest := (List.range 7).drop cnt
    if cnt = 0 || 7 < cnt || !ascending keys || rest.any (fun i => slot i != allOnes || m.num (a + 72 + 8 * i) 8 != 0)
        then none
    else some { leaf := true, level := 0, keys := keys, vals := vals, kids := [], fence := m.num (a + 8) 8 }
  else if kind = 2 then
    let seps := (List.range (cnt - 1)).map slot
    let kids := (List.range cnt).map word
    if cnt = 0 || 8 < cnt || !ascending seps || m.num (a + 8) 4 = 0
        || ((List.range 7).drop (cnt - 1)).any (fun i => slot i != allOnes)
        || ((List.range 8).drop cnt).any (fun i => word i != noNode) then none
    else some { leaf := false, level := m.num (a + 8) 4, keys := seps, vals := [], kids := kids, fence := 0 }
  else none

/-- Why a descent stops. -/
inductive NodeErr where
  | format (node : Nat)
  | memory (node : Nat)
  /-- the node's or the descriptor's line at this physical address is not the tenant's (R293, R298) -/
  | owner (pa : Nat)
  deriving DecidableEq, Repr, Inhabited

/-- Read a node as part of a tree: its number, owner, format with its level, and memory are checked (R286, R298, R306). `lvl` is
the level the parent requires; none at the root. -/
def State.node (s : State) (d : RDesc) (lvl : Option Nat) (n : Nat) : Except NodeErr Node :=
  if d.nodes ≤ n then .error (.format n)
  else if s.owner (d.pool + 128 * n) != d.tenant then .error (.owner (d.pool + 128 * n))
  else
    match readNode s.mem d n with
    | none => .error (.format n)
    | some x =>
      if lvl.any fun l => x.level != l then .error (.format n)
      else if s.poisoned (d.pool + 128 * n) then .error (.memory n)
      else .ok x

/-- What the check of a tree's root finds. -/
def State.rootError (s : State) (d : RDesc) (n : Nat) : Option NodeErr :=
  match s.node d none n with
  | .error e => some e
  | .ok _ => none

/-- The child index a cursor or key descends to (R284); a negative cursor stands before every key. -/
def childIndex (seps : List Nat) (c : Int) : Nat := (seps.filter fun (q : Nat) => decide (Int.ofNat q ≤ c)).length

/-- A descent: the leaf that may hold the key, and the least separator above it (R285). The levels fall by one. -/
def State.descend (s : State) (d : RDesc) (c : Int) :
    Nat → Node → Option Nat → Except NodeErr (Node × Option Nat)
  | 0, x, hi => if x.leaf then .ok (x, hi) else .error (.format noNode)
  | fuel + 1, x, hi =>
    if x.leaf then .ok (x, hi)
    else
      let i := childIndex x.keys c
      let hi' := match x.keys[i]? with
        | some q => some q
        | none => hi
      match s.node d (some (x.level - 1)) (x.kids.getD i noNode) with
      | .error e => .error e
      | .ok y => s.descend d c fuel y hi'

/-- Descend from a root; none for the empty tree. -/
def State.findLeaf (s : State) (d : RDesc) (root : Nat) (c : Int) : Except NodeErr (Option (Node × Option Nat)) :=
  if root = noNode then .ok none
  else
    match s.node d none root with
    | .error e => .error e
    | .ok x =>
      match s.descend d c x.level x none with
      | .error e => .error e
      | .ok r => .ok (some r)

/-- Nodes that one descent reads, the root and the leaf included; 1 on an empty tree (R307, R309). -/
def State.nodesRead (s : State) (d : RDesc) (root : Nat) : Nat :=
  if root = noNode then 1
  else
    match s.node d none root with
    | .error _ => 1
    | .ok x => x.level + 1

/-- The value of a key in a tree; 0 where absent (R283, R307). -/
def State.lookup (s : State) (d : RDesc) (root k : Nat) : Except NodeErr Nat :=
  match s.findLeaf d root k with
  | .error e => .error e
  | .ok none => .ok 0
  | .ok (some (x, _)) =>
    match (x.keys.zip x.vals).find? fun p => p.1 == k with
    | some p => .ok p.2
    | none => .ok 0

/-- The least present key above a cursor (R285, R309). -/
def State.nextKey (s : State) (d : RDesc) (root : Nat) (c : Int) : Except NodeErr (Option Nat) :=
  match s.findLeaf d root c with
  | .error e => .error e
  | .ok none => .ok none
  | .ok (some (x, hi)) =>
    match x.keys.find? fun (k : Nat) => decide (c < Int.ofNat k) with
    | some q => .ok (some q)
    | none => .ok hi

/-! ## The latched tree -/

/-- The tree a launch reads in its round: the latched one, or the current one at its first access (R289, R291). -/
def State.latchOf (s : State) (l : Launch) (sp : Sparse) : Latch :=
  match l.latched.find? fun x => x.region == sp.num with
  | some x => x
  | none =>
    let d := s.rdesc sp
    { region := sp.num, root := d.root, pub := d.pub, entries := d.entries }

/-- A launch's first access to a region: it becomes a holder and latches the current root (R291). -/
def State.noteHolder (s : State) (l : Nat) (sp : Sparse) : State :=
  match s.launch? l with
  | none => s
  | some ln =>
    let s1 := s.modLaunch l fun x =>
      if x.latched.any (fun y => y.region == sp.num) then x else { x with latched := x.latched ++ [s.latchOf ln sp] }
    s1.modSparse sp.num fun x => if x.holders.contains l then x else { x with holders := x.holders ++ [l] }

/-- At the start of a round a launch latches the root of every region it holds (R289). -/
def State.latchAll (s : State) (l : Nat) : State :=
  s.modLaunch l fun x =>
    { x with latched := (s.sparse.filter fun sp => sp.holders.contains l).map fun sp =>
        let d := s.rdesc sp
        { region := sp.num, root := d.root, pub := d.pub, entries := d.entries } }

/-! ## Coordinate access -/

/-- A fault of a sparse word: the word in info0 (R306). -/
def Env.sparseTrap (e : Env) (code : FaultCode) (info1 : Nat) : Trap :=
  { code := code, info0 := e.is.word, info1 := info1 }

/-- Checks 1 and 2 of R306: the region that a quad names. A valid capability of another space names no region, and it is
`CAP_PERM` as R279 says (log 61). The descriptor's line must be the tenant's (R298). -/
def Env.sparseCap (e : Env) (f : Fibre) (q : BitVec 4) (store : Bool) : Except Trap Sparse :=
  let c := capOf (f.quad q.toNat)
  if !capValid e.l (f.tag q.toNat) c then .error (e.sparseTrap .capTag 0)
  else if c.space ≠ 4 then .error (e.sparseTrap .capPerm 0)
  else
    match e.s.sparse? (skey e.l.tenant c.objid) with
    | none => .error (e.sparseTrap .capTag 0)
    | some sp =>
      if (if store then !c.canW else !c.canR) || (c.isSup && !e.l.sup) then .error (e.sparseTrap .capPerm 0)
      else if e.s.owner sp.desc != sp.tenant then .error (addrTrap .ownership sp.desc)
      else .ok sp

/-- Check 4 of R306. -/
def Env.sparseKey (e : Env) (f : Fibre) (d : RDesc) (x : BitVec 6) : Except Trap Nat :=
  match keyOf d.rank d.ext ((List.range 4).map fun i => (f.reg (x.toNat + i)).toNat) with
  | .ok k => .ok k
  | .error i => .error (e.sparseTrap .sparseCoord i)

/-- Checks 5 and 6 of R306. -/
def Env.nodeTrap (e : Env) : NodeErr → Trap
  | .format n => e.sparseTrap .format n
  | .memory n => e.sparseTrap .memUncorrectable n
  | .owner pa => addrTrap .ownership pa

/-- Every active fibre makes its launch a holder of the region it has accessed (R291). -/
def State.noteHolders (e : Env) (q : BitVec 4) (store : Bool) : List Fibre → State → State
  | [], s => s
  | f :: fs, s =>
    State.noteHolders e q store fs
      (if e.active f then
        match e.sparseCap f q store with
        | .ok sp => s.noteHolder e.l.id sp
        | .error _ => s
      else s)

/-- A sparse word: its effect for each fibre, then the holders. A fibre whose access failed has had no effect (R306). -/
def State.sparseWord (s : State) (i : Instr) (q : BitVec 4) (store : Bool)
    (eff : Env → Fibre → Fibre → Except Trap Eff) : Out :=
  let s1 := s.actEach i eff
  match s.env?, s1.issue with
  | some e, some is1 => .next (State.noteHolders e q store (is1.live.filterMap e.b.fibre?) s1)
  | _, _ => .next s1

/-- A result that lands like a load's, 220 cycles for each node after its issue at the earliest (R307, R309). -/
def pendResult (e : Env) (f : Fibre) (nodes : Nat) (ws : List (Nat × Word)) : Except Trap Eff :=
  match f.reserve (ws.map Prod.fst) with
  | .error t => .error t
  | .ok g =>
    .ok { fibre := { g with loads := g.loads ++ [{ regs := ws, tag := none, line := [], core := e.b.coreOf f.group, va := none, issued := e.is.cycle,
                                                    due := e.is.cycle + 220 * nodes }] } }

/-- A value as one register or a pair. -/
def valueWords (d size v : Nat) : List (Nat × Word) :=
  if size = 8 then [(d, BitVec.ofNat 32 v), (d + 1, BitVec.ofNat 32 (v / 2 ^ 32))] else [(d, BitVec.ofNat 32 v)]

/-- TLD (R307). -/
def execTld (d : BitVec 6) (cap : BitVec 4) (x : BitVec 6) (s : State) : Out :=
  s.sparseWord (.tld d cap x) cap false fun e r f =>
    match e.sparseCap r cap false with
    | .error t => .error t
    | .ok sp =>
      let ds := e.s.rdesc sp
      let sz := typeSize ds.typ
      if sz = 8 ∧ d.toNat % 2 = 1 then .error (e.sparseTrap .illegalField 0)
      else
        match e.sparseKey r ds x with
        | .error t => .error t
        | .ok k =>
          let root := (e.s.latchOf e.l sp).root
          match e.s.lookup ds root k with
          | .error n => .error (e.nodeTrap n)
          | .ok v => pendResult e f (e.s.nodesRead ds root) (valueWords d.toNat sz v)

/-- The type rules of R305 for a store. -/
def tstOk (typ rule : Nat) (flt : Bool) : Bool :=
  if rule = 0 || rule = 1 || rule = 6 then !flt
  else
    match typ with
    | 0 => !flt
    | 1 => !flt
    | 2 => flt
    | 3 => false
    | 4 => flt
    | _ => flt && decide (4 ≤ rule)

/-- TST (R308): one round-scope contribution. For a 64-bit type the high register is read too. -/
def execTst (d : BitVec 6) (cap : BitVec 4) (x : BitVec 6) (rule : BitVec 3) (f : BitVec 1) (s : State) : Out :=
  s.sparseWord (.tst d cap x rule f) cap true fun e r c =>
    match e.sparseCap r cap true with
    | .error t => .error t
    | .ok sp =>
      let ds := e.s.rdesc sp
      let sz := typeSize ds.typ
      if !tstOk ds.typ rule.toNat (f == 1) || (sz = 8 && d.toNat % 2 = 1) then .error (e.sparseTrap .illegalField 0)
      else
        match e.sparseKey r ds x with
        | .error t => .error t
        | .ok k =>
          let high := if sz = 8 then [d.toNat + 1] else []
          match regCheck r high with
          | some t => .error t
          | none =>
            let rv := r.earlyView e.is.cycle e.s.free high
            let v := if sz = 8 then (rv.1.pair d.toNat).toNat else (rv.1.reg d.toNat).toNat % 2 ^ (8 * sz)
            .ok { fibre := c.bump, used := rv.2 - e.s.free,
                  contribs := [{ space := .sparse sp.num, addr := k, size := sz, nib := none, value := v, tag := false,
                                 rule := rule.toNat, flt := f == 1, key := e.ckey c, wo := false, phys := 0,
                                 dest := none, opened := 0, issued := e.is.cycle }] }

/-- TNEXT (R309): the cursor is signed; −1 answers that no key lies above it. The descent is made for every cursor. -/
def execTnext (d a : BitVec 6) (cap : BitVec 4) (s : State) : Out :=
  s.sparseWord (.tnext d a cap) cap false fun e r f =>
    match e.sparseCap r cap false with
    | .error t => .error t
    | .ok sp =>
      let c := (e.pairA r a).toInt
      let ds := e.s.rdesc sp
      let root := (e.s.latchOf e.l sp).root
      match e.s.nextKey ds root c with
      | .error n => .error (e.nodeTrap n)
      | .ok k =>
        let q := if 2 ^ 63 - 1 ≤ c then allOnes else k.getD allOnes
        pendResult e f (e.s.nodesRead ds root) (valueWords d.toNat 8 q)

/-- TCOUNT (R309): the count stands in the descriptor. So that checks 5 and 6 apply to it (R286, R309), it reads one node, the root
(DEDUCED, log 77). -/
def execTcount (d : BitVec 6) (cap : BitVec 4) (s : State) : Out :=
  s.sparseWord (.tcount d cap) cap false fun e r f =>
    match e.sparseCap r cap false with
    | .error t => .error t
    | .ok sp =>
      let t := e.s.latchOf e.l sp
      match (if t.root = noNode then none else e.s.rootError (e.s.rdesc sp) t.root) with
      | some n => .error (e.nodeTrap n)
      | none => pendResult e f 1 (valueWords d.toNat 8 t.entries)

/-! ## The rebuild at a round commit -/

/-- A node of the tree being built: an old node kept, or a new one with its number. -/
structure Item where
  low  : Nat
  num  : Nat
  deriving DecidableEq, Repr, Inhabited

/-- A node of the old tree with its number and the lowest key that descends to it. -/
structure OldNode where
  num  : Nat
  lo   : Nat
  node : Node
  deriving DecidableEq, Repr, Inhabited

/-- The nodes one level down, in key order (R286). -/
def State.kidsOf (s : State) (d : RDesc) (x : OldNode) : List (Nat × Nat) → Except NodeErr (List OldNode)
  | [] => .ok []
  | (n, lo) :: rest =>
    match s.node d (some (x.node.level - 1)) n with
    | .error e => .error e
    | .ok y =>
      match s.kidsOf d x rest with
      | .error e => .error e
      | .ok ys => .ok ({ num := n, lo := lo, node := y } :: ys)

/-- A level from the level above. -/
def State.levelBelow (s : State) (d : RDesc) : List OldNode → Except NodeErr (List OldNode)
  | [] => .ok []
  | x :: xs =>
    match s.kidsOf d x (x.node.kids.zip (x.lo :: x.node.keys)) with
    | .error e => .error e
    | .ok ys =>
      match s.levelBelow d xs with
      | .error e => .error e
      | .ok zs => .ok (ys ++ zs)

/-- The levels of a tree, leaves first. -/
def State.levels (s : State) (d : RDesc) : Nat → List OldNode → List (List OldNode) →
    Except NodeErr (List (List OldNode))
  | 0, cur, acc => .ok (cur :: acc)
  | fuel + 1, cur, acc =>
    match s.levelBelow d cur with
    | .error e => .error e
    | .ok next => s.levels d fuel next (cur :: acc)

/-- The whole tree by levels, leaves first; no level for the empty tree. -/
def State.tree (s : State) (d : RDesc) (root : Nat) : Except NodeErr (List (List OldNode)) :=
  if root = noNode then .ok []
  else
    match s.node d none root with
    | .error e => .error e
    | .ok x => s.levels d x.level [{ num := root, lo := 0, node := x }] []

/-- Entries of a list of leaves. -/
def entriesOf (ls : List OldNode) : List (Nat × Nat) := (ls.map fun x => x.node.keys.zip x.node.vals).flatten

/-- Divide until no part holds more than `most`: the lower part takes ⌈n ÷ 2⌉ (R278). -/
def divide {α : Type} (most : Nat) : Nat → List α → List (List α)
  | 0, l => [l]
  | fuel + 1, l =>
    if l.length ≤ most then [l]
    else
      let h := (l.length + 1) / 2
      divide most fuel (l.take h) ++ divide most fuel (l.drop h)

/-- The next free node number from `n` on: not in use, not retired (R278). -/
def nextFree (busy : List Nat) : Nat → Nat → Nat
  | 0, n => n
  | fuel + 1, n => if busy.contains n then nextFree busy fuel (n + 1) else n

/-- What a rebuild has produced: nodes to write with their 128 bytes, the number the next one may take. -/
structure Build where
  next  : Nat
  nodes : List (Nat × List Byte)
  deriving DecidableEq, Repr, Inhabited

/-- The bytes of a new leaf (R284, R285). -/
def leafBytes (d : RDesc) (fence : Nat) (es : List (Nat × Nat)) : List Byte :=
  let rest := List.replicate (7 - es.length) ()
  leBytes 8 (1 + 256 * es.length + d.num * 2 ^ 16 + (d.pub + 1) % 2 ^ 32 * 2 ^ 32) ++ leBytes 8 fence
    ++ (es.map fun p => leBytes 8 p.1).flatten ++ (rest.map fun _ => leBytes 8 allOnes).flatten
    ++ (es.map fun p => leBytes 8 p.2).flatten ++ (rest.map fun _ => leBytes 8 0).flatten

/-- The bytes of a new inner node (R284). -/
def innerBytes (d : RDesc) (level : Nat) (is : List Item) : List Byte :=
  let seps := is.tail.map Item.low
  leBytes 8 (2 + 256 * is.length + d.num * 2 ^ 16 + (d.pub + 1) % 2 ^ 32 * 2 ^ 32) ++ leBytes 4 level ++ leBytes 4 0
    ++ (seps.map fun k => leBytes 8 k).flatten ++ ((List.replicate (7 - seps.length) ()).map fun _ => leBytes 8 allOnes).flatten
    ++ (is.map fun i => leBytes 4 i.num).flatten ++ ((List.replicate (8 - is.length) ()).map fun _ => leBytes 4 noNode).flatten
    ++ leBytes 24 0

/-- Take a number and record a node. -/
def Build.put (b : Build) (busy : List Nat) (bytes : List Byte) : Nat × Build :=
  let n := nextFree busy (busy.length + 1) b.next
  (n, { next := n + 1, nodes := b.nodes ++ [(n, bytes)] })

/-- A leaf position after the changes: an old leaf kept, or the entries of a new leaf. -/
inductive LeafSlot where
  | kept (x : Item)
  | fresh (es : List (Nat × Nat))
  deriving DecidableEq, Repr, Inhabited

def LeafSlot.low : LeafSlot → Nat
  | .kept x => x.low
  | .fresh es => (es.headD (0, 0)).1

/-- Number the new leaves in key order; a fence is the lowest key to the right (R278, R285). -/
def numberLeaves (d : RDesc) (busy : List Nat) : List LeafSlot → Build → List Item × Build
  | [], b => ([], b)
  | .kept x :: rest, b =>
    let r := numberLeaves d busy rest b
    (x :: r.1, r.2)
  | .fresh es :: rest, b =>
    let fence := match rest with
      | y :: _ => y.low
      | [] => allOnes
    let p := b.put busy (leafBytes d fence es)
    let r := numberLeaves d busy rest p.2
    ({ low := (es.headD (0, 0)).1, num := p.1 } :: r.1, r.2)

/-- New inner nodes over parts, in key order. -/
def numberInner (d : RDesc) (busy : List Nat) (level : Nat) : List (List Item) → Build → List Item × Build
  | [], b => ([], b)
  | part :: rest, b =>
    let p := b.put busy (innerBytes d level part)
    let r := numberInner d busy level rest p.2
    ({ low := (part.headD default).low, num := p.1 } :: r.1, r.2)

/-- The items of an inner level from the items below: `groups` are the old inner nodes with their children's items. A
node whose children and separators stay is kept (R278). -/
def innerLevel (d : RDesc) (busy : List Nat) (level : Nat) : List (OldNode × List Item) → Build → List Item × Build
  | [], b => ([], b)
  | (x, is) :: rest, b =>
    let r1 :=
      if is.isEmpty then ([], b)
      else if is.map Item.num = x.node.kids ∧ is.tail.map Item.low = x.node.keys then
        ([{ low := (is.headD default).low, num := x.num }], b)
      else numberInner d busy level (divide 8 64 is) b
    let r2 := innerLevel d busy level rest r1.2
    (r1.1 ++ r2.1, r2.2)

/-- Each old node of a level with the items its old children became; `slots` holds, for each old child in order, its
items. -/
def groupKids : List OldNode → List (List Item) → List (OldNode × List Item)
  | [], _ => []
  | x :: xs, slots => (x, (slots.take x.node.kids.length).flatten) :: groupKids xs (slots.drop x.node.kids.length)

/-- Split a list of items by the counts of the old nodes they came from. -/
def splitBy {α : Type} : List Nat → List α → List (List α)
  | [], _ => []
  | n :: ns, l => l.take n :: splitBy ns (l.drop n)

/-- The number of items each group of an inner level gives. -/
def innerCounts : List (OldNode × List Item) → List Nat
  | [] => []
  | (x, is) :: rest =>
    (if is.isEmpty then 0
     else if is.map Item.num = x.node.kids ∧ is.tail.map Item.low = x.node.keys then 1
     else (divide 8 64 is).length) :: innerCounts rest

/-- The inner levels, from the bottom (R278). -/
def innerLevels (d : RDesc) (busy : List Nat) : Nat → List (List OldNode) → List (List Item) → Build →
    List Item × Nat × Build
  | level, [], slots, b => (slots.flatten, level, b)
  | level, olds :: rest, slots, b =>
    let gs := groupKids olds slots
    let r := innerLevel d busy (level + 1) gs b
    innerLevels d busy (level + 1) rest (splitBy (innerCounts gs) r.1) r.2

/-- New roots over several nodes (R278). -/
def topLevels (d : RDesc) (busy : List Nat) : Nat → Nat → List Item → Build → List Item × Build
  | 0, _, is, b => (is, b)
  | fuel + 1, level, is, b =>
    if is.length ≤ 1 then (is, b)
    else
      let r := numberInner d busy (level + 1) (divide 8 64 is) b
      topLevels d busy fuel (level + 1) r.1 r.2

/-- A root left with one child is dropped, and the child becomes the root (R287): among the new nodes, then among the
old ones. -/
def State.trimRoot (s : State) (d : RDesc) : Nat → Nat → Build → Nat × Build
  | 0, root, b => (root, b)
  | fuel + 1, root, b =>
    match b.nodes.find? fun p => p.1 == root with
    | some p =>
      if p.2.getD 0 0 = 2 ∧ p.2.getD 1 0 = 1 then
        s.trimRoot d fuel (ofLe ((p.2.drop 72).take 4)) { b with nodes := b.nodes.filter fun q => q.1 != root }
      else (root, b)
    | none =>
      match readNode s.mem d root with
      | some x => if !x.leaf ∧ x.kids.length = 1 then s.trimRoot d fuel (x.kids.headD noNode) b else (root, b)
      | none => (root, b)

/-- What the leaves become: for each old leaf, its slots (R278). `new` gives the entries after the commit in a key
range. -/
def leafSlots (changed : List (Nat × Nat)) : List OldNode → List Nat → List (List LeafSlot)
  | [], _ => []
  | x :: xs, his =>
    let hi := his.headD (2 ^ 64)
    let old := x.node.keys.zip x.node.vals
    let mine := changed.filter fun p => x.lo ≤ p.1 && p.1 < hi
    let merged := mergeEntries old mine
    (if merged = old then [LeafSlot.kept { low := x.node.keys.headD 0, num := x.num }]
     else if merged.isEmpty then []
     else (divide 7 64 merged).map LeafSlot.fresh) :: leafSlots changed xs his.tail
where
  /-- Entries with the changed keys replaced; a changed value of 0 here stands for a removed key. -/
  mergeEntries (old mine : List (Nat × Nat)) : List (Nat × Nat) :=
    let keep := old.filter fun p => !(mine.any fun q => q.1 == p.1)
    (mine.filter fun q => q.2 != 0).foldl (fun m q => insertEntry q m) keep
  /-- Insert an entry by key. -/
  insertEntry (q : Nat × Nat) : List (Nat × Nat) → List (Nat × Nat)
    | [] => [q]
    | p :: ps => if q.1 < p.1 then q :: p :: ps else p :: insertEntry q ps

/-- A rebuilt tree. -/
structure Rebuilt where
  root  : Nat
  nodes : List (Nat × List Byte)
  /-- the nodes of the new tree -/
  used  : List Nat
  entries : Nat
  deriving DecidableEq, Repr, Inhabited

/-- The numbers of the nodes that stay: old nodes that a kept or new node still names, found by walking the new tree from
its root over new and old nodes. -/
def State.reach (s : State) (d : RDesc) (b : Build) : Nat → List Nat → List Nat
  | 0, _ => []
  | _, [] => []
  | fuel + 1, ns =>
    let kids (n : Nat) : List Nat :=
      match b.nodes.find? fun p => p.1 == n with
      | some p =>
        if p.2.getD 0 0 = 2 then (List.range (p.2.getD 1 0).toNat).map fun i => ofLe ((p.2.drop (72 + 4 * i)).take 4)
        else []
      | none =>
        match readNode s.mem d n with
        | some x => x.kids
        | none => []
    ns ++ s.reach d b fuel (ns.map kids).flatten

/-- Rebuild a tree for changed keys (R278): each pair is a key with its value after the commit, 0 for an absent key. -/
def State.rebuild (s : State) (d : RDesc) (busy : List Nat) (changed : List (Nat × Nat)) : Except NodeErr Rebuilt :=
  match s.tree d d.root with
  | .error e => .error e
  | .ok levels =>
    let leaves := levels.headD []
    let slots : List (List LeafSlot) :=
      if levels.isEmpty then
        let es := leafSlots.mergeEntries [] changed
        if es.isEmpty then [] else [(divide 7 64 es).map LeafSlot.fresh]
      else leafSlots changed leaves (leaves.tail.map OldNode.lo)
    let r0 := numberLeaves d busy slots.flatten { next := 0, nodes := [] }
    let r1 := innerLevels d busy 0 levels.tail (splitBy (slots.map List.length) r0.1) r0.2
    let r2 := topLevels d busy 64 r1.2.1 r1.1 r1.2.2
    match r2.1 with
    | [] => .ok { root := noNode, nodes := [], used := [], entries := 0 }
    | top :: _ =>
      let t := s.trimRoot d (r1.2.1 + 64) top.num r2.2
      let used := s.reach d t.2 (r1.2.1 + 66) [t.1]
      .ok { root := t.1, nodes := t.2.nodes, used := used,
            entries := (leafSlots.mergeEntries (entriesOf leaves) changed).length }

end Sys2Proof.Machine
end

