-- ==== Sys2Proof/Machine/Engine.lean ====
section
/-! DEFINITION. The copy and gather engines: dispatch with its checks, the source and output lines of a command in flight,
its contributions, and how it ends (13_copy_gather_matrix_engines.md R236 to R250, R256, R257; 14 R261 to R275). A command
reads its source lines and writes its output lines one at a time, each in order; an output line can be written as soon as the
source bytes it needs have been read (log 10). -/

namespace Sys2Proof.Machine

/-! ## Finding a command's launch, block and fields -/

/-- The block a command belongs to. -/
def State.blockOf (s : State) (c : Cmd) : Option (Launch × Block) :=
  match s.launch? c.launch with
  | none => none
  | some l =>
    match l.block? c.block with
    | none => none
    | some b => some (l, b)

/-- A field of the parameter block: `n` bytes from byte `i` on. -/
def Cmd.num (c : Cmd) (i n : Nat) : Nat := numAt c.params i n
/-- Every byte from `i` on, `n` of them, is 0. -/
def Cmd.zeros (c : Cmd) (i n : Nat) : Bool := c.num i n == 0
/-- The capabilities of bytes 0–15 and 16–31. -/
def Cmd.cap0 (c : Cmd) : Cap := capOf (c.num 0 16)
def Cmd.cap1 (c : Cmd) : Cap := capOf (c.num 16 16)
/-- The parameter-block capability C (R259). -/
def Cmd.capC (c : Cmd) : Cap := capOf c.capVal

/-- Distinct pairs in order of first occurrence. -/
def dedupPair : List (Nat × Nat) → List (Nat × Nat)
  | [] => []
  | a :: l => a :: (dedupPair l).filter (· != a)

/-! ## Reading -/

/-- Bytes as an engine reads them: scratch as committed, memory as landed (R60); `sp` is the capability's space. -/
def State.engBytes (s : State) (l : Launch) (b : Block) (sp a n : Nat) : Except FaultCode (List Byte) :=
  if sp = 1 then
    if s.scratchPoison.any fun p => p.1 == l.id && p.2.1 == b.index && p.2.2 == a / 128 then .error .memUncorrectable
    else .ok (Memory.bytes b.scratch a n)
  else
    match s.translate none l.tenant (if sp = 3 then .constLoad else .load) a with
    | .error c => .error c
    | .ok pa => if s.poisoned pa then .error .memUncorrectable else .ok (s.mem.bytes pa n)

/-- A run of bytes, line by line; on a failure the address of the line. -/
def State.engRun (s : State) (l : Launch) (b : Block) (sp : Nat) : Nat → Nat → Nat →
    Except (FaultCode × Nat) (List Byte)
  | 0, _, _ => .ok []
  | fuel + 1, a, n =>
    if n = 0 then .ok []
    else
      let k := min n (128 - a % 128)
      match s.engBytes l b sp a k with
      | .error c => .error (c, a)
      | .ok bs =>
        match s.engRun l b sp fuel (a + k) (n - k) with
        | .error e => .error e
        | .ok cs => .ok (bs ++ cs)

/-- A run of bytes. -/
def State.engAll (s : State) (l : Launch) (b : Block) (sp a n : Nat) : Except (FaultCode × Nat) (List Byte) :=
  s.engRun l b sp (n / 128 + 2) a n

/-! ## Source lines -/

/-- The source of a command: equally long extents, each with its space and address. -/
structure Source where
  count : Nat
  len   : Nat
  at'   : Nat → Nat × Nat

/-- No source to read after dispatch. -/
def noSource : Source := { count := 0, len := 0, at' := fun _ => (0, 0) }

/-- The memory that a space lies in: scratch, or global memory, which the spaces 0, 3 and 5 name alike. -/
def lineSpace (sp : Nat) : Nat := if sp = 1 then 1 else 0

/-- The first of the pairs that name one line. -/
def firstLines : List (Nat × Nat) → List (Nat × Nat)
  | [] => []
  | a :: l => a :: (firstLines l).filter fun x => !(lineSpace x.1 == lineSpace a.1 && x.2 == a.2)

/-- Distinct source lines of a `cp`, scratch first (R245): space and line. Lanes whose capabilities name one line of memory through
different spaces make one line read, through that of the lowest lane (log 10). -/
def Cmd.cpLines (c : Cmd) : List (Nat × Nat) :=
  let ls := firstLines (c.lanes.map fun x => ((capOf x.2.2.1).space, ((capOf x.2.2.1).base + x.2.2.2.2) / 128))
  ls.filter (fun p => p.1 == 1) ++ ls.filter (fun p => p.1 != 1)

/-- The place of a line among a `cp`'s source lines. -/
def Cmd.cpLineAt (c : Cmd) (sp line : Nat) : Nat := c.cpLines.findIdx fun p => lineSpace p.1 == lineSpace sp && p.2 == line

/-- The distinct rows of a `gath`, in order of first use (R249). -/
def Cmd.rows (c : Cmd) : List Nat := dedupNat (c.lanes.map Prod.fst)

/-- What a command reads after its dispatch. -/
def Cmd.source (c : Cmd) : Source :=
  match c.instr with
  | .cp .. =>
    let ls := c.cpLines
    { count := ls.length, len := 128, at' := fun i => ((ls.getD i (0, 0)).1, 128 * (ls.getD i (0, 0)).2) }
  | .cpt .. =>
    if c.num 32 1 = 0 then
      { count := c.num 36 2, len := c.num 38 2 * blockBytes (c.num 33 1),
        at' := fun i => (c.cap0.space, c.cap0.base + c.num 40 8 + i * c.num 48 4) }
    else noSource
  | .cps .. => { count := 1, len := c.count, at' := fun _ => (c.cap0.space, c.cap0.base + c.num 60 4) }
  | .gath .. =>
    let rs := c.rows
    { count := rs.length, len := c.num 38 2,
      at' := fun i => (c.cap0.space, c.cap0.base + c.num 40 8 + rs.getD i 0 * c.num 48 4) }
  | .scat .. =>
    { count := c.num 36 2, len := c.num 38 2,
      at' := fun i => (c.cap1.space, c.cap1.base + c.num 56 4 + i * c.num 60 4) }
  | .digest .. => { count := 1, len := c.num 48 8, at' := fun _ => (c.cap0.space, c.cap0.base + c.num 40 8) }
  | .rcp .. => { count := 1, len := c.num 48 8, at' := fun _ => (c.cap0.space, c.cap0.base + c.num 40 8) }
  | _ => noSource

/-- Every source byte has been read. -/
def Cmd.sourceDone (c : Cmd) : Bool := decide (c.source.count * c.source.len ≤ c.buf.length)

/-- Space, address and length of the next source line. -/
def Cmd.nextPiece (c : Cmd) : Nat × Nat × Nat :=
  let so := c.source
  let i := c.buf.length / so.len
  let j := c.buf.length % so.len
  let at' := so.at' i
  let a := at'.2 + j
  (at'.1, a, min (so.len - j) (128 - a % 128))

/-- Bytes of a source line at a physical address as the command sees them: what its launch's own commits have written since its
dispatch is not yet there (R248, R401). -/
def Cmd.unlanded (c : Cmd) (pa : Nat) (bs : List Byte) : List Byte :=
  match c.before.find? fun x => x.1 == pa / 128 with
  | none => bs
  | some x => bs.zipIdx.map fun y => (x.2.getD (pa % 128 + y.2) none).getD y.1

/-- The same of a space's address. -/
def State.sourceBytes (s : State) (l : Launch) (c : Cmd) (sp a : Nat) (bs : List Byte) : List Byte :=
  if sp = 1 then bs
  else
    match s.translate none l.tenant (if sp = 3 then .constLoad else .load) a with
    | .ok pa => c.unlanded pa bs
    | .error _ => bs

/-- Read the next source line (R257). -/
def State.readPiece (s : State) (l : Launch) (b : Block) (c : Cmd) : Except (FaultCode × Nat) Cmd :=
  let p := c.nextPiece
  match s.engBytes l b p.1 p.2.1 p.2.2 with
  | .error e => .error (e, p.2.1)
  | .ok bs => .ok { c with buf := c.buf ++ s.sourceBytes l c p.1 p.2.1 bs }

/-- At dispatch a command reads its scratch source (R237). -/
def State.readScratch (s : State) (l : Launch) (b : Block) : Nat → Cmd → Except (FaultCode × Nat) Cmd
  | 0, c => .ok c
  | fuel + 1, c =>
    if c.sourceDone || c.nextPiece.1 != 1 then .ok c
    else
      match s.readPiece l b c with
      | .error e => .error e
      | .ok d => s.readScratch l b fuel d

/-! ## Output lines -/

/-- Output lines of a run of bytes; for the bytes up to an offset, `done` gives the progress once they are written and `need`
the source bytes they need. -/
def outRun (sp a : Nat) (bs : List Byte) (done need : Nat → Nat) : List OutLine :=
  (cutLines (bs.length + 1) a bs).map fun p =>
    { scratch := sp == 1, addr := p.1, bytes := p.2.map some, tag := false, done := done (p.1 + p.2.length - a),
      need := need (p.1 + p.2.length - a) }

/-- Number the progress of lines from 1. -/
def numberLines : Nat → List OutLine → List OutLine
  | _, [] => []
  | k, o :: os => { o with done := k } :: numberLines (k + 1) os

/-- The byte a `cp` writes at an address, from the lowest-keyed lane that covers it (R245). -/
def Cmd.cpByte (c : Cmd) (size : Nat) (scratch : Bool) (a : Nat) : Option Byte :=
  let dst (x : Nat × Nat × Nat × Nat × Nat) : Nat := (capOf x.2.1).base + x.2.2.2.1
  match c.lanes.find? fun x => ((capOf x.2.1).space == 1) == scratch && dst x ≤ a && a < dst x + size with
  | none => none
  | some x =>
    let src := (capOf x.2.2.1).base + x.2.2.2.2 + (a - dst x)
    let k := c.cpLineAt (capOf x.2.2.1).space (src / 128)
    some (c.buf.getD (128 * k + src % 128) 0)

/-- The destination line of a `cp` lane: scratch or not, and its number. -/
def dstLine (x : Nat × Nat × Nat × Nat × Nat) : Nat × Nat :=
  ((if (capOf x.2.1).space = 1 then 1 else 0), ((capOf x.2.1).base + x.2.2.2.1) / 128)

/-- The source bytes that a destination line of a `cp` needs: those up to the last source line of its lanes. -/
def Cmd.cpNeed (c : Cmd) (p : Nat × Nat) : Nat :=
  (c.lanes.filter fun x => dstLine x == p).foldl (fun m x =>
    max m (128 * (c.cpLineAt (capOf x.2.2.1).space (((capOf x.2.2.1).base + x.2.2.2.2) / 128) + 1))) 0

/-- The destination lines of a `cp`, each with its byte mask (R245). -/
def Cmd.cpOut (c : Cmd) (size : Nat) : List OutLine :=
  let ls := dedupPair (c.lanes.map dstLine)
  numberLines 1 (ls.map fun p =>
    { scratch := p.1 == 1, addr := 128 * p.2,
      bytes := (List.range 128).map fun q => c.cpByte size (p.1 == 1) (128 * p.2 + q), tag := false, done := 0,
      need := c.cpNeed p })

/-- Bytes of a tile element (R213). -/
def tileElem (fmt : Nat) : Nat := if fmt = 2 then 2 else 1

/-- A row k-block as tile elements (R213). -/
def tileBytes (fmt : Nat) (b : Psb) : List Byte := (b.elems.map fun e => leBytes (tileElem fmt) e).flatten

/-- The bitmap plane's bytes from its bits (R213). -/
def bitPlane (bits : List Bool) : List Byte :=
  (List.range ((bits.length + 63) / 64 * 8)).map fun i =>
    BitVec.ofNat 8 ((List.range 8).foldl (fun m k => if bits.getD (8 * i + k) false then m + 2 ^ k else m) 0)

/-- The rounding mode of a code (R155). -/
def rmode (code : Nat) : RMode := RMode.ofCode code

/-- The outputs of `cpt` into a tile (R246, R213). Its progress counts the row k-blocks whose elements are written (log 10). -/
def Cmd.cptInto (c : Cmd) : List OutLine :=
  let st := c.num 33 1
  let tf := c.num 34 1
  let bb := blockBytes st
  let units := c.num 36 2 * c.num 38 2
  let blocks := (List.range units).map fun u => intoTile st tf (rmode (c.num 35 1)) ((c.buf.drop (bb * u)).take bb)
  let base := c.capC.base
  let need (per : Nat) (o : Nat) : Nat := bb * min units ((o + per - 1) / per)
  outRun 1 (base + c.num 52 4) ((blocks.map (tileBytes tf)).flatten) (fun o => o / (32 * tileElem tf)) (need (32 * tileElem tf))
    ++ (if tf = 3 then [] else outRun 1 (base + c.num 56 4)
          ((blocks.map fun b => [BitVec.ofNat 8 b.e0, BitVec.ofNat 8 b.e1]).flatten) (fun _ => units) (need 2))
    ++ outRun 1 (base + c.num 60 4) (bitPlane (blocks.map fun b => b.live tf)) (fun _ => units) (fun o => bb * min units (8 * o))

/-- A tile block from a command's bytes: elements first, then the exponent plane (R213). -/
def psbAt (fmt : Nat) (elems exps : List Byte) (u : Nat) : Psb :=
  let n := tileElem fmt
  { elems := (List.range 32).map fun i => numAt elems (n * (32 * u + i)) n % 2 ^ elemBits fmt,
    e0 := if fmt = 3 then 0 else numAt exps (2 * u) 1, e1 := if fmt = 3 then 0 else numAt exps (2 * u + 1) 1 }

/-- The outputs of `cpt` out of a tile (R246); the buffer holds the elements, the exponents and a byte for each bit. -/
def Cmd.cptOut (c : Cmd) : List OutLine :=
  let st := c.num 33 1
  let tf := c.num 34 1
  let kb := c.num 38 2
  let units := c.num 36 2 * kb
  let ne := 32 * tileElem tf * units
  let nx := if tf = 3 then 0 else 2 * units
  let block (u : Nat) : List Byte :=
    outOfTile st tf (rmode (c.num 35 1)) (psbAt tf c.buf (c.buf.drop ne) u) ((c.buf.getD (ne + nx + u) 0) != 0)
  ((List.range (c.num 36 2)).map fun r =>
    outRun c.cap0.space (c.cap0.base + c.num 40 8 + r * c.num 48 4)
      (((List.range kb).map fun b => block (r * kb + b)).flatten)
      (fun o => r * kb + o / blockBytes st) (fun _ => 0)).flatten

/-- The outputs of `gath`: each position receives its row (R249). -/
def Cmd.gathOut (c : Cmd) : List OutLine :=
  let rs := c.rows
  let n := c.num 38 2
  ((List.range c.lanes.length).map fun i =>
    let k := rs.findIdx (· == (c.lanes.map Prod.fst).getD i 0)
    outRun c.cap1.space (c.cap1.base + c.num 56 4 + i * c.num 60 4) ((c.buf.drop (n * k)).take n)
      (fun o => if o = n then i + 1 else i) (fun o => n * k + o)).flatten

/-- A command that writes while it reads: its output lines follow from the source bytes read so far (R241). -/
def Cmd.streams (c : Cmd) : Bool :=
  match c.instr with
  | .cp .. => true
  | .cpt .. => c.num 32 1 == 0
  | .gath .. => true
  | .digest .. => true
  | .rcp .. => true
  | _ => false

/-- The output lines of a command, as far as its source has been read. -/
def Cmd.outputs (c : Cmd) : List OutLine :=
  match c.instr with
  | .cp _ _ _ _ size => c.cpOut (4 * 2 ^ size.toNat)
  | .cpt .. => if c.num 32 1 = 0 then c.cptInto else c.cptOut
  | .gath .. => c.gathOut
  | .digest .. => outRun c.cap1.space (c.cap1.base + c.num 56 8) (sha256 c.buf) (fun _ => 0) (fun _ => c.num 48 8)
  | .rcp .. => outRun 0 (c.num 56 8) (c.buf ++ List.replicate (c.num 48 8 - c.buf.length) 0) (fun _ => 0) fun o => o
  | _ => c.outs

/-- The next output line, when it can be written. -/
def Cmd.nextOut (c : Cmd) : Option OutLine :=
  if c.streams then (c.outputs[c.written]?).filter fun o => decide (o.need ≤ c.buf.length) else c.outs.head?

/-- The command once a line is written. -/
def Cmd.wrote (c : Cmd) (o : OutLine) : Cmd :=
  if c.streams then { c with written := c.written + 1, progress := o.done } else { c with outs := c.outs.tail, progress := o.done }

/-- No output line is left. -/
def Cmd.allWritten (c : Cmd) : Bool := if c.streams then decide (c.outputs.length ≤ c.written) else c.outs.isEmpty

/-- The count of a command's token (R258). -/
def Cmd.total (c : Cmd) : Nat :=
  match c.instr with
  | .cp _ _ _ _ size => (c.cpOut (4 * 2 ^ size.toNat)).length
  | .cpt .. => c.num 36 2 * c.num 38 2
  | .gath .. => c.rows.length
  | .scat .. => c.num 36 2
  | .digest .. => shaCount (c.num 48 8)
  | _ => c.count

/-! ## Writing -/

/-- Tags of the 16-byte locations that bytes overwrite (R47). -/
def clearTags (tags : List Nat) (a n : Nat) : List Nat := tags.filter fun t => !(decide (t < a + n) && decide (a < t + 16))

/-- Tags after bytes under a mask are written: a location that no written byte lies in keeps its tag (R47). -/
def clearMasked (tags : List Nat) (a : Nat) (bs : List (Option Byte)) : List Nat :=
  tags.filter fun t => !((List.range 16).any fun i => decide (a ≤ t + i) && (bs.getD (t + i - a) none).isSome)

/-- A scratch output line lands (R239). -/
def Block.landLine (b : Block) (o : OutLine) : Block :=
  { b with
    scratch := Memory.setMasked b.scratch o.addr o.bytes,
    scratchTags := if o.tag then insertNat o.addr (clearMasked b.scratchTags o.addr o.bytes)
                   else clearMasked b.scratchTags o.addr o.bytes }

/-- Every fibre of the block has exited. -/
def Block.allExited (b : Block) : Bool := b.fibres.all Fibre.hasExited

/-- A write of a whole scratch line ends its poison (R360). -/
def State.healScratch (s : State) (l b : Nat) (o : OutLine) : State :=
  if o.addr % 128 = 0 ∧ o.bytes.length = 128 ∧ o.bytes.all Option.isSome then
    { s with scratchPoison := s.scratchPoison.filter fun p => !(p.1 == l && p.2.1 == b && p.2.2 == o.addr / 128) }
  else s

/-- Write one output line (R239, R60): a scratch line is visible from the next commit, a memory line lands at once as an
outside write. -/
def State.writeLine (s : State) (l : Launch) (b : Block) (o : OutLine) : Except FaultCode State :=
  if o.scratch then
    if b.allExited then .ok ((s.healScratch l.id b.index o).modBlock l.id b.index (·.landLine o))
    else .ok ((s.healScratch l.id b.index o).modBlock l.id b.index fun x => { x with heldLines := x.heldLines ++ [o] })
  else
    match s.translate none l.tenant .store o.addr with
    | .error c => .error c
    | .ok pa => .ok (s.outsideWrite none pa o.bytes)

/-! ## Faults of a command's line -/

/-- A command stops at a line (R257): its block ends by the block path, with the token word in info0 and bits [47:16] of the
line's address in info1; for `OWNERSHIP` the machine path (R298, R359). The command's token is discarded with the
block. -/
def State.lineFault (s : State) (c : Cmd) (code : FaultCode) (addr : Nat) : State :=
  match s.blockOf c with
  | none => s
  | some (l, b) =>
    if code = .ownership then s.machinePath l (some b) none addr
    else
      let s1 := s.finishCmd c.id code.num c.progress
      if b.status = .terminated then s1
      else s1.blockPath l.id b.index c.fibre code (tokenWord code.num c.progress).toNat (addr / 65536 % 2 ^ 32)

/-! ## Contributions -/

/-- The key of the k-th contribution of a command (R242). -/
def Cmd.key (c : Cmd) (k : Nat) : CKey := { remote := 0, block := c.block, fibre := c.fibre, seq := c.seq, sub := k }

/-- The elements of one position of a `scat`: offset and value. -/
def rowElems (size : Nat) (row : List Byte) : List (Nat × List Byte) :=
  (List.range ((row.length + size - 1) / size)).map fun j => (j * size, (row.drop (j * size)).take size)

/-- The contributions of position i of a `scat` (R250); `pa` translates. -/
def Cmd.scatRow (c : Cmd) (pa : Nat → Nat) (i : Nat) : List Contrib :=
  let size := sizeBytes (c.num 33 1)
  let n := c.num 38 2
  let dst := c.cap0.base + c.num 40 8 + (c.lanes.map Prod.fst).getD i 0 * c.num 48 4
  let per := (n + size - 1) / size
  (rowElems size ((c.buf.drop (n * i)).take n)).zipIdx.map fun x =>
    { space := if c.cap0.space = 1 then .scratch else .global, addr := dst + x.1.1, size := x.1.2.length, nib := none,
      value := ofLe x.1.2, tag := false, rule := c.num 32 1, flt := c.num 34 1 == 1, key := c.key (i * per + x.2),
      wo := false, phys := if c.cap0.space = 1 then 0 else pa (dst + x.1.1), dest := none, opened := 0, issued := c.since }

/-- The first line of a range that an engine may not write; none when every line translates. -/
def State.badStore (s : State) (tenant : Nat) : Nat → Nat → Nat → Option (FaultCode × Nat)
  | 0, _, _ => none
  | fuel + 1, a, n =>
    if n = 0 then none
    else
      match s.translate none tenant .store a with
      | .error c => some (c, a)
      | .ok _ => s.badStore tenant fuel (a + min n (128 - a % 128)) (n - min n (128 - a % 128))

/-- The positions of a `scat`, from `i` on, of which `k` have been read: contributions, and the fault of the first that its
table row stops. -/
def State.scatRows (s : State) (l : Launch) (c : Cmd) : Nat → Nat → List Contrib × Option (Nat × FaultCode × Nat)
  | 0, _ => ([], none)
  | k + 1, i =>
    let n := c.num 38 2
    let dst := c.cap0.base + c.num 40 8 + (c.lanes.map Prod.fst).getD i 0 * c.num 48 4
    match (if c.cap0.space = 1 then none else s.badStore l.tenant (n / 128 + 2) dst n) with
    | some e => ([], some (i, e))
    | none =>
      let pa (a : Nat) : Nat := match s.translate none l.tenant .store a with
        | .ok p => p
        | .error _ => 0
      let r := s.scatRows l c k (i + 1)
      (c.scatRow pa i ++ r.1, r.2)

/-- A byte of memory as the launch's own commit leaves it, landed or not (R46, R56). -/
def Launch.roundByte (l : Launch) (m : Memory) (pa : Nat) : Byte :=
  (((l.landing.find? fun x => x.1 == pa / 128).bind fun x => x.2.getD (pa % 128) none)).getD (m.get pa)

/-- A contribution as it reaches its home slice: an arithmetic element of global memory that has no accumulator yet opens one
with the value that memory holds now, to the launch with what its own last commit has still to land (R46, R59). -/
def State.openContrib (s : State) (l : Launch) (c : Contrib) : Contrib :=
  if c.space = .global then
    { c with opened := ofLe ((List.range c.size).map fun i => l.roundByte s.mem (c.phys + i)), issued := s.clock }
  else { c with issued := s.clock }

/-- Contributions join a launch's round log (R23, R46, R63). -/
def State.joinRound (s : State) (l : Nat) (cs : List Contrib) : State :=
  s.modLaunch l fun x => { x with roundLog := x.roundLog ++ cs.map (s.openContrib x) }

/-- Contributions of an engine enter the launch's round log, or wait for the block's step commit (R247, R250). -/
def State.joinEngine (s : State) (l b : Nat) (scratch : Bool) (cs : List Contrib) : State :=
  if scratch then s.modBlock l b fun x => { x with heldScat := x.heldScat ++ cs } else s.joinRound l cs

/-- `scat` with `k` positions read (R250): their contributions enter; the rest is a fault or the token. -/
def State.endScat (s : State) (l : Launch) (c : Cmd) (k : Nat) (bad : Option (FaultCode × Nat)) : State :=
  let r := s.scatRows l c k 0
  let s1 := s.joinEngine c.launch c.block (c.cap0.space == 1) r.1
  match r.2, bad with
  | some x, _ => s1.lineFault { c with progress := x.1 } x.2.1 x.2.2
  | none, some e => s1.lineFault { c with progress := k } e.1 e.2
  | none, none => s1.finishCmd c.id 0 (c.num 36 2)

/-! ## Sparse copies -/

/-- Extents and origin of a sparse copy (R269). -/
def Cmd.extents (c : Cmd) : List Nat := (List.range 4).map fun i => c.num (36 + 2 * i) 2
def Cmd.origin (c : Cmd) : List Nat := (List.range 4).map fun i => c.num (44 + 4 * i) 4

/-- The coordinates of element j of the box (R269). -/
def Cmd.boxCoords (c : Cmd) (j : Nat) : List Nat :=
  let e := c.extents
  let o := c.origin
  [o.getD 0 0 + j / (e.getD 3 1 * e.getD 2 1 * e.getD 1 1), o.getD 1 0 + j / (e.getD 3 1 * e.getD 2 1) % e.getD 1 1,
   o.getD 2 0 + j / e.getD 3 1 % e.getD 2 1, o.getD 3 0 + j % e.getD 3 1]

/-- Elements of the box. -/
def Cmd.boxCount (c : Cmd) : Nat := c.extents.foldl (· * ·) 1

/-- The contributions of a `cps` (R247); the buffer holds the dense box. -/
def Cmd.cpsContribs (c : Cmd) (d : RDesc) (num : Nat) : List Contrib :=
  let size := typeSize d.typ
  let all := (List.range c.boxCount).filterMap fun j =>
    let v := numAt c.buf (size * j) size
    if zeroElem d.typ v ∧ c.num 33 1 % 2 = 0 then none
    else
      match keyOf d.rank d.ext (c.boxCoords j) with
      | .error _ => none
      | .ok k => some (k, v)
  all.zipIdx.map fun x =>
    { space := .sparse num, addr := x.1.1, size := size, nib := none, value := x.1.2, tag := false, rule := c.num 32 1,
      flt := decide (2 ≤ d.typ), key := c.key x.2, wo := false, phys := 0, dest := none, opened := 0, issued := c.since }

/-- The values of a `cpd` box in the tree of the launch's round (R247), up to the first that cannot be read, with its error; 0 for an
absent key. -/
def State.boxValues (s : State) (d : RDesc) (root : Nat) (c : Cmd) : List Nat → List Byte × Option NodeErr
  | [] => ([], none)
  | j :: js =>
    match keyOf d.rank d.ext (c.boxCoords j) with
    | .error _ => ([], none)
    | .ok k =>
      match s.lookup d root k with
      | .error e => ([], some e)
      | .ok v =>
        let r := s.boxValues d root c js
        (leBytes (typeSize d.typ) v ++ r.1, r.2)

/-- The output lines of a `cpd` that are whole before a value that cannot be read. -/
def wholeLines (a n : Nat) (os : List OutLine) : List OutLine := os.filter fun o => decide (o.addr + o.bytes.length < a + n)

/-! ## Dispatch -/

/-- A check sequence (R261): the status of the first condition that holds. -/
def firstStatus : List (Bool × Nat) → Option Nat
  | [] => none
  | (true, n) :: _ => some n
  | (false, _) :: l => firstStatus l

/-- Usable in the launch's mode, with ENG and the permission its role names, in an accepted space (R261 order 3). -/
def roleOk (l : Launch) (c : Cap) (write : Bool) (spaces : List Nat) : Bool :=
  (if write then c.canW else c.canR) && c.hasEng && spaces.contains c.space && (!c.isSup || l.sup)

/-- The range of a capability operand that a command protects (R240). -/
def Cap.range (c : Cap) (off n : Nat) : Protect := .bytes (c.space == 1) (c.base + off) n

/-- The planes of a tile of `units` row k-blocks: offset, length, alignment (R213, R264). -/
def Cmd.planes (c : Cmd) (units fmt : Nat) (bitmap : Bool) : List (Nat × Nat × Nat) :=
  [(c.num 52 4, 32 * tileElem fmt * units, 32)]
    ++ (if fmt = 3 then [] else [(c.num 56 4, 2 * units, 2)])
    ++ (if bitmap then [(c.num 60 4, (units + 63) / 64 * 8, 8)] else [])

/-- Two runs of bytes share a byte. -/
def overlap (a m b n : Nat) : Bool := decide (a < b + n) && decide (b < a + m) && m != 0 && n != 0

/-- Misaligned or overlapping planes (R264). -/
def planesBad : List (Nat × Nat × Nat) → Bool
  | [] => false
  | p :: ps => p.1 % p.2.2 != 0 || ps.any (fun q => overlap p.1 p.2.1 q.1 q.2.1) || planesBad ps

/-- A plane passes C's length (R261 order 8). -/
def planesOut (len : Nat) (ps : List (Nat × Nat × Nat)) : Bool := ps.any fun p => decide (len < p.1 + p.2.1)

/-- A dispatched command that runs: it reads its scratch source, and goes on if nothing stops it. -/
def State.startCmd (s : State) (l : Launch) (b : Block) (c : Cmd) : State :=
  match s.readScratch l b (c.source.count * c.source.len + 1) c with
  | .error e => (s.modCmd c.id fun _ => c).lineFault c e.1 e.2
  | .ok d => s.modCmd c.id fun _ => d

/-- `cp` is checked at issue and runs (R263). -/
def State.dispatchCp (s : State) (l : Launch) (b : Block) (c : Cmd) (size : Nat) : State :=
  let ranges := c.lanes.map fun x => [(capOf x.2.1).range x.2.2.2.1 size, (capOf x.2.2.1).range x.2.2.2.2 size]
  s.startCmd l b { c with protect := ranges.flatten }

/-- A plane of scratch read unit by unit, `per` bytes each; the contents of dead units are not read (R246, R252) and count as
0. -/
def State.liveUnits (s : State) (l : Launch) (b : Block) (a per : Nat) : List Bool → Except (FaultCode × Nat) (List Byte)
  | [] => .ok []
  | live :: rest =>
    match (if live then s.engAll l b 1 a per else .ok (List.replicate per 0)) with
    | .error e => .error e
    | .ok bs =>
      match s.liveUnits l b (a + per) per rest with
      | .error e => .error e
      | .ok cs => .ok (bs ++ cs)

/-- `cpt` (R246, R264, R265). -/
def State.dispatchCpt (s : State) (l : Launch) (b : Block) (c : Cmd) (t0 : Bool) : State :=
  let dir := c.num 32 1
  let st := c.num 33 1
  let tf := c.num 34 1
  let rows := c.num 36 2
  let kb := c.num 38 2
  let off := c.num 40 8
  let pitch := c.num 48 4
  let bb := blockBytes st
  let ps := c.planes (rows * kb) tf true
  let ext := (rows - 1) * pitch + kb * bb
  match firstStatus
      [(1 < dir || 6 < st || 3 < tf || 4 < c.num 35 1 || 64 < kb || !c.zeros 16 16 || pitch < kb * bb || planesBad ps,
          FaultCode.illegalField.num),
       (!capValid l t0 c.cap0, FaultCode.capTag.num),
       (!roleOk l c.cap0 (dir == 1) [0, 1, 5] || c.capC.space != 1, FaultCode.capPerm.num),
       (rows * kb == 0, 0),
       (!cptPair st tf, FaultCode.format.num),
       (c.cap0.len < off + ext || planesOut c.capC.len ps, FaultCode.capBounds.num)] with
  | some n => s.finishCmd c.id n 0
  | none =>
    let prot := (List.range rows).map (fun r => c.cap0.range (off + r * pitch) (kb * bb))
      ++ ps.map fun p => c.capC.range p.1 p.2.1
    let c1 := { c with protect := prot }
    if dir = 0 then s.startCmd l b c1
    else
      let base := c.capC.base
      let units := rows * kb
      match s.engAll l b 1 (base + c.num 60 4) ((units + 63) / 64 * 8) with
      | .error e => (s.modCmd c.id fun _ => c1).lineFault c1 e.1 e.2
      | .ok bm =>
        let live := (List.range units).map fun u => (bm.getD (u / 8) 0).toNat / 2 ^ (u % 8) % 2 == 1
        match s.liveUnits l b (base + c.num 52 4) (32 * tileElem tf) live,
              s.liveUnits l b (base + c.num 56 4) (if tf = 3 then 0 else 2) live with
        | .ok es, .ok xs =>
          let c2 := { c1 with buf := es ++ xs ++ live.map fun (x : Bool) => (if x then 1 else 0 : Byte) }
          s.modCmd c.id fun _ => { c2 with outs := c2.outputs }
        | .error e, _ => (s.modCmd c.id fun _ => c1).lineFault c1 e.1 e.2
        | _, .error e => (s.modCmd c.id fun _ => c1).lineFault c1 e.1 e.2

/-- `gath` and `scat` (R249, R250, R270). -/
def State.dispatchGather (s : State) (l : Launch) (b : Block) (c : Cmd) (t0 t1 scat : Bool) : State :=
  let rule := c.num 32 1
  let szc := c.num 33 1
  let f := c.num 34 1
  let n := c.num 36 2
  let rs := c.num 38 2
  let toff := c.num 40 8
  let tp := c.num 48 4
  let io := c.num 52 4
  let po := c.num 56 4
  let pp := c.num 60 4
  let es := sizeBytes szc
  let misfit := c.num 35 1 != 0 || 4096 < n || rs == 0 || 4096 < rs || tp < rs || pp < rs || io % 4 != 0
  let scatBad := 6 < rule || szc == 0 || 4 < szc || 1 < f || !rule49 rule szc f
    || (2 ≤ rule && rule ≤ 5 &&
        [rs, tp, pp, c.cap0.base + toff, c.cap1.base + po].any fun v => v % es != 0)
  match firstStatus
      [(misfit || (if scat then scatBad else !c.zeros 32 3), FaultCode.illegalField.num),
       (!capValid l t0 c.cap0 || !capValid l t1 c.cap1, FaultCode.capTag.num),
       (!roleOk l c.cap0 scat [0, 1, 5] || !roleOk l c.cap1 (!scat) (if scat then [0, 1, 3, 5] else [0, 1, 5]),
          FaultCode.capPerm.num),
       (n == 0, 0),
       (c.capC.len < io + 4 * n || c.cap1.len < po + (n - 1) * pp + rs, FaultCode.capBounds.num)] with
  | some k => s.finishCmd c.id k 0
  | none =>
    match s.engAll l b c.capC.space (c.capC.base + io) (4 * n) with
    | .error e => s.lineFault c e.1 e.2
    | .ok raw =>
      let idx := (List.range n).map fun i => numAt raw (4 * i) 4
      if idx.any fun i => 2 ^ 31 ≤ i || c.cap0.len < toff + i * tp + rs then
        s.finishCmd c.id FaultCode.capBounds.num 0
      else
        let prot := [c.capC.range io (4 * n)] ++ (dedupNat idx).map (fun i => c.cap0.range (toff + i * tp) rs)
          ++ (List.range n).map fun i => c.cap1.range (po + i * pp) rs
        s.startCmd l b { c with lanes := idx.map fun i => (i, 0, 0, 0, 0), protect := prot }

/-- `digest` (R248, R271, R272). -/
def State.dispatchDigest (s : State) (l : Launch) (b : Block) (c : Cmd) (t0 t1 : Bool) : State :=
  let off := c.num 40 8
  let n := c.num 48 8
  let doff := c.num 56 8
  match firstStatus
      [(!c.zeros 32 8 || 2 ^ 40 ≤ n, FaultCode.illegalField.num),
       (!capValid l t0 c.cap0 || !capValid l t1 c.cap1, FaultCode.capTag.num),
       (!roleOk l c.cap0 false [0, 1, 3, 5] || !roleOk l c.cap1 true [0, 1, 5], FaultCode.capPerm.num),
       (c.cap0.len < off + n || c.cap1.len < doff + 32, FaultCode.capBounds.num)] with
  | some k => s.finishCmd c.id k 0
  | none => s.startCmd l b { c with protect := [c.cap0.range off n, c.cap1.range doff 32] }

/-- The region a sparse copy names: its capability, and the dense one (R269). -/
def Cmd.sparseCaps (c : Cmd) (store : Bool) : Cap × Cap := if store then (c.cap1, c.cap0) else (c.cap0, c.cap1)

/-- `cpd` and `cps` (R247, R269). A `cpd` that meets a node which it cannot read writes the lines before it first (R257). -/
def State.dispatchSparse (s : State) (l : Launch) (b : Block) (c : Cmd) (t0 t1 store : Bool) : State :=
  let rc := (c.sparseCaps store).1
  let dc := (c.sparseCaps store).2
  let rule := c.num 32 1
  let doff := c.num 60 4
  match firstStatus
      [(if store then 6 < rule || 1 < c.num 33 1 || !c.zeros 34 2 else !c.zeros 32 4, FaultCode.illegalField.num),
       (!capValid l t0 c.cap0 || !capValid l t1 c.cap1, FaultCode.capTag.num)] with
  | some k => s.finishCmd c.id k 0
  | none =>
    match s.sparse? (skey l.tenant rc.objid) with
    | none => s.finishCmd c.id (if rc.space = 4 then FaultCode.capTag.num else FaultCode.capPerm.num) 0
    | some sp =>
      let d := s.rdesc sp
      let size := typeSize d.typ
      let ext := c.extents
      let org := c.origin
      match firstStatus
          [(!roleOk l rc store [4] || !roleOk l dc (!store) [0, 1, 5], FaultCode.capPerm.num),
           ((List.range 4).any (fun i => d.rank ≤ i && (ext.getD i 0 != 1 || org.getD i 0 != 0))
              || (dc.base + doff) % size != 0 || (store && !tstOk d.typ rule (2 ≤ rule && rule ≤ 5 && 2 ≤ d.typ)),
              FaultCode.illegalField.num),
           (c.boxCount == 0, 0),
           (dc.len < doff + c.boxCount * size, FaultCode.capBounds.num),
           ((List.range 4).any fun i => i < d.rank && d.ext.getD i 1 < org.getD i 0 + ext.getD i 0,
              FaultCode.sparseCoord.num)] with
      | some k => s.finishCmd c.id k 0
      | none =>
        let root := (s.latchOf l sp).root
        let s1 := s.noteHolder l.id sp
        let c1 := { c with protect := [.region sp.num, dc.range doff (c.boxCount * size)],
                           count := c.boxCount * size }
        if store then s1.startCmd l b c1
        else
          let r := s.boxValues d root c (List.range c.boxCount)
          let outs := numberLines 1 (outRun dc.space (dc.base + doff) r.1 (fun _ => 0) fun _ => 0)
          let whole := wholeLines (dc.base + doff) r.1.length outs
          let stops (code : FaultCode) (pa : Nat) : State :=
            if whole.isEmpty then (s1.modCmd c.id fun _ => c1).lineFault c1 code pa
            else s1.modCmd c.id fun _ => { c1 with outs := whole, stop := some (code, pa) }
          match r.2 with
          | some (.format _) => s1.finishCmd c.id FaultCode.format.num 0
          | some (.memory n) => stops .memUncorrectable (d.pool + 128 * n)
          | some (.owner pa) => stops .ownership pa
          | none => s1.modCmd c.id fun _ => { c1 with outs := outs, count := outs.length }

/-! ## Leases -/

/-- Lines of a range of whole lines. -/
def lineCount (n : Nat) : Nat := n / 128

/-- The lowest free lease number of a launch, 1 to 4,095 (R274). -/
def Launch.freeLease (l : Launch) : Option Nat :=
  ((List.range 4095).map (· + 1)).find? fun n => !l.leases.any fun x => x.num == n

/-- The slice that is home to a physical address (R227). -/
def homeSlice (pa : Nat) : Nat := pa / (96 * 2 ^ 30)

/-- The slice that is home to each 64 KiB unit of a run that begins a number of bytes into its unit, with the bytes of the run
in it; `k` units at most (R227, R229). -/
def State.homesOf (s : State) (tenant : Nat) : Nat → Nat → Nat → List (Nat × Nat)
  | 0, _, _ => []
  | k + 1, a, n =>
    if n = 0 then []
    else
      let m := min n (unit - a % unit)
      match s.fwPhys tenant a with
      | some pa => (homeSlice pa, m) :: s.homesOf tenant k (a + m) (n - m)
      | none => s.homesOf tenant k (a + m) (n - m)

/-- Bytes of a run that are homed in a slice. -/
def State.homedIn (s : State) (tenant slice a n : Nat) : Nat :=
  (s.homesOf tenant (n / unit + 2) a n).foldl (fun t x => if x.1 = slice then t + x.2 else t) 0

/-- Bytes leased in a slice (R229): each line is pinned in its own home. -/
def State.leasedIn (s : State) (slice : Nat) : Nat :=
  s.launches.foldl (fun t (l : Launch) => t + l.leases.foldl (fun u x => u + s.homedIn l.tenant slice x.base x.len) 0) 0

/-- The bytes a slice may lease (R228). -/
def leaseRoom : Nat := 16 * 2 ^ 20

/-- A further lease keeps every slice within its share (R228, R229). -/
def State.leaseFits (s : State) (tenant base n : Nat) : Bool :=
  decide (n ≤ 12 * leaseRoom)
    && (List.range 12).all fun k => decide (s.leasedIn k + s.homedIn tenant k base n ≤ leaseRoom)

/-- The first line of a range that does not translate for a read. -/
def State.badLoad (s : State) (tenant : Nat) : Nat → Nat → Nat → Option (FaultCode × Nat)
  | 0, _, _ => none
  | fuel + 1, a, n =>
    if n = 0 then none
    else
      match s.translate none tenant .load a with
      | .error c => some (c, a)
      | .ok _ => s.badLoad tenant fuel (a + min n (128 - a % 128)) (n - min n (128 - a % 128))

/-- `lease` (R229, R274). -/
def State.dispatchLease (s : State) (l : Launch) (c : Cmd) (t0 : Bool) : State :=
  let off := c.num 40 8
  let n := c.num 48 8
  let rounds := c.num 36 4
  let base := c.cap0.base + off
  match firstStatus
      [(!c.zeros 32 4 || !c.zeros 56 8 || n % 128 != 0 || n == 0 || base % 128 != 0, FaultCode.illegalField.num),
       (!capValid l t0 c.cap0, FaultCode.capTag.num),
       (!roleOk l c.cap0 false [0] || !c.capC.canW || !c.capC.hasCaps, FaultCode.capPerm.num),
       (c.cap0.len < off + n, FaultCode.capBounds.num)] with
  | some k => s.finishCmd c.id k 0
  | none =>
    match s.badLoad l.tenant (n / 128 + 2) base n with
    | some e => s.lineFault c e.1 e.2
    | none =>
      let out (v : Nat) (tag : Bool) : OutLine :=
        { scratch := c.capScratch, addr := c.capBase + 16, bytes := (leBytes 16 v).map some,
          tag := tag && c.capScratch, done := 0, need := 0 }
      let ends (o : OutLine) (k : Nat) (x : Cmd) : Cmd :=
        { x with outs := [o], count := k, protect := [.bytes c.capScratch (c.capBase + 16) 16] }
      match l.freeLease with
      | some num =>
        if s.leaseFits l.tenant base n then
          let cap : Cap := { base := base, len := n, space := 5, perm := c.cap0.perm &&& 0x73, objid := num, zero := 0 }
          let s1 := s.modLaunch l.id fun x => { x with leases := x.leases ++
            [{ num := num, base := base, len := n, last := if rounds = 0 then none else some (l.round + rounds) }] }
          s1.modCmd c.id fun _ => ends (out cap.num true) (lineCount n) c
        else s.modCmd c.id fun _ => ends (out 0 false) 0 c
      | none => s.modCmd c.id fun _ => ends (out 0 false) 0 c

/-- `unlease` (R275). -/
def State.dispatchUnlease (s : State) (l : Launch) (c : Cmd) (t0 : Bool) : State :=
  match firstStatus
      [(!c.zeros 16 48, FaultCode.illegalField.num),
       (!capValid l t0 c.cap0, FaultCode.capTag.num),
       (!c.cap0.hasEng || c.cap0.space != 5 || (c.cap0.isSup && !l.sup), FaultCode.capPerm.num)] with
  | some k => s.finishCmd c.id k 0
  | none =>
    match l.leases.find? fun x => x.num == c.cap0.objid with
    | none => s.finishCmd c.id FaultCode.capTag.num 0
    | some x =>
      let s1 := s.modLaunch l.id fun y => { y with leases := y.leases.filter fun z => z.num != c.cap0.objid }
      s1.finishCmd c.id 0 (lineCount x.len)

/-! ## Remote copies -/

/-- The steps a line takes in one dimension of a ring: the direction number, if it moves (R387). -/
def ringDir (dim src dst ext : Nat) : Option Nat :=
  let fwd := (dst + ext - src) % ext
  if fwd = 0 then none else if 2 * fwd ≤ ext then some (2 * dim) else some (2 * dim + 1)

/-- The directions a line's route uses at this module: dimension order sends it first along the lowest dimension that
moves (R387). Every direction of the route is listed. -/
def State.routeDirs (s : State) (dst : Nat) : List Nat :=
  let c (m d : Nat) : Nat := m / 16 ^ d % 16
  [ringDir 0 (c s.moduleId 0) (c dst 0) s.torus.1, ringDir 1 (c s.moduleId 1) (c dst 1) s.torus.2.1,
   ringDir 2 (c s.moduleId 2) (c dst 2) s.torus.2.2].filterMap id

/-- A direction has a port that is up (R388). -/
def State.dirUp (s : State) (d : Nat) : Bool := s.guyPorts.any fun p => p.num / 4 == d && p.up

/-- A route's directions are all up. -/
def State.routeUp (s : State) (dst : Nat) : Bool := (s.routeDirs dst).all s.dirUp

/-- A line of an index has crossed its link to the next module: Guyline traffic (R411), and the port's run of failed retries ends (R387,
R388). -/
def State.crossed (s0 : State) (dst idx : Nat) : State :=
  let s : State := { s0 with power := { s0.power with lastHost := s0.clock } }
  match (s.routeDirs dst).head? with
  | none => s
  | some d =>
    let active := s.guyPorts.filter fun p => p.num / 4 == d && p.up
    match active[idx % active.length]? with
    | none => s
    | some p =>
      { s with guyPorts := s.guyPorts.map fun (x : GuyPort) => if x.num = p.num then { x with streak := 0 } else x }

/-- The import entry a command's window capability names (R390). -/
def State.importOf (s : State) (c : Cmd) : Option Import := s.imports.find? fun i => i.objid == c.cap1.objid

/-- `rcp` (R271, R273, R390). -/
def State.dispatchRcp (s : State) (l : Launch) (b : Block) (c : Cmd) (t0 t1 : Bool) : State :=
  let rule := c.num 32 1
  let szc := c.num 33 1
  let off := c.num 40 8
  let n := c.num 48 8
  let roff := c.num 56 8
  let es := sizeBytes szc
  match firstStatus
      [((rule != 0 && rule != 3) || (if rule = 3 then szc != 3 && szc != 4 else szc != 0) || 1 < c.num 34 1
          || !c.zeros 35 5 || 2 ^ 40 ≤ n
          || (rule == 3 && (n % es != 0 || (c.cap0.base + off) % es != 0 || roff % es != 0)),
          FaultCode.illegalField.num),
       (!capValid l t0 c.cap0 || !capValid l t1 c.cap1, FaultCode.capTag.num),
       (!roleOk l c.cap0 false [0, 1, 5] || !roleOk l c.cap1 true [7], FaultCode.capPerm.num),
       (c.cap0.len < off + n || c.cap1.len < roff + n, FaultCode.capBounds.num)] with
  | some k => s.finishCmd c.id k 0
  | none =>
    match s.importOf c with
    | none => s.finishCmd c.id FaultCode.fabric.num 0
    | some i =>
      if !s.routeUp i.module then s.finishCmd c.id FaultCode.fabric.num 0
      else s.startCmd l b { c with protect := [c.cap0.range off n] }

/-- The end of an `rcp` whose lines are all acknowledged: the gate arrival if it was asked for (R273), whose acknowledgement the token
waits for too; whether it comes is a free choice (log 2), and where its route is down it cannot leave (R388). -/
def State.endRcp (s : State) (c : Cmd) : State :=
  if c.num 34 1 ≠ 1 then s.finishCmd c.id 0 c.count
  else
    match s.importOf c with
    | none => s.finishCmd c.id FaultCode.fabric.num c.count
    | some i =>
      if !s.routeUp i.module then s.finishCmd c.id FaultCode.fabric.num c.count
      else
        let r := ({ s with fabricOut := s.fabricOut ++ [FabricMsg.arrival i.module i.window] } : State).choose 2
        r.2.finishCmd c.id (if r.1 = 0 then 0 else FaultCode.fabric.num) c.count

/-- One line of an `rcp` (R273, R387, R391): it leaves over Guyline; the receiver acknowledges it or does not, which this
module cannot know, so a free choice decides (log 2). Under `.acc` the receiver acknowledges all lines together (log 20). -/
def State.sendLine (s : State) (c : Cmd) (o : OutLine) : State :=
  match s.importOf c with
  | none => s.finishCmd c.id FaultCode.fabric.num c.count
  | some i =>
    if !s.routeUp i.module then s.finishCmd c.id FaultCode.fabric.num (if c.num 32 1 = 3 then 0 else c.count)
    else
      let acc := c.num 32 1 == 3
      let s0 := s.crossed i.module c.written
      let s1 := { s0 with fabricOut := s.fabricOut ++
        [FabricMsg.line i.module i.window o.addr (o.bytes.filterMap id) acc (c.num 33 1) c.id (c.block, c.fibre, c.seq)] }
      let d := { c.wrote o with progress := c.progress + 1, count := c.count + 1 }
      let r : Nat × State := if !acc || d.allWritten then s1.choose 2 else (0, s1)
      if r.1 = 0 then
        let s2 := r.2.modCmd c.id fun _ => d
        if d.allWritten then s2.endRcp d else s2
      else r.2.finishCmd c.id FaultCode.fabric.num (if acc then 0 else c.count)

/-! ## The engine events -/

/-- The command stands at a resumable point (R256): for a gather engine between two positions, for the others after any line. -/
def Cmd.resumable (c : Cmd) : Bool :=
  match c.instr with
  | .gath .. =>
    let done (k : Nat) : Nat := ((c.outputs[k]?).map OutLine.done).getD 0
    c.written == 0 || done (c.written - 1) != (if c.written = 1 then 0 else done (c.written - 2))
  | .scat .. => c.buf.length % c.num 38 2 == 0
  | _ => true

/-- A running command goes on; suspended work goes on to its next resumable point only (R256). -/
def State.runnable (s : State) (c : Cmd) : Bool :=
  match s.launch? c.launch with
  | some l => c.phase == .running && (!l.suspended || !c.resumable)
  | none => false

/-- All source lines are in: the contributions of a `scat` or `cps`, or the end of a command that has nothing to write. -/
def State.afterSource (s : State) (l : Launch) (c : Cmd) : State :=
  match c.instr with
  | .scat .. => s.endScat l c (c.num 36 2) none
  | .cps .. =>
    match s.sparse? (skey l.tenant c.cap1.objid) with
    | none => s.finishCmd c.id 0 0
    | some sp =>
      let cs := c.cpsContribs (s.rdesc sp) sp.num
      (s.joinEngine c.launch c.block false cs).finishCmd c.id 0 cs.length
  | .rcp .. => if c.allWritten then s.endRcp c else s
  | _ => if c.allWritten then s.finishCmd c.id 0 c.total else s

/-- Full units of progress in the source (R257): message blocks of a `digest`. -/
def Cmd.sourceProgress (c : Cmd) : Nat :=
  match c.instr with
  | .digest .. => c.buf.length / 64
  | _ => c.progress

/-- ENGINE_SOURCE_LINE (R257): a command reads its next source line. -/
def execEngineSourceLine (cmd : Nat) (s : State) : Out :=
  match s.cmd? cmd with
  | none => .next s
  | some c =>
    if !s.runnable c || !c.outs.isEmpty then .next s
    else
      match s.blockOf c with
      | none => .next s
      | some (l, b) =>
        if c.sourceDone then .next (s.afterSource l c)
        else
          match s.readPiece l b c with
          | .error e =>
            match c.instr with
            | .scat .. => .next (s.endScat l c (c.buf.length / c.num 38 2) (some e))
            | _ => .next (s.lineFault { c with progress := c.sourceProgress } e.1 e.2)
          | .ok d => .next (s.modCmd cmd fun _ => d)

/-- ENGINE_OUTPUT_LINE (R60, R239): a command writes its next output line. -/
def execEngineOutputLine (cmd : Nat) (s : State) : Out :=
  match s.cmd? cmd with
  | none => .next s
  | some c =>
    if !s.runnable c then .next s
    else
      match s.blockOf c, c.nextOut with
      | some (l, b), some o =>
        match c.instr with
        | .rcp .. => .next (s.sendLine c o)
        | _ =>
          match s.writeLine l b o with
          | .error e => .next (s.lineFault c e o.addr)
          | .ok s1 =>
            let d := c.wrote o
            let s2 := s1.modCmd cmd fun _ => d
            if !d.allWritten then .next s2
            else
              match d.stop with
              | some e => .next (s2.lineFault d e.1 e.2)
              | none => .next (s2.finishCmd cmd 0 c.total)
      | _, _ => .next s

/-- True of a `launch` word, which is no engine command. -/
def Cmd.isLaunch (c : Cmd) : Bool :=
  match c.instr with
  | .launch .. => true
  | _ => false

/-- A command that a quiesce can stop: in flight, of suspended work, at a resumable point (R256, R344). -/
def State.quiesces (s : State) (c : Cmd) : Bool :=
  match s.launch? c.launch with
  | none => false
  | some l => l.suspended && !c.isLaunch && (c.phase == .running || c.phase == .staged) && c.resumable

/-- ENGINE_QUIESCE_STOP (R256): a command of suspended work stops at its resumable point and keeps its progress. -/
def execEngineQuiesceStop (cmd : Nat) (s : State) : Out :=
  match s.cmd? cmd with
  | none => .next s
  | some c => if s.quiesces c then .next (s.modCmd cmd fun x => { x with phase := .held }) else .next s

/-- The phase of a command that is not held. -/
def Cmd.activePhase (c : Cmd) : CmdPhase :=
  match c.instr with
  | .mma .. => .staged
  | .mmb .. => .staged
  | .mmz .. => .staged
  | .launch .. => .staged
  | .mmd .. => if c.outs.isEmpty then .staged else .running
  | _ => .running

/-- Held commands of some launches go on (R256, R370). -/
def State.resumeCmds (s : State) (ids : List Nat) : State :=
  { s with cmds := s.cmds.map fun (c : Cmd) =>
      if c.phase = .held ∧ ids.contains c.launch then { c with phase := c.activePhase } else c }

end Sys2Proof.Machine
end

