-- ==== Sys2Proof/Machine/Matrix.lean ====
section
/-! DEFINITION. The matrix engine: ports and their holders, queues, the row grants, and the four commands
(13_copy_gather_matrix_engines.md R251 to R255; 14 R264, R266 to R268, R276). -/

namespace Sys2Proof.Machine

/-! ## What a region finds in a port -/

/-- The logical cluster of a command's core (R255, R335, R398), counted over all partitions: 48 for each of the slices below
its partition's first, as every partition has 48 of its own. -/
def State.clusterOf (s : State) (c : Cmd) : Nat :=
  let first := (((s.launch? c.launch).bind fun l => s.tenant? l.tenant).map Tenant.first).getD 0
  48 * first + c.block % 192 / 4

/-- The port a command addresses, of its partition's 96: port code 2 enters port A's queue (R251, R255). -/
def State.portOf (s : State) (c : Cmd) : Nat := 2 * s.clusterOf c + (if c.num 32 1 = 1 then 1 else 0)

/-- The physical port that serves a logical one (R399, R400): that of the physical cluster that its logical cluster lies on, in the same
half; where that engine has failed, of a working engine of the slice. -/
def State.portHost (s : State) (p : Nat) : Nat :=
  let first := p / 96
  let n := (s.layout.slices.filter (· == s.layout.slices.getD first 0)).length
  let e := 4 * first + p % 96 / 2 % (4 * max 1 n)
  let works := ((List.range 4).map (4 * (e / 4) + ·)).filter fun x => !s.failedEngines.contains x
  let served := if s.failedEngines.contains e then works.getD (e % 4 % max 1 works.length) e else e
  2 * served + p % 2

/-- Every logical port is served as R399 says; the content of one that moves is kept as engine context until it is needed (R363). -/
def State.rehostPorts (s : State) : State :=
  { s with ports := s.ports.map fun (p : Port) =>
      let h := s.portHost p.num
      { p with host := h, loaded := p.loaded && h == p.host } }

/-- A partition has its 96 ports (R398). -/
def State.ensurePorts (s : State) (first : Nat) : State :=
  if s.ports.any fun p => p.num / 96 == first then s
  else { s with ports := s.ports ++ (List.range 96).map fun p =>
    { num := 96 * first + p, host := s.portHost (96 * first + p), loaded := false, holder := none, whole := false, btile := none, words := [], queue := [], perfRows := 0,
      perfSteps := 0, perfCmds := 0, saved := [] } }

/-- A region's view of a port: what it holds there, or what was saved for it (R255). -/
def Port.viewFor (p : Port) (region : Nat) : PortCtx :=
  if p.holder = some region then { region := region, whole := p.whole, btile := p.btile, words := p.words }
  else (p.saved.find? fun x => x.region == region).getD { region := region, whole := false, btile := none, words := [] }

/-- The region's array is loaded whole (R251). -/
def State.wholeFor (s : State) (region cluster : Nat) : Bool :=
  match s.port? (2 * cluster) with
  | some p => (p.viewFor region).whole
  | none => false

/-- The region's resident B of a port. -/
def State.tileFor (s : State) (region port : Nat) : Option BTile :=
  match s.port? port with
  | some p => (p.viewFor region).btile
  | none => none

/-- Change a region's view of a port, held or saved. -/
def Port.modFor (p : Port) (region : Nat) (f : PortCtx → PortCtx) : Port :=
  if p.holder = some region then
    let x := f (p.viewFor region)
    { p with whole := x.whole, btile := x.btile, words := x.words }
  else { p with saved := p.saved.map fun x => if x.region = region then f x else x }

/-- k-blocks that fit resident in one port (R251). -/
def residentKb (fmt : Nat) : Nat :=
  match fmt with
  | 0 => 32
  | 2 => 8
  | _ => 16

/-! ## Budgets and holding -/

/-- A region and its ancestors (R328). -/
def State.ancestors (s : State) : Nat → Nat → List Nat
  | 0, _ => []
  | fuel + 1, rcb =>
    match s.region? rcb with
    | none => []
    | some r => rcb :: (if r.parent = 0 then [] else s.ancestors fuel r.parent)

/-- Ports that a region and its descendants hold (R330). -/
def State.portsHeld (s : State) (rcb : Nat) : Nat :=
  (s.ports.filter fun p => match p.holder with
    | some h => s.inTree rcb h
    | none => false).length

/-- With n more ports the region and every ancestor stay within their effective mehalves (R255, R330). -/
def State.portsFit (s : State) (rcb n : Nat) : Bool :=
  (s.ancestors 9 rcb).all fun a => decide (s.portsHeld a + n ≤ s.eff a 3 Region.mehalves)

/-- The region or an ancestor holds more than its budget (R372). -/
def State.portsOver (s : State) (rcb : Nat) : Bool :=
  (s.ancestors 9 rcb).any fun a => decide (s.eff a 3 Region.mehalves < s.portsHeld a)

/-- A region takes a free port: what was saved for it is restored (R255). -/
def Port.take (p : Port) (region : Nat) : Port :=
  if p.holder = some region then p
  else
    let x := p.viewFor region
    { p with holder := some region, whole := x.whole, btile := x.btile, words := x.words,
             saved := p.saved.filter fun y => y.region != region }

/-- A port is released: its content becomes engine context of its region (R255, R363). -/
def Port.release (p : Port) : Port :=
  match p.holder with
  | none => p
  | some h =>
    { p with holder := none, whole := false, btile := none, words := [],
             saved := p.saved ++ [{ region := h, whole := p.whole, btile := p.btile, words := p.words }] }

/-- The launch's region. -/
def State.regionOf (s : State) (c : Cmd) : Nat := ((s.launch? c.launch).map Launch.rcb).getD 0

/-- The ports a command needs: both halves for port code 2, and for port A of an array loaded whole (R251, R255). -/
def State.portsFor (s : State) (c : Cmd) : List Nat :=
  let p := s.portOf c
  let mmb := match c.instr with
    | .mmb .. => true
    | _ => false
  if c.num 32 1 = 2 ∨ (c.num 32 1 = 0 ∧ !mmb ∧ s.wholeFor (s.regionOf c) (s.clusterOf c)) then [p, p + 1] else [p]

/-- Commands in a port's queue. -/
def State.queueOf (s : State) (p : Nat) : List Nat := ((s.port? p).map Port.queue).getD []

/-- A staged matrix command, not yet in its port's queue. -/
def State.inStaging (s : State) (c : Cmd) : Bool :=
  c.port.isSome && c.phase == .staged && c.outs.isEmpty && !(s.queueOf (s.portOf c)).contains c.id

/-- The ports a command needs that no region holds. -/
def State.freeFor (s : State) (c : Cmd) : List Nat := (s.portsFor c).filter fun p => ((s.port? p).bind Port.holder).isNone

/-- A command's region holds the ports that the command needs, or may take them (R255). -/
def State.portsOpen (s : State) (c : Cmd) : Bool :=
  let r := s.regionOf c
  (s.portsFor c).all (fun p => match s.port? p with
      | some x => x.holder == none || x.holder == some r
      | none => false)
    && ((s.freeFor c).isEmpty || s.portsFit r (s.freeFor c).length)

/-- A command's queue could take it (R241, R253, R255): no earlier command of its block waits for the port, nor one of another block
that only wants room in the queue; the queue has room, and its region holds the ports or may take them. -/
def State.canEnqueue (s : State) (c : Cmd) : Bool :=
  let earlier := s.cmds.takeWhile fun x => x.id != c.id
  s.inStaging c
    && !(earlier.any fun x => s.inStaging x && x.port == c.port
          && ((x.launch == c.launch && x.block == c.block) || s.portsOpen x))
    && decide ((s.queueOf (s.portOf c)).length < 32) && s.portsOpen c

/-- Cycles in a number of microseconds at the present clock (R413). -/
def State.cyclesOf (s : State) (us : Nat) : Nat := us * s.power.clock

/-- Matrix commands in staging for a port, of any region. -/
def State.waitingFor (s : State) (p : Nat) : List Cmd := s.cmds.filter fun c => s.inStaging c && (s.portsFor c).contains p

/-- The promoted priority of waiting work (R331). -/
def State.promoted (s : State) (prio since : Nat) : Nat := min 31 (prio + (s.clock - since) / s.cyclesOf 10000)

/-- R332's order among waiting commands: effective priority, wait start, region id, launch and block. -/
def State.waitsBefore (s : State) (a b : Cmd) : Bool :=
  let prio (c : Cmd) : Nat := s.promoted (s.eff (s.regionOf c) 0 Region.prio) c.since
  let id (c : Cmd) : Nat := ((s.region? (s.regionOf c)).map Region.regionid).getD 0
  decide (prio b < prio a) ||
    (prio a == prio b && (decide (a.since < b.since) ||
      (a.since == b.since && (decide (id a < id b) ||
        (id a == id b && (decide (a.launch < b.launch) || (a.launch == b.launch && decide (a.block < b.block))))))))

/-- The waiting command that gets a free port, in R332's order (R255). -/
def State.nextForPort (s : State) (p : Nat) : Option Cmd :=
  ((s.waitingFor p).filter s.canEnqueue).foldl (fun (best : Option Cmd) c => match best with
    | none => some c
    | some x => if s.waitsBefore c x then some c else some x) none

/-- A command may enter its port's queue: it could, and where its region would take a free port it comes first for it (R255). -/
def State.mayEnqueue (s : State) (c : Cmd) : Bool :=
  s.canEnqueue c && (s.freeFor c).all fun p => (s.nextForPort p).any fun x => x.id == c.id

/-- The command enters the queue; its region takes the ports it needs. -/
def State.enqueue (s : State) (c : Cmd) : State :=
  let need := s.portsFor c
  let r := s.regionOf c
  { s with ports := s.ports.map fun (p : Port) =>
      let p1 := if need.contains p.num then p.take r else p
      if p.num = s.portOf c then { p1 with queue := p1.queue ++ [c.id] } else p1 }

/-- STAGED_COMMAND_ENQUEUE (R253). -/
def execStagedCommandEnqueue (cmd : Nat) (s : State) : Out :=
  match s.cmd? cmd with
  | none => .next s
  | some c => if s.mayEnqueue c then .next (s.enqueue c) else .next s

/-! ## Dispatch -/

/-- The field, capability and emptiness checks and those of the port (R261, R264, R271): a status if the command ends at
dispatch. -/
def State.matrixStatus (s : State) (l : Launch) (c : Cmd) : Option Nat :=
  let code := c.num 32 1
  let a := c.num 36 2
  let kb := c.num 38 2
  let half := code == 1 && s.wholeFor l.rcb (s.clusterOf c)
  let noCaps := c.zeros 0 32
  let priv := s.eff l.rcb 3 Region.mehalves == 0
  let f := FaultCode.illegalField.num
  let perm := c.capC.space != 1
  let tile := s.tileFor l.rcb (s.portOf c)
  match c.instr with
  | .mmb .. =>
    let ps := c.planes (a * kb) (c.num 33 1) false
    firstStatus
      [(2 < code || 3 < c.num 33 1 || !c.zeros 34 2 || 1024 < a
          || residentKb (c.num 33 1) * (if code = 2 then 2 else 1) < kb || !c.zeros 40 12 || !c.zeros 60 4 || !noCaps
          || planesBad ps, f),
       (perm, FaultCode.capPerm.num), (a * kb == 0, 0), (priv, FaultCode.privilege.num),
       (planesOut c.capC.len ps, FaultCode.capBounds.num)]
  | .mma .. =>
    let ps := c.planes ((c.num 48 4 + a) * kb) (c.num 35 1) true
    let misfit := match tile with
      | some t => t.fmt != c.num 35 1 || decide (t.kb < kb)
      | none => true
    firstStatus
      [(1 < code || 7 < c.num 33 1 || 1 < c.num 34 1 || 3 < c.num 35 1 || 16 < a || 64 < kb || !noCaps || planesBad ps
          || half, f),
       (perm, FaultCode.capPerm.num), (a == 0, 0), (priv, FaultCode.privilege.num),
       (misfit, FaultCode.format.num), (planesOut c.capC.len ps, FaultCode.capBounds.num)]
  | .mmd .. =>
    let size := if c.num 34 1 = 6 then 4 else 2
    let pitch := c.num 48 4
    firstStatus
      [(1 < code || 7 < c.num 33 1 || !(c.num 34 1 == 4 || c.num 34 1 == 5 || c.num 34 1 == 6) || 4 < c.num 35 1
          || 16 < a || 1024 < kb || !c.zeros 40 8 || pitch < kb * size || c.num 52 4 % size != 0 || !c.zeros 56 8
          || !noCaps || half, f),
       (perm, FaultCode.capPerm.num), (a * kb == 0, 0), (priv, FaultCode.privilege.num),
       (c.capC.len < c.num 52 4 + (a - 1) * pitch + kb * size, FaultCode.capBounds.num)]
  | _ =>
    firstStatus
      [(1 < code || 7 < c.num 33 1 || !c.zeros 34 30 || !noCaps || half, f), (priv, FaultCode.privilege.num)]

/-- The row k-blocks of an `mma` that its A bitmap and its B bitmap let through (R252, R267), from the bits of the A bitmap. -/
def Cmd.liveRows (c : Cmd) (bits : List Bool) : List Bool :=
  bits.zipIdx.map fun x => x.1 && c.num 40 8 / 2 ^ (x.2 % c.num 38 2) % 2 == 1

/-- The tile bytes a command reads at dispatch (R237): elements and exponents of its row k-blocks from `u0` on, but for those
that are skipped (R174, R252), and for `mma` one byte for each bitmap bit. -/
def State.tileRead (s : State) (l : Launch) (b : Block) (c : Cmd) (fmt u0 units : Nat) (bitmap : Bool) :
    Except (FaultCode × Nat) (List Byte) :=
  let base := c.capC.base
  let es := tileElem fmt
  match s.engAll l b 1 (base + c.num 60 4 + u0 / 8) (if bitmap ∧ 0 < units then (u0 + units - 1) / 8 - u0 / 8 + 1 else 0) with
  | .error e => .error e
  | .ok bm =>
    let bits := (List.range units).map fun k => (bm.getD ((u0 + k) / 8 - u0 / 8) 0).toNat / 2 ^ ((u0 + k) % 8) % 2 == 1
    let live := if bitmap then c.liveRows bits else List.replicate units true
    match s.liveUnits l b (base + c.num 52 4 + 32 * es * u0) (32 * es) live,
          s.liveUnits l b (base + c.num 56 4 + 2 * u0) (if fmt = 3 then 0 else 2) live with
    | .ok el, .ok xs => .ok (el ++ xs ++ (if bitmap then bits.map fun (x : Bool) => (if x then 1 else 0 : Byte) else []))
    | .error e, _ => .error e
    | _, .error e => .error e

/-- The scratch ranges a matrix command protects (R240). -/
def Cmd.matrixRanges (c : Cmd) : List Protect :=
  let a := c.num 36 2
  let kb := c.num 38 2
  match c.instr with
  | .mmb .. => (c.planes (a * kb) (c.num 33 1) false).map fun p => c.capC.range p.1 p.2.1
  | .mma .. =>
    let u0 := c.num 48 4 * kb
    let n := a * kb
    let fmt := c.num 35 1
    let es := tileElem fmt
    [c.capC.range (c.num 52 4 + 32 * es * u0) (32 * es * n)]
      ++ (if fmt = 3 then [] else [c.capC.range (c.num 56 4 + 2 * u0) (2 * n)])
      ++ (if n = 0 then [] else [c.capC.range (c.num 60 4 + u0 / 8) ((u0 + n - 1) / 8 - u0 / 8 + 1)])
  | .mmd .. =>
    let size := if c.num 34 1 = 6 then 4 else 2
    (List.range a).map fun r => c.capC.range (c.num 52 4 + r * c.num 48 4) (kb * size)
  | _ => []

/-- A matrix command is dispatched (R253, R255, R261): it ends at once, or waits for its port. -/
def State.dispatchMatrix (s0 : State) (l : Launch) (b : Block) (c : Cmd) : State :=
  let s := s0.ensurePorts (s0.clusterOf c / 48)
  match s.matrixStatus l c with
  | some n => s.finishCmd c.id n 0
  | none =>
    let units := c.num 36 2 * c.num 38 2
    let read : Except (FaultCode × Nat) (List Byte) := match c.instr with
      | .mmb .. => s.tileRead l b c (c.num 33 1) 0 units false
      | .mma .. => s.tileRead l b c (c.num 35 1) (c.num 48 4 * c.num 38 2) units true
      | _ => .ok []
    match read with
    | .error e => s.lineFault c e.1 e.2
    | .ok bs =>
      let c1 := { c with phase := .staged, port := some (s.portOf c), buf := bs, protect := c.matrixRanges }
      let s1 := s.modCmd c.id fun _ => c1
      if s1.mayEnqueue c1 then s1.enqueue c1 else s1

/-! ## Grants -/

/-- The slot a command addresses; `mmb` addresses none (R253). -/
def Cmd.slot (c : Cmd) : Option Nat :=
  match c.instr with
  | .mmb .. => none
  | _ => some (c.num 33 1)

/-- The commands of a port's queue in dispatch order. -/
def State.queued (s : State) (p : Nat) : List Cmd :=
  let q := s.queueOf p
  s.cmds.filter fun c => q.contains c.id

/-- The commands that R253 item 3 lets through, in dispatch order: first of their block and of their slot. -/
def firstOnes : List Cmd → List Cmd → List Cmd
  | _, [] => []
  | before, c :: cs =>
    let blocked := before.any fun x =>
      (x.launch == c.launch && x.block == c.block) || (c.slot.isSome && x.slot == c.slot)
    if blocked then firstOnes (before ++ [c]) cs else c :: firstOnes (before ++ [c]) cs

/-- The physical port that serves a logical one. -/
def State.hostPort (s : State) (p : Nat) : Nat := ((s.port? p).map Port.host).getD p

/-- The content of some logical ports is brought into the physical ports that serve them; that of the others which a physical port
serves is kept as engine context (R399, R400). -/
def State.loadPorts (s : State) (ps : List Nat) : State :=
  let hosts := ps.map s.hostPort
  { s with ports := s.ports.map fun (p : Port) =>
      if ps.contains p.num then { p with loaded := true } else if hosts.contains p.host then { p with loaded := false } else p }

/-- The command of work that the region path has suspended (R344). -/
def State.cmdSuspended (s : State) (c : Cmd) : Bool := (s.launch? c.launch).any Launch.suspended

/-- The command the arbiter picks (R253): highest effective priority, then oldest. Suspended work gets no row (R344). -/
def State.pickRow (s : State) (p : Nat) : Option Cmd :=
  let cs := (firstOnes [] (s.queued p)).filter fun c => c.phase == .staged && !s.cmdSuspended c
  let prio (c : Cmd) : Nat := s.eff (s.regionOf c) 0 Region.prio
  cs.foldl (fun (best : Option Cmd) c => match best with
    | none => some c
    | some x => if prio x < prio c then some c else some x) none

/-- A command leaves the port's queue. -/
def State.dequeue (s : State) (p cmd : Nat) : State := s.modPort p fun x => { x with queue := x.queue.filter (· != cmd) }

/-- Word (slot, row, column) of a port. -/
def wordIdx (slot row col : Nat) : Nat := (slot * 16 + row) * 1024 + col

/-- Read a slot word; words not listed are 0. -/
def slotWord (ws : List (Nat × Nat)) (i : Nat) : Nat := ((ws.find? fun w => w.1 == i).map Prod.snd).getD 0

/-- Replace the words of one row from column 0 on; zeros are not listed. -/
def putRow (ws : List (Nat × Nat)) (slot row : Nat) (vs : List Nat) : List (Nat × Nat) :=
  let lo := wordIdx slot row 0
  (ws.filter fun w => !(decide (lo ≤ w.1) && decide (w.1 < lo + vs.length)))
    ++ (vs.zipIdx.map fun v => (lo + v.2, v.1)).filter fun w => w.2 != 0

/-- The B block of column n and k-block b. -/
def BTile.block (t : BTile) (n b : Nat) : Psb := psbAt t.fmt t.elems t.exps (n * t.kb + b)

/-- One A row (R267, R252): the slot words after it, and its steps. -/
def Cmd.rowResult (c : Cmd) (t : BTile) (ws : List (Nat × Nat)) (m : Nat) : List (Nat × Nat) × Nat :=
  let kb := c.num 38 2
  let fmt := c.num 35 1
  let rows := c.num 36 2
  let slot := c.num 33 1
  let units := rows * kb
  let ne := 32 * tileElem fmt * units
  let nx := if fmt = 3 then 0 else 2 * units
  let steps := (List.range kb).filter fun b =>
    c.buf.getD (ne + nx + m * kb + b) 0 != 0 && c.num 40 8 / 2 ^ b % 2 == 1
  let ws1 := if m = 0 ∧ c.num 34 1 = 1 then
      ws.filter fun w => !(decide (wordIdx slot 0 0 ≤ w.1) && decide (w.1 < wordIdx slot rows 0))
    else ws
  if steps.isEmpty then (ws1, 0)
  else
    let vs := (List.range t.n).map fun n =>
      steps.foldl (fun acc b =>
        let x := psbAt fmt c.buf (c.buf.drop ne) (m * kb + b)
        if fmt = 3 then dotInt acc x (t.block n b) else dotPsb fmt acc x (t.block n b))
        (slotWord ws1 (wordIdx slot m n))
    (putRow ws1 slot m vs, steps.length)

/-- One row of an `mma` (R253, R267). -/
def State.grantRow (s : State) (p : Nat) (c : Cmd) : State :=
  let stop := (s.dequeue p c.id).finishCmd c.id FaultCode.format.num c.count
  match s.port? p with
  | none => s
  | some x =>
    match x.btile with
    | none => stop
    | some t =>
      if t.fmt ≠ c.num 35 1 ∨ t.kb < c.num 38 2 then stop
      else
        let r := c.rowResult t x.words c.progress
        let last := c.progress + 1 == c.num 36 2
        let s1 := s.modPort p fun y => { y with words := r.1, perfRows := y.perfRows + 1, perfSteps := y.perfSteps + r.2,
                                                perfCmds := y.perfCmds + (if last then 1 else 0) }
        if c.progress + 1 = c.num 36 2 then (s1.dequeue p c.id).finishCmd c.id 0 (c.count + r.2)
        else s1.modCmd c.id fun y => { y with progress := c.progress + 1, count := c.count + r.2 }

/-- `mmb` (R266): the port's B is replaced as a whole. -/
def State.grantLoad (s : State) (p : Nat) (c : Cmd) : State :=
  let r := s.regionOf c
  let cl := s.clusterOf c
  let n := c.num 36 2
  let kb := c.num 38 2
  let fmt := c.num 33 1
  let ne := 32 * tileElem fmt * (n * kb)
  let tile : BTile := { n := n, kb := kb, fmt := fmt, elems := c.buf.take ne, exps := c.buf.drop ne }
  let both := c.num 32 1 == 2
  let was := s.wholeFor r cl
  let s1 := { s with ports := s.ports.map fun (x : Port) =>
    if x.num / 2 ≠ cl then x
    else
      let y := x.modFor r fun v => { v with whole := both && x.num % 2 == 0 }
      if x.num = p then { y.modFor r fun v => { v with btile := some tile } with perfCmds := x.perfCmds + 1 }
      else if both || was then y.modFor r fun v => { v with btile := none }
      else y }
  (s1.dequeue p c.id).finishCmd c.id 0 (n * kb)

/-- `mmd` (R268): the words as they stand at the grant become the command's output lines. -/
def State.grantDrain (s : State) (p : Nat) (c : Cmd) : State :=
  match s.port? p with
  | none => s
  | some x =>
    let rows := c.num 36 2
    let n := c.num 38 2
    let row (m : Nat) : List Byte := ((List.range n).map fun k =>
      drainWord (c.num 34 1) (rmode (c.num 35 1)) (slotWord x.words (wordIdx (c.num 33 1) m k))).flatten
    let outs := ((List.range rows).map fun m =>
      outRun 1 (c.capC.base + c.num 52 4 + m * c.num 48 4) (row m)
        (fun o => if o = (row m).length then m + 1 else m) fun _ => 0).flatten
    ((s.dequeue p c.id).modPort p fun y => { y with perfCmds := y.perfCmds + 1 }).modCmd c.id fun y => { y with outs := outs, phase := .running, count := rows }

/-- `mmz` (R276). -/
def State.grantZero (s : State) (p : Nat) (c : Cmd) : State :=
  let lo := wordIdx (c.num 33 1) 0 0
  let s1 := s.modPort p fun y =>
    { y with words := y.words.filter fun w => !(decide (lo ≤ w.1) && decide (w.1 < lo + 16384)), perfCmds := y.perfCmds + 1 }
  (s1.dequeue p c.id).finishCmd c.id 0 16

/-- MATRIX_ROW_GRANT (R253): one A row, or one whole `mmb`, `mmd` or `mmz`. -/
def execMatrixRowGrant (port : Nat) (s : State) : Out :=
  match s.pickRow port with
  | none => .next s
  | some c =>
    let s1 := s.loadPorts (s.portsFor c)
    match c.instr with
    | .mma .. => .next (s1.grantRow port c)
    | .mmb .. => .next (s1.grantLoad port c)
    | .mmd .. => .next (s1.grantDrain port c)
    | _ => .next (s1.grantZero port c)

/-! ## Release -/

/-- The holder has no command queued or staged for the port. -/
def State.portIdle (s : State) (p : Nat) (holder : Nat) : Bool :=
  (s.queueOf p).isEmpty &&
    !(s.cmds.any fun c => s.regionOf c == holder && (c.phase == .staged || c.phase == .held) && c.port.isSome
        && c.outs.isEmpty && (s.portsFor c).contains p)

/-- A port must be released (R255): its holder has no command for it, and its budget has fallen below its holdings, or a
region of equal or higher priority has waited one time slice of the holder. -/
def State.mustRelease (s : State) (x : Port) : Bool :=
  match x.holder with
  | none => false
  | some h =>
    s.portIdle x.num h &&
      (s.portsOver h ||
        (s.waitingFor x.num).any fun c =>
          s.regionOf c != h && decide (s.eff h 0 Region.prio ≤ s.eff (s.regionOf c) 0 Region.prio)
            && decide (s.cyclesOf (s.eff h 5 Region.timeslice) ≤ s.clock - c.since))

/-- MATRIX_PORT_GRANT (R255): a port that must be released is saved for its region, and a free port goes to the waiting
region that comes first. -/
def execMatrixPortGrant (port : Nat) (s : State) : Out :=
  match s.port? port with
  | none => .next s
  | some x =>
    let s1 := if s.mustRelease x then s.modPort port Port.release else s
    match (s1.port? port).bind Port.holder, s1.nextForPort port with
    | none, some c => .next (if s1.mayEnqueue c then s1.enqueue c else s1)
    | _, _ => .next s1

end Sys2Proof.Machine
end

