-- ==== Sys2Proof/Machine/Round.lean ====
section
/-! DEFINITION. The round commit (02_step_machine.md R25, R26, R28; 03 R52, R53, R59; 15 R278, R281; 16 R288 to R291; 21
R358). -/

namespace Sys2Proof.Machine

/-! ## When a round commits -/

/-- A fibre lets the round commit: it is at an `rstop` whose step has committed, or it has exited (R25, R27). -/
def Fibre.roundReady (f : Fibre) (step : Nat) : Bool :=
  match f.status with
  | .atRstop k => decide (k < step)
  | .exited k => decide (k < step)
  | _ => false

/-- A block lets the round commit. -/
def Block.roundReady (b : Block) : Bool :=
  b.status == .terminated || b.fibres.all fun f => f.roundReady b.step

/-- Every fibre of every block has exited (R28). -/
def Launch.allExited (l : Launch) : Bool := l.blockList.all fun b => b.status == .terminated || b.allExited

/-- The launch's own commands are done (R28, R239). -/
def State.cmdsDone (s : State) (l : Launch) : Bool := !s.cmds.any fun c => c.launch == l.id

/-- A gate named by the round has reached its threshold (R25, R37). -/
def State.gateReached (s : State) (l : Launch) (n : Nat) : Bool :=
  match s.gate? (l.gateIndex n) with
  | some g => decide (g.thresh ≤ g.count)
  | none => true

/-- Round r commits (R25); the final round also waits for the launch's commands (R28). -/
def State.roundReady (s : State) (l : Launch) : Bool :=
  !l.ended && !l.suspended && l.hold == .none && l.blockList.all Block.roundReady
    && l.named.all (s.gateReached l) && (!l.allExited || s.cmdsDone l)

/-! ## Landing bytes -/

/-- The physical address of a byte that contributions touch (R300). -/
def physOf (cs : List Contrib) (va : Nat) : Nat :=
  match cs.find? fun c => decide (c.addr ≤ va) && decide (va < c.addr + c.size) with
  | some c => c.phys + (va - c.addr)
  | none => 0

/-- Physical bytes as lines with masks (R56). -/
def linesOf (bs : List (Nat × Byte)) : List (Nat × List (Option Byte)) :=
  (dedupNat (bs.map fun p => p.1 / 128)).map fun n =>
    (n, (List.range 128).map fun i => (bs.find? fun p => p.1 == 128 * n + i).map Prod.snd)

/-! ## Sparse regions -/

/-- Distinct regions that contributions name, rising. -/
def regionsOf (cs : List Contrib) : List Nat :=
  cs.foldl (fun m c => match c.space with
    | .sparse r => insertNat r m
    | _ => m) []

/-- Contributions to one region. -/
def regionContribs (r : Nat) (cs : List Contrib) : List Contrib := cs.filter fun c => c.space == .sparse r

/-- The start values of the keys that contributions touch (R290). -/
def State.startValues (s : State) (d : RDesc) : List Nat → Except NodeErr (List (Nat × Nat))
  | [] => .ok []
  | k :: ks =>
    match s.lookup d d.root k with
    | .error e => .error e
    | .ok v =>
      match s.startValues d ks with
      | .error e => .error e
      | .ok vs => .ok ((k, v) :: vs)

/-- The keys whose value changes, each with the value after the commit; 0 stands for an absent key (R278, R283). -/
def changedKeys (det : Bool) (free : Nat) (typ : Nat) (starts : List (Nat × Nat)) (cs : List Contrib) :
    List (Nat × Nat) :=
  let size := typeSize typ
  let start (a : Nat) : Byte :=
    match starts.find? fun p => p.1 == a / size with
    | some p => BitVec.ofNat 8 (p.2 / 256 ^ (a % size))
    | none => 0
  let bytes := combine det free start (startOf start) cs
  starts.filterMap fun p =>
    let v := ofLe ((List.range size).map fun i =>
      ((bytes.find? fun b => b.1 == size * p.1 + i).map Prod.snd).getD (start (size * p.1 + i)))
    let w := if zeroElem typ v then 0 else v
    if w = p.2 then none else some (p.1, w)

/-- What the commit of one region comes to. -/
inductive Applied where
  | done (s : State)
  /-- too few nodes: needed and free (R281) -/
  | short (need free : Nat)
  | bad (e : NodeErr)
  deriving DecidableEq, Repr

/-- Nodes that no new node may take: those of the published tree and the retired ones (R291). -/
def Sparse.busy (r : Sparse) : List Nat := r.used ++ r.retired.map Prod.fst

/-- The free count of a region is written to its descriptor (R312). -/
def State.writeFree (s : State) (num : Nat) : State :=
  match s.sparse? num with
  | none => s
  | some r =>
    let d := s.rdesc r
    let free := d.nodes - (r.busy.filter (· < d.nodes)).length
    if s.mem.num (r.desc + 52) 4 = free then s
    else s.outsideWrite none (r.desc + 52) ((leBytes 4 free).map some)

/-- A launch passes a round commit: where it is a holder, the retired nodes that every holder has now passed return to the pool
(R291). -/
def State.returnNodes (s : State) (l num : Nat) : State :=
  let s1 := s.modSparse num fun x => { x with retired := x.retired.map fun y => (y.1, insertNat l y.2) }
  match s1.sparse? num with
  | none => s
  | some r =>
    if r.holders.contains l && r.retired.any (fun y => r.holders.all y.2.contains) then
      (s1.modSparse num fun x => { x with retired := x.retired.filter fun y => !x.holders.all y.2.contains }).writeFree num
    else s1

/-- Every region's nodes that are due return (R291). -/
def State.returnAll (s : State) (l : Nat) : List Nat → State
  | [] => s
  | n :: ns => (s.returnNodes l n).returnAll l ns

/-- Write new nodes (R288 item 1). -/
def State.writeNodes (s : State) (pool : Nat) : List (Nat × List Byte) → State
  | [] => s
  | (n, bs) :: rest => (s.outsideWrite none (pool + 128 * n) (bs.map some)).writeNodes pool rest

/-- The first of some lines that the region's tenant does not own (R293, R298). -/
def State.foreign (s : State) (r : Sparse) (lines : List Nat) : Option Nat := lines.find? fun pa => s.owner pa != r.tenant

/-- Apply a round's changes to a region (R278, R288). The lines of its nodes and its descriptor land here, before every line of memory
of the commit, an order among the lines of one commit that R56 leaves open (DESIGN CHOICE, log 78). -/
def State.applySparse (s : State) (det : Bool) (num : Nat) (cs : List Contrib) : Applied :=
  match s.sparse? num with
  | none => .done s
  | some r =>
    let d := s.rdesc r
    let keys := cs.foldl (fun m c => insertNat c.addr m) []
    match s.startValues d keys with
    | .error e => .bad e
    | .ok starts =>
      let ch := changedKeys det (s.free + anySpan * num) d.typ starts cs
      if ch.isEmpty then .done s
      else
        match s.rebuild d r.busy ch with
        | .error e => .bad e
        | .ok t =>
          let free := d.nodes - (r.busy.filter (· < d.nodes)).length
          if free < t.nodes.length then .short t.nodes.length free
          else if let some pa := s.foreign r (r.desc :: t.nodes.map fun n => d.pool + 128 * n.1) then .bad (.owner pa)
          else
            let s1 := s.writeNodes d.pool t.nodes
            let s2 := s1.outsideWrite none r.desc
              ((leBytes 4 t.root ++ leBytes 4 (d.pub + 1) ++ leBytes 8 t.entries).map some)
            let s3 := s2.modSparse num fun x =>
              { x with used := t.used,
                       retired := x.retired ++ ((x.used.filter fun n => !t.used.contains n).map fun n => (n, [])) }
            .done (s3.writeFree num)

/-- The regions of a round, in rising order: the state, the regions that lack nodes with the counts of the first, and the
first node error. -/
def State.applyRegions (s : State) (det : Bool) (cs : List Contrib) :
    List Nat → State × List (Nat × Nat × Nat) × List NodeErr
  | [] => (s, [], [])
  | n :: ns =>
    match s.applySparse det n (regionContribs n cs) with
    | .done s1 => s1.applyRegions det cs ns
    | .short need free =>
      let r := s.applyRegions det cs ns
      (r.1, (n, need, free) :: r.2.1, r.2.2)
    | .bad e =>
      let r := s.applyRegions det cs ns
      (r.1, r.2.1, e :: r.2.2)

/-! ## Collisions -/

/-- Round-level collisions in global memory, the second write-only writes included (R52, R61): of several at one byte that with the
lowest key comes first (R53). -/
def globalCollisions (cs second : List Contrib) : List Collide :=
  collisions cs ++ (sortKeys second).map fun c => { byte := c.addr, cause := 3, lo := c, hi := c }

/-- A collision is reported before another (R53). -/
def Collide.before (a b : Collide) : Bool := decide (a.byte < b.byte) || (a.byte == b.byte && decide (a.cause < b.cause))

/-- The collision that is reported. -/
def firstCollide : List Collide → Option Collide
  | [] => none
  | c :: cs =>
    match firstCollide cs with
    | none => some c
    | some d => if d.before c then some d else some c

/-- Among sparse collisions the lowest region number comes first, then the lowest key (R53). -/
def sparseCollide (cs : List Contrib) : List Nat → Option Collide
  | [] => none
  | r :: rs =>
    match firstCollide (collisions (regionContribs r cs)) with
    | some c => some c
    | none => sparseCollide cs rs

/-! ## The commit -/

/-- The results of the round's `fadr` words are fixed (R54); `value` answers for a contribution key. -/
def Fibre.fixFadrs (f : Fibre) (value : Nat → Option Nat) : Fibre :=
  { f with fadrs := f.fadrs.map fun p => if p.round ∧ p.got.isNone then { p with got := value p.seq } else p }

/-- The pending round results land (R26 item 3). -/
def Fibre.landFadrs (f : Fibre) : Fibre :=
  let done := f.fadrs.filter fun p => p.round && p.got.isSome
  let g := done.foldl (fun (g : Fibre) p =>
    let v := p.got.getD 0
    g.putRegs (if p.wide then [(p.reg, BitVec.ofNat 32 v), (p.reg + 1, BitVec.ofNat 32 (v / 2 ^ 32))]
               else [(p.reg, BitVec.ofNat 32 v)])) f
  { g with fadrs := f.fadrs.filter fun p => !(p.round && p.got.isSome) }

/-- A fibre goes on after a round commit, in its block's next step (R26). -/
def Fibre.resumeRound (f : Fibre) : Fibre :=
  match f.status with
  | .atRstop _ => { f with status := .running, startPc := f.pc, startArrival := f.arrival, startStatus := .running,
                           startTags := f.tags, privStart := f.privMem }
  | _ => f

/-- Gate counts of a launch, for `gread` (R40). -/
def State.gateCounts (s : State) (l : Launch) : List Nat :=
  (List.range l.gates).map fun n => ((s.gate? (l.gateIndex n)).map Gate.count).getD 0

/-- A block goes on after a round commit: engine lines written while it waited become visible (R239). -/
def Block.resumeRound (b : Block) (clock : Nat) (counts : List Nat) : Block :=
  let b1 := b.heldLines.foldl Block.landLine b
  let wakes := b.status == .unbound && b.fibres.any Fibre.isAtRstop
  { b1 with heldLines := [], fibres := b1.fibres.map Fibre.resumeRound, gateSeen := counts.map fun n => [n], lastCommit := clock,
            status := if wakes then .waiting else b.status, waitStart := if wakes then clock else b.waitStart,
            groups := b1.groups.map fun g => { g with ready := max g.ready clock } }

/-- Named gates are consumed once each (R26 item 4, R37). -/
def State.consumeGates (s : State) (l : Launch) : List Nat → State
  | [] => s
  | n :: ns =>
    (s.changeGate (l.gateIndex n) fun g => { g with count := g.count - g.thresh }).consumeGates l ns

/-- Lines of global data in CACHE banks that are no RO fills are dropped in the partition's cores (R26 item 5, R225); a private
line is kept. -/
def State.dropLines (s : State) (tenant : Nat) : State :=
  { s with cores := s.cores.map fun c =>
      if s.sliceIn tenant (c.num / 18) then { c with cache := c.cache.filter fun x => x.ro || x.own.isSome } else c }

/-- Items 3 to 5 of R26. -/
def State.closeRound (s : State) (id : Nat) : State :=
  match s.launch? id with
  | none => s
  | some l =>
    let s1 := s.modLaunch id fun x =>
      { x with blockList := x.blockList.map fun b => { b with fibres := b.fibres.map Fibre.landFadrs },
               named := [], stale := [], woBytes := [], woSecond := [], logPoison := [], sparsePoison := [],
               leases := x.leases.filter fun y => match y.last with
                 | some r => decide (x.round < r)
                 | none => true }
    (s1.consumeGates l (dedupNat l.named)).dropLines l.tenant

/-- Item 6 of R26: the round counter rises, the roots are latched (R289) and the fibres go on; a launch whose fibres have
all exited has made its final commit (R28). -/
def State.advanceRound (s : State) (id : Nat) : State :=
  match s.launch? id with
  | none => s
  | some l =>
    if l.allExited then s.modLaunch id fun x => { x with round := x.round + 1, hold := .final }
    else
      let counts := s.gateCounts l
      (s.modLaunch id fun x =>
        { x with round := x.round + 1, hold := .none,
                 blockList := x.blockList.map fun b =>
                   if b.status = .terminated then b else b.resumeRound s.clock counts }).latchAll id

/-- The end of a commit whose changes have all been applied: items 3 to 5, then the round counter, unless a launch-path
fault holds it (R358). -/
def State.endRound (s : State) (id : Nat) (held : Bool) : State :=
  let s1 := s.closeRound id
  if held then s1.modLaunch id fun x => { x with hold := .boundary } else s1.advanceRound id

/-- Records for regions that lack nodes and for node errors (R281, R286). -/
def sparseNotes (short : List (Nat × Nat × Nat)) (bad : List NodeErr) : List LaunchNote :=
  (short.map fun x => { code := .indexExhausted, info0 := x.2.1, info1 := x.2.2 }) ++ bad.filterMap fun e => match e with
    | .format n => some { code := .format, info0 := n, info1 := 0 }
    | .memory n => some { code := .memUncorrectable, info0 := n, info1 := 0 }
    | .owner _ => none

/-- The record of the first node that a sparse entry in error has poisoned (R358, R360). -/
def nodeNotes (nodes : List (Nat × Nat)) : List LaunchNote :=
  match nodes with
  | x :: _ => [{ code := .memUncorrectable, info0 := x.1, info1 := 0 }]
  | [] => []

/-- A line that is not the tenant's takes the machine path (R298). -/
def State.ownerFaults (s : State) (id : Nat) (bad : List NodeErr) : State :=
  bad.foldl (fun s e => match e with
    | .owner pa => match s.launch? id with
      | some l => if l.ended then s else s.machinePath l none none pa
      | none => s
    | _ => s) s

/-- The launch's launch-path records are written (R358). -/
def State.writeNotes (s : State) (id : Nat) : State :=
  match s.launch? id with
  | none => s
  | some l => l.notes.foldl (fun s n => s.launchPath id n.code n.info0 n.info1) (s.modLaunch id fun x => { x with notes := [] })

/-- Records wait until the commit is complete. -/
def State.addNotes (s : State) (id : Nat) (ns : List LaunchNote) : State := s.modLaunch id fun x => { x with notes := x.notes ++ ns }

/-- The leaf of a region's published tree that holds a key. -/
def State.leafOf (s : State) (r : Sparse) (k : Nat) : Option Nat :=
  r.used.find? fun n => (readNode s.mem (s.rdesc r) n).any fun x => x.leaf && x.keys.contains k

/-- Nodes that hold elements whose round-log entry was in error, of regions whose changes have been applied: the node and its physical
line (R360). -/
def State.badNodes (s : State) (l : Launch) (cs : List Contrib) (regs : List Nat) : List (Nat × Nat) :=
  (l.sparsePoison.filter fun x => regs.contains x.1).flatMap fun x => match s.sparse? x.1 with
    | none => []
    | some r =>
      let keys := ((regionContribs x.1 cs).filter fun c => c.base / 128 == x.2).map Contrib.addr
      (dedupNat (keys.filterMap (s.leafOf r))).map fun n => (n, ((s.rdesc r).pool + 128 * n) / 128)

/-- Lines become poisoned (R360). -/
def State.poisonLines (s : State) (ns : List Nat) : State := { s with poison := ns.filter (fun n => !s.poison.contains n) ++ s.poison }

/-- Contributions that belong to one of some regions. -/
def inRegions (rs : List Nat) (c : Contrib) : Bool :=
  match c.space with
  | .sparse n => rs.contains n
  | _ => false

/-- Where a commit stands once no line is left to land: it waits for a region's pool (R281), for the launch path (R358), or goes
on; then its records are written. -/
def State.settleRound (s : State) (id : Nat) (region : Option Nat) (held : Bool) : State :=
  (match region with
    | some n => s.modLaunch id fun x => { x with hold := .pool n held }
    | none => s.endRound id held).writeNotes id

/-- Item 2 of R26 for memory: the bytes that land. A byte that keeps its round-start value is not written (R53). -/
def State.roundBytes (s : State) (l : Launch) (glob : List Contrib) : List (Nat × Byte) :=
  let start (a : Nat) : Byte := s.mem.get (physOf glob a)
  ((combine l.det s.free start (openedIn l.roundLog) glob).filter fun p =>
    !(deadNibble glob (2 * p.1) && deadNibble glob (2 * p.1 + 1))).map fun p => (physOf glob p.1, p.2)

/-- The result of the round's `fadr` at a position of a fibre's issue order (R54). -/
def State.roundFadr (s : State) (l : Launch) (glob : List Contrib) (block fibre seq : Nat) : Option Nat :=
  let start (a : Nat) : Byte := s.mem.get (physOf glob a)
  (glob.find? fun c => c.dest.isSome && c.key.remote == 0 && c.key.block == block && c.key.fibre == fibre && c.key.seq == seq).map
    (fadrResult start (openedIn l.roundLog) glob)

/-- The round's collision that is reported, if there is one (R53). -/
def Launch.roundCollision (l : Launch) (glob spar : List Contrib) : Option Collide :=
  match firstCollide (globalCollisions glob l.woSecond) with
  | some c => some c
  | none => sparseCollide spar (regionsOf spar)

/-- Launch-path records of items 1 and 2 of R26 for memory: the collision, then the first line that was in error (R53, R360). -/
def roundNotes (hit : Option Collide) (poisoned : List Nat) : List LaunchNote :=
  (hit.toList.map fun c => { code := .collision, info0 := (c.info true).1, info1 := (c.info true).2 })
    ++ match poisoned with
       | n :: _ => [{ code := .memUncorrectable, info0 := 128 * n % 2 ^ 32, info1 := 128 * n / 2 ^ 32 }]
       | [] => []

/-- Round commit (R26): collisions, the round's writes with the sparse changes, `fadr` results. The lines of memory then land one
by one (R56), and items 3 to 6 follow, and the launch path's records (R358). -/
def State.commitRound (s : State) (l : Launch) : State :=
  let cs := sortKeys l.roundLog
  let glob := cs.filter fun c => c.space == .global
  let spar := cs.filter fun c => c.space != .global
  let s0 := s.returnAll l.id (s.sparse.map Sparse.num)
  let lines := linesOf (s0.roundBytes l glob)
  let hit := l.roundCollision glob spar
  let poisoned := (lines.map Prod.fst).filter l.logPoison.contains
  let s1 := s0.modLaunch l.id fun x =>
    { x with landing := lines, landAt := s.clock, roundLog := [],
             blockList := x.blockList.map fun b =>
               { b with fibres := b.fibres.map fun f => f.fixFadrs (s0.roundFadr l glob b.index f.id) } }
  let r := ({ s1 with free := s1.free + anyRoom } : State).applyRegions l.det spar (regionsOf spar)
  let short := r.2.1.map Prod.fst
  let nodes := r.1.badNodes l spar ((regionsOf spar).filter fun n => !short.contains n)
  let held := hit.isSome || !poisoned.isEmpty || !r.2.2.isEmpty || !nodes.isEmpty || !l.notes.isEmpty
  let s2 := ((r.1.poisonLines (dedupNat (nodes.map Prod.snd))).modLaunch l.id fun x =>
    { x with heldLog := spar.filter (inRegions short), grown := [] }).addNotes l.id
      (roundNotes hit poisoned ++ sparseNotes r.2.1 r.2.2 ++ nodeNotes nodes)
  let s3 := if lines.isEmpty then s2.settleRound l.id short.head? held
    else s2.modLaunch l.id fun x => { x with hold := .landing short.head? held }
  s3.ownerFaults l.id r.2.2

/-- A line of a commit lands, any of those left (R56) (log 2); after the last one the commit goes on. -/
def State.landNext (s : State) (l : Launch) (region : Option Nat) (held : Bool) : State :=
  let c := s.choose l.landing.length
  match l.landing[c.1]? with
  | none => s.settleRound l.id region held
  | some x =>
    let rest := l.landing.eraseIdx c.1
    let s1 := (c.2.landLine l.id l.logPoison x.1 x.2).modLaunch l.id fun y => { y with landing := rest, landAt := s.clock }
    if rest.isEmpty then s1.settleRound l.id region held else s1

/-- ROUND_COMMIT (R26, R56): the commit, or the landing of one of its lines; at most one line lands in a cycle, and none of a
suspended launch (R344). -/
def execRoundCommit (l : Nat) (s : State) : Out :=
  match s.launch? l with
  | none => .next s
  | some x =>
    match x.hold with
    | .landing region held =>
      if !x.ended && !x.suspended && decide (x.landAt < s.clock) then .next (s.landNext x region held) else .next s
    | _ => if s.roundReady x then .next (s.commitRound x) else .next s

/-! ## Held commits -/

/-- The held changes of some regions are applied again, and the commit completes once no region lacks nodes (R281); `also`: a fault
holds the round counter too. It is the same round commit: no retired node returns again (R278, R291). Answers the state and the
regions that still lack nodes, with the counts. -/
def State.retryHeld (s : State) (l : Launch) (regs : List Nat) (also : Bool) : State × List (Nat × Nat × Nat) :=
  let cs := sortKeys l.heldLog
  let mine := cs.filter (inRegions regs)
  let r := s.applyRegions l.det mine (regionsOf mine)
  let short := r.2.1.map Prod.fst
  let keep := cs.filter fun c => inRegions short c || !inRegions regs c
  let nodes := r.1.badNodes l mine ((regionsOf mine).filter fun n => !short.contains n)
  let s1 := ((({ r.1 with free := r.1.free + anyRoom } : State).poisonLines (dedupNat (nodes.map Prod.snd))).modLaunch l.id fun x =>
    { x with heldLog := keep, grown := x.grown.filter fun n => !regs.contains n }).addNotes l.id
      (sparseNotes [] r.2.2 ++ nodeNotes nodes)
  ((s1.settleRound l.id (regionsOf keep).head? (also || !r.2.2.isEmpty || !nodes.isEmpty)).ownerFaults l.id r.2.2, r.2.1)

/-- `rgresume` retries a held commit: one that fails again writes a new record, and no other fault holds the round counter any
longer (R358, R370). -/
def State.resumeHeld (s : State) (l : Launch) : State :=
  let r := s.retryHeld l (regionsOf (sortKeys l.heldLog)) false
  (r.1.addNotes l.id (sparseNotes r.2 [])).writeNotes l.id

/-- Regions of a launch's held commit that an `sgrow` has grown (R281). -/
def Launch.retries (l : Launch) : List Nat := (regionsOf (sortKeys l.heldLog)).filter l.grown.contains

/-- HELD_COMMIT_RETRY (R281, R314): after an `sgrow` of a region whose changes are held, they are applied again; not while the region path has suspended
the launch (R344). -/
def execHeldCommitRetry (l : Nat) (s : State) : Out :=
  match s.launch? l with
  | none => .next s
  | some x =>
    match x.hold with
    | .pool _ also => if !x.ended && !x.suspended && !x.retries.isEmpty then .next (s.retryHeld x x.retries also).1 else .next s
    | _ => .next s

/-- The launch can write its token (R28); not while the region path has suspended it (R344). -/
def Launch.ends (l : Launch) : Bool := l.hold == .final && !l.ended && !l.suspended

/-- The launch's commands all stand at resumable points (R256). -/
def State.cmdsRest (s : State) (l : Launch) : Bool := s.cmds.all fun c => c.launch != l.id || !c.gathers || c.resumable

/-- LAUNCH_END (R28, R345, R367): the token is written once the final commit has landed, and the launch's resources are
released; a killed launch ends once its commands stand at resumable points. -/
def execLaunchEnd (l : Nat) (s : State) : Out :=
  match s.launch? l with
  | none => .next s
  | some x =>
    if let some code := x.dying then
      if !x.ended && s.cmdsRest x then .next (s.killLaunch code x) else .next s
    else if x.ends then
      let s1 := match x.firstFault with
        | some code => s.launchToken l code 0
        | none => s.launchToken l 0 x.nblocks
      .next (s1.releaseLaunch l)
    else .next s

end Sys2Proof.Machine
end

