-- ==== Sys2Proof/Machine/Spill.lean ====
section
/-! DEFINITION. What the step buffers and the round logs hold, and where they spill: the entries of a core's step buffer (R230,
R231), those of a launch's round log in each home slice with their sizes and the slice's share (R228, R232), write-only extents
(R234), and the spill range with its extension (R233) (12_memory_hierarchy_latency.md). Spilling moves no value; it decides when
a step commit waits and when a bank is in use (log 62). -/

namespace Sys2Proof.Machine

/-! ## Step buffers -/

/-- First occurrences of a list of keys. -/
def distinctKeys : List (List Nat) → List (List Nat)
  | [] => []
  | a :: l => a :: (distinctKeys l).filter (· != a)

/-- The line entry of a contribution in its core's step buffer: space, line and rule (R230). -/
def Contrib.stepKey (c : Contrib) : List Nat :=
  match c.space with
  | .scratch => [0, 0, c.base / 128, c.rule]
  | .breg => [1, 0, c.base / 128, c.rule]
  | .global => [2, 0, c.addr / 128, c.rule]
  | .sparse r => [3, r, c.base / 128, c.rule]

/-- Lines of private memory that a fibre has stored to in the step, whatever the values (R199, R230). -/
def Fibre.privLines (f : Fibre) : List Nat := dedupNat (f.privNibs.map (· / 256))

/-- A fibre's home group lies on a core. -/
def Block.fibreOn (b : Block) (core fibre : Nat) : Bool :=
  match (b.fibre? fibre).bind fun f => b.group? f.group with
  | some g => g.bound && g.core == core
  | none => false

/-- A block's entries in a core's step buffer: contributions by line and rule, each gate added to, each spawn request, and each
line of private memory (R230) (log 62). -/
def Block.stepEntries (b : Block) (core : Nat) : List (List Nat) :=
  distinctKeys
    (((b.contribs.filter fun c => b.fibreOn core c.key.fibre).map Contrib.stepKey)
      ++ ((b.gadds.filter fun g => b.fibreOn core g.2.2.1).map fun g => [4, g.1])
      ++ ((b.spawns.filter fun r => b.fibreOn core r.fibre).map fun r => [5, r.fibre, r.seq])
      ++ ((b.fibres.filter fun f => b.fibreOn core f.id).flatMap fun f => f.privLines.map fun n => [6, f.id, n]))

/-- Line entries of a step buffer (R230). -/
def stepBuffer : Nat := 1024

/-- Entries that a core's step buffer cannot hold (R231). -/
def State.stepSpill (s : State) (core : Nat) : Nat :=
  s.launches.foldl (fun t (l : Launch) => t + l.blockList.foldl (fun u b => u + (b.stepEntries core).length) 0) 0 - stepBuffer

/-- Lines of a core-store bank (R220). -/
def bankLines : Nat := 256

/-- Lines of scratch in a bank: each block fills the banks of its bind record from the lowest on (R223, R334). -/
def State.scratchIn (s : State) (k : Core) (bank : Nat) : Nat :=
  min bankLines (k.blockTable.foldl (fun t x =>
    match s.launch? x.launch with
    | none => t
    | some l =>
      let lines := (l.scratchSize + 127) / 128
      let nc := max 1 (((l.block? x.block).map Block.cores).getD 1)
      let before := ((List.range bank).filter fun i => x.banks / 2 ^ i % 2 == 1).length
      if x.banks / 2 ^ bank % 2 = 1 then t + min bankLines ((lines + nc - 1) / nc - bankLines * before) else t) 0)

/-- Lines that an SCR bank leaves to the step buffer's spill (R231). -/
def State.roomIn (s : State) (k : Core) (bank : Nat) : Nat :=
  if k.banks.getD bank .reg = .scr then bankLines - s.scratchIn k bank else 0

/-- Lines of step-buffer spill in a bank: the lowest free lines are taken first (R231) (log 62). -/
def State.spillIn (s : State) (k : Core) (bank : Nat) : Nat :=
  min (s.roomIn k bank) (s.stepSpill k.num - (List.range bank).foldl (fun t i => t + s.roomIn k i) 0)

/-- Entries in the step-spill areas of the blocks on a core, in tenant memory (R231). -/
def State.areaSpill (s : State) (k : Core) : Nat :=
  s.stepSpill k.num - (List.range 48).foldl (fun t i => t + s.roomIn k i) 0

/-! ## Round logs -/

/-- L2 of a slice, and what is always left for caching (R228). -/
def l2Size : Nat := 32 * 2 ^ 20
def l2Cache : Nat := 4 * 2 ^ 20

/-- The share of the round logs in a slice (R228). -/
def State.logShare (s : State) (slice : Nat) : Nat := l2Size - s.leasedIn slice - l2Cache

/-- L2 bytes of a round-log entry (R232). -/
def entrySize (rule size : Nat) (flt : Bool) : Nat :=
  if rule < 2 ∨ 5 < rule then 512
  else if flt ∧ rule ≤ 3 then (if size = 2 then 768 else 1280)
  else 256

/-- A round-log entry: the launch, the line and rule it covers, its size, the cycle of its latest contribution. -/
structure LogLine where
  launch : Nat
  key    : List Nat
  size   : Nat
  last   : Nat
  deriving DecidableEq, Repr, Inhabited

/-- The home slice of a round contribution: that of its line, or that of its region's descriptor (R232). -/
def State.homeOf (s : State) (c : Contrib) : Nat :=
  match c.space with
  | .sparse r => ((s.sparse? r).map fun sp => homeSlice sp.desc).getD 0
  | _ => homeSlice c.phys

/-- The line and rule of a round contribution. -/
def Contrib.logKey (c : Contrib) : List Nat :=
  match c.space with
  | .sparse r => [1, r, c.base / 128, c.rule]
  | _ => [0, 0, c.phys / 128, c.rule]

/-- A contribution is combined into its entry, or opens one (R232). -/
def addLog (launch : Nat) (es : List LogLine) (c : Contrib) : List LogLine :=
  if es.any fun e => e.key == c.logKey then
    es.map fun e => if e.key = c.logKey then { e with size := max e.size (entrySize c.rule c.size c.flt), last := max e.last c.issued } else e
  else es ++ [{ launch := launch, key := c.logKey, size := entrySize c.rule c.size c.flt, last := c.issued }]

/-- A launch's entries in a home slice. -/
def State.logEntries (s : State) (slice : Nat) (l : Launch) : List LogLine :=
  (l.roundLog.filter fun c => s.homeOf c == slice).foldl (addLog l.id) []

/-- The newest entries first. -/
def insertLog (e : LogLine) : List LogLine → List LogLine
  | [] => [e]
  | x :: xs => if x.last < e.last then e :: x :: xs else x :: insertLog e xs

/-- Entries that fit a share of bytes, newest first, and those that spill (R232). -/
def spillsOf : Nat → List LogLine → List LogLine
  | _, [] => []
  | room, e :: es => if e.size ≤ room then spillsOf (room - e.size) es else e :: spillsOf 0 es

/-- The entries that a home slice has spilled: those longest without a contribution (R232). -/
def State.spilled (s : State) (slice : Nat) : List LogLine :=
  spillsOf (s.logShare slice) ((s.launches.flatMap (s.logEntries slice)).foldl (fun m e => insertLog e m) [])

/-! ## Write-only extents -/

/-- The slice that records a write-only byte: that of its home (R234). -/
def State.byteHome (s : State) (l : Launch) (a : Nat) : Nat := ((s.fwPhys l.tenant a).map homeSlice).getD 0

/-- Extents of a launch that a slice records: runs of adjoining bytes that are homed in it (R234). -/
def State.extentsIn (s : State) (slice : Nat) (l : Launch) : Nat :=
  let here := l.woBytes.filter fun a => s.byteHome l a == slice
  (here.filter fun a => a == 0 || !here.contains (a - 1)).length

/-- Extents that a slice holds in L2 (R234), and the bytes of one in a spill range (log 62). -/
def extentRoom : Nat := 4096
def extentSize : Nat := 16

/-- Extents of a launch that spill: older launches fill the slice's room first (R234) (log 62). -/
def State.extentSpill (s : State) (slice : Nat) (l : Launch) : Nat :=
  let before := (s.launches.filter fun x => x.id < l.id).foldl (fun t x => t + s.extentsIn slice x) 0
  s.extentsIn slice l - (extentRoom - before)

/-! ## The spill range -/

/-- Bytes of its spill range that a launch needs (R232, R234). -/
def State.spillNeed (s : State) (l : Launch) : Nat :=
  (List.range 12).foldl (fun t k =>
    t + ((s.spilled k).filter fun e => e.launch == l.id).foldl (fun u e => u + e.size) 0 + extentSize * s.extentSpill k l) 0

/-- Bytes of a launch's spill range with what the firmware has added (R233, R324). -/
def Launch.spillRoom (l : Launch) : Nat := l.spilllen + unit * l.spillExt.length

/-- The first free granules from one on, at most `n` of the next `k`. -/
def State.freeFrom (s : State) : Nat → Nat → Nat → List Nat
  | 0, _, _ => []
  | k + 1, n, g =>
    if n = 0 then []
    else if s.owner (g * unit) = 0xFFF then g :: s.freeFrom k (n - 1) (g + 1)
    else s.freeFrom k n (g + 1)

/-- Granules of a slice (R227, R298). -/
def sliceGranules : Nat := 96 * 2 ^ 30 / unit

/-- Free granules of a tenant's memory, `n` at most (R233). -/
def State.tenantFree (s : State) (tenant n : Nat) : List Nat :=
  match s.tenant? tenant with
  | none => []
  | some t => s.freeFrom (sliceGranules * t.slices) n (sliceGranules * t.first)

/-- Granules that a launch's spill range lacks. -/
def State.spillShort (s : State) (l : Launch) : Nat := (s.spillNeed l - l.spillRoom + unit - 1) / unit

/-- The launch with contributions in its round log and bytes recorded as written write-only. -/
def State.withRound (s : State) (l : Nat) (cs wo : List Contrib) : State :=
  s.modLaunch l fun x =>
    { x with roundLog := x.roundLog ++ cs, woBytes := x.woBytes ++ (touchedBytes wo).filter fun a => !x.woBytes.contains a }

/-- Granules change owner; unlisted granules are free (R298). -/
def State.giveGranules (s : State) (gs : List Nat) (owner : Nat) : State :=
  let kept := s.owners.filter fun o => !gs.contains o.1
  { s with owners := if owner = 0xFFF then kept else kept ++ gs.map fun g => (g, owner) }

/-- The firmware extends a launch's spill range (R233). -/
def State.extendSpill (s : State) (l : Launch) (gs : List Nat) : State :=
  if gs.isEmpty then s
  else (s.giveGranules gs l.tenant).modLaunch l.id fun x => { x with spillExt := x.spillExt ++ gs }

/-- Spill ranges are extended for every launch of a list whose entries lack room, from its own tenant's memory (R233): the launches with
their granules; none where a tenant's memory lacks them. -/
def State.extensions (s : State) : List Launch → Option (List (Launch × List Nat))
  | [] => some []
  | l :: ls =>
    let n := s.spillShort l
    let gs := s.tenantFree l.tenant n
    if n = 0 then s.extensions ls
    else if gs.length ≠ n then none
    else ((s.extendSpill l gs).extensions ls).map ((l, gs) :: ·)

/-- The granules by which the firmware extends the spill ranges so that a launch's contributions find room, and those entries, of any
launch, which they displace (R232, R233); none when a tenant's memory lacks them. -/
def State.extension (s : State) (l : Launch) (cs wo : List Contrib) : Option (List (Launch × List Nat)) :=
  let s1 := s.withRound l.id cs wo
  s1.extensions (s1.launches.filter fun x => !x.ended)

/-- The extensions are made. -/
def State.extendAll (s : State) (xs : List (Launch × List Nat)) : State := xs.foldl (fun s x => s.extendSpill x.1 x.2) s

/-- What engines and remote lines have brought into the round logs since: the firmware extends the spill ranges that lack room, as far
as memory goes (R233) (log 62). -/
def State.extendShort (s : State) : State :=
  s.launches.foldl (fun s l =>
    if l.ended then s
    else
      let n := s.spillShort l
      let gs := s.tenantFree l.tenant n
      if n ≠ 0 ∧ gs.length = n then s.extendSpill l gs else s) s

/-- The first granule of the used part of a launch's spill range that is not its tenant's (R293, R298). -/
def State.spillForeign (s : State) (l : Launch) : Option Nat :=
  let used := min (s.spillNeed l) l.spilllen
  ((List.range ((used + unit - 1) / unit)).map fun i => l.spillbase + i * unit).find? fun pa => s.owner pa != l.tenant

/-- Entries that a launch spills are checked as every line that its tenant's spill touches: the machine path (R298, R359). -/
def State.checkSpill (s : State) (id : Nat) : State :=
  match s.launch? id with
  | none => s
  | some l =>
    if l.ended then s
    else
      match s.spillForeign l with
      | some pa => s.machinePath l none none pa
      | none => s

end Sys2Proof.Machine
end

