-- ==== Sys2Proof/Machine/Sys.lean ====
section
/-! DEFINITION. Supervisor words as they take effect at dispatch: ranges (17 R310 to R317; 16 R299 to R303), sparse regions
(R312 to R314), banks, regions, parked fibres, gates and snapshots (20 R345; 22 R368 to R379). -/

namespace Sys2Proof.Machine

/-! ## The range directory -/

/-- Descriptors of a directory, in order. -/
def State.dirList (s : State) (t : Tenant) : List Nat := (List.range t.ndir).map (s.dirDesc t)

/-- The descriptor whose range starts at an address, and its position (R316). -/
def State.rangeAt (s : State) (t : Tenant) (start : Nat) : Option (Nat × RangeEntry) :=
  match (s.dirList t).zipIdx.find? fun x => start == (entryOf x.1).vbase * unit with
  | some x => some (x.2, entryOf x.1)
  | none => none

/-- Write descriptors from a position on (R295). -/
def State.writeDescs (s : State) (t : Tenant) : Nat → List RangeEntry → State
  | _, [] => s
  | i, e :: es => (s.outsideWrite none (t.dir + 32 * i) ((leBytes 32 (descOf e)).map some)).writeDescs t (i + 1) es

/-- A directory's new contents: it is rewritten and counted, and no range table keeps a changed range (R299, R300). -/
def State.setDir (s : State) (t : Tenant) (es : List RangeEntry) (drop : List Nat) : State :=
  let s1 := s.writeDescs t 0 es
  let s2 := { s1 with tenants := s1.tenants.map fun x => if x.num = t.num then { x with ndir := es.length } else x }
  drop.foldl (fun s v => s.dropRange t.num v) s2

/-- The next generation (R299). -/
def RangeEntry.next (e : RangeEntry) : RangeEntry := { e with gen := (e.gen + 1) % 256 }

/-- Units of a range. -/
def RangeEntry.units (e : RangeEntry) : Nat := e.limit - e.vbase

/-- Physical bytes wholly in granules of an owner (R298). -/
def State.ownsRun (s : State) (owner pa n : Nat) : Bool :=
  (List.range ((pa + n + unit - 1) / unit - pa / unit)).all fun i => s.owner ((pa / unit + i) * unit) == owner

/-- True of `rmove`. -/
def Cmd.isRmove (c : Cmd) : Bool :=
  match c.instr with
  | .rmove .. => true
  | _ => false

/-- A move of the range is in flight: a compactor's, until what its swap waits for has gone (R300, R302), or an `rmove` whose token has
not landed (R311). -/
def State.moveInFlight (s : State) (tenant vbase : Nat) : Bool :=
  (s.slices.any fun x => (x.moving.any fun m => m.1 == tenant && m.2.1 == vbase)
    || x.draining.any fun d => d.tenant == tenant && d.lo == vbase)
  || s.cmds.any fun c => c.isRmove && (c.drain.any fun d => d.1 == vbase * unit)
      && ((s.launch? c.launch).any fun l => l.tenant == tenant)

/-- A range word has taken effect; its token waits for the accesses of before to these ranges, first unit and end (R300). -/
def State.finishRange (s : State) (id count : Nat) (ranges : List (Nat × Nat)) (frees : List Nat) : State :=
  (s.finishCmd id 0 count).modCmd id fun c =>
    { c with drain := ranges.map fun r => (r.1 * unit, (r.2 - r.1) * unit), frees := frees }

/-- Bits of a residency bitmap (R297, R315). -/
def State.bitmapBit (s : State) (bitmap i : Nat) : Bool := s.mem.num (bitmap + 8 * (i / 64)) 8 / 2 ^ (i % 64) % 2 == 1

/-- A bitmap as words of 64 bits. -/
def bitWords (n : Nat) (bit : Nat → Bool) : List Byte :=
  (List.range ((n + 63) / 64)).flatMap fun w => leBytes 8 ((List.range 64).foldl (fun m i =>
    if 64 * w + i < n ∧ bit (64 * w + i) then m + 2 ^ i else m) 0)

/-- A bitmap address with a boundary (R317): misaligned for a PARTIAL range. -/
def RangeEntry.badBitmap (e : RangeEntry) : Bool := e.part && e.bitmap % 8 != 0

/-- `rsplit` (R316, R317). -/
def State.doRsplit (s : State) (t : Tenant) (c : Cmd) : State :=
  let fail (f : FaultCode) : State := s.finishCmd c.id f.num 0
  let sp := c.num 8 8
  let up := c.num 24 8
  if sp % unit != 0 || !c.zeros 16 8 || up % 8 != 0 || !c.zeros 32 32 then fail .illegalField
  else
    match s.rangeAt t (c.num 0 8) with
    | none => fail .rangeMiss
    | some (i, e) =>
      let m := sp / unit
      let k := m - e.vbase
      let n := e.limit - m
      if s.moveInFlight t.num e.vbase then fail .engineHazard
      else if m ≤ e.vbase || e.limit ≤ m then fail .rangeMiss
      else if min t.cap 65535 ≤ t.ndir then fail .indexExhausted
      else if e.badBitmap || (e.part && up == 0 && k % 64 != 0) || (!e.part && up != 0) then fail .illegalField
      else if e.part && up != 0 && !s.ownsRun t.num up ((n + 63) / 64 * 8) then fail .ownership
      else
        let s1 := if e.part && up != 0 then
            s.writeRun up (bitWords n fun j => s.bitmapBit e.bitmap (k + j))
          else s
        let lower := { e.next with limit := m }
        let upper := { e.next with vbase := m, pbase := e.pbase + k,
                                   bitmap := if !e.part then 0 else if up = 0 then e.bitmap + 8 * (k / 64) else up }
        let all := (s.dirList t).map entryOf
        let s2 := s1.setDir t (all.take i ++ [lower, upper] ++ all.drop (i + 1)) [e.vbase, m]
        s2.finishRange c.id 1 [(e.vbase, e.limit)] []

/-- Two ranges join (R299, R317). -/
def joinable (a b : RangeEntry) : Bool :=
  a.limit == b.vbase && a.pbase + a.units == b.pbase && a.perm == b.perm && a.space == b.space && a.part == b.part
    && a.tenant == b.tenant
    && (!a.part || (a.units % 64 == 0 && b.bitmap == a.bitmap + 8 * (a.units / 64)))

/-- `rmerge` (R316, R317). -/
def State.doRmerge (s : State) (t : Tenant) (c : Cmd) : State :=
  let fail (f : FaultCode) : State := s.finishCmd c.id f.num 0
  if !c.zeros 16 48 then fail .illegalField
  else
    match s.rangeAt t (c.num 0 8), s.rangeAt t (c.num 8 8) with
    | some (i, a), some (j, b) =>
      if s.moveInFlight t.num a.vbase || s.moveInFlight t.num b.vbase then fail .engineHazard
      else if a.badBitmap || b.badBitmap then fail .illegalField
      else if j ≠ i + 1 || !joinable a b then fail .rangePerm
      else
        let all := (s.dirList t).map entryOf
        let s1 := s.setDir t (all.take i ++ [{ a.next with limit := b.limit }] ++ all.drop (i + 2)) [a.vbase, b.vbase]
        s1.finishRange c.id 1 [(a.vbase, b.limit)] []
    | _, _ => fail .rangeMiss

/-- `rinval` (R317). -/
def State.doRinval (s : State) (t : Tenant) (c : Cmd) : State :=
  if !c.zeros 8 56 then s.finishCmd c.id FaultCode.illegalField.num 0
  else
    match s.rangeAt t (c.num 0 8) with
    | none => s.finishCmd c.id FaultCode.rangeMiss.num 0
    | some (i, e) =>
      if s.moveInFlight t.num e.vbase then s.finishCmd c.id FaultCode.engineHazard.num 0
      else
        let all := (s.dirList t).map entryOf
        (s.setDir t (all.take i ++ [e.next] ++ all.drop (i + 1)) [e.vbase]).finishRange c.id 1 [(e.vbase, e.limit)] []

/-- The bits of some chunks of a bitmap are set or cleared, each word that holds one in one write (R301, R317). -/
def State.writeBits (s : State) (bitmap first n : Nat) (v : Bool) : State :=
  (List.range ((first + n + 63) / 64 - first / 64)).foldl (fun s i =>
    let w := first / 64 + i
    let bits := (List.range 64).foldl (fun m k =>
      if (if first ≤ 64 * w + k ∧ 64 * w + k < first + n then v else s.bitmapBit bitmap (64 * w + k)) then m + 2 ^ k else m) 0
    s.outsideWrite none (bitmap + 8 * w) ((leBytes 8 bits).map some)) s

/-- No range table keeps a bitmap word of the range: an access that translates from now on reads memory's (R297, R301). -/
def State.dropWords (s : State) (tenant vbase : Nat) : State :=
  { s with cores := s.cores.map fun k => { k with ranges := k.ranges.map fun x =>
      if x.tenant = tenant ∧ x.vbase = vbase then { x with word := none } else x } }

/-- `rres` (R301, R317). -/
def State.doRres (s : State) (t : Tenant) (c : Cmd) : State :=
  let fail (f : FaultCode) : State := s.finishCmd c.id f.num 0
  let first := c.num 8 8
  let n := c.num 16 4
  let op := c.num 20 1
  if 1 < op || !c.zeros 21 43 then fail .illegalField
  else
    match s.rangeAt t (c.num 0 8) with
    | none => fail .rangeMiss
    | some (i, e) =>
      if s.moveInFlight t.num e.vbase then fail .engineHazard
      else if n = 0 then s.finishCmd c.id 0 0
      else if !e.part then fail .rangePerm
      else if e.units < first + n then fail .capBounds
      else
        let hits := (List.range n).filter fun j => s.bitmapBit e.bitmap (first + j) != (op == 1)
        let s1 := s.writeBits e.bitmap first n (op == 1)
        if op = 0 then
          let all := (s.dirList t).map entryOf
          (s1.setDir t (all.take i ++ [e.next] ++ all.drop (i + 1)) [e.vbase]).finishRange c.id hits.length
            [(e.vbase, e.limit)] []
        else (s1.dropWords t.num e.vbase).finishCmd c.id 0 hits.length

/-! ## Moving a range -/

/-- A physical address after a run of bytes has moved. -/
def rebase (src dst n pa : Nat) : Nat := if src ≤ pa ∧ pa < src + n then pa - src + dst else pa

/-- Move the bytes of a run (R302 item 1), line by line. -/
def copyRun (m : Memory) (src dst : Nat) : Nat → Memory
  | 0 => m
  | k + 1 => copyRun ((m.setBytes (dst + 128 * k) (m.bytes (src + 128 * k) 128))) src dst k

/-- A part of BAR4 after a run of bytes has moved: cut where the run begins and ends (R302, R406). -/
def BarMap.pieces (src dst n : Nat) (m : BarMap) : List BarMap :=
  let cut (lo hi : Nat) : BarMap := { m with off := m.off + (lo - m.phys), len := hi - lo, phys := rebase src dst n lo }
  let last := m.phys + m.len
  ([cut m.phys (min last src), cut (max m.phys src) (min last (src + n)), cut (max m.phys (src + n)) last]).filter
    fun x => x.len != 0

/-- The end of a pool's memory after a run has moved (R314): what is left beside the pool of the range that holds it. -/
def poolEnd (src dst n pool limit : Nat) : Nat :=
  if src ≤ pool ∧ pool < src + n then min limit (src + n) - src + dst
  else if pool < src then min limit (max src pool)
  else limit

/-- A step-spill entry whose line has moved. -/
def moveEntry (f : Nat → Nat) : SpillEntry → SpillEntry
  | .memory n => .memory (f n)
  | .scratch n => .scratch n
  | .sparse g n => .sparse g n

/-- Everything that names a physical address of the run names its new place, so that no access returns a different value
because of the move (R302) (log 21). -/
def State.rebaseAll (s : State) (src dst n : Nat) : State :=
  let r := rebase src dst n
  let rl (line : Nat) : Nat := r (128 * line) / 128
  let con (c : Contrib) : Contrib := if c.space == .global then { c with phys := r c.phys } else c
  { s with
    poison := (s.poison.filter fun x => !(decide (dst ≤ 128 * x) && decide (128 * x < dst + n))).map rl,
    launches := s.launches.map fun (l : Launch) =>
      { l with roundLog := l.roundLog.map con, logPoison := l.logPoison.map rl, woSecond := l.woSecond.map con,
               landing := l.landing.map fun x => (rl x.1, x.2), stale := l.stale.map fun x => { x with line := rl x.line },
               blockList := l.blockList.map fun b =>
                 { b with contribs := b.contribs.map con, bufPoison := b.bufPoison.map (moveEntry rl) } },
    cmds := s.cmds.map fun c => { c with before := c.before.map fun x => (rl x.1, x.2) },
    tenants := s.tenants.map fun t => { t with dir := r t.dir },
    barMap := s.barMap.flatMap (BarMap.pieces src dst n),
    cores := s.cores.map fun (k : Core) => { k with
      cache := (k.cache.filter fun x => x.own.isSome || !(decide (dst ≤ 128 * x.line) && decide (128 * x.line < dst + n))).map
        fun x => if x.own.isSome then x else { x with line := rl x.line } },
    sparse := s.sparse.map fun x => { x with desc := r x.desc,
                                             poolLimit := poolEnd src dst n (s.mem.num (x.desc + 40) 8) x.poolLimit } }

/-- The pool address of a moved region's descriptor (R312). -/
def State.movePools (s : State) (src dst n : Nat) : List Sparse → State
  | [] => s
  | r :: rs =>
    let p := s.mem.num (r.desc + 40) 8
    let s1 := if src ≤ p ∧ p < src + n then s.outsideWrite none (r.desc + 40) ((leBytes 8 (rebase src dst n p)).map some)
      else s
    s1.movePools src dst n rs

/-- Granules of a run. -/
def granules (pa n : Nat) : List Nat := (List.range (n / unit)).map (pa / unit + ·)

/-- Granules of a run change owner (R298). -/
def State.setOwner (s : State) (pa n owner : Nat) : State := s.giveGranules (granules pa n) owner

/-- A range gets a new physical base (R302): copied and swapped. A bitmap that lay in it moves along, and every descriptor that
names one is changed (R299). -/
def State.moveRange (s : State) (t : Tenant) (i : Nat) (e : RangeEntry) (pbase : Nat) : State :=
  let n := e.units * unit
  let src := e.pbase * unit
  let dst := pbase * unit
  let s1 := ({ s with mem := copyRun s.mem src dst (n / 128) } : State).rebaseAll src dst n
  let s2 := s1.movePools src dst n s1.sparse
  let moves (x : RangeEntry) : Bool := x.part && rebase src dst n x.bitmap != x.bitmap
  let all := ((s.dirList t).map entryOf).map fun x => if moves x then { x.next with bitmap := rebase src dst n x.bitmap } else x
  let changed := (((s.dirList t).map entryOf).filter moves).map RangeEntry.vbase
  s2.setDir { t with dir := rebase src dst n t.dir } (all.take i ++
    [{ e.next with pbase := pbase, bitmap := if e.part then rebase src dst n e.bitmap else e.bitmap }] ++ all.drop (i + 1))
    (e.vbase :: changed)

/-- A run lies in the tenant's slices (R396). -/
def State.inSlices (t : Tenant) (pa n : Nat) : Bool :=
  decide (homeSlice (pa + n - 1) < t.first + t.slices) && decide (t.first ≤ homeSlice pa)

/-- `rmove` (R302, R317). -/
def State.doRmove (s : State) (t : Tenant) (c : Cmd) : State :=
  let fail (f : FaultCode) : State := s.finishCmd c.id f.num 0
  let nb := c.num 8 8
  if nb % unit != 0 || !c.zeros 16 48 then fail .illegalField
  else
    match s.rangeAt t (c.num 0 8) with
    | none => fail .rangeMiss
    | some (i, e) =>
      let n := e.units * unit
      if s.moveInFlight t.num e.vbase then fail .engineHazard
      else if overlap nb n (e.pbase * unit) n || !State.inSlices t nb n then fail .illegalField
      else if !s.ownsRun t.num nb n then fail .ownership
      else
        (s.moveRange t i e (nb / unit)).finishRange c.id (n / 128) [(e.vbase, e.limit)] (granules (e.pbase * unit) n)

/-! ## Sparse regions -/

/-- A capability operand of a supervisor word: space and permissions (R310 order 3). -/
def supRole (l : Launch) (c : Cap) (r w : Bool) (spaces : List Nat) : Bool :=
  (!r || c.canR) && (!w || c.canW) && spaces.contains c.space && (!c.isSup || l.sup)

/-- A capability operand of a supervisor word is valid, and its object id names a live object: a sparse region, or an import entry (R310
order 2). -/
def State.supTag (s : State) (l : Launch) (tag : Bool) (c : Cap) : Bool :=
  capValid l tag c && match c.space with
    | 4 => (s.sparse? (skey l.tenant c.objid)).isSome
    | 7 => s.imports.any fun i => i.objid == c.objid
    | _ => true

/-- The lowest free region number (R313). -/
def State.freeRegion (s : State) (tenant : Nat) : Option Nat :=
  ((List.range 65535).map (· + 1)).find? fun n => (s.sparse? (skey tenant n)).isNone

/-- The descriptor area as `snew` finds it is acceptable (R313, R282). -/
def descAreaOk (m : Memory) (a : Nat) : Bool :=
  let d := readDesc m 0 a
  1 ≤ d.rank && d.rank ≤ 4 && d.typ ≤ 5 && m.num a 18 == 0 && m.num (a + 20) 4 == 0 && m.num (a + 40) 24 == 0
    && (List.range 4).all (fun i => if i < d.rank then 1 ≤ d.ext.getD i 0 else d.ext.getD i 0 == 1)
    && decide (d.ext.foldl (· * ·) 1 ≤ 2 ^ 63)

/-- `snew` (R313). -/
def State.doSnew (s : State) (t : Tenant) (l : Launch) (c : Cmd) (t0 t1 : Bool) : State :=
  let fail (f : FaultCode) : State := s.finishCmd c.id f.num 0
  let pc := c.cap0
  let dc := c.cap1
  let nodes := c.num 48 4
  if !c.zeros 32 16 || !c.zeros 52 12 || nodes == 0 || 2 ^ 31 < nodes || pc.base % 128 != 0 || dc.base % 64 != 0 then
    fail .illegalField
  else if !s.supTag l t0 pc || !s.supTag l t1 dc then fail .capTag
  else if !supRole l pc true true [0] || !supRole l dc true true [0] then fail .capPerm
  else if pc.len < 128 * nodes || dc.len < 64 then fail .capBounds
  else
    match s.translate none t.num .store dc.base, s.translate none t.num .load dc.base with
    | .ok da, .ok _ =>
      if !descAreaOk s.mem da then fail .illegalField
      else
        match s.walk t.num pc.base with
        | .error _ => fail .rangePerm
        | .ok e =>
          if e.part || e.perm % 4 != 3 || e.space != 0 || e.limit * unit < pc.base + 128 * nodes then fail .rangePerm
          else
            match s.freeRegion t.num with
            | none => fail .indexExhausted
            | some num =>
              let pa := e.phys pc.base
              let s1 := s.outsideWrite none da ((leBytes 4 noNode ++ leBytes 4 0 ++ leBytes 8 0 ++ leBytes 2 num).map some)
              let s2 := s1.outsideWrite none (da + 40) ((leBytes 8 pa ++ leBytes 4 nodes ++ leBytes 4 nodes).map some)
              let s3 : State := { s2 with sparse := s2.sparse ++
                [{ num := skey t.num num, tenant := t.num, desc := da, used := [], retired := [], holders := [],
                   poolLimit := (e.pbase + e.units) * unit }] }
              let s4 := match s3.sparse? (skey t.num num) with
                | some sp => s3.noteHolder l.id sp
                | none => s3
              let cap : Cap := { base := 0, len := 0, space := 4, perm := (pc.perm &&& 0x33) ||| 1, objid := num, zero := 0 }
              s4.modCmd c.id fun _ => { c with phase := .running, count := nodes, outs :=
                [{ scratch := c.capScratch, addr := c.capBase + 32, bytes := (leBytes 16 cap.num).map some,
                   tag := c.capScratch, done := 0, need := 0 }] }
    | .error e, _ => fail e
    | _, .error e => fail e

/-- `sgrow` (R314). -/
def State.doSgrow (s : State) (t : Tenant) (l : Launch) (c : Cmd) (t0 : Bool) : State :=
  let fail (f : FaultCode) : State := s.finishCmd c.id f.num 0
  let rc := c.cap0
  let n := c.num 16 4
  if 2 ^ 31 < n || !c.zeros 20 44 then fail .illegalField
  else if !s.supTag l t0 rc then fail .capTag
  else if rc.space ≠ 4 then fail .capPerm
  else
    match s.sparse? (skey t.num rc.objid) with
    | none => fail .capTag
    | some r =>
      let d := s.rdesc r
      if !supRole l rc false true [4] then fail .capPerm
      else if n ≤ d.nodes then fail .illegalField
      else if r.poolLimit < d.pool + 128 * n || !s.ownsRun t.num d.pool (128 * n) then fail .capBounds
      else
        let free := n - (r.busy.filter (· < d.nodes)).length
        (s.outsideWrite none (r.desc + 48) ((leBytes 4 n ++ leBytes 4 free).map some)).finishCmd c.id 0 (n - d.nodes)

/-! ## Banks -/

/-- Size of a home group's window area in 2 KiB units (R222). -/
def windowUnits (w : Nat) : Nat := 256 * (w + 24) / 2048

/-- A bank holds something live (R221). -/
def State.bankLive (s : State) (k : Core) (bank : Nat) : Bool :=
  match k.banks.getD bank .reg with
  | .cache => false
  | .scr => (k.blockTable.any fun x => x.banks / 2 ^ bank % 2 == 1) || s.spillIn k bank != 0
  | .reg => k.contexts.any fun x =>
      match s.launch? x.launch with
      | none => false
      | some l => overlap x.wbase (windowUnits l.window) (16 * bank) 16

/-- The mode of a code (R369). -/
def bankModeOf (n : Nat) : BankMode :=
  match n with
  | 0 => .reg
  | 1 => .scr
  | _ => .cache

/-- `bankmode` (R221, R369). -/
def State.doBankmode (s : State) (t : Tenant) (c : Cmd) : State :=
  let core := c.num 0 2
  let bank := c.num 2 1
  let mode := c.num 3 1
  if 191 < core || 47 < bank || 2 < mode || !c.zeros 4 60 then s.finishCmd c.id FaultCode.illegalField.num 0
  else
    match s.hostOf t.num core with
    | none => s.finishCmd c.id FaultCode.illegalField.num 0
    | some k =>
      if k.banks.getD bank .reg = bankModeOf mode then s.finishCmd c.id 0 0
      else if s.bankLive k bank then s.finishCmd c.id FaultCode.engineHazard.num 0
      else
        (s.modCore k.num fun x =>
          { x with banks := x.banks.set bank (bankModeOf mode),
                   cache := if x.banks.getD bank .reg = .cache then [] else x.cache }).finishCmd c.id 0 1

/-! ## Regions -/

/-- The latched fields of a region control block (R328). -/
def State.readRegion (s : State) (tenant rcb : Nat) : Region :=
  let n (i k : Nat) : Nat := s.fwNum tenant (rcb + i) k
  { rcb := rkey tenant rcb, parent := if n 0 8 = 0 then 0 else rkey tenant (n 0 8), tenant := tenant, regionid := n 24 4, prio := n 28 1, depth := n 29 1, inherit := n 30 2,
    cores := n 32 2, banks := n 34 2, mehalves := n 36 1, copyshare := n 37 1, timeslice := n 40 4, watchdog := n 44 4,
    handler := n 48 8, hgate := n 56 2, hslice := n 58 1, domain := n 59 1, killed := false, firstRecord := none,
    suspended := false, due := none, dbg := none, ltol := 0xFFFFFFFF, ltolSeen := 0xFFFFFFFF, useCores := 0, useBanks := 0, waitSince := 0,
    effPrio := 0 }

/-- What R328 says of the block's fields that a region does not latch: zero bytes, the log's place and size, and at creation the
firmware's bytes (R329). -/
def State.rcbOk (s : State) (tenant rcb : Nat) : Bool :=
  let n (i k : Nat) : Nat := s.fwNum tenant (rcb + i) k
  n 38 2 == 0 && n 60 4 == 0 && n 64 8 % 64 == 0 && decide (n 72 4 ≤ 2 ^ 24) && n 80 48 == 0 && n 128 128 == 0

/-- Region ids are unique in the partition (R328). -/
def State.freshIds (s : State) (tenant : Nat) : List Region → Bool
  | [] => true
  | r :: rs => !(s.regions.any fun x => x.tenant == tenant && x.regionid == r.regionid)
      && !(rs.any fun x => x.regionid == r.regionid) && s.freshIds tenant rs

/-- Every field of the block is in its row (R328, R329). -/
def Region.fieldsOk (r : Region) : Bool :=
  r.regionid != 0 && r.prio ≤ 31 && r.depth < 8 && r.inherit < 256 && !(r.parent == 0 && r.inherit != 0)
    && (r.depth == 0) == (r.parent == 0)
    && 1 ≤ r.cores && r.cores ≤ 192 && 1 ≤ r.banks && r.banks ≤ 9216 && r.mehalves ≤ 96
    && 1 ≤ r.copyshare && r.copyshare ≤ 128 && 100 ≤ r.timeslice && r.timeslice ≤ 1000000
    && r.hgate ≤ 4095 && r.hslice ≤ 11 && r.domain ≤ 1

/-- The region an address names, below the issuing launch's own (R345's first two rows): a status if it does not. -/
def State.regionArg (s : State) (l : Launch) (rcb : Nat) : Except Nat Region :=
  match s.region? (rkey l.tenant rcb) with
  | none => .error FaultCode.illegalField.num
  | some r =>
    if 2 ^ 48 ≤ rcb then .error FaultCode.illegalField.num
    else if r.rcb = l.rcb ∨ !s.inTree l.rcb r.rcb then .error FaultCode.privilege.num
    else .ok r

/-- `rgkill` (R345); its token lands after those of the launches that it ends (item 6). -/
def State.doRgkill (s : State) (l : Launch) (c : Cmd) : State :=
  if !c.zeros 8 56 then s.finishCmd c.id FaultCode.illegalField.num 0
  else
    match s.regionArg l (c.num 0 8) with
    | .error n => s.finishCmd c.id n 0
    | .ok r =>
      let ls := s.launchesOf r.rcb
      let s1 := (s.killRegion r.rcb FaultCode.watchdog.num).finishCmd c.id 0 ls.length
      s1.modCmd c.id fun x => { x with after := ls.filterMap Launch.parent }

/-- A region's bytes 24–63 are read again at `rgreset`: the fault state is cleared, bytes 80–255 are zeroed (R345). -/
def State.resetRegions (s : State) : List Region → State
  | [] => s
  | r :: rs =>
    let n := s.readRegion r.tenant r.addr
    let s1 := s.modRegion r.rcb fun _ => { n with parent := r.parent, ltol := r.ltol, ltolSeen := r.ltolSeen, dbg := r.dbg }
    (s1.fwWrite r.tenant (r.addr + 80) (List.replicate 176 0)).resetRegions rs

/-- `rgreset` (R345). -/
def State.doRgreset (s : State) (l : Launch) (c : Cmd) : State :=
  if !c.zeros 8 56 then s.finishCmd c.id FaultCode.illegalField.num 0
  else
    match s.regionArg l (c.num 0 8) with
    | .error n => s.finishCmd c.id n 0
    | .ok r =>
      if !(s.launchesOf r.rcb).isEmpty then s.finishCmd c.id FaultCode.engineHazard.num 0
      else
        let rs := s.regions.filter fun x => s.inTree r.rcb x.rcb
        (s.resetRegions rs).finishCmd c.id 0 rs.length

/-- A suspended launch's blocks wait to be placed again (R370). -/
def Launch.resumeBlocks (l : Launch) (clock : Nat) : Launch :=
  { l with suspended := false, blockList := l.blockList.map fun b =>
      match b.status with
      | .unbound => { b with status := .waiting, waitStart := clock, lastCommit := clock }
      | _ => { b with lastCommit := clock } }

/-- `rgresume` goes on with one launch (R370, R358). -/
def State.resumeLaunch (s : State) (l : Launch) : State :=
  let s1 := if l.suspended then (s.modLaunch l.id fun x => x.resumeBlocks s.clock).resumeCmds [l.id] else s
  match l.hold with
  | .boundary => (s1.modLaunch l.id fun x => { x with hold := .none }).advanceRound l.id
  | .pool _ _ => s1.resumeHeld { l with suspended := false }
  | _ => s1

/-- Several launches. -/
def State.resumeLaunches (s : State) : List Launch → State
  | [] => s
  | l :: ls => (s.resumeLaunch l).resumeLaunches ls

/-- A launch that `rgresume` acts on: suspended, or stopped by the launch path, which acts once the commit is complete (R358); none that
has been killed. -/
def Launch.stopped (l : Launch) : Bool :=
  l.dying.isNone && (l.suspended || match l.hold with
    | .boundary => true
    | .pool _ _ => true
    | _ => false)

/-- `rgresume` (R370). -/
def State.doRgresume (s : State) (l : Launch) (c : Cmd) : State :=
  if !c.zeros 8 56 then s.finishCmd c.id FaultCode.illegalField.num 0
  else
    match s.regionArg l (c.num 0 8) with
    | .error n => s.finishCmd c.id n 0
    | .ok r =>
      let ls := (s.launchesOf r.rcb).filter Launch.stopped
      let s1 := s.resumeLaunches ls
      let s2 := { s1 with regions := s1.regions.map fun (x : Region) => if s.inTree r.rcb x.rcb then { x with suspended := false } else x }
      s2.finishCmd c.id 0 ls.length

/-- `rgpri` (R371). -/
def State.doRgpri (s : State) (l : Launch) (c : Cmd) : State :=
  let p := c.num 8 1
  let f := c.num 9 1
  if 31 < p || 1 < f || !c.zeros 10 54 then s.finishCmd c.id FaultCode.illegalField.num 0
  else
    match s.regionArg l (c.num 0 8) with
    | .error n => s.finishCmd c.id n 0
    | .ok r =>
      if s.eff l.rcb 0 Region.prio < p then s.finishCmd c.id FaultCode.privilege.num 0
      else
        let s1 := s.modRegion r.rcb fun x => { x with prio := p, inherit := r.inherit / 2 * 2 + f }
        let depth := s.fwNum r.tenant (r.addr + 29) 1
        let inh := s.fwNum r.tenant (r.addr + 30) 2 / 2 * 2 + f
        (s1.fwWrite r.tenant (r.addr + 28) (leBytes 1 p ++ leBytes 1 depth ++ leBytes 2 inh)).finishCmd c.id 0 1

/-- A budget field of `rgbud` (R372): its bit, place in the block, bytes, place in the RCB, and range. -/
structure BudField where
  bit : Nat
  at' : Nat
  n   : Nat
  rcb : Nat
  lo  : Nat
  hi  : Nat
  deriving DecidableEq, Repr

/-- The fields of R372 with the rows of R328. -/
def budFields : List BudField :=
  [{ bit := 1, at' := 16, n := 2, rcb := 32, lo := 1, hi := 192 }, { bit := 2, at' := 18, n := 2, rcb := 34, lo := 1, hi := 9216 },
   { bit := 3, at' := 20, n := 1, rcb := 36, lo := 0, hi := 96 }, { bit := 4, at' := 21, n := 1, rcb := 37, lo := 1, hi := 128 },
   { bit := 5, at' := 24, n := 4, rcb := 40, lo := 100, hi := 1000000 },
   { bit := 6, at' := 28, n := 4, rcb := 44, lo := 0, hi := 2 ^ 32 - 1 }]

/-- A field of `rgbud` is acceptable: in its row when selected, otherwise 0. -/
def BudField.ok (f : BudField) (c : Cmd) : Bool :=
  let v := c.num f.at' f.n
  if c.num 8 1 / 2 ^ f.bit % 2 = 1 then decide (f.lo ≤ v) && decide (v ≤ f.hi) else v == 0

/-- Put a budget field into a region. -/
def Region.setBud (r : Region) (bit v : Nat) : Region :=
  match bit with
  | 1 => { r with cores := v }
  | 2 => { r with banks := v }
  | 3 => { r with mehalves := v }
  | 4 => { r with copyshare := v }
  | 5 => { r with timeslice := v }
  | _ => { r with watchdog := v }

/-- `rgbud` (R372). -/
def State.doRgbud (s : State) (l : Launch) (c : Cmd) : State :=
  let mask := c.num 8 1
  let inh := c.num 9 1
  if mask % 2 != 0 || 127 < mask || (inh &&& mask) != inh || !c.zeros 10 6 || !c.zeros 22 2 || !c.zeros 32 32
      || !budFields.all (·.ok c) then s.finishCmd c.id FaultCode.illegalField.num 0
  else
    match s.regionArg l (c.num 0 8) with
    | .error n => s.finishCmd c.id n 0
    | .ok r =>
      let sel := budFields.filter fun f => mask / 2 ^ f.bit % 2 == 1
      let put (w : Nat) : Nat := (w - (w &&& mask)) + inh
      let r1 := sel.foldl (fun x f => x.setBud f.bit (c.num f.at' f.n)) { r with inherit := put r.inherit }
      let s1 := s.modRegion r.rcb fun _ => r1
      let s2 := sel.foldl (fun s f => s.fwWrite r.tenant (r.addr + f.rcb) (leBytes f.n (c.num f.at' f.n))) s1
      (s2.fwWrite r.tenant (r.addr + 30) (leBytes 2 (put (s.fwNum r.tenant (r.addr + 30) 2)))).finishCmd c.id 0 sel.length

/-- `wdarm` (R373). -/
def State.doWdarm (s : State) (l : Launch) (c : Cmd) : State :=
  if !c.zeros 8 56 then s.finishCmd c.id FaultCode.illegalField.num 0
  else
    match s.regionArg l (c.num 0 8) with
    | .error n => s.finishCmd c.id n 0
    | .ok r =>
      let ls := s.launchesOf r.rcb
      let n := ls.foldl (fun t (x : Launch) => t + (x.blockList.filter fun b => b.status == .bound).length) 0
      let arm (b : Block) : Block := if b.status = .bound then { b with lastCommit := s.clock } else b
      ({ s with
          launches := s.launches.map fun (x : Launch) =>
            if (ls.any fun y => y.id == x.id) then { x with blockList := x.blockList.map arm } else x } : State).finishCmd
        c.id 0 n

/-! ## Gates and snapshots -/

/-- A gate as `gcfg` leaves it (R377). -/
def Gate.config (g : Gate) (op thresh flags count : Nat) : Gate :=
  let g1 := if op % 2 = 1 then { g with thresh := thresh } else g
  let g2 := if op / 2 % 2 = 1 then
      { g1 with pod := flags % 2 == 1, host := flags / 2 % 2 == 1, remote := flags / 4 % 2 == 1 }
    else g1
  if op / 4 % 2 = 1 then { g2 with count := count } else g2

/-- `gcfg` (R377, R378, R393). -/
def State.doGcfg (s : State) (l : Launch) (c : Cmd) : State :=
  let first := c.num 0 1
  let n := c.num 1 1
  let op := c.num 2 1
  let flags := c.num 8 1
  if 63 < first || n == 0 || 64 < n || l.gates < first + n || 7 < op || 7 < flags || !c.zeros 3 1 || !c.zeros 9 3
      || !c.zeros 16 48 then s.finishCmd c.id FaultCode.illegalField.num 0
  else
    let mine (g : Gate) : Bool :=
      g.tenant == l.tenant && g.slice == l.gateslice && decide (l.gatebase + first ≤ g.index) && decide (g.index < l.gatebase + first + n)
    let setsPod := op / 2 % 2 = 1 ∧ flags % 2 = 1
    if setsPod ∧ (s.pod.isNone = true ∨ 1 < n ∨ (s.gates.any fun g => g.pod && !mine g) = true) then
      s.finishCmd c.id FaultCode.fabric.num 0
    else
      (((s.gates.filter mine).map Gate.key).foldl
        (fun s k => s.changeGate k fun g => g.config op (c.num 4 4) flags (c.num 12 4)) s).finishCmd c.id 0 n

/-- Snapshot units of a slice but its copy engines: its cores, itself and its matrix engines (R379, R416). -/
def slicePart (sl : Nat) : List Nat :=
  (List.range 18).map (18 * sl + ·) ++ [216 + sl] ++ (List.range 4).map (228 + 4 * sl + ·)

/-- The copy engines of a slice, which are one group of engines (R397, R416). -/
def copyUnits (sl : Nat) : List Nat := (List.range 8).map (276 + 8 * sl + ·)

/-- Snapshot units of a slice (R379, R416). -/
def sliceUnits (sl : Nat) : List Nat := slicePart sl ++ copyUnits sl

/-- The copy engines that serve a tenant's partition (R397). -/
def State.partitionCopies (s : State) (t : Tenant) : List Nat :=
  let p := s.layout.slices.getD t.first 0
  ((List.range 12).filter fun g => s.layout.groups.getD g 15 == p).flatMap copyUnits

/-- The Guyline ports' units. -/
def portUnits : List Nat := (List.range 24).map (372 + ·)

/-- `snap` (R379) (log 24). -/
def State.doSnap (s : State) (t : Tenant) (b : Block) (c : Cmd) : State :=
  let scope := c.num 0 1
  if 1 < scope || !c.zeros 1 1 || !c.zeros 4 60 then s.finishCmd c.id FaultCode.illegalField.num 0
  else
    let home := b.coreOf (((b.fibre? c.fibre).map Fibre.group).getD 0) / 18
    let units := if scope = 1 then
        slicePart home ++ (s.partitionCopies t).filter fun u => (copyUnits home).contains u
      else (List.range t.slices).flatMap (fun i => slicePart (t.first + i)) ++ s.partitionCopies t ++ portUnits
    (s.latchUnits units (c.num 2 2) 0).finishCmd c.id 0 units.length

/-! ## Parked fibres -/

/-- The image of a parked fibre's context record (R374). -/
def Fibre.contextBytes (f : Fibre) (w code : Nat) : List Byte :=
  leBytes 4 f.pc ++ leBytes 1 f.chain ++ leBytes 1 (if f.trap.mode then 2 else 0)
    ++ leBytes 2 (f.preds ||| 1#16).toNat ++ leBytes 4 f.trap.epc.toNat ++ leBytes 4 f.trap.ecause.toNat
    ++ leBytes 4 f.trap.einfo0.toNat ++ leBytes 4 f.trap.einfo1.toNat ++ leBytes 1 w ++ leBytes 1 code ++ leBytes 6 0
    ++ leBytes 2 f.tags.toNat ++ leBytes 30 0
    ++ (List.range 64).flatMap fun n => leBytes 4 (if n < w then (f.reg n).toNat else 0)

/-- Registers an image changes. -/
def changedRegs (f : Fibre) (w : Nat) (bs : List Byte) : List Nat :=
  (List.range w).filter fun n => numAt bs (64 + 4 * n) 4 != (f.reg n).toNat

/-- The chains of the packet at an offset, if its line can be read: for the last chain of R376. -/
def State.packetAt (s : State) (l : Launch) (pc : Nat) : List (BitVec 32) :=
  match s.fwPhys l.tenant (l.codebase + pc) with
  | some pa => (List.range 3).map fun i => BitVec.ofNat 32 (s.mem.num (pa + 4 * i) 4)
  | none => []

/-- Number of the last chain of a packet. -/
def lastChain (ws : List (BitVec 32)) : Nat := ((ws.dropLast).filter fun w => !w.getLsbD 31).length

/-- A code offset is a packet address within the code image (R69, R121). -/
def packetOk (l : Launch) (pc : Nat) : Bool := decide (8 ≤ pc % 128) && (pc % 128 - 8) % 12 == 0 && decide (pc < l.codelen)

/-- The tag bits of an image that would not be valid (R376). -/
def badTags (l : Launch) (bs : List Byte) : Bool :=
  (List.range 16).any fun q => numAt bs 32 2 / 2 ^ q % 2 == 1 && !capValid l true (capOf (numAt bs (64 + 16 * q) 16))

/-- The checks of R376 on a resume; a status if one fails (log 73). -/
def State.fretStatus (s : State) (l : Launch) (f : Fibre) (code : Nat) (bs : List Byte) : Option Nat :=
  let pc := numAt bs 0 4
  let chain := numAt bs 4 1
  let ws := s.packetAt l pc
  let new := (changedRegs f l.window bs).filter fun n => !f.journal.any fun x => x.1 == n
  let predNew := if f.jpreds.isNone && numAt bs 6 2 / 2 != f.preds.toNat / 2 then 1 else 0
  firstStatus
    [(numAt bs 5 1 / 2 % 2 != (if f.trap.mode then 1 else 0) || 4 ≤ numAt bs 5 1 || numAt bs 24 1 != l.window
        || numAt bs 25 1 != code || numAt bs 26 6 != 0 || numAt bs 34 30 != 0
        || ((List.range 64).any fun n => l.window ≤ n && numAt bs (64 + 4 * n) 4 != 0)
        || (packetOk l pc && lastChain ws < chain) || (chain != 0 && pc != f.pc), FaultCode.illegalField.num),
     (!packetOk l pc, FaultCode.target.num),
     (badTags l bs, FaultCode.capTag.num),
     (24 < f.journalUsed + new.length + predNew, FaultCode.journalFull.num)]

/-- The fibre as an image makes it (R375): registers with their journal entries, predicates, trap registers, tags, and the
place where it goes on. One that an engine hazard has parked at its `rstop` is there again (R27, R353). -/
def Fibre.applyImage (f : Fibre) (w : Nat) (bs : List Byte) : Fibre :=
  let regs := changedRegs f w bs
  let preds : BitVec 16 := BitVec.ofNat 16 (numAt bs 6 2) ||| 1#16
  let f1 := match f.saveRegs regs with
    | .ok g => g
    | .error _ => f
  let f2 := if preds ≠ (f.preds ||| 1#16) ∧ f1.jpreds.isNone then { f1 with jpreds := some f.preds } else f1
  let t : TrapRegs := { mode := f.trap.mode, epc := BitVec.ofNat 32 (numAt bs 8 4), ecause := BitVec.ofNat 32 (numAt bs 12 4),
                        einfo0 := BitVec.ofNat 32 (numAt bs 16 4), einfo1 := BitVec.ofNat 32 (numAt bs 20 4) }
  { f2 with
    regs := (List.range f.regs.length).map fun n => BitVec.ofNat 32 (numAt bs (64 + 4 * n) 4),
    preds := preds, trap := t, tags := BitVec.ofNat 16 (numAt bs 32 2),
    trapSaved := if t = f.trap then f2.trapSaved else f2.trapSaved.orElse fun _ => some f.trap,
    pc := numAt bs 0 4, chain := numAt bs 4 1, arrival := .resume,
    status := match f.rstopAt with
      | some k => .atRstop k
      | none => .running,
    rstopAt := none,
    ctl := if numAt bs 0 4 = f.pc ∧ numAt bs 4 1 = f.chain then f2.ctl else none }

/-- After a resume or a kill: with no parked fibre left the watchdog starts again and an unbound block may be placed
(R354, R375). -/
def Block.afterFret (b : Block) (clock : Nat) : Block :=
  if b.fibres.any Fibre.isParked then b
  else
    { b with lastCommit := clock,
             status := if b.status = .unbound then .waiting else b.status,
             waitStart := if b.status = .unbound then clock else b.waitStart }

/-- The fibre an `fret` names: its launch, block and fibre (R375, R376). -/
def State.fretTarget (s : State) (rcb : Nat) (c : Cmd) : Option (Launch × Block × Fibre) :=
  match s.launch? (c.num 8 4) with
  | none => none
  | some l =>
    if l.ended || !s.inTree rcb l.rcb then none
    else
      match l.block? (c.num 12 4) with
      | none => none
      | some b => (b.fibre? (c.num 16 4)).map fun f => (l, b, f)

/-- The resume or the kill of a parked fibre (R356, R375). -/
def State.fretResume (s : State) (l : Launch) (b : Block) (f : Fibre) (bs : List Byte) : State :=
  if numAt bs 5 1 % 2 = 1 then
    let s1 := s.modBlock l.id b.index fun x =>
      (x.modFibre f.id fun y => { (y.leave x.step) with ctl := none }).afterFret s.clock
    s1.modLaunch l.id (Launch.countKill b.index f.id)
  else
    s.modBlock l.id b.index fun x => (x.modFibre f.id fun y => y.applyImage l.window bs).afterFret s.clock

/-- `fret` (R374 to R376). -/
def State.doFret (s : State) (l : Launch) (b : Block) (c : Cmd) (t2 : Bool) : State :=
  let fail (f : FaultCode) : State := s.finishCmd c.id f.num 0
  let op := c.num 20 1
  let ic := capOf (c.num 32 16)
  if 1 < op || !c.zeros 21 11 || !c.zeros 48 16 || ic.base % 64 != 0 then fail .illegalField
  else
    if !s.supTag l t2 ic then fail .capTag
    else if !supRole l ic (op == 1) (op == 0) [0, 1] then fail .capPerm
    else if ic.len < 320 then fail .capBounds
    else
      match s.regionArg l (c.num 0 8) with
      | .error n => s.finishCmd c.id n 0
      | .ok r =>
        match s.fretTarget r.rcb c with
        | none => fail .illegalField
        | some (tl, tb, f) =>
          match f.status with
          | .parked code =>
            if op = 0 then
              let outs := outRun ic.space ic.base (f.contextBytes tl.window code) (fun _ => 0) fun _ => 0
              s.modCmd c.id fun _ => { c with phase := .running, outs := outs, count := 1 }
            else
              match s.engAll l b ic.space ic.base 320 with
              | .error e => s.lineFault c e.1 e.2
              | .ok bs =>
                match (if numAt bs 5 1 % 2 = 1 then none else s.fretStatus tl f code bs) with
                | some n => s.finishCmd c.id n 0
                | none => (s.fretResume tl tb f bs).finishCmd c.id 0 1
          | _ => fail .engineHazard

/-! ## Dispatch of a supervisor word -/

/-- A supervisor word takes effect at its dispatch, in dispatch order (R310, R311, R368). -/
def State.dispatchSys (s : State) (l : Launch) (b : Block) (c : Cmd) (t0 t1 t2 : Bool) : State :=
  match s.tenant? l.tenant with
  | none => s.finishCmd c.id FaultCode.rangeMiss.num 0
  | some t =>
    match c.instr with
    | .rsplit .. => s.doRsplit t c
    | .rmerge .. => s.doRmerge t c
    | .rinval .. => s.doRinval t c
    | .rres .. => s.doRres t c
    | .rmove .. => s.doRmove t c
    | .snew .. => s.doSnew t l c t0 t1
    | .sgrow .. => s.doSgrow t l c t0
    | .bankmode .. => s.doBankmode t c
    | .rgkill .. => s.doRgkill l c
    | .rgreset .. => s.doRgreset l c
    | .rgresume .. => s.doRgresume l c
    | .rgpri .. => s.doRgpri l c
    | .rgbud .. => s.doRgbud l c
    | .fret .. => s.doFret l b c t2
    | .snap .. => s.doSnap t b c
    | .wdarm .. => s.doWdarm l c
    | .gcfg .. => s.doGcfg l c
    | _ => s

end Sys2Proof.Machine
end

