-- ==== Sys2Proof/Machine/Launch.lean ====
section
/-! DEFINITION. `launch` at its dispatch: the record, its checks in order, the region it makes live, and the blocks and
fibres of the new launch (19_scheduling.md R324 to R326, R328 to R330; 22 R382; 01 R9, R11; 07 R149; 15 R277; 20 R341). -/

namespace Sys2Proof.Machine

/-! ## New fibres and blocks -/

/-- A fibre at its first packet (R14): its arrival is a control transfer from `origin` (R69); its trap registers read as 0 until
its first trap, `epc` too (R145) (log 63). -/
def Fibre.begin (id group lane : Nat) (regs : List Word) (tags : BitVec 16) (pc origin : Nat) : Fibre :=
  { id := id, group := group, lane := lane, regs := regs, tags := tags, preds := 1, pc := pc, chain := 0,
    arrival := .transfer origin, status := .running, journal := [], jpreds := none, startTags := tags, late := [],
    trap := { mode := false, epc := 0, ecause := 0, einfo0 := 0, einfo1 := 0 }, trapSaved := none, clockh := 0,
    privMem := [], privStart := [], privPoison := [], privNibs := [], loads := [], fadrs := [], tokens := [], spawnPending := false, fresh := [],
    busy := [], endAt := 0, rstopAt := none, ctl := none, startPc := pc, startArrival := .transfer origin, startStatus := .running, seq := 0 }

/-- A home group that is not bound. -/
def Group.begin (index clock : Nat) : Group :=
  { index := index, ready := clock, pad := 0, bound := false, core := 0, context := 0, wbase := 0, gen := 0 }

/-- The four words of a capability. -/
def capWords (n : Nat) : List Word := (List.range 4).map fun i => BitVec.ofNat 32 (n / 2 ^ (32 * i))

/-- The registers of a launched fibre (R9, R149, R277). -/
def startRegs (w scratch constbase database datalen sparse : Nat) : List Word :=
  let c0 : Cap := { base := 0, len := scratch, space := 1, perm := 0x3B, objid := 0, zero := 0 }
  let c1 : Cap := { base := constbase, len := 1024, space := 3, perm := 0x31, objid := 0, zero := 0 }
  let c2 : Cap := { base := database, len := datalen, space := 0, perm := 0x33, objid := 0, zero := 0 }
  let c3 : Cap := { base := 0, len := 0, space := 4, perm := 0x33, objid := sparse, zero := 0 }
  let none4 : List Word := List.replicate 4 0
  let all := capWords c0.num ++ capWords c1.num ++ (if datalen = 0 then none4 else capWords c2.num)
    ++ (if sparse = 0 then none4 else capWords c3.num) ++ List.replicate 48 0
  all.take w

/-- The tags of a launched fibre (R9, R149, R277). -/
def startTags (datalen sparse : Nat) : BitVec 16 :=
  BitVec.ofNat 16 (3 + (if datalen = 0 then 0 else 4) + (if sparse = 0 then 0 else 8))

/-- A block that waits in the distributor, with its launched fibres (R9, R11, R15, R21). -/
def Block.start (index n spawns entry clock : Nat) (regs : List Word) (tags : BitVec 16) (gates : Nat) : Block :=
  { index := index, step := 0,
    fibres := (List.range n).map fun i => Fibre.begin i (i / 64) (i % 64) regs tags entry 0xFFFFFFFF,
    groups := (List.range ((n + 63) / 64)).map fun g => Group.begin g clock,
    bregs := List.replicate 32 0, scratch := [], scratchTags := [], spawnLeft := spawns, contribs := [], gadds := [],
    spawns := [], reqs := [], gateSeen := List.replicate gates [0], ltols := [], named := [], heldScat := [], heldLines := [],
    status := .waiting, waitStart := clock, bindOrder := 0, lastCommit := clock, graceEnd := none, core := 0, cores := 0, area := [],
    bufPoison := [] }

/-! ## The record -/

/-- Fields of a launch record (R324). -/
def Cmd.rCodebase (c : Cmd) : Nat := c.num 0 8
def Cmd.rEntry (c : Cmd) : Nat := c.num 8 4
def Cmd.rTrapvec (c : Cmd) : Nat := c.num 12 4
def Cmd.rBlocks (c : Cmd) : Nat := c.num 16 4
def Cmd.rFibres (c : Cmd) : Nat := c.num 20 4
def Cmd.rSpawns (c : Cmd) : Nat := c.num 24 2
def Cmd.rRegs (c : Cmd) : Nat := c.num 26 1
def Cmd.rGates (c : Cmd) : Nat := c.num 27 1
def Cmd.rScratch (c : Cmd) : Nat := c.num 28 4
def Cmd.rPrivate (c : Cmd) : Nat := c.num 32 4
def Cmd.rGatebase (c : Cmd) : Nat := c.num 36 2
def Cmd.rGateslice (c : Cmd) : Nat := c.num 38 1
def Cmd.rFlags (c : Cmd) : Nat := c.num 39 1
def Cmd.rConstbase (c : Cmd) : Nat := c.num 40 8
def Cmd.rDatabase (c : Cmd) : Nat := c.num 48 8
def Cmd.rDatalen (c : Cmd) : Nat := c.num 56 8
def Cmd.rSpillbase (c : Cmd) : Nat := c.num 64 8
def Cmd.rSpilllen (c : Cmd) : Nat := c.num 72 8
def Cmd.rRcb (c : Cmd) : Nat := c.num 80 8
def Cmd.rSparse (c : Cmd) : Nat := c.num 88 2
def Cmd.rCodelen (c : Cmd) : Nat := c.num 92 4

/-- A code offset is a packet's (R66, R121) (log 28). -/
def isPacket (pc : Nat) : Bool := decide (8 ≤ pc % 128) && (pc % 128 - 8) % 12 == 0

/-- Every field of the record is in its row (R324). -/
def Cmd.recordOk (c : Cmd) : Bool :=
  c.rCodebase % 128 == 0 && decide (c.rCodebase < 2 ^ 48)
    && c.rEntry % 128 == 8 && decide (c.rEntry < c.rCodelen)
    && (c.rTrapvec == 0xFFFFFFFF || (isPacket c.rTrapvec && decide (c.rTrapvec < c.rCodelen)))
    && 1 ≤ c.rBlocks && c.rBlocks ≤ 2 ^ 31 && 1 ≤ c.rFibres && c.rFibres ≤ 65536 && c.rFibres + c.rSpawns ≤ 65536
    && 16 ≤ c.rRegs && c.rRegs ≤ 64 && c.rRegs % 8 == 0 && c.rGates ≤ 64 && c.rScratch ≤ 8388608
    && c.rPrivate % 16 == 0 && c.rPrivate ≤ 65536 && c.rGatebase + c.rGates ≤ 4096 && c.rGatebase ≤ 4095
    && c.rGateslice ≤ 11 && decide (c.rFlags < 8) && c.rConstbase % 128 == 0
    && (c.rDatalen != 0 || c.rDatabase == 0) && decide (c.rDatalen < 2 ^ 40)
    && c.rSpillbase % 65536 == 0 && c.rSpilllen % 65536 == 0 && c.zeros 90 2
    && c.rCodelen != 0 && c.rCodelen % 128 == 0 && c.zeros 96 32

/-! ## Ranges -/

/-- The ranges that cover a run of bytes, if every byte has one (R382 order 6). -/
def State.rangesOver (s : State) (tenant : Nat) : Nat → Nat → Nat → Option (List RangeEntry)
  | 0, _, _ => none
  | fuel + 1, a, n =>
    if n = 0 then some []
    else
      match s.walk tenant a with
      | .error _ => none
      | .ok e =>
        let k := min n (e.limit * unit - a)
        (s.rangesOver tenant fuel (a + k) (n - k)).map (e :: ·)

/-- Ranges of a run, at most one for each descriptor. -/
def State.rangesOf (s : State) (tenant a n : Nat) : Option (List RangeEntry) :=
  s.rangesOver tenant (((s.tenant? tenant).map Tenant.ndir).getD 0 + 1) a n

/-- Orders 6 and 7 of R382 on one run: nothing, or the status. -/
def State.runStatus (s : State) (tenant a n : Nat) (code : Bool) : Option FaultCode :=
  match s.rangesOf tenant a n with
  | none => some .rangeMiss
  | some es =>
    if es.all fun e => if code then e.perm / 4 % 2 == 1 && e.space == 3 else e.perm % 2 == 1 then none
    else some .rangePerm

/-- Orders 6 and 7: a run that does not translate comes before one without permission. -/
def worstOf (xs : List (Option FaultCode)) : Option FaultCode :=
  if xs.contains (some .rangeMiss) then some .rangeMiss else if xs.contains (some .rangePerm) then some .rangePerm else none

/-! ## The region -/

/-- Regions that are not yet live from an address up to the first live one, lowest first (R329); none when a block is not
acceptable. At most eight levels (R328) (log 25). -/
def State.newRegions (s : State) (tenant : Nat) : Nat → Nat → Option (List Region)
  | 0, _ => none
  | fuel + 1, rcb =>
    if 2 ^ 48 ≤ rcb then none
    else match s.region? (rkey tenant rcb) with
    | some _ => some []
    | none =>
      let r := s.readRegion tenant rcb
      if rcb % 256 != 0 || (s.fwPhys tenant rcb).isNone || !r.fieldsOk || !s.rcbOk tenant rcb then none
      else if r.parent = 0 then some [r]
      else (s.newRegions tenant fuel (s.fwNum tenant rcb 8)).map (r :: ·)

/-- Each new region lies one level below its parent, and a root at level 0, so that no tree has more than eight levels (R19, R328)
(log 25). -/
def State.levelsOk (s : State) : List Region → Bool
  | [] => true
  | r :: rs =>
    let above := match rs with
      | p :: _ => some p
      | [] => s.region? r.parent
    (match above with
      | some p => r.depth == p.depth + 1
      | none => r.depth == 0) && s.levelsOk rs

/-- A region is reached by following child and sibling links (R382 order 4): `todo` holds the blocks still to look at. As
many steps as installed memory holds control blocks (log 26). -/
def State.linked (s : State) (tenant target : Nat) : Nat → List Nat → List Nat → Bool
  | 0, _, _ => false
  | _ + 1, [], _ => false
  | fuel + 1, a :: todo, seen =>
    if a = 0 ∨ seen.contains a = true then s.linked tenant target fuel todo seen
    else
      a == target
        || s.linked tenant target fuel (s.fwNum tenant (a + 8) 8 :: s.fwNum tenant (a + 16) 8 :: todo) (a :: seen)

/-- The record's region is the issuing one or below it (R382 order 4). -/
def State.regionBelow (s : State) (l : Launch) (rcb : Nat) : Bool :=
  let own := l.rcb % 2 ^ 48
  rcb == own || s.linked l.tenant rcb (memEnd / 256) [s.fwNum l.tenant (own + 8) 8] [own]

/-- The code by which a killed region refuses launches (R345). -/
def Region.killCode (r : Region) : Nat := r.firstRecord.getD FaultCode.watchdog.num

/-! ## The budget of one block -/

/-- Lines of scratch in each core (R223). -/
def linesPerCore (scratch nc : Nat) : Nat := (((scratch + 127) / 128) + nc - 1) / nc

/-- SCR banks in each core: a bank holds 256 lines (R220, R223). -/
def banksPerCore (scratch nc : Nat) : Nat := (linesPerCore scratch nc + 255) / 256

/-- The fewest cores whose banks hold the scratch, one REG bank set aside (R335). -/
def fewestCores (scratch : Nat) : Nat :=
  match [1, 2, 4, 8].find? fun nc => banksPerCore scratch nc ≤ 47 with
  | some nc => nc
  | none => 8

/-- Banks that one block with one home group holds on its cores (R223, R325, R330). -/
def blockBanks (scratch w nc : Nat) : Nat := nc * banksPerCore scratch nc + (256 * (w + 24) + 32767) / 32768

/-- One block fits the effective budget of its region and of every ancestor (R325, R330). -/
def State.budgetFits (s : State) (rcb scratch w : Nat) : Bool :=
  let nc := fewestCores scratch
  (s.ancestors 9 rcb).all fun a =>
    decide (nc ≤ s.eff a 1 Region.cores) && decide (blockBanks scratch w nc ≤ s.eff a 2 Region.banks)

/-- A gate of the store is free (R367, R382). -/
def State.gatesFree (s : State) (tenant slice base n : Nat) : Bool :=
  !s.gates.any fun g => g.tenant == tenant && g.slice == slice && decide (base ≤ g.index) && decide (g.index < base + n)

/-! ## Dispatch -/

/-- The state with some regions live, each killed if the live region above it is (R329, R345) (log 25). -/
def State.addRegions (s : State) (rs : List Region) : State :=
  match rs.getLast? with
  | none => s
  | some top =>
    let dead := match s.region? top.parent with
      | some p => p.killed
      | none => false
    { s with regions := s.regions ++ rs.map fun r => { r with killed := dead } }

/-- The checks 5 to 9 of R382, once the record's regions are live; a status if one fails. -/
def State.launchStatus (s : State) (l : Launch) (c : Cmd) : Option Nat :=
  let t := l.tenant
  match s.region? (rkey t c.rRcb) with
  | none => some FaultCode.illegalField.num
  | some r =>
    if r.killed then some r.killCode
    else
      match worstOf [s.runStatus t c.rCodebase c.rCodelen true, s.runStatus t c.rConstbase 1024 false,
                     s.runStatus t c.rDatabase c.rDatalen false] with
      | some f => some f.num
      | none =>
        let live := c.rSparse == 0 || match s.sparse? (skey t c.rSparse) with
          | some _ => true
          | none => false
        if !live then some FaultCode.capTag.num
        else if !s.gatesFree t c.rGateslice c.rGatebase c.rGates || !s.budgetFits (rkey t c.rRcb) c.rScratch c.rRegs then
          some FaultCode.indexExhausted.num
        else none

/-- The job that a record starts a launch of (R384): one of its tenant's with the record's image. -/
def State.jobOf (s : State) (tenant : Nat) (c : Cmd) : Option PodJob :=
  s.jobs.find? fun j => j.tenant == tenant && j.codebase == c.rCodebase

/-- The registers of a pod job's fibre: the rank, the number of modules, and the capabilities to the neighbours' windows (R384). -/
def PodJob.place (j : PodJob) (regs : List Word) : List Word :=
  let ws : List (Nat × Word) := [(12, BitVec.ofNat 32 j.rank), (13, BitVec.ofNat 32 j.modules)]
    ++ ((capWords j.left).zipIdx.map fun x => (16 + x.2, x.1)) ++ (capWords j.right).zipIdx.map fun x => (20 + x.2, x.1)
  ws.foldl (fun rs w => rs.set w.1 w.2) regs

/-- The tags of those capabilities. -/
def PodJob.tags (j : PodJob) (t : BitVec 16) : BitVec 16 := setBit16 (setBit16 t 4 (j.left != 0)) 5 (j.right != 0)

/-- The new launch of a record (R324, R326): its constant block holds what memory holds now (R29), and in a suspended region it is
suspended too (R344). -/
def Cmd.newLaunch (c : Cmd) (id tenant clock : Nat) (consts : List Byte) (suspended : Bool) (job : Option PodJob) : Launch :=
  let sparse := if job.isSome then 0 else c.rSparse
  let regs0 := startRegs c.rRegs c.rScratch c.rConstbase c.rDatabase c.rDatalen sparse
  let tags0 := startTags c.rDatalen sparse
  let regs := match job with
    | some j => j.place regs0
    | none => regs0
  let tags := match job with
    | some j => j.tags tags0
    | none => tags0
  { id := id, tenant := tenant, rcb := rkey tenant c.rRcb, codebase := c.rCodebase, codelen := c.rCodelen, entry := c.rEntry,
    trapvec := c.rTrapvec, nblocks := c.rBlocks, blockdim := c.rFibres, spawns := c.rSpawns, window := c.rRegs,
    gates := c.rGates, scratchSize := c.rScratch, privSize := c.rPrivate, gatebase := c.rGatebase,
    gateslice := c.rGateslice, det := c.rFlags % 2 == 1, sup := c.rFlags / 2 % 2 == 1, check := c.rFlags / 4 % 2 == 1,
    constbase := c.rConstbase, database := c.rDatabase, datalen := c.rDatalen, spillbase := c.rSpillbase,
    spilllen := c.rSpilllen, sparse := c.rSparse, round := 0,
    blockList := (List.range c.rBlocks).map fun b => Block.start b c.rFibres c.rSpawns c.rEntry clock regs tags c.rGates,
    roundLog := [], heldLog := [], landing := [], landAt := 0, consts := consts, spillExt := [], woBytes := [], woSecond := [], named := [], stale := [], logPoison := [],
    sparsePoison := [], hold := .none, notes := [], dying := none,
    faults := [], grown := [], suspended := suspended, ended := false, latched := [], leases := [],
    parent := some c.id }

/-- The 1,024 bytes of a constant block (R12, R29). -/
def State.constBlock (s : State) (tenant base : Nat) : List Byte :=
  (List.range 8).flatMap fun i => match s.fwPhys tenant (base + 128 * i) with
    | some pa => s.mem.bytes pa 128
    | none => List.replicate 128 0

/-- An accepted record: the gates are taken (R341), the launch joins its region and its blocks wait (R326); it holds the
sparse region it names (R325). -/
def State.startLaunch (s : State) (l : Launch) (c : Cmd) : State :=
  let id := s.nextLaunch
  let held := (s.region? (rkey l.tenant c.rRcb)).any Region.suspended
  let gates : List Gate := (List.range c.rGates).map fun i =>
    { tenant := l.tenant, slice := c.rGateslice, index := c.rGatebase + i, count := 0, thresh := 1, pod := false, host := false,
      remote := false, launch := id }
  let s1 := { s with launches := s.launches ++ [c.newLaunch id l.tenant s.clock (s.constBlock l.tenant c.rConstbase) held (s.jobOf l.tenant c)],
                     nextLaunch := id + 1, jobs := s.jobs.filter fun j => s.jobOf l.tenant c != some j,
                     gates := s.gates ++ gates }
  let s2 := s1.modCmd c.id fun _ => { c with phase := .staged, child := some id }
  match s2.sparse? (skey l.tenant c.rSparse) with
  | some sp => if c.rSparse = 0 then s2 else s2.noteHolder id sp
  | none => s2

/-- `launch` at its dispatch (R326, R382); a pod job whose window is too small is refused (R384) (log 74). -/
def State.dispatchLaunch (s : State) (l : Launch) (c : Cmd) : State :=
  if !c.recordOk then s.finishCmd c.id FaultCode.illegalField.num 0
  else if c.rFlags / 2 % 2 == 1 && !l.sup then s.finishCmd c.id FaultCode.privilege.num 0
  else
    match s.newRegions l.tenant 9 c.rRcb with
    | none => s.finishCmd c.id FaultCode.illegalField.num 0
    | some rs =>
      if !s.freshIds l.tenant rs || !s.levelsOk rs then s.finishCmd c.id FaultCode.illegalField.num 0
      else if !s.regionBelow l c.rRcb then s.finishCmd c.id FaultCode.privilege.num 0
      else
        let s1 := s.addRegions rs
        match s1.launchStatus l c with
        | some n => s.finishCmd c.id n 0
        | none =>
          if (s.jobOf l.tenant c).isSome && decide (c.rRegs < 24) then s.finishCmd c.id FaultCode.illegalField.num 0
          else s1.startLaunch l c

end Sys2Proof.Machine
end

