-- ==== Sys2Proof/Machine/Commit.lean ====
section
/-! DEFINITION. The step commit with the dispatch of the step's commands (02_step_machine.md R21 to R24, R34 to R36; 03
R52, R53, R61; 06 R132, R135; 13 R237, R239, R240, R250; 21 R353; 23 R385), and the landing of tokens and of loads
(13 R238; 14 R260; 10 R201). -/

namespace Sys2Proof.Machine

/-! ## When a step commits -/

/-- The fibre ended the block's step in this very step. -/
def Fibre.endsNow (f : Fibre) (step : Nat) : Bool :=
  match f.status with
  | .atStop => true
  | .atRstop k => k == step
  | .exited k => k == step
  | _ => false

/-- Step k of the block commits (R23): every live fibre has ended it, and not all wait since an earlier step (R27,
R239). -/
def Block.stepReady (b : Block) : Bool :=
  b.status != .terminated && b.fibres.all Fibre.ended && b.fibres.any (·.endsNow b.step)

/-- A block of a launch that runs commits its step. -/
def Launch.stepReady (l : Launch) (b : Block) : Bool := !l.ended && !l.suspended && b.stepReady

/-! ## Engine hazards -/

/-- A store lands in a protected range (R240): scratch ranges are those of the command's block. -/
def State.inHazard (s : State) (l b : Nat) (c : Contrib) : Bool :=
  s.cmds.any fun k => k.launch == l && k.protect.any fun p =>
    match p with
    | .bytes true lo n => c.space == .scratch && k.block == b && overlap c.addr c.size lo n
    | .bytes false lo n => c.space == .global && overlap c.addr c.size lo n
    | .region n => c.space == .sparse n

/-- Fibres whose stores are taken out, in key order. -/
def hazardFibres (bad : List Contrib) : List Nat := bad.foldl (fun m c => insertNat c.key.fibre m) []

/-- The first faulting store of a fibre, in issue order. -/
def firstStore (bad : List Contrib) (fibre : Nat) : Option Contrib :=
  (bad.filter fun c => c.key.fibre == fibre).foldl (fun (m : Option Contrib) c => match m with
    | none => some c
    | some d => if c.key.seq < d.key.seq then some c else some d) none

/-- A `fadr` whose contribution is taken out stops being pending and keeps its destination's value (R353). -/
def Fibre.dropFadrs (bad : List Contrib) (f : Fibre) : Fibre :=
  { f with fadrs := f.fadrs.filter fun p => !bad.any fun c => c.key.fibre == f.id && c.key.seq == p.seq && c.dest.isSome }

/-- Park a faulting fibre at the packet that follows its `stop` or `rstop` (R353); after an `rstop` it is there again once it is
resumed, as its round has not committed (R27). -/
def Fibre.hazardPark (f : Fibre) : Fibre :=
  if f.hasExited then f
  else
    { f with status := .parked FaultCode.engineHazard.num,
             rstopAt := match f.status with
               | .atRstop k => some k
               | _ => none }

/-- One record of R353: the fibres named, of one home group, parked or exited (log 39). -/
def State.hazardRecord (s : State) (l : Launch) (b : Block) (step : Nat) (bad : List Contrib) (group : Nat)
    (exited : Bool) (fs : List Fibre) : State :=
  match fs with
  | [] => s
  | f :: _ =>
    let c := (firstStore bad f.id).getD default
    let ids := fs.map Fibre.id
    let sibs := b.fibres.filter fun x => x.group == group && x.live && !ids.contains x.id
    let s1 := s.modLaunch l.id
      (Launch.noteFault FaultCode.engineHazard.num (if exited then [] else ids.map fun i => (b.index, i)) false)
    s1.report { code := FaultCode.engineHazard.num, cls := 1, cohort := group, block := b.index, rcb := l.rcb,
                frag := laneMask fs, sib := laneMask sibs, launch := l.id, pc := if exited then 0xFFFFFFFF else f.pc,
                step := step, round := l.round, info0 := c.addr % 2 ^ 32, info1 := c.addr / 2 ^ 32 % 2 ^ 16 }

/-- The records of an engine hazard, group by group (R353). -/
def State.hazardRecords (s : State) (l : Launch) (b : Block) (step : Nat) (bad : List Contrib) : List Nat → State
  | [] => s
  | g :: gs =>
    let fs := ((hazardFibres bad).filterMap b.fibre?).filter fun f => f.group == g
    let s1 := s.hazardRecord l b step bad g false (fs.filter Fibre.isParked)
    let s2 := s1.hazardRecord l b step bad g true (fs.filter Fibre.hasExited)
    s2.hazardRecords l b step bad gs

/-! ## Scratch and block registers -/

/-- Bytes written one by one. -/
def Memory.putBytes (m : Memory) : List (Nat × Byte) → Memory
  | [] => m
  | p :: ps => Memory.putBytes (m.set p.1 p.2) ps

/-- Room for the free choices of a step commit (R48): scratch first, then the block registers. -/
def stepRoom : Nat := 2 * anySpan

/-- The tags of scratch after contributions have landed (R47). -/
def newTags (det : Bool) (k : Nat) (tags : List Nat) (cs : List Contrib) (bytes : List (Nat × Byte)) : List Nat :=
  let kept := tags.filter fun t => !bytes.any fun p => decide (t ≤ p.1) && decide (p.1 < t + 16)
  (cs.filter fun c => c.tag && c.size == 16 && keepsTag det k cs c.base).foldl (fun m c => insertNat c.base m) kept

/-- Block registers after contributions have landed (R205). -/
def newBregs (bregs : List Word) (bytes : List (Nat × Byte)) : List Word :=
  bregs.zipIdx.map fun x => BitVec.ofNat 32 (ofLe ((List.range 4).map fun i =>
    match bytes.find? fun p => p.1 == 4 * x.2 + i with
    | some p => p.2
    | none => BitVec.ofNat 8 (x.1.toNat / 256 ^ i)))

/-- The step's scratch-scope `fadr` results land (R54, R55). -/
def Fibre.landStepFadrs (f : Fibre) (value : Nat → Option Nat) : Fibre :=
  let g := (f.fadrs.filter fun p => !p.round).foldl (fun (g : Fibre) p =>
    match value p.seq with
    | none => g
    | some v =>
      g.putRegs (if p.wide then [(p.reg, BitVec.ofNat 32 v), (p.reg + 1, BitVec.ofNat 32 (v / 2 ^ 32))]
                 else [(p.reg, BitVec.ofNat 32 v)])) f
  { g with fadrs := f.fadrs.filter PendFadr.round }

/-- Item 2 of R23 on the block: engine lines become visible (R239), then the step's contributions land. `sc` and `br` are
the contributions to scratch and to block registers in key order (log 40). -/
def Block.landStep (b : Block) (det : Bool) (free : Nat) (sc br : List Contrib) : Block :=
  let b1 := b.heldLines.foldl Block.landLine b
  let start (a : Nat) : Byte := Memory.get b1.scratch a
  let bytes := combine det free start (startOf start) sc
  let startB (a : Nat) : Byte := BitVec.ofNat 8 ((b1.bregs.getD (a / 4) 0).toNat / 256 ^ (a % 4))
  let value (f : Fibre) (seq : Nat) : Option Nat :=
    (sc.find? fun c => c.dest.isSome && c.key.fibre == f.id && c.key.seq == seq).map (fadrResult start (startOf start) sc)
  { b1 with
    heldLines := [], heldScat := [],
    scratch := Memory.putBytes b1.scratch bytes,
    scratchTags := newTags det free b1.scratchTags sc bytes,
    bregs := newBregs b1.bregs (combine det (free + anySpan) startB (startOf startB) br),
    fibres := b1.fibres.map fun f => f.landStepFadrs (value f) }

/-- Poisoned scratch lines of the block that the step writes wholly are sound again (R360). -/
def State.healStep (s : State) (l b : Nat) (bytes : List Nat) : State :=
  { s with scratchPoison := s.scratchPoison.filter fun p =>
      !(p.1 == l && p.2.1 == b && (List.range 128).all fun i => bytes.contains (128 * p.2.2 + i)) }

/-! ## Write-only stores -/

/-- What the write-only stores of a step have done so far: those met, nibbles written with their values, and second writes. -/
structure WoRun where
  met    : List Contrib
  nibs   : List (Nat × Nat)
  second : List Contrib
  deriving DecidableEq, Repr, Inhabited

/-- Nibble addresses a contribution touches in a byte. -/
def Contrib.nibblesIn (c : Contrib) (a : Nat) : List Nat := [2 * a, 2 * a + 1].filter fun u => c.touches u

/-- One contribution narrowed to a byte, as a second write is recorded. -/
def Contrib.byteOf (c : Contrib) (a : Nat) : Contrib := { c with addr := a, size := 1 }

/-- One write-only contribution, in key order (R61): it is a second write in a byte recorded for the round, and where a contribution
of a lower key of the step meets it; there none of its nibbles is written. -/
def WoRun.add (done : List Nat) (w : WoRun) (c : Contrib) : WoRun :=
  let bytes := (List.range c.size).map (c.base + ·)
  let isOld (a : Nat) : Bool := done.contains a || w.met.any fun x => x.meets a c
  let news := (bytes.filter fun a => !isOld a).flatMap c.nibblesIn
  { met := w.met ++ [c], nibs := w.nibs ++ news.map fun u => (u, c.nibbleAt u),
    second := w.second ++ (bytes.filter isOld).map c.byteOf }

/-- The byte after its write-only nibbles. -/
def WoRun.byte (w : WoRun) (old : Byte) (a : Nat) : Byte :=
  let nib (k d : Nat) : Nat := ((w.nibs.find? fun x => x.1 == 2 * a + k).map Prod.snd).getD d
  BitVec.ofNat 8 (nib 0 (old.toNat % 16) + 16 * nib 1 (old.toNat / 16))

/-- Lines of outside writes land one by one. -/
def State.landOutside (s : State) : List (Nat × List (Option Byte)) → State
  | [] => s
  | (n, m) :: rest => (s.outsideWrite none (128 * n) m).landOutside rest

/-- The write-only stores of a step go to memory (R61, R234). The spec lets their lines go one by one; here all lines of one step land
in its commit, so that no observer sees one of them without the others (DESIGN CHOICE, log 18). -/
def State.landWriteOnly (s : State) (l : Launch) (cs : List Contrib) : State :=
  let w := cs.foldl (WoRun.add l.woBytes) { met := [], nibs := [], second := [] }
  let bytes := dedupNat (w.nibs.map fun x => x.1 / 2)
  let vals := bytes.map fun a => (physOf cs a, w.byte (s.mem.get (physOf cs a)) a)
  let s1 := s.landOutside (linesOf vals)
  s1.modLaunch l.id fun x => { x with woBytes := x.woBytes ++ bytes, woSecond := x.woSecond ++ w.second }

/-! ## Gates -/

/-- The step's total for a gate (R132): added to its count, or delivered to the pod barrier network (R385). -/
def State.addGate (s : State) (l : Launch) (n total : Nat) : State :=
  if total = 0 then s
  else
    match s.gate? (l.gateIndex n) with
    | none => s
    | some g =>
      if g.pod then
        { s with fabricOut := s.fabricOut ++ [FabricMsg.pod total],
                 pod := s.pod.map fun p => { p with count := min (p.count + total) 0xFFFFFFFF } }
      else s.arrive .device g.key total

/-- The totals of a step. -/
def State.addGates (s : State) (l : Launch) (gs : List (Nat × Nat × Nat × Nat)) : List Nat → State
  | [] => s
  | n :: ns =>
    (s.addGate l n ((gs.filter fun g => g.1 == n).foldl (fun t g => t + g.2.1) 0)).addGates l gs ns

/-! ## Spawn -/

/-- Insert a request by spawner and issue order (R34). -/
def insertSpawn (r : SpawnReq) : List SpawnReq → List SpawnReq
  | [] => [r]
  | x :: xs => if lexLt [r.fibre, r.seq] [x.fibre, x.seq] then r :: x :: xs else x :: insertSpawn r xs

/-- Requests in the order they are granted. -/
def sortSpawns : List SpawnReq → List SpawnReq
  | [] => []
  | r :: rs => insertSpawn r (sortSpawns rs)

/-- The fibre of a granted request (R35). -/
def SpawnReq.fibreOf (r : SpawnReq) (id group lane w : Nat) : Fibre :=
  Fibre.begin id group lane ((r.regs ++ List.replicate 56 0).take w)
    (BitVec.ofNat 16 ((if r.tag0 then 1 else 0) + (if r.tag1 then 2 else 0))) r.target r.origin

/-- Two requests come from one execution of `spawn`: one home group, one cycle (R34). -/
def SpawnReq.same (r x : SpawnReq) : Bool := r.group == x.group && r.exec == x.exec

/-- Granted requests become fibres (R34): `seen` holds a request of each execution met so far with the size of its group; groups
are numbered in the order of their first grant. -/
def grantAll (w base : Nat) : List SpawnReq → Nat → List (SpawnReq × Nat) → List Fibre
  | [], _, _ => []
  | r :: rs, id, seen =>
    match seen.findIdx? fun x => r.same x.1 with
    | some i =>
      let lane := ((seen[i]?).map Prod.snd).getD 0
      r.fibreOf id (base + i) lane w
        :: grantAll w base rs (id + 1) (seen.map fun x => if r.same x.1 then (x.1, x.2 + 1) else x)
    | none => r.fibreOf id (base + seen.length) 0 w :: grantAll w base rs (id + 1) (seen ++ [(r, 1)])

/-- A spawner's `q15` receives its outcome (R36): that of its last request of the step (log 17). -/
def Fibre.spawnOutcome (f : Fibre) (granted refused : List SpawnReq) : Fibre :=
  if !f.spawnPending then f
  else
    let last (rs : List SpawnReq) : Option Nat := ((rs.filter fun r => r.fibre == f.id).map SpawnReq.seq).getLast?
    let ok := match last granted, last refused with
      | some a, some b => decide (b < a)
      | some _, none => true
      | none, _ => false
    { f with spawnPending := false, preds := setBit16 f.preds 15 ok }

/-- Item 5 of R23: spawned fibres join the block. -/
def Block.grantSpawns (b : Block) (w clock : Nat) : Block :=
  let rs := sortSpawns b.spawns
  let granted := rs.take b.spawnLeft
  let new := grantAll w b.groups.length granted b.fibres.length []
  let groups := dedupNat (new.map Fibre.group)
  { b with
    fibres := (b.fibres.map fun f => f.spawnOutcome granted (rs.drop b.spawnLeft)) ++ new,
    groups := b.groups ++ groups.map fun g => Group.begin g clock,
    spawnLeft := b.spawnLeft - granted.length, spawns := [] }

/-! ## Dispatch -/

/-- Insert a request by its contribution key (R242). -/
def insertReq (r : CmdReq) : List CmdReq → List CmdReq
  | [] => [r]
  | x :: xs => if lexLt [r.fibre, r.seq] [x.fibre, x.seq] then r :: x :: xs else x :: insertReq r xs

/-- Requests in dispatch order (R237). -/
def sortReqs : List CmdReq → List CmdReq
  | [] => []
  | r :: rs => insertReq r (sortReqs rs)

/-- The command of a request. -/
def CmdReq.cmd (q : CmdReq) (l b clock : Nat) (discard : Bool) : Cmd :=
  let c := capOf q.cap
  { id := q.id, instr := q.instr, launch := l, block := b, fibre := q.fibre, seq := q.seq, dests := q.dests,
    reg := q.reg, gate := q.gate, params := [], capBase := c.base + q.off, capScratch := c.space == 1,
    capLen := c.len, capVal := q.cap, lanes := q.lanes, phase := .running, progress := 0, buf := [], outs := [],
    written := 0, drain := [], frees := [], count := 0, status := 0, protect := [], child := none, port := none,
    since := clock, discard := discard, stop := none, after := [], before := [] }

/-- A command whose parameter block has been read takes effect or starts (R237, R261, R310, R326). -/
def State.dispatchRead (s : State) (l : Launch) (b : Block) (c : Cmd) : State :=
  let tag (i : Nat) : Bool := c.capScratch && b.scratchTags.contains (c.capBase + 16 * i)
  match c.instr with
  | .cpt .. => s.dispatchCpt l b c (tag 0)
  | .cpd .. => s.dispatchSparse l b c (tag 0) (tag 1) false
  | .cps .. => s.dispatchSparse l b c (tag 0) (tag 1) true
  | .gath .. => s.dispatchGather l b c (tag 0) (tag 1) false
  | .scat .. => s.dispatchGather l b c (tag 0) (tag 1) true
  | .mmb .. => s.dispatchMatrix l b c
  | .mma .. => s.dispatchMatrix l b c
  | .mmd .. => s.dispatchMatrix l b c
  | .mmz .. => s.dispatchMatrix l b c
  | .lease .. => s.dispatchLease l c (tag 0)
  | .unlease .. => s.dispatchUnlease l c (tag 0)
  | .digest .. => s.dispatchDigest l b c (tag 0) (tag 1)
  | .rcp .. => s.dispatchRcp l b c (tag 0) (tag 1)
  | .launch .. => s.dispatchLaunch l c
  | _ => s.dispatchSys l b c (tag 0) (tag 1) (tag 2)

/-- One word of the step is dispatched: its parameter block is read as it stands now (R259) (log 47). -/
def State.dispatchOne (s : State) (l b : Nat) (q : CmdReq) : State :=
  match s.launch? l with
  | none => s
  | some ln =>
    if ln.ended then s
    else
      match ln.block? b with
      | none => s
      | some bl =>
        let c := q.cmd l b s.clock (bl.status == .terminated)
        let s1 : State := { s with cmds := s.cmds ++ [c] }
        match q.instr with
        | .cp _ _ _ _ size => s1.dispatchCp ln bl c (4 * 2 ^ size.toNat)
        | _ =>
          match s1.engAll ln bl (capOf q.cap).space c.capBase (if c.isLaunch then 128 else 64) with
          | .error e => s1.lineFault c e.1 e.2
          | .ok bs =>
            let c1 := { c with params := bs }
            (s1.modCmd c.id fun _ => c1).dispatchRead ln bl c1

/-- The step's words in contribution-key order (R23 item 6). -/
def State.dispatchAll (s : State) (l b : Nat) : List CmdReq → State
  | [] => s
  | q :: qs => (s.dispatchOne l b q).dispatchAll l b qs

/-! ## The commit -/

/-- Poisoned lines of private memory that the step's stores leave in error: those it has not written wholly (R360). -/
def Fibre.privBad (f : Fibre) : List Nat :=
  f.privPoison.filter fun n => !(List.range 256).all fun i => f.privNibs.contains (256 * n + i)

/-- A fibre at the start of the block's next step (R23 item 7). -/
def Fibre.nextStep (f : Fibre) : Fibre :=
  let g := match f.status with
    | .atStop => { f with status := .running, privPoison := f.privBad }
    | .exited _ => { f with tokens := [], fadrs := [], loads := [], spawnPending := false, privPoison := [] }
    | _ => { f with privPoison := f.privBad }
  { g with journal := [], jpreds := none, startTags := g.tags, late := [], trapSaved := none, privStart := g.privMem, privNibs := [],
           fresh := [], startPc := g.pc, startArrival := g.arrival, startStatus := g.status }

/-- The cycle in which the last fibre to end the step ended it (R24, R322). -/
def Block.endedAt (b : Block) : Nat :=
  b.fibres.foldl (fun m f => if f.endsNow b.step then max m f.endAt else m) 0

/-- The commit latency of a block's placement (R24). -/
def commitLatency (cores : Nat) : Nat := if cores ≤ 1 then 6 else if cores ≤ 4 then 48 else 90

/-- Item 7 of R23 on the block, whose step commits in cycle `clock` (R24, R322). -/
def Block.nextStep (b : Block) (clock : Nat) (counts : List Nat) : Block :=
  { b with step := b.step + 1, fibres := b.fibres.map Fibre.nextStep, gateSeen := counts.map fun n => [n], lastCommit := clock,
           contribs := [], gadds := [], ltols := [], reqs := [], named := [], bufPoison := [],
           groups := b.groups.map fun g => { g with ready := max g.ready (clock + commitLatency b.cores) } }

/-- Contributions of the step buffer that go to the round log (R23 item 3): those that are neither step scope nor
write-only. -/
def Contrib.toRound (c : Contrib) : Bool :=
  match c.space with
  | .global => !c.wo
  | .sparse _ => true
  | _ => false

/-- Every fibre of a home group has exited. -/
def Block.groupDone (b : Block) (g : Nat) : Bool := b.fibres.all fun f => f.group != g || f.hasExited

/-- A block's scratch may be released: it has ended and its last command has completed (R239, R367). -/
def State.blockDone (s : State) (l : Nat) (b : Block) : Bool :=
  b.allExited && !s.cmds.any fun c => c.launch == l && c.block == b.index

/-- Contexts of groups whose last fibre has exited, and the scratch banks and the step-spill area of a block that is done, are free
(R15, R231, R239, R367). -/
def State.releaseDone (s : State) (l b : Nat) : State :=
  match (s.launch? l).bind (·.block? b) with
  | none => s
  | some bl =>
    let gone (x : Context) : Bool := x.launch == l && x.block == b && bl.groupDone x.group
    let done := s.blockDone l bl
    let s1 := s.modBlock l b fun x =>
      { x with groups := x.groups.map fun g => if bl.groupDone g.index then { g with bound := false } else g,
               area := if done then [] else x.area }
    { s1 with
        owners := if done then s1.owners.filter fun o => !bl.area.contains o.1 else s1.owners,
        cores := s1.cores.map fun (c : Core) => { c with
        contexts := c.contexts.filter fun x => !gone x,
        blockTable := if done then c.blockTable.filter fun x => !(x.launch == l && x.block == b) else c.blockTable } }

/-- The step's last write of `ltol` in key order becomes what `movs` returns (R2, R380) (log 55). -/
def State.showLtol (s : State) (rcb : Nat) (ws : List (Nat × Nat × Nat)) : State :=
  let last := ws.foldl (fun (m : Option (Nat × Nat × Nat)) w => match m with
    | none => some w
    | some x => if lexLt [w.1, w.2.1] [x.1, x.2.1] then some x else some w) none
  match last with
  | none => s
  | some w => s.modRegion rcb fun r => { r with ltolSeen := w.2.2 }

/-- The firmware has recorded that a launch's spill range could not be extended (R233). -/
def State.spillLogged (s : State) (l : Nat) : Bool :=
  s.snapLog.any fun x => match x with
    | .spillFull n _ => n == l
    | _ => false

/-- Step-spill entries in error (R360): what they cover lands poisoned, here scratch lines and write-only lines, and at the round commit
what goes to the round log; the launch path's record of the former follows with the round commit. -/
def State.badEntries (s : State) (l : Launch) (b : Block) (sc wo : List Contrib) : State :=
  let mem := b.bufPoison.filterMap fun e => match e with
    | .memory n => some n
    | _ => none
  let spar := b.bufPoison.filterMap fun e => match e with
    | .sparse r n => some (r, n)
    | _ => none
  let scr := (b.bufPoison.filterMap fun e => match e with
    | .scratch n => some n
    | _ => none).filter fun n => (touchedBytes sc).any fun a => a / 128 == n
  let woLines := mem.filter fun n => wo.any fun c => c.phys / 128 == n
  let notes : List LaunchNote := scr.map (fun n => { code := .memUncorrectable, info0 := 128 * n, info1 := 0 })
    ++ woLines.map fun n => { code := .memUncorrectable, info0 := 128 * n % 2 ^ 32, info1 := 128 * n / 2 ^ 32 }
  if b.bufPoison.isEmpty then s
  else
    ((({ s with scratchPoison := scr.map (fun n => (l.id, b.index, n)) ++ s.scratchPoison } : State).poisonLines woLines).modLaunch l.id
      fun x => { x with logPoison := x.logPoison ++ mem, sparsePoison := x.sparsePoison ++ spar }).addNotes l.id notes

/-- Items 2 to 7 of R23; `bad` are the stores an engine hazard takes out. -/
def State.commitStep (s : State) (l : Launch) (b : Block) (bad : List Contrib) : State :=
  let cs := b.contribs.filter fun c => !bad.contains c
  let sc := sortKeys ((cs.filter fun c => c.space == .scratch) ++ b.heldScat)
  let br := sortKeys (cs.filter fun c => c.space == .breg)
  let b1 := { b with fibres := b.fibres.map (Fibre.dropFadrs bad) }
  let b2 := b1.landStep l.det s.free sc br
  let hz := hazardFibres bad
  let b3 := { b2 with fibres := b2.fibres.map fun (f : Fibre) => if hz.contains f.id then f.hazardPark else f }
  let s1 := ({ s with free := s.free + stepRoom } : State).modBlock l.id b.index fun _ => b3.grantSpawns l.window s.clock
  let s2 := s1.healStep l.id b.index (touchedBytes sc)
  let s3 := ((s2.joinRound l.id (cs.filter Contrib.toRound)).modLaunch l.id fun x =>
    { x with named := x.named ++ b.named.map Prod.fst }).showLtol l.rcb b.ltols
  let wo := sortKeys (cs.filter fun c => c.space == .global && c.wo)
  let s4 := (s3.landWriteOnly l wo).badEntries l b sc wo
  let s5 := s4.addGates l b.gadds (dedupNat (b.gadds.map Prod.fst))
  let s6 := s5.dispatchAll l.id b.index (sortReqs b.reqs)
  let s7 := s6.modBlock l.id b.index fun x => x.nextStep s.clock (s6.gateCounts l)
  match s7.launch? l.id with
  | none => s7
  | some ln =>
    match ln.block? b.index with
    | none => s7
    | some bl =>
      (s7.releaseDone l.id b.index).hazardRecords ln bl b.step bad (dedupNat (((hz.filterMap bl.fibre?)).map Fibre.group))

/-- The first step-level collision (R53): scratch ranks before block registers. -/
def Block.stepCollision (b : Block) : Option Collide :=
  let of (sp : CSpace) (more : List Contrib) : Option Collide :=
    firstCollide (collisions (sortKeys ((b.contribs.filter fun c => c.space == sp) ++ more)))
  match of .scratch b.heldScat with
  | some c => some c
  | none => of .breg []

/-- The granules that the firmware adds to spill ranges so that a step's entries, and those of any launch that they displace, find
room; none: the step waits (R233). -/
def State.stepRoomFor (s : State) (ln : Launch) (b : Block) : Option (List (Launch × List Nat)) :=
  let cs := b.contribs.filter fun c => !s.inHazard ln.id b.index c
  s.extension ln (cs.filter Contrib.toRound) (cs.filter fun c => c.space == .global && c.wo)

/-- STEP_COMMIT (R23), once the last fibre has ended the step with its results (R322). A step whose entries find no room waits, and the exhaustion is recorded once (R233). -/
def execStepCommit (l b : Nat) (s : State) : Out :=
  match s.launch? l with
  | none => .next s
  | some ln =>
    match ln.block? b with
    | none => .next s
    | some bl =>
      if !ln.stepReady bl || decide (s.clock < bl.endedAt) then .next s
      else
        match bl.stepCollision with
        | some c =>
          .next ((s.blockPath l b c.lo.key.fibre .collision (c.info false).1 (c.info false).2).releaseDone l b)
        | none =>
          match s.stepRoomFor ln bl with
          | none =>
            if s.spillLogged l then .next s else .next { s with snapLog := s.snapLog ++ [.spillFull l (bl.core / 18)] }
          | some xs => .next (((s.extendAll xs).commitStep ln bl (bl.contribs.filter (s.inHazard l b))).checkSpill l)

/-! ## Tokens and loads -/

/-- Registers that have waited for a landing are there from its cycle on, from which a chain that waits for them counts its stalls
(R75). -/
def Fibre.landAt (f : Fibre) (rs : List Nat) (clock : Nat) : Fibre :=
  { f with busy := (f.busy.filter fun x => !(rs.contains x.1 && decide (x.2 ≤ clock))) ++ rs.map fun n => (n, clock) }

/-- A token lands in the register of one fibre (R238): the step-start value of a register it changes is kept (R29). -/
def Fibre.landToken (f : Fibre) (cmd : Nat) (w : Word) (clock : Nat) : Fibre :=
  match f.tokens.find? fun t => t.cmd == cmd with
  | none => f
  | some t =>
    let known := (f.journal.any fun x => x.1 == t.reg) || f.late.any fun x => x.1 == t.reg
    let g := { f with late := if known then f.late else f.late ++ [(t.reg, f.reg t.reg)],
                      tokens := f.tokens.filter fun x => x.cmd != cmd }
    (g.putReg t.reg w).landAt [t.reg] clock

/-- An access of a tenant to some ranges (first byte, length) that issued in a cycle or before it is still on its way: a store or
contribution in a step buffer, or a load, one that nothing waits for any more included (R300). -/
def State.onItsWay (s : State) (tenant since : Nat) (ranges : List (Nat × Nat)) : Bool :=
  let covers (va n : Nat) : Bool := ranges.any fun d => overlap va n d.1 d.2
  let stray (x : Stray) : Bool :=
    x.tenant == tenant && decide (s.clock < x.due) && decide (x.issued ≤ since) && x.va.any fun va => covers va 1
  !ranges.isEmpty && (s.strays.any stray || s.launches.any fun l => l.tenant == tenant && l.blockList.any fun b =>
    (b.contribs.any fun x => x.space == .global && decide (x.issued ≤ since) && covers x.addr x.size)
      || b.fibres.any fun f => f.loads.any fun p => decide (p.issued ≤ since) && p.va.any fun va => covers va 1)

/-- An access to a command's ranges that was translated before it took effect is still on its way (R300). -/
def State.undrained (s : State) (c : Cmd) : Bool := (s.launch? c.launch).any fun l => s.onItsWay l.tenant c.since c.drain

/-- A command's token can land: everything is done, what its ranges still wait for has gone, and the tokens that land before it have
landed (R238, R300, R345). -/
def State.tokenReady (s : State) (c : Cmd) : Bool :=
  c.phase == .finished && !s.undrained c && !s.cmds.any fun x => c.after.contains x.id

/-- An `sgrow` has grown a pool: launches whose commit is held may retry it (R281, R314). -/
def State.noteGrown (s : State) (c : Cmd) : State :=
  match c.instr, s.launch? c.launch with
  | .sgrow .., some l =>
    if c.status ≠ 0 then s
    else
      let num := skey l.tenant c.cap0.objid
      { s with launches := s.launches.map fun (x : Launch) =>
          if x.heldLog.any fun y => y.space == .sparse num then { x with grown := insertNat num x.grown } else x }
  | _, _ => s

/-- TOKEN_LANDING (R238, R260): the token lands in every fibre that still holds it, unless it is discarded, and the gate
operand's arrival follows; the command is over. -/
def execTokenLanding (cmd : Nat) (s : State) : Out :=
  match s.cmd? cmd with
  | none => .next s
  | some c =>
    if !s.tokenReady c then .next s
    else
      let w := tokenWord c.status c.count
      let s1 := s.modBlock c.launch c.block fun b =>
        if c.discard then b
        else { b with fibres := b.fibres.map fun f => if c.dests.contains f.id then f.landToken cmd w s.clock else f }
      let s2 := match c.gate, s.launch? c.launch with
        | some g, some l => s1.arrive .device (l.gateIndex g) 1
        | _, _ => s1
      let s3 := (if c.frees.isEmpty then s2 else s2.giveGranules c.frees 0xFFF).noteGrown c
      .next (({ s3 with cmds := s3.cmds.filter fun x => x.id != cmd } : State).releaseDone c.launch c.block)

/-- LOAD_DATA_RETURN (R201, R219): a fibre's first load whose time has come lands and its miss register is free. -/
def execLoadDataReturn (l b f : Nat) (s : State) : Out :=
  .next (s.modFibre l b f fun x =>
    match x.loads.find? fun p => decide (p.due ≤ s.clock) with
    | none => x
    | some p => { (x.landLoad p).landAt (p.regs.map Prod.fst) s.clock with loads := x.loads.erase p })

end Sys2Proof.Machine
end

