-- ==== Sys2Proof/Machine/Funcs.lean ====
section
/-! DEFINITION. The correctly rounded functions of R165. Each is evaluated exactly, or as a truncated fixed-point
value with a sticky last bit: an exact result is separated first, every other result is irrational and lies far
further from a rounding boundary than the truncation error. -/

namespace Sys2Proof.Machine

/-- Integer square root by bits: the largest r with r × r ≤ n, among r built from the bits below k on top of `acc`. -/
def sqrtBits : Nat → Nat → Nat → Nat
  | 0, _, acc => acc
  | k + 1, n, acc =>
    let t := acc + 2 ^ k
    sqrtBits k n (if t * t ≤ n then t else acc)

/-- The largest r with r × r × d ≤ n. -/
def rsqrtBits : Nat → Nat → Nat → Nat → Nat
  | 0, _, _, acc => acc
  | k + 1, n, d, acc =>
    let t := acc + 2 ^ k
    rsqrtBits k n d (if t * t * d ≤ n then t else acc)

/-- Round a truncated magnitude whose cut-off part is nonzero exactly when `sticky`. -/
def Fmt.roundSticky (f : Fmt) (neg : Bool) (n : Nat) (e : Int) (sticky : Bool) : Nat :=
  f.roundDy .rne (if neg then -((2 * n + (if sticky then 1 else 0) : Nat) : Int)
    else ((2 * n + (if sticky then 1 else 0) : Nat) : Int)) (e - 1) neg

/-- a ÷ b with the special cases of R165. -/
def Fmt.div (f : Fmt) (a b : Nat) : Nat :=
  match f.read a, f.read b with
  | .nan, _ => f.nan
  | _, .nan => f.nan
  | .inf _, .inf _ => f.nan
  | .zero _, .zero _ => f.nan
  | .inf s, .zero t => f.signed (s != t) f.infBits
  | .inf s, .fin n _ => f.signed (s != decide (n < 0)) f.infBits
  | .fin m _, .zero t => f.signed (decide (m < 0) != t) f.infBits
  | .zero s, .inf t => f.signed (s != t) 0
  | .zero s, .fin n _ => f.signed (s != decide (n < 0)) 0
  | .fin m _, .inf t => f.signed (decide (m < 0) != t) 0
  | .fin m e, .fin n g =>
    let k := 2 * f.fbits + 16
    let num := m.natAbs * 2 ^ k
    f.roundSticky (decide (m < 0) != decide (n < 0)) (num / n.natAbs) (e - g - k) (num % n.natAbs != 0)

/-- √x with the special cases of R165. -/
def Fmt.sqrt (f : Fmt) (a : Nat) : Nat :=
  match f.read a with
  | .nan => f.nan
  | .zero s => f.signed s 0
  | .inf true => f.nan
  | .inf false => f.infBits
  | .fin m e =>
    if m < 0 then f.nan
    else
      let odd := e % 2 != 0
      let m' := (if odd then 2 * m.natAbs else m.natAbs) * 2 ^ (2 * f.fbits + 16)
      let e' := (if odd then e - 1 else e) - (2 * f.fbits + 16)
      let r := sqrtBits (2 * f.fbits + 16) m' 0
      f.roundSticky false r (e' / 2) (r * r != m')

/-- 1/x with the special cases of R165. -/
def Fmt.rcp (f : Fmt) (a : Nat) : Nat :=
  match f.read a with
  | .nan => f.nan
  | .zero s => f.signed s f.infBits
  | .inf s => f.signed s 0
  | .fin m e =>
    let k := 2 * f.fbits + 16
    f.roundSticky (decide (m < 0)) (2 ^ k / m.natAbs) (-e - k) (2 ^ k % m.natAbs != 0)

/-- 1/√x with the special cases of R165. -/
def Fmt.rsq (f : Fmt) (a : Nat) : Nat :=
  match f.read a with
  | .nan => f.nan
  | .zero s => f.signed s f.infBits
  | .inf true => f.nan
  | .inf false => 0
  | .fin m e =>
    if m < 0 then f.nan
    else
      let odd := e % 2 != 0
      let m' := if odd then 2 * m.natAbs else m.natAbs
      let e' := if odd then e - 1 else e
      let k := 2 * f.fbits + 20
      let r := rsqrtBits (k + 1) (2 ^ (2 * k)) m' 0
      f.roundSticky false r (-(e' / 2) - k) (r * r * m' != 2 ^ (2 * k))

/-- Bits after the point of the fixed-point values below. -/
def fpBits : Nat := 248

/-- atan(1/d) in fixed point: terms of the alternating series, from term index `i`, `pw` being 2^fpBits ÷ d^(2i+1). -/
def atanInv : Nat → Nat → Nat → Nat → Int
  | 0, _, _, _ => 0
  | k + 1, d, i, pw =>
    let t : Int := (pw / (2 * i + 1) : Nat)
    (if i % 2 = 0 then t else -t) + atanInv k d (i + 1) (pw / (d * d))

/-- π in fixed point, by 16 atan(1/5) − 4 atan(1/239). -/
def piFix : Nat :=
  (16 * atanInv 72 5 0 (2 ^ fpBits / 5) - 4 * atanInv 24 239 0 (2 ^ fpBits / 239)).toNat

/-- Σ z^(2k+1) ÷ (2k+1), z in fixed point: the series of atanh. -/
def atanhSeries : Nat → Nat → Nat → Nat → Nat
  | 0, _, _, _ => 0
  | k + 1, z2, i, pw => pw / (2 * i + 1) + atanhSeries k z2 (i + 1) (pw * z2 / 2 ^ fpBits)

/-- ln((1 + z)/(1 − z)) for z = n/d below 1/2, in fixed point. -/
def lnRatio (n d : Nat) : Nat :=
  let z := n * 2 ^ fpBits / d
  2 * atanhSeries 110 (z * z / 2 ^ fpBits) 0 z

/-- ln 2 in fixed point. -/
def ln2Fix : Nat := lnRatio 1 3

/-- Σ y^k ÷ k!, y in fixed point. -/
def expSeries : Nat → Nat → Nat → Nat → Nat
  | 0, _, _, term => term
  | k + 1, y, i, term => term + expSeries k y (i + 1) (term * y / 2 ^ fpBits / (i + 1))

/-- 2^x with the special cases of R165. -/
def exp2Bits (a : Nat) : Nat :=
  match f32.read a with
  | .nan => f32.nan
  | .zero _ => 0x3F800000
  | .inf true => 0
  | .inf false => f32.infBits
  | .fin m e =>
    -- exponents beyond ±1,024 over- or underflow whatever the fraction
    if f32.fbits + 40 < (e + Nat.log2 m.natAbs).toNat then (if m < 0 then 0 else f32.infBits)
    else
      let fl := if 0 ≤ e then m * 2 ^ e.toNat else m / 2 ^ (-e).toNat
      if 1024 < fl then f32.infBits
      else if fl < -1024 then 0
      else
        let fr : Nat := if 0 ≤ e then 0 else (m % 2 ^ (-e).toNat).toNat
        if fr = 0 then f32.round .rne false 1 fl
        else
          let y := fr * ln2Fix / 2 ^ (-e).toNat
          f32.roundSticky false (expSeries 70 y 0 (2 ^ fpBits)) (fl - fpBits) true

/-- log2 x with the special cases of R165. -/
def log2Bits (a : Nat) : Nat :=
  match f32.read a with
  | .nan => f32.nan
  | .zero _ => f32.signed true f32.infBits
  | .inf true => f32.nan
  | .inf false => f32.infBits
  | .fin m e =>
    if m < 0 then f32.nan
    else
      let n := m.natAbs
      let k := Nat.log2 n
      let top : Int := e + k
      if n = 2 ^ k then f32.roundDy .rne top 0 false
      else
        -- n ÷ 2^k = (1 + z)/(1 − z) with z = (n − 2^k) ÷ (n + 2^k)
        let l := lnRatio (n - 2 ^ k) (n + 2 ^ k) * 2 ^ fpBits / ln2Fix
        let v : Int := top * 2 ^ fpBits + l
        if v < 0 then f32.roundSticky true (-v - 1).toNat (-(fpBits : Int)) true
        else f32.roundSticky false v.toNat (-(fpBits : Int)) true

/-- Σ (−1)^k y^(2k+1) ÷ (2k+1)!, y in fixed point. -/
def sinSeries : Nat → Nat → Nat → Int → Int
  | 0, _, _, _ => 0
  | k + 1, y2, i, term =>
    term + sinSeries k y2 (i + 1) (-(term * y2 / (2 ^ fpBits : Nat) / (((2 * i + 2) * (2 * i + 3) : Nat) : Int)))

/-- sin(π r) rounded, for r = n ÷ 2^k: reduced by the symmetries of the sine to 0 < r ≤ 1/2. `zneg` is the sign of a
zero result. -/
def sinPiDy (n : Int) (k : Nat) (zneg : Bool) : Nat :=
  let one := 2 ^ k
  let t := (n % (2 * one : Nat)).toNat
  let neg := decide (one < t)
  let u := if one < t then t - one else t
  let h := if one < 2 * u then one - u else u
  if t = 0 || t = one then f32.signed zneg 0
  else if 2 * h = one then f32.signed neg 0x3F800000
  else
    let y := h * piFix / one
    f32.roundSticky neg (sinSeries 50 (y * y / 2 ^ fpBits) 0 y).toNat (-(fpBits : Int)) true

/-- sin(πx) with the special cases of R165. -/
def sinPiBits (a : Nat) : Nat :=
  match f32.read a with
  | .nan => f32.nan
  | .zero s => f32.signed s 0
  | .inf _ => f32.nan
  | .fin m e =>
    if 0 ≤ e then f32.signed (decide (m < 0)) 0
    else sinPiDy m (-e).toNat (decide (m < 0))

/-- cos(πx) = sin(π(1/2 − x)) with the special cases of R165. -/
def cosPiBits (a : Nat) : Nat :=
  match f32.read a with
  | .nan => f32.nan
  | .zero _ => 0x3F800000
  | .inf _ => f32.nan
  | .fin m e =>
    if 0 ≤ e then f32.signed (m * 2 ^ e.toNat % 2 != 0) 0x3F800000
    else
      let k := (-e).toNat
      sinPiDy ((2 ^ k : Nat) - 2 * m) (k + 1) false

end Sys2Proof.Machine
end

