-- ==== Sys2Proof/Machine/Fp.lean ====
section
/-! DEFINITION. Floating point, conversion and fixed point (09_isa_floating_point_conversion.md R176 to R190), over the
formats and functions of Float.lean and Funcs.lean. No operand value faults (R178). -/

namespace Sys2Proof.Machine

/-- A function of patterns as a function of registers. -/
def una (g : Nat → Nat) (a : Word) : Word := BitVec.ofNat 32 (g a.toNat)
def bin (g : Nat → Nat → Nat) (a b : Word) : Word := BitVec.ofNat 32 (g a.toNat b.toNat)
def tri (g : Nat → Nat → Nat → Nat) (a b t : Word) : Word := BitVec.ofNat 32 (g a.toNat b.toNat t.toNat)
def bin64 (g : Nat → Nat → Nat) (a b : DWord) : DWord := BitVec.ofNat 64 (g a.toNat b.toNat)

/-- Element by element on packed halves (R185). -/
def halves2 (g : Nat → Nat → Nat) (a b : Word) : Word :=
  BitVec.ofNat 32 (g (a.toNat % 65536) (b.toNat % 65536) + 65536 * g (a.toNat / 65536) (b.toNat / 65536))
def halves3 (g : Nat → Nat → Nat → Nat) (a b t : Word) : Word :=
  BitVec.ofNat 32 (g (a.toNat % 65536) (b.toNat % 65536) (t.toNat % 65536)
    + 65536 * g (a.toNat / 65536) (b.toNat / 65536) (t.toNat / 65536))

/-- FADD (R179). -/
def execFadd (d a b : BitVec 6) (s : State) : Out :=
  s.setReg (.fadd d a b) d fun e f => bin f32.add (e.srcA f a) (e.srcB f b)
/-- FSUB (R179). -/
def execFsub (d a b : BitVec 6) (s : State) : Out :=
  s.setReg (.fsub d a b) d fun e f => bin f32.sub (e.srcA f a) (e.srcB f b)
/-- FMUL (R179). -/
def execFmul (d a b : BitVec 6) (s : State) : Out :=
  s.setReg (.fmul d a b) d fun e f => bin f32.mul (e.srcA f a) (e.srcB f b)
/-- FFMA (R179). -/
def execFfma (d a b : BitVec 6) (s : State) : Out :=
  s.setReg (.ffma d a b) d fun e f => tri f32.fma (e.srcA f a) (e.srcB f b) (e.srcT f d)
/-- FFMS (R179). -/
def execFfms (d a b : BitVec 6) (s : State) : Out :=
  s.setReg (.ffms d a b) d fun e f => tri f32.fms (e.srcA f a) (e.srcB f b) (e.srcT f d)
/-- FNFMA (R179). -/
def execFnfma (d a b : BitVec 6) (s : State) : Out :=
  s.setReg (.fnfma d a b) d fun e f => tri f32.fnma (e.srcA f a) (e.srcB f b) (e.srcT f d)
/-- FMIN (R181). -/
def execFmin (d a b : BitVec 6) (s : State) : Out :=
  s.setReg (.fmin d a b) d fun e f => bin f32.fmin (e.srcA f a) (e.srcB f b)
/-- FMAX (R181). -/
def execFmax (d a b : BitVec 6) (s : State) : Out :=
  s.setReg (.fmax d a b) d fun e f => bin f32.fmax (e.srcA f a) (e.srcB f b)
/-- FABS (R182). -/
def execFabs (d a : BitVec 6) (s : State) : Out :=
  s.setReg (.fabs d a) d fun e f => una f32.abs (e.srcA f a)
/-- FNEG (R182). -/
def execFneg (d a : BitVec 6) (s : State) : Out :=
  s.setReg (.fneg d a) d fun e f => una f32.negate (e.srcA f a)
/-- FDIV (R165). -/
def execFdiv (d a b : BitVec 6) (s : State) : Out :=
  s.setReg (.fdiv d a b) d fun e f => bin f32.div (e.srcA f a) (e.srcB f b)
/-- FSQRT (R165). -/
def execFsqrt (d a : BitVec 6) (s : State) : Out :=
  s.setReg (.fsqrt d a) d fun e f => una f32.sqrt (e.srcA f a)
/-- FRCP (R165). -/
def execFrcp (d a : BitVec 6) (s : State) : Out :=
  s.setReg (.frcp d a) d fun e f => una f32.rcp (e.srcA f a)
/-- FRSQ (R165). -/
def execFrsq (d a : BitVec 6) (s : State) : Out :=
  s.setReg (.frsq d a) d fun e f => una f32.rsq (e.srcA f a)
/-- FEXP2 (R165). -/
def execFexp2 (d a : BitVec 6) (s : State) : Out :=
  s.setReg (.fexp2 d a) d fun e f => una exp2Bits (e.srcA f a)
/-- FLOG2 (R165). -/
def execFlog2 (d a : BitVec 6) (s : State) : Out :=
  s.setReg (.flog2 d a) d fun e f => una log2Bits (e.srcA f a)
/-- FSINPI (R165). -/
def execFsinpi (d a : BitVec 6) (s : State) : Out :=
  s.setReg (.fsinpi d a) d fun e f => una sinPiBits (e.srcA f a)
/-- FCOSPI (R165). -/
def execFcospi (d a : BitVec 6) (s : State) : Out :=
  s.setReg (.fcospi d a) d fun e f => una cosPiBits (e.srcA f a)
/-- FKEY (R166). -/
def execFkey (d a : BitVec 6) (s : State) : Out :=
  s.setReg (.fkey d a) d fun e f => una f32.key (e.srcA f a)
/-- FKEYINV (R167). -/
def execFkeyinv (d a : BitVec 6) (s : State) : Out :=
  s.setReg (.fkeyinv d a) d fun e f => una f32.keyInv (e.srcA f a)

/-- FCMP (R183). -/
def execFcmp (p a b : BitVec 6) (cond : BitVec 3) (s : State) : Out :=
  s.setSpec (.fcmp p a b cond) p fun e f => fcond (f32.read (e.srcA f a).toNat) (f32.read (e.srcB f b).toNat) cond.toNat
/-- DCMP (R183). -/
def execDcmp (p a b : BitVec 6) (cond : BitVec 3) (s : State) : Out :=
  s.setSpec (.dcmp p a b cond) p fun e f =>
    fcond (f64.read (e.pairA f a).toNat) (f64.read (e.pairB f b).toNat) cond.toNat

/-- DADD (R184). -/
def execDadd (d a b : BitVec 6) (s : State) : Out :=
  s.setPair (.dadd d a b) d fun e f => bin64 f64.add (e.pairA f a) (e.pairB f b)
/-- DSUB (R184). -/
def execDsub (d a b : BitVec 6) (s : State) : Out :=
  s.setPair (.dsub d a b) d fun e f => bin64 f64.sub (e.pairA f a) (e.pairB f b)
/-- DMUL (R184). -/
def execDmul (d a b : BitVec 6) (s : State) : Out :=
  s.setPair (.dmul d a b) d fun e f => bin64 f64.mul (e.pairA f a) (e.pairB f b)
/-- DFMA (R184). -/
def execDfma (d a b : BitVec 6) (s : State) : Out :=
  s.setPair (.dfma d a b) d fun e f =>
    BitVec.ofNat 64 (f64.fma (e.pairA f a).toNat (e.pairB f b).toNat (e.pairT f d).toNat)
/-- DMIN (R184). -/
def execDmin (d a b : BitVec 6) (s : State) : Out :=
  s.setPair (.dmin d a b) d fun e f => bin64 f64.fmin (e.pairA f a) (e.pairB f b)
/-- DMAX (R184). -/
def execDmax (d a b : BitVec 6) (s : State) : Out :=
  s.setPair (.dmax d a b) d fun e f => bin64 f64.fmax (e.pairA f a) (e.pairB f b)
/-- DABS (R184). -/
def execDabs (d a : BitVec 6) (s : State) : Out :=
  s.setPair (.dabs d a) d fun e f => BitVec.ofNat 64 (f64.abs (e.pairA f a).toNat)
/-- DNEG (R184). -/
def execDneg (d a : BitVec 6) (s : State) : Out :=
  s.setPair (.dneg d a) d fun e f => BitVec.ofNat 64 (f64.negate (e.pairA f a).toNat)
/-- DDIV (R165). -/
def execDdiv (d a b : BitVec 6) (s : State) : Out :=
  s.setPair (.ddiv d a b) d fun e f => bin64 f64.div (e.pairA f a) (e.pairB f b)
/-- DSQRT (R165). -/
def execDsqrt (d a : BitVec 6) (s : State) : Out :=
  s.setPair (.dsqrt d a) d fun e f => BitVec.ofNat 64 (f64.sqrt (e.pairA f a).toNat)
/-- DKEY (R166). -/
def execDkey (d a : BitVec 6) (s : State) : Out :=
  s.setPair (.dkey d a) d fun e f => BitVec.ofNat 64 (f64.key (e.pairA f a).toNat)

/-- HADD2 (R185). -/
def execHadd2 (d a b : BitVec 6) (s : State) : Out :=
  s.setReg (.hadd2 d a b) d fun e f => halves2 f16.add (e.srcA f a) (e.srcB f b)
/-- HSUB2 (R185). -/
def execHsub2 (d a b : BitVec 6) (s : State) : Out :=
  s.setReg (.hsub2 d a b) d fun e f => halves2 f16.sub (e.srcA f a) (e.srcB f b)
/-- HMUL2 (R185). -/
def execHmul2 (d a b : BitVec 6) (s : State) : Out :=
  s.setReg (.hmul2 d a b) d fun e f => halves2 f16.mul (e.srcA f a) (e.srcB f b)
/-- HFMA2 (R185). -/
def execHfma2 (d a b : BitVec 6) (s : State) : Out :=
  s.setReg (.hfma2 d a b) d fun e f => halves3 f16.fma (e.srcA f a) (e.srcB f b) (e.srcT f d)
/-- HMIN2 (R185). -/
def execHmin2 (d a b : BitVec 6) (s : State) : Out :=
  s.setReg (.hmin2 d a b) d fun e f => halves2 f16.fmin (e.srcA f a) (e.srcB f b)
/-- HMAX2 (R185). -/
def execHmax2 (d a b : BitVec 6) (s : State) : Out :=
  s.setReg (.hmax2 d a b) d fun e f => halves2 f16.fmax (e.srcA f a) (e.srcB f b)
/-- HKEY2 (R185). -/
def execHkey2 (d a : BitVec 6) (s : State) : Out :=
  s.setReg (.hkey2 d a) d fun e f => halves2 (fun x _ => f16.key x) (e.srcA f a) (e.srcA f a)
/-- BADD2 (R185). -/
def execBadd2 (d a b : BitVec 6) (s : State) : Out :=
  s.setReg (.badd2 d a b) d fun e f => halves2 bf16.add (e.srcA f a) (e.srcB f b)
/-- BSUB2 (R185). -/
def execBsub2 (d a b : BitVec 6) (s : State) : Out :=
  s.setReg (.bsub2 d a b) d fun e f => halves2 bf16.sub (e.srcA f a) (e.srcB f b)
/-- BMUL2 (R185). -/
def execBmul2 (d a b : BitVec 6) (s : State) : Out :=
  s.setReg (.bmul2 d a b) d fun e f => halves2 bf16.mul (e.srcA f a) (e.srcB f b)
/-- BFMA2 (R185). -/
def execBfma2 (d a b : BitVec 6) (s : State) : Out :=
  s.setReg (.bfma2 d a b) d fun e f => halves3 bf16.fma (e.srcA f a) (e.srcB f b) (e.srcT f d)
/-- BMIN2 (R185). -/
def execBmin2 (d a b : BitVec 6) (s : State) : Out :=
  s.setReg (.bmin2 d a b) d fun e f => halves2 bf16.fmin (e.srcA f a) (e.srcB f b)
/-- BMAX2 (R185). -/
def execBmax2 (d a b : BitVec 6) (s : State) : Out :=
  s.setReg (.bmax2 d a b) d fun e f => halves2 bf16.fmax (e.srcA f a) (e.srcB f b)

/-- CVT (R186 to R188): a 64-bit type is an even pair. -/
def execCvt (d a : BitVec 6) (dt sty : BitVec 4) (rm : BitVec 3) (s : State) : Out :=
  let src (e : Env) (f : Fibre) : Nat := if wide sty then (e.pairA f a).toNat else (e.srcA f a).toNat
  let res (e : Env) (f : Fibre) : Nat :=
    cvtBits (.ofCode dt.toNat) (.ofCode sty.toNat) (.ofCode rm.toNat) (src e f)
  if wide dt then s.setPair (.cvt d a dt sty rm) d fun e f => BitVec.ofNat 64 (res e f)
  else s.setReg (.cvt d a dt sty rm) d fun e f => BitVec.ofNat 32 (res e f)
/-- FIX (R190). -/
def execFix (d a : BitVec 6) (rm : BitVec 3) (scale : BitVec 7) (s : State) : Out :=
  s.setPair (.fix d a rm scale) d fun e f =>
    BitVec.ofNat 64 (fixBits (.ofCode rm.toNat) scale.toInt (e.srcA f a).toNat)
/-- UNFIX (R190). -/
def execUnfix (d a : BitVec 6) (rm : BitVec 3) (scale : BitVec 7) (s : State) : Out :=
  s.setReg (.unfix d a rm scale) d fun e f =>
    BitVec.ofNat 32 (unfixBits (.ofCode rm.toNat) scale.toInt (e.pairA f a).toNat)

end Sys2Proof.Machine
end

