-- ==== Sys2Proof/Machine/Fetch.lean ====
section
/-! DEFINITION. Fragments, the fetch of a packet with every check before its first chain issues, and when a context can
issue (02_step_machine.md R16; 04 R66 to R76, R96, R97; 12 R218; 18 R318, R321). -/

namespace Sys2Proof.Machine

/-! ## Fragments -/

/-- A fragment of a home group (R16), with the place where it goes on. -/
structure Frag where
  launch : Nat
  block  : Nat
  group  : Nat
  pc     : Nat
  chain  : Nat
  fibres : List Nat
  deriving DecidableEq, Repr, Inhabited

/-- Place of a fibre: packet, then chain. -/
def Fibre.place (f : Fibre) : Nat × Nat := (f.pc, f.chain)

/-- The lowest place among fibres that run. -/
def lowestPlace (fs : List Fibre) : Option (Nat × Nat) :=
  fs.foldl (fun m f => match m with
    | none => some f.place
    | some p => if f.pc < p.1 ∨ (f.pc = p.1 ∧ f.chain < p.2) then some f.place else some p) none

/-- The fragment of a home group that its context issues: the running fibres at the lowest packet (R16). -/
def Block.fragOf (b : Block) (l group : Nat) : Option Frag :=
  let fs := b.fibres.filter fun f => f.group == group && f.status == .running
  match lowestPlace fs with
  | none => none
  | some p =>
    some { launch := l, block := b.index, group := group, pc := p.1, chain := p.2,
           fibres := (fs.filter fun f => f.place == p).map Fibre.id }

/-! ## The checks of a packet -/

/-- Number of the packet in its line, if the offset is a packet's (R66). -/
def slotOf (pc : Nat) : Option Nat := if isPacket pc then some ((pc % 128 - 8) / 12) else none

/-- The words of a packet that stands at a physical address. -/
def packetWords (m : Memory) (pa : Nat) : List (BitVec 32) :=
  (List.range 3).map fun i => BitVec.ofNat 32 (m.num (pa + 4 * i) 4)

/-- A word is `stop` or `rstop` for the stop mirror (R67). -/
def stopWord (w : BitVec 32) : Bool := bitsOf w.toNat 28 23 == 2 && bitsOf w.toNat 4 0 ≤ 1

/-- The header checks (R67, R68). -/
def headerBad (h : Nat) (slot : Option Nat) (ws : List (BitVec 32)) : Bool :=
  bitsOf h 63 30 != 0 || (bitsOf h 9 0 &&& (1023 - bitsOf h 29 20)) != 0 ||
    match slot with
    | none => false
    | some i => bitsOf h (20 + i) (20 + i) != 1 || (bitsOf h (10 + i) (10 + i) == 1) != ws.any stopWord

/-- A word is a modifier, by its major opcode (R83). -/
def isModWord (w : BitVec 32) : Bool := bitsOf w.toNat 28 23 == 1

/-- What one word's own check finds (R84, R95, R96 item 3): `before` is the modifier that precedes it, if one does, and
`next` the words that follow. A modifier before another one is at fault itself; where a modifier's fields are illegal for the word
that it precedes, the fault names that word and its position, not the modifier's (DESIGN CHOICE, log 64). -/
def wordFault (sup : Bool) (before : Option Mods) (pos : Nat) (w : BitVec 32) (next : List (BitVec 32)) :
    Option FaultCode :=
  let last := pos == 2 && w.getLsbD 31
  match decodeWord w.toNat with
  | .error .illegalOpcode => some .illegalOpcode
  | .error .illegalField => if privWord w.toNat && !sup then some .privilege else some .illegalField
  | .ok d =>
    if privWord w.toNat && !sup then some .privilege
    else
      match d.body with
      | .mods _ => if pos == 2 || (next.head?).any isModWord then some .illegalField else none
      | .instr i => if last || !i.modOk (before.getD Mods.none) then some .illegalField else none

/-- The modifier of a word, if the word is one. -/
def modsOf (w : BitVec 32) : Option Mods :=
  match decodeWord w.toNat with
  | .ok { body := .mods m, .. } => some m
  | _ => none

/-- The instruction of a word, if it holds one. -/
def instrOf (w : BitVec 32) : Option Instr :=
  match decodeWord w.toNat with
  | .ok { body := .instr i, .. } => some i
  | _ => none

/-- The first word that fails its own check: code, word and position. -/
def firstWordFault (sup : Bool) : Option Mods → Nat → List (BitVec 32) → Option (FaultCode × BitVec 32 × Nat)
  | _, _, [] => none
  | before, pos, w :: ws =>
    match wordFault sup before pos w ws with
    | some c => some (c, w, pos)
    | none => firstWordFault sup (modsOf w) (pos + 1) ws

/-- What the words of a packet have used so far: pipes and written registers of the chain, and whether a control word has
been met. -/
structure Used where
  pipes  : List Pipe
  writes : List Nat
  ctl    : Bool

/-- The packet rules of R72 to R74, at the word that completes the conflict. -/
def ruleFault (u : Used) : Nat → List (BitVec 32) → Option (BitVec 32 × Nat)
  | _, [] => none
  | pos, w :: ws =>
    match instrOf w with
    | none => ruleFault u (pos + 1) ws
    | some i =>
      if u.pipes.contains i.pipe || u.writes.any i.writes.contains || (u.ctl && i.isControl) then some (w, pos)
      else
        let v : Used := { pipes := i.pipe :: u.pipes, writes := i.writes ++ u.writes, ctl := u.ctl || i.isControl }
        ruleFault (if w.getLsbD 31 then v else { v with pipes := [], writes := [] }) (pos + 1) ws

/-- A register at or above the window (R14). -/
def windowFault (w : Nat) : Option Mods → Nat → List (BitVec 32) → Option (BitVec 32 × Nat)
  | _, _, [] => none
  | before, pos, x :: xs =>
    match instrOf x with
    | none => windowFault w (modsOf x) (pos + 1) xs
    | some i =>
      if (i.reads (before.getD Mods.none) ++ i.writes).any fun r => w ≤ r && r < 64 then some (x, pos)
      else windowFault w none (pos + 1) xs

/-- The checks 3 to 5 of R96: code, word and position. -/
def packetFault (sup : Bool) (window : Nat) (ws : List (BitVec 32)) : Option (FaultCode × BitVec 32 × Nat) :=
  match firstWordFault sup none 0 ws with
  | some x => some x
  | none =>
    match ruleFault { pipes := [], writes := [], ctl := false } 0 ws with
    | some x => some (.illegalField, x.1, x.2)
    | none => (windowFault window none 0 ws).map fun x => (.regWindow, x.1, x.2)

/-! ## Fetching -/

/-- What a fetch comes to. -/
inductive Fetched where
  /-- nothing could be read: every fibre fails with this trap -/
  | failed (t : Trap)
  /-- the line was read: its header, the packet's slot and words -/
  | line (header : Nat) (slot : Option Nat) (words : List (BitVec 32))
  deriving DecidableEq, Repr, Inhabited

/-- The virtual address of a code offset. -/
def Launch.codeVa (l : Launch) (pc : Nat) : Nat := l.codebase + pc

/-- Read a packet's line (R66, R295 to R298, R360). -/
def State.fetchAt (s : State) (core : Nat) (l : Launch) (pc : Nat) : Fetched :=
  match s.translate (some core) l.tenant .fetch (l.codeVa pc) with
  | .error c => .failed (addrTrap c (l.codeVa pc))
  | .ok pa =>
    if s.poisoned pa then .failed (addrTrap .memUncorrectable (l.codeVa pc))
    else .line (s.mem.num (pa / 128 * 128) 8) (slotOf pc) (packetWords s.mem pa)

/-- The origin a TARGET fault names (R69). R69 lists `tret` and `fret` under no case of `TARGET` and gives their resumption no packet as
origin; where the place that `tret` (an `epc` that software wrote) or `fret` resumes at is no packet address or lies outside the image,
the model raises `TARGET` there with info0 0xFFFFFFFF, as at a launched fibre's start (DESIGN CHOICE, log 27). -/
def Fibre.origin (f : Fibre) : Nat :=
  match f.arrival with
  | .fall o => o
  | .transfer o => o
  | .resume => 0xFFFFFFFF

/-- The fibre came to its packet by a control transfer. -/
def Fibre.transferred (f : Fibre) : Bool :=
  match f.arrival with
  | .transfer _ => true
  | _ => false

/-- The fibre's own TARGET fault. -/
def Fibre.targetFault (f : Fibre) : Nat × FaultCode × Nat × Nat := (f.id, .target, f.origin, 0)

/-- What the checks of R96 say of a fragment's packet: who fails with what, who goes on, and the words; and the position of
a word that R94 does not assign. -/
structure Checked where
  fails : List (Nat × FaultCode × Nat × Nat)
  live  : List Nat
  words : List (BitVec 32)
  bad   : Option (BitVec 32 × Nat)
  deriving DecidableEq, Repr, Inhabited

/-- All of a fragment's fibres fail alike. -/
def allFail (ids : List Nat) (c : FaultCode) (i0 i1 : Nat) : Checked :=
  { fails := ids.map fun id => (id, c, i0, i1), live := [], words := [], bad := none }

/-- The checks of R96 on the fragment's packet (R69: a destination outside the image is never fetched) (log 15). -/
def State.checkPacket (s : State) (core : Nat) (l : Launch) (fs : List Fibre) (pc : Nat) : Checked :=
  let ids := fs.map Fibre.id
  if l.codelen ≤ pc then { fails := fs.map Fibre.targetFault, live := [], words := [], bad := none }
  else
    match s.fetchAt core l pc with
    | .failed t => allFail ids t.code t.info0 t.info1
    | .line h slot ws =>
      if headerBad h slot ws then allFail ids .lineHeader (h % 2 ^ 32) (h / 2 ^ 32)
      else
        match slot with
        | none => { fails := fs.map Fibre.targetFault, live := [], words := [], bad := none }
        | some i =>
          let barred := fs.filter fun f => f.transferred && bitsOf h i i != 1
          let go := (fs.filter fun f => !(f.transferred && bitsOf h i i != 1)).map Fibre.id
          match packetFault l.sup l.window ws with
          | some (.illegalOpcode, w, pos) =>
            { fails := barred.map Fibre.targetFault, live := go, words := ws, bad := some (w, pos) }
          | some (c, w, pos) =>
            { fails := barred.map Fibre.targetFault ++ go.map fun id => (id, c, w.toNat, pos), live := [], words := [],
              bad := none }
          | none => { fails := barred.map Fibre.targetFault, live := go, words := ws, bad := none }

/-! ## Chains -/

/-- The words of a chain with their modifiers and positions. -/
def chainWords (ws : List (BitVec 32)) (chain : Nat) : List (Nat × Mods × Instr) :=
  ws.zipIdx.filterMap fun x =>
    match instrOf x.1 with
    | none => none
    | some i =>
      if chainAt ws x.2 = chain then
        some (x.2, (if x.2 = 0 then Mods.none else ((ws[x.2 - 1]?).bind modsOf).getD Mods.none), i)
      else none

/-- The largest stall count of a chain (R75). -/
def chainStall (ws : List (BitVec 32)) (chain : Nat) : Nat :=
  ws.zipIdx.foldl (fun m x => if chainAt ws x.2 = chain then max m (bitsOf x.1.toNat 30 29) else m) 0

/-- The chain is made only of `nop` words (R71, R75): a modifier is a word of its chain too. -/
def chainNops (ws : List (BitVec 32)) (chain : Nat) : Bool :=
  ws.zipIdx.all fun x => chainAt ws x.2 != chain || instrOf x.1 == some .nop

/-- The element type of the region that a fibre's quad names has 64 bits (R305, R307, R308). -/
def State.wideType (s : State) (l : Launch) (f : Fibre) (cap : BitVec 4) : Bool :=
  match s.sparse? (skey l.tenant (capOf (f.quad cap.toNat)).objid) with
  | some sp => typeSize (s.rdesc sp).typ == 8
  | none => false

/-- The window registers of an access through space 6 (R196, R200). -/
def windowOf (f : Fibre) (m : Mods) (cap : BitVec 4) (x : BitVec 6) (size : BitVec 3) : List Nat :=
  let c := capOf (f.quad cap.toNat)
  if c.space = 6 then
    let idx := ((f.reg x.toNat).toNat + (if m.kind = 1 then m.c.toNat else 0)) % 2 ^ 32
    let n := sizeBytes size.toNat
    (windowRegs (c.base + (if size = 0 then idx / 2 else idx * n)) n).filter (· < 64)
  else []

/-- The registers that an access through space 6 names. Such an access is scoreboarded and ordered after every earlier register write
of its fibre (R200): it waits for them, four-cycle results included, and reads or writes none early (R76). -/
def windowUse (f : Fibre) (m : Mods) : Instr → List Nat
  | .ld _ cap x size _ _ => windowOf f m cap x size
  | .st _ cap x size _ _ => windowOf f m cap x size
  | _ => []

/-- Registers a word reads or writes beyond its operands: the second register of a 64-bit `tld` or `tst` (R307, R308). -/
def State.extraRegs (s : State) (l : Launch) (f : Fibre) : Instr → List Nat
  | .tld d cap _ => if s.wideType l f cap then [d.toNat + 1] else []
  | .tst d cap _ _ _ => if s.wideType l f cap then [d.toNat + 1] else []
  | _ => []

/-- Every register and predicate that a word of a chain reads or writes in a fibre as an operand, its guard first (R76). -/
def State.namedRegs (s : State) (l : Launch) (f : Fibre) (x : Nat × Mods × Instr) : List Nat :=
  (if x.2.1.gq = 0 then [] else [64 + x.2.1.gq.toNat])
    ++ x.2.2.newestReads x.2.1 ++ x.2.2.writesNow ++ s.extraRegs l f x.2.2

/-- A scoreboarded register that the chain names is pending in a fibre of the fragment (R76, R200, R318). -/
def State.chainWaits (s : State) (l : Launch) (fs : List Fibre) (ws : List (BitVec 32)) (chain : Nat) : Bool :=
  (chainWords ws chain).any fun x => fs.any fun f =>
    (s.namedRegs l f x ++ windowUse f x.2.1 x.2.2).any f.waits

/-- The first cycle in which every four-cycle result among some registers can be read (R76). -/
def Fibre.freshAt (f : Fibre) (regs : List Nat) : Nat :=
  f.fresh.foldl (fun m x => if regs.contains x.reg then max m x.ready else m) 0

/-- The first cycle in which every scoreboarded result of fixed latency that the chain names can be read, and every result that its
accesses through space 6 come after (R76, R200, R338). -/
def State.boardAt (s : State) (l : Launch) (fs : List Fibre) (ws : List (BitVec 32)) (chain : Nat) : Nat :=
  (chainWords ws chain).foldl (fun m x => fs.foldl (fun m f =>
    let w := windowUse f x.2.1 x.2.2
    max m (max (f.readableAt (s.namedRegs l f x ++ w ++ boardWrites x.2.2 ++ boardReads x.2.2)) (f.freshAt w))) m) 0

/-- The line that a load of a fibre must fetch for its core; `[]` when it fetches none or faults (R218). -/
def Env.loadLine (e : Env) (f : Fibre) (i : Instr) : List Nat :=
  match i with
  | .ld _ cap x size _ _ =>
    if !e.active f then []
    else
      match e.access f cap x size .load with
      | .error _ => []
      | .ok a =>
        if a.cap.space = 1 ∨ a.cap.space = 2 ∨ a.cap.space = 6 then e.missLine f a.cap.space a.addr 0
        else
          match e.phys f (if a.cap.space = 3 then .constLoad else .load) a.addr with
          | .ok pa => e.missLine f a.cap.space a.addr pa
          | .error _ => []
  | _ => []

/-- Miss registers in use on a core: the distinct lines being fetched for it, those that nothing waits for any more included, until
their data have reached it (R218). -/
def State.missLines (s : State) (core : Nat) : List (List Nat) :=
  let kept := (s.strays.filter fun x => x.core == core && decide (s.clock < x.due)).map Stray.line
  let loads := s.launches.flatMap fun (l : Launch) => l.blockList.flatMap fun b => b.fibres.flatMap fun f =>
    (f.loads.filter fun p => p.core == core).map PendLoad.line
  distinctKeys ((kept ++ loads).filter fun n => !n.isEmpty)

/-- Miss registers of a core (R218). -/
def missRegs : Nat := 1024

/-- A chain finds enough miss registers for the distinct lines that its loads must fetch and that are not on their way to the core
yet (R218). -/
def State.missesFree (s : State) (core : Nat) (l : Launch) (b : Block) (fr : Frag) (ws : List (BitVec 32)) : Bool :=
  let env (x : Nat × Mods × Instr) : Env :=
    { s := s, l := l, b := b,
      is := { launch := l.id, block := b.index, group := fr.group, frag := fr.fibres, live := fr.fibres, pc := fr.pc, words := ws,
              pos := x.1, chain := fr.chain, mods := x.2.1, view := b.fibres, parks := [], cycle := s.clock } }
  let lines := distinctKeys ((chainWords ws fr.chain).flatMap fun x =>
    ((fr.fibres.filterMap b.fibre?).map fun f => (env x).loadLine f x.2.2).filter fun n => !n.isEmpty)
  lines.isEmpty ||
    let used := s.missLines core
    decide (used.length + (lines.filter fun n => !used.contains n).length ≤ missRegs)

/-! ## The checking scoreboard -/

/-- The word acts once for its fragment through an elected fibre, which alone reads its operands (R17, R259). -/
def isOnce (i : Instr) : Bool :=
  match i with
  | .cpt .. | .cpd .. | .cps .. | .gath .. | .scat .. | .mmb .. | .mma .. | .mmd .. | .mmz .. | .lease .. | .unlease ..
  | .digest .. | .rcp .. | .rsplit .. | .rmerge .. | .rinval .. | .rres .. | .rmove .. | .bankmode .. | .rgkill ..
  | .rgreset .. | .rgresume .. | .rgpri .. | .rgbud .. | .fret .. | .snap .. | .wdarm .. | .snew .. | .sgrow .. | .gcfg ..
  | .launch .. => true
  | _ => false

/-- The guard of a word lets a fibre act. -/
def letsAct (m : Mods) (f : Fibre) : Bool := f.pred m.gq.toNat != m.gn

/-- The first register or predicate of a word that a fibre would read or write too early in a cycle (R76): the guard, then, where
it lets the fibre act, the operands in the order of the word's reads and writes (log 65). -/
def State.tooEarly (s : State) (l : Launch) (now : Nat) (fs : List Fibre) (f : Fibre) (x : Nat × Mods × Instr) : Option Nat :=
  let early (n : Nat) : Bool := (f.early now n).isSome
  let gq := 64 + x.2.1.gq.toNat
  if x.2.1.gq ≠ 0 ∧ early gq = true then some gq
  else if !letsAct x.2.1 f then none
  else
    let elected := (fs.find? (letsAct x.2.1)).any fun e => e.id == f.id
    (if isOnce x.2.2 && !elected then x.2.2.writesNow else s.namedRegs l f x).find? early

/-- The fibres that `STALL_SHORT` takes out of a chain before it issues, each with the register (R76): where it takes out the
elected fibre of a word, the next one is looked at. -/
def State.stallFails (s : State) (l : Launch) (now : Nat) (xs : List (Nat × Mods × Instr)) :
    Nat → List Fibre → List (Nat × FaultCode × Nat × Nat)
  | 0, _ => []
  | fuel + 1, fs =>
    let bad := fs.filterMap fun f => (xs.findSome? (s.tooEarly l now fs f)).map fun n => (f.id, FaultCode.stallShort, n, 0)
    if bad.isEmpty then []
    else bad ++ s.stallFails l now xs fuel (fs.filter fun f => !bad.any fun x => x.1 == f.id)

/-- `STALL_SHORT` in the fragment's live fibres, if the launch's checking scoreboard is enabled. -/
def State.stallShort (s : State) (l : Launch) (now : Nat) (fs : List Fibre) (ws : List (BitVec 32)) (chain : Nat) :
    List (Nat × FaultCode × Nat × Nat) :=
  if l.check then s.stallFails l now (chainWords ws chain) (fs.length + 1) fs else []

/-! ## Issuing -/

/-- A code line is held in the core's buffer (R321). -/
def Core.holdsLine (k : Core) (l line : Nat) : Bool := k.code.any fun x => x == (l, line)

/-- A code line can be read at all. -/
def State.lineReadable (s : State) (core : Nat) (l : Launch) (pc : Nat) : Bool :=
  decide (pc < l.codelen) &&
    match s.fetchAt core l pc with
    | .line _ _ _ => true
    | .failed _ => false

/-- The words of a packet that stands every check but those of its fibres' arrival (R96). -/
def State.packet? (s : State) (core : Nat) (l : Launch) (pc : Nat) : Option (List (BitVec 32)) :=
  if l.codelen ≤ pc then none
  else
    match s.fetchAt core l pc with
    | .failed _ => none
    | .line h slot ws =>
      if headerBad h slot ws || slot.isNone || (packetFault l.sup l.window ws).isSome then none else some ws

/-- A home group's fragment waits on the scoreboard or for miss registers (R76, R218, R318). -/
def State.fragWaits (s : State) (core : Nat) (l : Launch) (b : Block) (fr : Frag) : Bool :=
  match s.packet? core l fr.pc with
  | none => false
  | some ws => s.chainWaits l (fr.fibres.filterMap b.fibre?) ws fr.chain || !s.missesFree core l b fr ws

/-- The launch and the block let fibres issue. -/
def canRun (l : Launch) (b : Block) : Bool := !l.ended && !l.suspended && b.status == .bound

/-- A group is bound and its fragment can issue, stall count apart (R16, R318). -/
def State.groupIssues (s : State) (l : Launch) (b : Block) (g : Group) : Option Frag :=
  if !canRun l b || !g.bound then none
  else
    match b.fragOf l.id g.index with
    | none => none
    | some fr =>
      let held := match s.core? g.core with
        | some k => k.holdsLine l.id (fr.pc / 128)
        | none => false
      if (held || !s.lineReadable g.core l fr.pc) && !s.fragWaits g.core l b fr then some fr else none

/-- A slot issues at most one chain in a cycle (R318): the first cycle in which it is free. -/
def Core.slotFree (k : Core) (ctx : Nat) : Nat :=
  match k.slotAt.find? fun z => z.1 == ctx % 4 with
  | some z => z.2 + 1
  | none => 0

/-- The cycle in which a fragment's next chain may issue, and whether it is a `nop` chain, which takes none (R75, R76, R318). The
stall counts of `nop` chains before it count from the earliest cycle in which it could have issued without them (log 66). -/
def State.issueCycle (s : State) (k : Core) (l : Launch) (b : Block) (g : Group) (fr : Frag) : Nat × Bool :=
  match s.packet? k.num l fr.pc with
  | none => (max s.clock g.ready, false)
  | some ws =>
    if chainNops ws fr.chain then (s.clock, true)
    else
      (max (max s.clock (k.slotFree g.context))
        (max g.ready (s.boardAt l (fr.fibres.filterMap b.fibre?) ws fr.chain) + g.pad), false)

/-- A chain that can be issued: core, context, fragment, cycle, and whether it is a `nop` chain. -/
structure Ready where
  core  : Nat
  ctx   : Context
  frag  : Frag
  cycle : Nat
  nops  : Bool
  deriving DecidableEq, Repr, Inhabited

/-- The chain a context can issue (R318). -/
def State.readyOf (s : State) (k : Core) (x : Context) : Option Ready :=
  match s.launch? x.launch with
  | none => none
  | some l =>
    match l.block? x.block with
    | none => none
    | some b =>
      match b.group? x.group with
      | none => none
      | some g => (s.groupIssues l b g).map fun fr =>
          let c := s.issueCycle k l b g fr
          { core := k.num, ctx := x, frag := fr, cycle := c.1, nops := c.2 }

end Sys2Proof.Machine
end

