-- ==== Sys2Proof/Machine/Sched.lean ====
section
/-! DEFINITION. Scheduling: blocking points, step abort, eviction, the region path, placement, bind records, and the events
of the slots and the code buffers (19_scheduling.md R331 to R340; 18 R319 to R321; 20 R344; 21 R361, R362, R364;
16 R295, R303; 24 R398, R399). -/

namespace Sys2Proof.Machine

/-! ## Blocking points (R336) -/

/-- Every live fibre of the block waits at `rstop`. -/
def Block.allAtRstop (b : Block) : Bool :=
  b.fibres.any Fibre.live && b.fibres.all fun f => f.hasExited || match f.status with
    | .atRstop k => decide (k < b.step)
    | _ => false

/-- A fibre is parked and every other live fibre has ended the step or is parked. -/
def Block.parkedOut (b : Block) : Bool := b.fibres.any Fibre.isParked && b.fibres.all fun f => f.isParked || f.ended

/-- The block as a whole is at a blocking point. -/
def Block.blocked (b : Block) : Bool := b.allAtRstop || b.parkedOut || b.status == .terminated

/-- A home group still has a live fibre. -/
def Block.groupLive (b : Block) (g : Nat) : Bool := b.fibres.any fun f => f.group == g && f.live

/-- A home group has a fibre that runs. -/
def Block.groupRuns (b : Block) (g : Nat) : Bool := b.fibres.any fun f => f.group == g && f.status == .running

/-- Every fibre of a home group has ended the step while another group of its block is not bound. -/
def Block.groupEnded (b : Block) (g : Nat) : Bool :=
  (b.fibres.all fun f => f.group != g || f.ended)
    && b.groups.any fun x => x.index != g && !x.bound && b.groupLive x.index

/-! ## Step abort (R361, R362) -/

/-- What an abort does to a fibre that was live at the step's start and not waiting at an earlier `rstop`: it stands again where it
began the step, parked no more. -/
def Fibre.rollBack (step : Nat) (f : Fibre) : Fibre :=
  let quads := f.late.map fun x => x.1 / 4
  { f with
    regs := f.journal.foldl (fun rs x => rs.set x.1 x.2) f.regs,
    preds := f.jpreds.getD f.preds,
    tags := quads.foldl (fun t q => setBit16 t q false) f.startTags,
    trap := { f.trapSaved.getD f.trap with mode := false },
    pc := f.startPc, chain := 0, arrival := f.startArrival, status := .running, journal := [], jpreds := none,
    trapSaved := none, privMem := f.privStart, loads := [], fadrs := f.fadrs.filter fun p => decide (p.step < step),
    tokens := f.tokens.filter fun t => decide (t.step < step), spawnPending := false, fresh := [], busy := [], ctl := none,
    privNibs := [], rstopAt := none }

/-- An abort takes the fibre back: one that waited at an earlier `rstop` or had exited when the step began is not touched; one that a
commit has parked is (R353). -/
def Fibre.goesBack (f : Fibre) : Bool :=
  match f.startStatus with
  | .running => true
  | .parked _ => true
  | _ => false

/-- A fibre is returned to the start of its step. -/
def Fibre.abort (step : Nat) (f : Fibre) : Fibre := if f.goesBack then f.rollBack step else f

/-- A block's step is aborted: the step buffer is dropped and every fibre goes back. Scatter contributions of earlier
commands stay held. -/
def Block.abort (b : Block) : Block :=
  { b with contribs := [], gadds := [], ltols := [], spawns := [], reqs := [], named := [], bufPoison := [], graceEnd := none,
           fibres := b.fibres.map (Fibre.abort b.step) }

/-! ## Bind records (R334) -/

/-- An entry that dispatch waits at. -/
def BindRecord.empty : BindRecord :=
  { valid := false, gen := 0, banks := 0, wbase := 0, wsize := 0, lslot := 0, bslot := 0, context := 0, group := 0, op := 0,
    zero := 0 }

/-- Entry i of the ring. -/
def Core.entry (k : Core) (i : Nat) : BindRecord := k.pitch.getD (i % 256) BindRecord.empty

/-- Records that wait to be applied, from the dispatch position on. -/
def Core.pendingFrom (k : Core) : Nat → Nat → Nat
  | 0, _ => 0
  | n + 1, i => if (k.entry i).valid then 1 + k.pendingFrom n (i + 1) else 0
def Core.pending (k : Core) : Nat := k.pendingFrom 256 k.pitchAt

/-- Replace entry i of the ring; missing entries before it are empty. -/
def Core.putEntry (k : Core) (i : Nat) (r : BindRecord) : Core :=
  let p := k.pitch ++ List.replicate (i % 256 + 1 - k.pitch.length) BindRecord.empty
  { k with pitch := p.set (i % 256) r }

/-- The firmware writes the next record. -/
def Core.push (k : Core) (r : BindRecord) : Core := k.putEntry (k.pitchAt + k.pending) r

/-- Dispatch advances past an entry. -/
def Core.advance (k : Core) : Core :=
  { k.putEntry k.pitchAt { k.entry k.pitchAt with valid := false } with pitchAt := (k.pitchAt + 1) % 256 }

/-- A context's window area in 2 KiB units (R222). -/
def State.areaOf (s : State) (x : Context) : Nat × Nat := (x.wbase, windowUnits (((s.launch? x.launch).map Launch.window).getD 16))

/-- A run of units lies wholly in REG banks (R221, R334). -/
def Core.inReg (k : Core) (base n : Nat) : Bool :=
  decide (base + n ≤ 768) && (List.range n).all fun i => k.banks.getD ((base + i) / 16) .scr == .reg

/-- The group of a bind record, from the core's tables. -/
def Core.named (k : Core) (r : BindRecord) : Option (Nat × Nat × Nat) :=
  match k.launchTable.find? (fun x => x.1 == r.lslot), k.blockTable.find? (fun x => x.entry == r.bslot) with
  | some x, some y => if x.2 = y.launch then some (y.launch, y.block, r.group) else none
  | _, _ => none

/-- Lines of the launch from its entry on, up to 64 (R321) (log 48). -/
def entryLines (l : Launch) : List (Nat × Nat) :=
  (List.range (min 64 (l.codelen / 128 - l.entry / 128))).map fun i => (l.id, l.entry / 128 + i)

/-- The 64 most recently used lines (R321). -/
def Core.loadLines (k : Core) (ls : List (Nat × Nat)) : Core :=
  let all := k.code.filter (fun x => !ls.contains x) ++ ls
  { k with code := all.drop (all.length - 64) }

/-- A region has a bound group on a core. -/
def State.heldBy (s : State) (k : Core) (rcb : Nat) : Bool :=
  k.contexts.any fun x => (s.launch? x.launch).any fun l => l.rcb == rcb

/-- The core notes since when a region holds it (R333): from this cycle, unless it held it already. -/
def Core.holdSince (k : Core) (rcb : Nat) (held : Bool) (clock : Nat) : Core :=
  if held then k else { k with sliceSince := (rcb, clock) :: k.sliceSince.filter fun x => x.1 != rcb }

/-- The cycle since which a region holds a core. -/
def Core.since (k : Core) (rcb : Nat) : Nat := ((k.sliceSince.find? fun x => x.1 == rcb).map Prod.snd).getD 0

/-- A record that binds: nothing when a check fails (R334). At its block's first bind step 0 begins, and `gread` sees the gates from
here on (R40). -/
def State.bindRecord (s : State) (k : Core) (r : BindRecord) : Option State :=
  match k.named r with
  | none => none
  | some (l, b, g) =>
    match s.launch? l with
    | none => none
    | some ln =>
      match (ln.block? b).bind (·.group? g) with
      | none => none
      | some gr =>
        let ok := r.wsize ≠ 7 ∧ r.zero = 0 ∧ r.context < 128 ∧ 16 + 8 * r.wsize = ln.window ∧ gr.bound = false
          ∧ k.contexts.any (fun x => x.num == r.context) = false ∧ k.inReg r.wbase (windowUnits ln.window) = true
        if ok then
          let s1 := s.modCore k.num fun c =>
            let x : Context := { num := r.context, launch := l, block := b, group := g, age := c.nextAge, gen := r.gen,
                                 banks := r.banks, wbase := r.wbase, streak := 0, last := 0 }
            let d := ({ c with contexts := c.contexts ++ [x], nextAge := c.nextAge + 1 } : Core).holdSince
              ln.rcb (s.heldBy c ln.rcb) s.clock
            if r.op = 0 then d.loadLines (entryLines ln) else d
          let bindGroup (y : Group) : Group :=
            { y with bound := true, core := k.num, context := r.context, wbase := r.wbase, gen := r.gen,
                     ready := max y.ready s.clock }
          let fresh (x : Block) : Bool := x.groups.all fun y => y.gen == 0
          some (s1.modBlock l b fun x =>
            { x.modGroup g bindGroup with
              lastCommit := s.clock, gateSeen := if fresh x then (s.gateCounts ln).map fun n => [n] else x.gateSeen })
        else none

/-- A record that unbinds; nothing when its zero bits or its wsize are not as R334 asks. The context is free; with its last group an evicted block leaves its scratch banks (R336,
R363). -/
def State.unbindRecord (s : State) (k : Core) (r : BindRecord) : Option State :=
  match (if r.wsize = 7 ∨ r.zero ≠ 0 then none else k.contexts.find? fun x => x.num == r.context) with
  | none => none
  | some x =>
    let s1 := (s.modCore k.num fun c => { c with contexts := c.contexts.filter fun y => y.num != r.context }).modBlock
      x.launch x.block fun b => b.modGroup x.group fun g => { g with bound := false }
    match (s1.launch? x.launch).bind (·.block? x.block) with
    | none => some s1
    | some b =>
      if b.status != .bound && !b.groups.any Group.bound then
        some { s1 with cores := s1.cores.map fun (c : Core) =>
          { c with blockTable := c.blockTable.filter fun y => !(y.launch == x.launch && y.block == x.block) } }
      else some s1

/-- Dispatch takes the core's next record if its operation is among `ops`: applied, or skipped and logged (R334). -/
def State.dispatchRecord (s : State) (core : Nat) (ops : Nat → Bool) : State :=
  match s.core? core with
  | none => s
  | some k =>
    let r := k.entry k.pitchAt
    if !r.valid || !ops r.op then s
    else
      let done := if r.op = 1 then s.unbindRecord k r else if r.op = 3 then none else s.bindRecord k r
      match done with
      | some s1 => s1.modCore core Core.advance
      | none =>
        { s.modCore core Core.advance with snapLog := s.snapLog ++ [LogEntry.skippedBind core k.pitchAt] }

/-- BIND (R334): records of op 0, and malformed ones, which are skipped. -/
def execBind (core : Nat) (s : State) : Out := .next (s.dispatchRecord core fun op => op == 0 || op == 3)
/-- UNBIND (R334). -/
def execUnbind (core : Nat) (s : State) : Out := .next (s.dispatchRecord core fun op => op == 1)
/-- REBIND (R334). -/
def execRebind (core : Nat) (s : State) : Out := .next (s.dispatchRecord core fun op => op == 2)

/-! ## Eviction -/

/-- The record that unbinds a bound group. -/
def unbindOf (g : Group) : BindRecord := { BindRecord.empty with valid := true, context := g.context, group := g.index, op := 1 }

/-- An unbind record of the group waits in its core's ring. -/
def State.evicting (s : State) (g : Group) : Bool :=
  match s.core? g.core with
  | none => false
  | some k => (List.range k.pending).any fun i =>
      let r := k.entry (k.pitchAt + i)
      r.op == 1 && r.context == g.context

/-- The firmware unbinds one group (R336), once. -/
def State.evictGroup (s : State) (g : Group) : State :=
  if g.bound && !s.evicting g then s.modCore g.core fun k => k.push (unbindOf g) else s

/-- Several groups. -/
def State.evictGroups (s : State) : List Group → State
  | [] => s
  | g :: gs => (s.evictGroup g).evictGroups gs

/-- The firmware unbinds a block (R336): it waits to be placed again at once if a fibre runs, otherwise for its wake
condition. A block that never bound is not touched. -/
def State.evictBlock (s : State) (l b : Nat) : State :=
  match (s.launch? l).bind (·.block? b) with
  | none => s
  | some bl =>
    let s1 := s.modBlock l b fun x =>
      match x.status with
      | .bound =>
        if x.fibres.any fun f => f.status == .running then { x with status := .waiting, waitStart := s.clock, graceEnd := none }
        else { x with status := .unbound, graceEnd := none }
      | _ => x
    s1.evictGroups bl.groups

/-- A block's step is aborted; lines that its dropped loads have asked for are still on their way (R218). -/
def State.abortBlock (s : State) (l : Nat) (b : Block) : State :=
  let tenant := ((s.launch? l).map Launch.tenant).getD 0
  (s.keepStrays ((b.fibres.filter Fibre.goesBack).flatMap (b.straysOf tenant))).modBlock l b.index Block.abort

/-- A block that must leave its core (R333, R344, R365): evicted at a blocking point, otherwise aborted first. -/
def State.stopBlock (s : State) (l : Nat) (b : Block) : State :=
  if b.blocked then s.evictBlock l b.index else (s.abortBlock l b).evictBlock l b.index

/-- Blocks of a launch. -/
def State.stopBlocks (s : State) (l : Nat) : List Block → State
  | [] => s
  | b :: bs => (s.stopBlock l b).stopBlocks l bs

/-! ## The watchdog and the region path (R344) -/

/-- Suspended launches: their blocks are stopped, and none is placed until `rgresume` (R344 item 1). -/
def State.suspendLaunches (s : State) : List Launch → State
  | [] => s
  | l :: ls =>
    if l.suspended then s.suspendLaunches ls
    else
      let s1 := s.stopBlocks l.id l.blockList
      (s1.modLaunch l.id fun x =>
        { x with suspended := true, blockList := x.blockList.map fun b =>
            if b.status = .waiting then { b with status := .unbound } else b }).suspendLaunches ls

/-- Live and not waiting at `rstop`. -/
def Fibre.holdsStep (f : Fibre) : Bool := f.live && !f.isAtRstop

/-- A block holds a core: some group of it is bound. -/
def Block.holdsCore (b : Block) : Bool := b.status == .bound && b.groups.any Group.bound

/-- The cycle of the firmware's last watchdog check: one in every microsecond (R344) (log 67). -/
def State.lastCheck (s : State) : Nat := s.clock / s.cyclesOf 1 * s.cyclesOf 1

/-- A block's watchdog period has run out at the last check (R344, R354). -/
def State.overdue (s : State) (l : Launch) (b : Block) : Bool :=
  let period := s.eff l.rcb 6 Region.watchdog
  !l.ended && !l.suspended && !(s.region? l.rcb).any Region.suspended && period != 0 && b.holdsCore
    && !b.fibres.any Fibre.isParked && b.fibres.any Fibre.holdsStep
    && decide (b.lastCommit + s.cyclesOf period ≤ s.lastCheck)

/-- Another block of the region is overdue too and comes first: the lowest block index, then the lowest launch (R344). -/
def State.overdueBefore (s : State) (l : Launch) (b : Block) : Bool :=
  s.launches.any fun (x : Launch) => x.rcb == l.rcb && x.blockList.any fun y =>
    lexLt [y.index, x.id] [b.index, l.id] && s.overdue x y

/-- Engine commands of some launches that stand at resumable points are held (R344 item 2, R256). -/
def State.holdCmds (s : State) (ids : List Nat) : State :=
  { s with cmds := s.cmds.map fun (c : Cmd) => if ids.contains c.launch && s.quiesces c then { c with phase := .held } else c }

/-- An engine command of a region's work has still to come to its resumable point (R256, R344). -/
def State.cmdsRun (s : State) (rcb : Nat) : Bool :=
  let ids := (s.launchesOf rcb).map Launch.id
  s.cmds.any fun c => ids.contains c.launch && !c.isLaunch && (c.phase == .running || c.phase == .staged)

/-- The record that waits for a region's commands is written as soon as they are held (R344 items 3 and 4). -/
def State.recordDue (s : State) (r : Region) : State :=
  match r.due with
  | none => s
  | some x =>
    if r.suspended && s.cmdsRun r.rcb then s
    else (s.modRegion r.rcb fun y => { y with due := none }).report x

/-- The region path (R344): suspension first, then the commands, then the record with the values as they stood before the abort. Where
a command has still to come to its resumable point, the record waits for it. -/
def State.regionPath (s : State) (l : Launch) (b : Block) : State :=
  let held := b.fibres.filter Fibre.holdsStep
  let group := held.foldl (fun m f => min m f.group) ((held.head?.map Fibre.group).getD 0)
  let mine := held.filter fun f => f.group == group
  let sibs := b.fibres.filter fun f => f.group == group && f.live && !f.holdsStep
  let period := s.eff l.rcb 6 Region.watchdog
  let s1 := s.suspendLaunches (s.launchesOf l.rcb)
  let s2 := { s1 with regions := s1.regions.map fun (r : Region) => if s1.inTree l.rcb r.rcb then { r with suspended := true } else r }
  let s3 := (s2.modLaunch l.id (Launch.noteFault FaultCode.watchdog.num [] false)).holdCmds ((s2.launchesOf l.rcb).map Launch.id)
  let note : FRec :=
    { code := FaultCode.watchdog.num, cls := 4, cohort := group, block := b.index, rcb := l.rcb, frag := laneMask mine,
      sib := laneMask sibs, launch := l.id, pc := ((mine.head?).map Fibre.pc).getD 0, step := b.step, round := l.round,
      info0 := period % 2 ^ 32, info1 := 0 }
  if s3.cmdsRun l.rcb then s3.modRegion l.rcb fun r => { r with due := some note } else s3.report note

/-- WATCHDOG (R344). -/
def execWatchdog (l b : Nat) (s : State) : Out :=
  match s.launch? l with
  | none => .next s
  | some ln =>
    match ln.block? b with
    | none => .next s
    | some bl =>
      if s.overdue ln bl && !s.overdueBefore ln bl then .next (s.regionPath ln bl)
      else .next (((s.region? ln.rcb).map s.recordDue).getD s)

/-! ## What regions hold (R330) -/

/-- Launches of a region and its descendants, by number. -/
def State.treeLaunches (s : State) (rcb : Nat) : List Nat := (s.launchesOf rcb).map Launch.id

/-- Cores held. -/
def State.coresHeld (s : State) (rcb : Nat) : Nat :=
  let ids := s.treeLaunches rcb
  (s.cores.filter fun k => k.contexts.any (fun x => ids.contains x.launch) || k.blockTable.any fun x => ids.contains x.launch).length

/-- Banks held on one core: SCR banks once each, and the REG bytes of the window areas. -/
def State.banksOn (s : State) (ids : List Nat) (k : Core) : Nat :=
  let mask := (k.blockTable.filter fun x => ids.contains x.launch).foldl (fun m x => m ||| x.banks) 0
  let units := (k.contexts.filter fun x => ids.contains x.launch).foldl (fun n x => n + (s.areaOf x).2) 0
  popCount 48 mask + (2048 * units + 32767) / 32768

/-- Banks held. -/
def State.banksHeld (s : State) (rcb : Nat) : Nat :=
  let ids := s.treeLaunches rcb
  s.cores.foldl (fun n k => n + s.banksOn ids k) 0

/-- The holdings of a region and of its ancestors stay within their effective budgets. -/
def State.withinBudgets (s : State) (rcb : Nat) : Bool :=
  (s.ancestors 9 rcb).all fun a =>
    decide (s.coresHeld a ≤ s.eff a 1 Region.cores) && decide (s.banksHeld a ≤ s.eff a 2 Region.banks)

/-! ## Placement (R332, R335) -/

/-- A bank that may be given to scratch or to a window: no CACHE bank, nothing live in it. -/
def State.bankFree (s : State) (k : Core) (bank : Nat) : Bool :=
  k.banks.getD bank .reg != .cache && !s.bankLive k bank

/-- Scratch banks of one core: the highest free ones (log 41). -/
def State.pickBanks (s : State) (k : Core) (n : Nat) : Option (List Nat) :=
  let free := ((List.range 48).reverse.filter (s.bankFree k)).take n
  if free.length = n then some free else none

/-- The lowest number not in a list, below a limit. -/
def lowestFree (limit : Nat) (xs : List Nat) : Option Nat := (List.range limit).find? fun n => !xs.contains n

/-- Give a block its table entries and scratch banks on the cores of a list (R223). -/
def State.planScratch (s : State) (l : Launch) (b : Nat) (nc : Nat) : List Nat → Option State
  | [] => some s
  | core :: rest =>
    match s.core? core with
    | none => none
    | some k =>
      match s.pickBanks k (banksPerCore l.scratchSize nc), lowestFree 128 (k.blockTable.map BlockSlot.entry) with
      | some banks, some e =>
        let lt := if k.launchTable.any fun x => x.2 == l.id then k.launchTable
          else match lowestFree 256 (k.launchTable.map Prod.fst) with
            | some n => k.launchTable ++ [(n, l.id)]
            | none => k.launchTable
        let s1 := s.modCore core fun c =>
          { c with banks := banks.foldl (fun bs n => bs.set n .scr) c.banks, launchTable := lt,
                   blockTable := c.blockTable ++ [{ entry := e, launch := l.id, block := b,
                                                    banks := banks.foldl (fun m n => m + 2 ^ n) 0 }] }
        s1.planScratch l b nc rest
      | _, _ => none

/-- A unit of the REG area that a window may take: no other window, no scratch, no spilled entry of a step buffer (R221), no CACHE
bank. -/
def State.unitFree (s : State) (k : Core) (u : Nat) : Bool :=
  let bank := u / 16
  k.banks.getD bank .cache != .cache && s.spillIn k bank == 0 && !(k.blockTable.any fun x => x.banks / 2 ^ bank % 2 == 1)
    && !k.contexts.any fun x => decide ((s.areaOf x).1 ≤ u) && decide (u < (s.areaOf x).1 + (s.areaOf x).2)

/-- The lowest window area of n units (log 41). -/
def State.pickWindow (s : State) (k : Core) (n : Nat) : Option Nat :=
  (List.range (769 - n)).find? fun b => (List.range n).all fun i => s.unitFree k (b + i)

/-- The generation that a bind gives a window area (R334, R364): the next one of 1 to 255 after the area's last that no outstanding write
carries (log 41). -/
def State.nextGen (s : State) (k : Core) (base : Nat) : Option Nat :=
  let last := ((k.areas.find? fun x => x.1 == base).map Prod.snd).getD 0
  let out := s.gensOut k.num
  ((List.range 255).map fun i => (last + i) % 255 + 1).find? fun g => g != last && !out.contains (base, g)

/-- A placement in the making: the state as it would be, and the records to be written. -/
structure Plan where
  s    : State
  recs : List (Nat × BindRecord)
  deriving DecidableEq, Repr

/-- One home group on a core; nothing where it does not fit (R330, R334). -/
def Plan.group (p : Plan) (l : Launch) (b : Nat) (g : Group) (core : Nat) : Option Plan :=
  match p.s.core? core with
  | none => none
  | some k =>
    let n := windowUnits l.window
    match lowestFree 128 (k.contexts.map Context.num), p.s.pickWindow k n,
          k.blockTable.find? (fun x => x.launch == l.id && x.block == b), k.launchTable.find? fun x => x.2 == l.id with
    | some ctx, some base, some slot, some lt =>
      match p.s.nextGen k base with
      | none => none
      | some gen =>
      let s1 := p.s.modCore core fun c =>
        { c with banks := (List.range n).foldl (fun bs i => bs.set ((base + i) / 16) .reg) c.banks,
                 areas := (base, gen) :: c.areas.filter fun x => x.1 != base,
                 contexts := c.contexts ++ [{ num := ctx, launch := l.id, block := b, group := g.index, age := 0,
                                              gen := gen, banks := slot.banks, wbase := base, streak := 0, last := 0 }] }
      if s1.withinBudgets l.rcb then
        some { s := s1, recs := p.recs ++ [(core,
          { valid := true, gen := gen, banks := slot.banks, wbase := base, wsize := (l.window - 16) / 8, lslot := lt.1,
            bslot := slot.entry, context := ctx, group := g.index, op := if g.gen = 0 then 0 else 2, zero := 0 })] }
      else none
    | _, _, _, _ => none

/-- As many groups as fit: group k on core k mod nc of the bind order (R335). -/
def Plan.groups (p : Plan) (l : Launch) (b : Nat) (cores : List Nat) : List Group → Plan
  | [] => p
  | g :: gs =>
    match p.group l b g (cores.getD (g.index % cores.length) 0) with
    | some q => q.groups l b cores gs
    | none => p.groups l b cores gs

/-- A fibre waits for global memory or a token in a register. -/
def Fibre.waitsLong (f : Fibre) (n : Nat) : Bool :=
  f.loads.any (fun p => p.va.isSome && p.regs.any fun r => r.1 == n) || f.tokens.any fun t => t.reg == n

/-- The next chain of a home group waits on the scoreboard for a global load or an engine token (R336). -/
def State.groupWaits (s : State) (l : Launch) (b : Block) (g : Group) : Bool :=
  match b.fragOf l.id g.index with
  | none => false
  | some fr =>
    match s.packet? g.core l fr.pc with
    | none => false
    | some ws =>
      let fs := fr.fibres.filterMap b.fibre?
      (chainWords ws fr.chain).any fun x => fs.any fun f => (s.namedRegs l f x).any f.waitsLong

/-- A home group wants a context: it is not bound and has a fibre that runs and does not wait for a load or a token (R336). -/
def State.groupWants (s : State) (l : Launch) (b : Block) (g : Group) : Bool :=
  !g.bound && b.groupRuns g.index && !s.groupWaits l b g

/-- The plan of a waiting block: on the smallest number of cores whose free banks hold its scratch (R335). -/
def State.planBlock (s : State) (l : Launch) (b : Block) : List Nat → Option (Plan × List Nat)
  | [] => none
  | nc :: rest =>
    let cores := s.physicalCores l.tenant b.index nc
    match (if cores.length = nc then s.planScratch l b.index nc cores else none) with
    | none => s.planBlock l b rest
    | some s1 =>
      let p := Plan.groups { s := s1, recs := [] } l b.index cores (b.groups.filter (s.groupWants l b))
      if p.recs.isEmpty then none else some (p, cores)

/-- The cores a bound block lies on, from the block tables. -/
def State.coresOf (s : State) (l : Launch) (b : Block) : List Nat :=
  (s.physicalCores l.tenant b.index b.cores).filter fun n => match s.core? n with
    | some k => k.blockTable.any fun x => x.launch == l.id && x.block == b.index
    | none => false

/-- The plan of a candidate: a waiting block, or further groups of a bound one. -/
def State.planFor (s : State) (l : Launch) (b : Block) : Option (Plan × List Nat) :=
  if b.status = .waiting then
    if b.groups.any Group.bound then none else s.planBlock l b [1, 2, 4, 8]
  else
    let cores := s.coresOf l b
    let p := Plan.groups { s := s, recs := [] } l b.index cores (b.groups.filter (s.groupWants l b))
    if p.recs.isEmpty then none else some (p, cores)

/-- The firmware attaches a step-spill area to a block that is bound: one granule of its tenant's memory, kept until the block is done
(R231) (log 62). -/
def State.attachArea (s : State) (l : Launch) (b : Block) : State :=
  if !b.area.isEmpty then s
  else
    let gs := s.tenantFree l.tenant 1
    if gs.isEmpty then s else (s.giveGranules gs l.tenant).modBlock l.id b.index fun x => { x with area := gs }

/-- The records of a plan are written; the block is bound (R331: it carries no promotion any more). -/
def State.enactPlan (s : State) (l : Launch) (b : Block) (p : Plan) (cores : List Nat) : State :=
  let merge (k : Core) : Core := match p.s.core? k.num with
    | some h => { k with banks := h.banks, launchTable := h.launchTable, blockTable := h.blockTable, areas := h.areas }
    | none => k
  let s1 : State := { s with cores := s.cores.map merge }
  let s2 := p.recs.foldl (fun s r => s.modCore r.1 fun k => k.push r.2) s1
  let order := s.launches.foldl (fun m (x : Launch) => x.blockList.foldl (fun m y => max m y.bindOrder) m) 0 + 1
  if b.status = .waiting then
    (s2.attachArea l b).modBlock l.id b.index fun x =>
      { x with status := .bound, bindOrder := order, lastCommit := s.clock, core := cores.headD 0, cores := cores.length }
  else s2

/-! ## Candidates in the order of R332 -/

/-- A block that the placement considers. -/
structure Cand where
  l : Launch
  b : Block
  deriving DecidableEq, Repr, Inhabited

/-- Effective priority of a candidate (R331): promotion for a waiting block alone. -/
def State.candPrio (s : State) (c : Cand) : Nat :=
  let prio := s.eff c.l.rcb 0 Region.prio
  if c.b.status = .waiting then s.promoted prio c.b.waitStart else prio

/-- Order of R332. -/
def State.candBefore (s : State) (x y : Cand) : Bool :=
  let id (c : Cand) : Nat := ((s.region? c.l.rcb).map Region.regionid).getD 0
  lexLt [31 - s.candPrio x, x.b.waitStart, id x, x.l.id, x.b.index] [31 - s.candPrio y, y.b.waitStart, id y, y.l.id, y.b.index]

/-- Insert a candidate in order. -/
def State.insertCand (s : State) (c : Cand) : List Cand → List Cand
  | [] => [c]
  | d :: ds => if s.candBefore c d then c :: d :: ds else d :: s.insertCand c ds

/-- The slice whose distributor holds a launch's blocks: home to its RCB (R326). -/
def State.sliceOf (s : State) (l : Launch) : Nat :=
  match s.fwPhys l.tenant (l.rcb % 2 ^ 48) with
  | some pa => homeSlice pa
  | none => 0

/-- The partition of a tenant is being quiesced: the firmware binds no work of it (R365 item 1). -/
def State.quiescing (s : State) (tenant : Nat) : Bool :=
  match s.mgmt.begun with
  | some (.save t _ _ _) => t == tenant
  | _ => false

/-- Blocks that wait, and bound blocks with a group that wants a context. -/
def State.candidates (s : State) (slice : Nat) : List Cand :=
  (s.launches.filter fun l => !l.ended && !l.suspended && !s.quiescing l.tenant && s.sliceOf l == slice).foldl (fun cs l =>
    l.blockList.foldl (fun cs b =>
      if b.status = .waiting ∨ (b.status = .bound ∧ (b.groups.any (s.groupWants l b)) = true) then s.insertCand { l := l, b := b } cs
      else cs) cs) []

/-! ## Victims (R337) -/

/-- Work that may be unbound for another: a block at a blocking point, or one group of it. -/
structure Victim where
  l : Launch
  b : Block
  g : Option Group
  deriving DecidableEq, Repr, Inhabited

/-- The order of victims: lowest effective priority first, then the most recently bound. -/
def State.victimBefore (s : State) (x y : Victim) : Bool :=
  let p (v : Victim) : Nat := s.eff v.l.rcb 0 Region.prio
  decide (p x < p y) || (p x == p y && decide (y.b.bindOrder < x.b.bindOrder))

/-- Insert a victim in order. -/
def State.insertVictim (s : State) (v : Victim) : List Victim → List Victim
  | [] => [v]
  | w :: ws => if s.victimBefore v w then v :: w :: ws else w :: s.insertVictim v ws

/-- The firmware's threshold of a scoreboard wait, in µs: 1 to 10,000 (R336). -/
def waitThreshold : Nat := 1 + Config.waitThreshold % 10000

/-- A bound group has waited longer than the threshold (R336): from the first cycle in which its chain could have issued. -/
def State.longWait (s : State) (l : Launch) (b : Block) (g : Group) : Bool :=
  canRun l b && g.bound && decide (g.ready + s.cyclesOf waitThreshold < s.clock) && s.groupWaits l b g

/-- A bound group is at a blocking point of its own: it has ended the step, or waits too long (R336). -/
def State.groupBlocked (s : State) (l : Launch) (b : Block) (g : Group) : Bool :=
  g.bound && (b.groupEnded g.index || s.longWait l b g)

/-- What a bound block offers: itself at a blocking point, otherwise its groups at theirs. -/
def State.victimsOf (s : State) (l : Launch) (b : Block) : List Victim :=
  if b.blocked then [{ l := l, b := b, g := none }]
  else (b.groups.filter (s.groupBlocked l b)).map fun g => { l := l, b := b, g := some g }

/-- All victims for a candidate, in order: of its own region or of a lower effective priority. -/
def State.victims (s : State) (c : Cand) : List Victim :=
  let mine := s.candPrio c
  (s.launches.filter fun l => !l.ended && (l.rcb == c.l.rcb || decide (s.eff l.rcb 0 Region.prio < mine))).foldl (fun vs l =>
    l.blockList.foldl (fun vs b =>
      if b.groups.any Group.bound then (s.victimsOf l b).foldl (fun vs v => s.insertVictim v vs) vs else vs) vs) []

/-- The state as it would be without a victim. -/
def State.without (s : State) (v : Victim) : State :=
  let mine (x : Context) : Bool := x.launch == v.l.id && x.block == v.b.index && match v.g with
    | some g => x.group == g.index
    | none => true
  { s with cores := s.cores.map fun (k : Core) =>
    { k with contexts := k.contexts.filter fun x => !mine x,
             blockTable := if v.g.isSome then k.blockTable
               else k.blockTable.filter fun x => !(x.launch == v.l.id && x.block == v.b.index) } }

/-- The victims, one after another, until the candidate fits; none when all together are not enough (R337). -/
def State.victimsFor (s : State) (c : Cand) : List Victim → List Victim → Option (List Victim)
  | [], _ => none
  | v :: vs, done =>
    let s1 := s.without v
    if (s1.planFor c.l c.b).isSome then some (done ++ [v]) else s1.victimsFor c vs (done ++ [v])

/-- The firmware unbinds the victims. -/
def State.evictVictims (s : State) : List Victim → State
  | [] => s
  | v :: vs =>
    (match v.g with
      | none => s.evictBlock v.l.id v.b.index
      | some g => s.evictGroup g).evictVictims vs

/-- The first candidate that fits is bound. -/
def State.placeFirst (s : State) : List Cand → Option State
  | [] => none
  | c :: cs =>
    match s.planFor c.l c.b with
    | some (p, cores) => some (s.enactPlan c.l c.b p cores)
    | none => s.placeFirst cs

/-- Otherwise the first for which enough work can be unbound. -/
def State.evictFirst (s : State) : List Cand → Option State
  | [] => none
  | c :: cs =>
    match s.victimsFor c (s.victims c) [] with
    | some vs => some (s.evictVictims vs)
    | none => s.evictFirst cs

/-- Work at a blocking point whose region, or an ancestor of it, holds more than its effective budget (R372). -/
def State.excess (s : State) : Option Victim :=
  (s.launches.filter fun l => !l.ended && !s.withinBudgets l.rcb).findSome? fun l =>
    (l.blockList.filter fun b => b.groups.any Group.bound).findSome? fun b => (s.victimsOf l b).head?

/-- A placement decision of a slice's management core, once its earlier records have been applied: first what exceeds a budget
leaves (R372); none when nothing can be placed (log 41). -/
def State.place (s : State) (slice : Nat) : Option State :=
  if s.cores.any fun k => k.pending != 0 then none
  else
    match s.excess with
    | some v => some (s.evictVictims [v])
    | none =>
      let cs := s.candidates slice
      match s.placeFirst cs with
      | some s1 => some s1
      | none => s.evictFirst cs

/-- What the firmware keeps of a region in its control block (R328): the cores and banks held, the earliest wait start and the
highest effective priority of its waiting blocks (log 59). -/
def State.usage (s : State) (r : Region) : Nat × Nat × Nat × Nat :=
  let waits := (s.launches.filter fun l => !l.ended && l.rcb == r.rcb).flatMap fun l =>
    (l.blockList.filter fun b => b.status == .waiting).map fun b => { l := l, b := b : Cand }
  (s.coresHeld r.rcb, s.banksHeld r.rcb, ((waits.map fun c => c.b.waitStart).min?).getD 0,
    waits.foldl (fun m c => max m (s.candPrio c)) (s.eff r.rcb 0 Region.prio))

/-- The firmware writes what has changed of it, to bytes 80 to 99 of the block (R328) (log 59). -/
def State.noteOne (s : State) (r : Region) : State :=
  let u := s.usage r
  if u = (r.useCores, r.useBanks, r.waitSince, r.effPrio) then s
  else
    (s.fwWrite r.tenant (r.addr + 80) (leBytes 4 u.1 ++ leBytes 4 u.2.1 ++ leBytes 8 u.2.2.1 ++ leBytes 4 u.2.2.2)).modRegion r.rcb
      fun x => { x with useCores := u.1, useBanks := u.2.1, waitSince := u.2.2.1, effPrio := u.2.2.2 }

/-- Every region's. -/
def State.noteUsage (s : State) : State := s.regions.foldl State.noteOne s

/-- PLACEMENT_DECISION (R332, R337): the firmware also extends spill ranges that have become too short (R233), and brings its own account
of the regions up to date. -/
def execPlacementDecision (slice : Nat) (s : State) : Out := .next ((s.place slice).getD s).extendShort.noteUsage

/-! ## Time slices (R333) -/

/-- Blocks with a bound group on a core. -/
def State.blocksOn (s : State) (core : Nat) : List Cand :=
  (s.launches.filter fun l => !l.ended).flatMap fun l =>
    (l.blockList.filter fun b => b.groups.any fun g => g.bound && g.core == core).map fun b => { l := l, b := b }

/-- A block of another region with an equal or higher effective priority waits for the core: for one of the physical cores that it must
lie on, as many as its scratch needs (R335). -/
def State.rivalWaits (s : State) (core rcb : Nat) : Bool :=
  s.launches.any fun (l : Launch) => !l.ended && !l.suspended && l.rcb != rcb && l.blockList.any fun b =>
    b.status == .waiting && decide (s.eff rcb 0 Region.prio ≤ s.candPrio { l := l, b := b })
      && (s.physicalCores l.tenant b.index (fewestCores l.scratchSize)).contains core

/-- The block's region has used up its time slice on the core. -/
def State.sliceOver (s : State) (k : Core) (c : Cand) : Bool :=
  decide (k.since c.l.rcb + s.cyclesOf (s.eff c.l.rcb 5 Region.timeslice) ≤ s.clock) && s.rivalWaits k.num c.l.rcb
    && c.b.graceEnd.isNone && c.b.status == .bound

/-- A block has to leave, with these of its groups: what is at a blocking point, the block or a group, is evicted at once, and the rest
is given 20 µs (R333). -/
def State.giveGrace (s : State) (c : Cand) (here : List Group) : State :=
  let gone := here.filter (s.groupBlocked c.l c.b)
  if c.b.blocked then s.evictBlock c.l.id c.b.index
  else if gone.length = here.length then s.evictGroups gone
  else (s.evictGroups gone).modBlock c.l.id c.b.index fun b => { b with graceEnd := some (s.clock + s.cyclesOf 20) }

/-- The blocks of a region that is pre-empted on a core (R333). -/
def State.preempt (s : State) (core : Nat) : List Cand → State
  | [] => s
  | c :: cs => (s.giveGrace c (c.b.groups.filter fun g => g.bound && g.core == core)).preempt core cs

/-- TIME_SLICE_EXPIRY (R333). -/
def execTimeSliceExpiry (core : Nat) (s : State) : Out :=
  match s.core? core with
  | none => .next s
  | some k => .next (s.preempt core ((s.blocksOn core).filter (s.sliceOver k)))

/-- The grace period of a block is over. -/
def State.graceOver (s : State) (b : Block) : Bool :=
  match b.graceEnd with
  | some t => decide (t ≤ s.clock)
  | none => false

/-- GRACE_PERIOD_END (R333, R361). -/
def execGracePeriodEnd (l b : Nat) (s : State) : Out :=
  match (s.launch? l).bind (·.block? b) with
  | none => .next s
  | some bl => if s.graceOver bl then .next (s.stopBlock l bl) else .next s

/-! ## Slots and buffers -/

/-- SCOREBOARD_WAIT_THRESHOLD (R336): the group may be unbound, and the firmware does so. -/
def execScoreboardWaitThreshold (l b g : Nat) (s : State) : Out :=
  match s.launch? l with
  | none => .next s
  | some ln =>
    match ln.block? b with
    | none => .next s
    | some bl =>
      match bl.group? g with
      | none => .next s
      | some gr => if s.longWait ln bl gr then .next (s.evictGroup gr) else .next s

/-- Another context of the slot can issue by a cycle. -/
def State.otherIssues (s : State) (k : Core) (x : Context) (limit : Nat) : Bool :=
  k.contexts.any fun y => y.num != x.num && y.num % 4 == x.num % 4 && (s.readyOf k y).any fun r => decide (r.cycle ≤ limit)

/-- A GTO context has to be demoted (R340): it has issued in 64 consecutive cycles up to this one, and another can issue in the
next. -/
def State.demotes (s : State) (k : Core) (x : Context) : Bool :=
  k.policy == .gto && decide (64 ≤ x.streak) && decide (s.clock ≤ x.last + 1) && s.otherIssues k x (x.last + 1)

/-- GTO_DEMOTION (R340): as after `yield`. -/
def execGtoDemotion (core ctx : Nat) (s : State) : Out :=
  match s.core? core with
  | none => .next s
  | some k =>
    match k.contexts.find? fun x => x.num == ctx with
    | none => .next s
    | some x =>
      if s.demotes k x then .next (s.modCore core fun c => c.youngest x.launch x.block x.group) else .next s

/-- ISSUE_POLICY_CHANGE (R339): ages are bind order under either policy. -/
def execIssuePolicyChange (core : Nat) (policy : IssuePolicy) (s : State) : Out :=
  .next (s.modCore core fun k => { k with policy := policy })

/-- Home groups whose next chain has waited for a code line count its stalls from this cycle on (R75, R321). -/
def State.lineCame (s : State) (core l line : Nat) : State :=
  if (s.core? core).any fun k => k.holdsLine l line then s
  else
    s.modLaunch l fun x => { x with blockList := x.blockList.map fun b => { b with groups := b.groups.map fun g =>
      if (g.bound && g.core == core && (b.fragOf l g.index).any fun fr => fr.pc / 128 == line) = true then
        { g with ready := max g.ready s.clock }
      else g } }

/-- CODE_LINE_FILL (R321): the line becomes the most recently used of the core's buffer. -/
def execCodeLineFill (core l line : Nat) (s : State) : Out :=
  match s.launch? l with
  | none => .next s
  | some ln =>
    if !ln.ended && s.lineReadable core ln (128 * line + 8) then
      .next ((s.lineCame core l line).modCore core fun k => k.loadLines [(l, line)])
    else .next s

/-- RANGE_WALK (R294, R295): the walk fills an entry of the core's range table, with the bitmap word of the access's chunk where the range
is PARTIAL (R297), or finds no range; a fault is the access's own. -/
def execRangeWalk (core tenant va : Nat) (s : State) : Out :=
  match s.walk tenant va with
  | .ok e => .next (s.modCore core fun k => k.fillRange (s.withWord e va))
  | .error _ => .next s

/-! ## The compactor (R303) -/

/-- The maximal runs of free granules of a slice: first granule and length, lowest first. -/
def State.freeRunsFrom (s : State) : Nat → Nat → Option (Nat × Nat) → List (Nat × Nat)
  | 0, _, cur => cur.toList
  | n + 1, g, cur =>
    if s.owner (g * unit) == 0xFFF then
      s.freeRunsFrom n (g + 1) (match cur with
        | none => some (g, 1)
        | some c => some (c.1, c.2 + 1))
    else cur.toList ++ s.freeRunsFrom n (g + 1) none

/-- The free runs of a slice. -/
def State.freeRuns (s : State) (slice : Nat) : List (Nat × Nat) :=
  s.freeRunsFrom sliceGranules (sliceGranules * slice) none

/-- Ranges of every tenant that lie wholly in a slice between two free runs: tenant, entry. -/
def State.enclosed (s : State) (runs : List (Nat × Nat)) : List (Nat × RangeEntry) :=
  s.tenants.flatMap fun t => ((s.dirList t).map entryOf).filterMap fun e =>
    let last := e.pbase + e.units
    if (runs.any fun r => r.1 + r.2 == e.pbase) && (runs.any fun r => r.1 == last) then some (t.num, e) else none

/-- The smallest of them. -/
def smallest (xs : List (Nat × RangeEntry)) : Option (Nat × RangeEntry) :=
  xs.foldl (fun (m : Option (Nat × RangeEntry)) x => match m with
    | none => some x
    | some y => if x.2.units < y.2.units then some x else some y) none

/-- The move a compactor would begin: tenant, range start, new base in units. -/
def State.compactorPick (s : State) (slice : Nat) (threshold : Nat) : Option (Nat × Nat × Nat) :=
  let runs := s.freeRuns slice
  if threshold = 0 ∨ runs.length ≤ threshold then none
  else
    match smallest (s.enclosed runs) with
    | none => none
    | some (t, e) => (runs.find? fun r => e.units ≤ r.2).map fun r => (t, e.vbase, r.1)

/-- The tenant and the position of a range by its start. -/
def State.rangeBy (s : State) (tenant vbase : Nat) : Option (Tenant × Nat × RangeEntry) :=
  match s.tenant? tenant with
  | none => none
  | some t => (s.rangeAt t (vbase * unit)).map fun x => (t, x.1, x.2)

/-- COMPACTOR_MOVE (R303): an idle compactor begins a move, whose target the tenant then owns; a move in flight swaps the range, with
everything that has landed in the source carried over (R302 items 1 to 3); and once no access of before is on its way any more, the
source granules are free and the compactor is idle (R300, R302 item 4). -/
def execCompactorMove (slice : Nat) (s : State) : Out :=
  match s.slices.find? fun x => x.num == slice with
  | none => .next s
  | some x =>
    match x.draining, x.moving with
    | some d, _ =>
      if s.onItsWay d.tenant d.since [(d.lo * unit, (d.hi - d.lo) * unit)] then .next s
      else .next ((s.giveGranules d.frees 0xFFF).modSlice slice fun y => { y with draining := none })
    | none, none =>
      match s.compactorPick slice x.threshold with
      | none => .next s
      | some m =>
        match s.rangeBy m.1 m.2.1 with
        | none => .next s
        | some (t, _, e) =>
          if s.moveInFlight t.num e.vbase then .next s
          else .next ((s.setOwner (m.2.2 * unit) (e.units * unit) t.num).modSlice slice fun y => { y with moving := some m })
    | none, some m =>
      match s.rangeBy m.1 m.2.1 with
      | none => .next (s.modSlice slice fun y => { y with moving := none })
      | some (t, i, e) =>
        .next ((s.moveRange t i e m.2.2).modSlice slice fun y =>
          { y with moving := none,
                   draining := some { tenant := t.num, since := s.clock, lo := e.vbase, hi := e.limit,
                                      frees := granules (e.pbase * unit) (e.units * unit) } })

end Sys2Proof.Machine
end

