-- ==== Sys2Proof/Machine/Host.lean ====
section
/-! DEFINITION. What reaches the device from outside through PCIe and Guyline (25_package_host_boot_power.md R406, R407,
R412, R414; 24 R387, R388, R391, R392; 23 R385; 02 R38, R41; 03 R59, R63). -/

namespace Sys2Proof.Machine

/-! ## Traffic and requests -/

/-- Traffic from outside (R411, R412): it wakes the slice it goes to and keeps C3 away. -/
def State.traffic (s : State) (slice : Nat) : State :=
  { s.wake slice with power := { s.power with lastHost := s.clock } }

/-- Traffic that goes to no slice: an access to BAR0, or one that is dropped. It wakes the device from C3 and keeps it away (R411,
R412). -/
def State.hostAccess (s : State) : State :=
  { s.wakeDevice with power := { s.power with lastHost := s.clock } }

/-- A condition of R414 holds: its REPLREQ bit is set and MSI-X vector 1 signalled. -/
def State.raiseCond (s : State) (bit : Nat) : State :=
  { s with mgmt := { s.mgmt with replreq := s.mgmt.replreq ||| 2 ^ bit },
           msix := if s.mgmt.replreq / 2 ^ bit % 2 = 1 then s.msix else s.msix + 1 }

/-! ## Gate windows (R407) -/

/-- The gate behind a window (R407): several tenants may hold gate n of logical slice s (R398); the window then serves the
first of them with HOST set (log 11). -/
def State.windowGate (s : State) (slice n : Nat) : Nat × Nat × Nat :=
  let gs := s.gates.filter fun g => g.slice == slice && g.index == n
  match gs.find? Gate.host with
  | some g => g.key
  | none => match gs.head? with
    | some g => g.key
    | none => (0, slice, n)

/-- The boot ROM is in recovery, where it exposes BAR0 and BAR4 alone (R409). -/
def Boot.recovery (b : Boot) : Bool := b.running.isNone && (decide (2 ≤ b.status) || (b.checking && b.fromHost))

/-- HOST_GATE_WRITE (R407): an aligned 4-byte write to a gate's window is an arrival from the host; any other write there is
dropped. In recovery there is no BAR2 (R409). -/
def execHostGateWrite (off size : Nat) (v : BitVec 64) (s : State) : Out :=
  if s.boot.recovery then .next s
  else
  let slice := off / 65536
  let n := off % 65536 / 16
  let k := s.windowGate slice n
  let s1 := s.traffic (s.sliceHost k.1 k.2.1)
  if size = 4 ∧ off % 16 = 0 ∧ slice < 12 then .next (s1.arrive .host k (v.toNat % 2 ^ 32)) else .next s1

/-! ## The aperture and DMA (R406, R298) -/

/-- The physical address behind a BAR4 offset that the firmware has mapped, if the ownership check passes. -/
def State.aperture (s : State) (off : Nat) : Option Nat :=
  match s.barMap.find? fun m => decide (m.off ≤ off) && decide (off < m.off + m.len) with
  | none => none
  | some m =>
    let pa := m.phys + (off - m.off)
    if s.owner pa = m.tenant then some pa else none

/-- A firmware runs (R408). -/
def State.firmware (s : State) : Bool := s.boot.running.isSome

/-- Bytes of one aligned line at a time, each with its offset. -/
def State.hostLines (s : State) : List (Nat × List Byte) → State
  | [] => s
  | (off, bs) :: rest =>
    match s.aperture off with
    | some pa => ((s.traffic (homeSlice pa)).outsideWrite none pa (bs.map some)).hostLines rest
    | none => ({ s.hostAccess with snapLog := s.snapLog ++ [LogEntry.hostDrop off] } : State).hostLines rest

/-- HOST_APERTURE_WRITE (R406, R59): lines land as outside writes; what is not mapped or not the tenant's is dropped and
logged. Before a firmware runs the bytes are the image that the boot ROM will check (R408, R409). -/
def execHostApertureWrite (off : Nat) (bytes : List (BitVec 8)) (s : State) : Out :=
  if s.firmware then .next (s.hostLines (cutLines (bytes.length + 1) off bytes))
  else .next { s.hostAccess with boot := { s.boot with area := Memory.setBytes s.boot.area off bytes } }

/-- A byte of BAR4: unmapped or failing parts read as zero (R406); before a firmware runs it is the image's place (R408). -/
def State.apertureByte (s : State) (a : Nat) : Byte :=
  if s.firmware then
    match s.aperture a with
    | some pa => s.mem.get pa
    | none => 0
  else Memory.get s.boot.area a

/-- A read of a gate window (R407): the count for an aligned 4-byte read, else 0. -/
def State.windowRead (s : State) (off len : Nat) : List Byte :=
  let count := ((s.gate? (s.windowGate (off / 65536) (off % 65536 / 16))).map Gate.count).getD 0
  if len = 4 ∧ off % 16 = 0 ∧ off / 65536 < 12 then leBytes 4 count else List.replicate len 0

/-- The power states as PSTATE shows them (R416). -/
def PState.code : PState → Nat
  | .d0 => 0
  | .c1 => 1
  | .c2 => 2
  | .c3 => 3

/-- T of the device (R411, R416): the host's LTR value, or the smallest `ltol` of a live region (log 49). -/
def State.deviceTolerance (s : State) : Nat := s.regions.foldl (fun t r => min t r.ltol) s.power.ltr

/-- The 64-bit register at an offset (R416); a write-only or unlisted one reads 0. -/
def State.register (s : State) (off : Nat) : Nat :=
  if off = 0 then 0x0000124800010000
  else if off = 0x08 then s.boot.status
  else if off = 0x18 then s.boot.fuses
  else if off = 0x20 then s.mgmt.replreq
  else if off = 0x30 then s.mgmt.snapmask
  else if off = 0x38 then s.slices.foldl (fun t x => t + x.power.code * 4 ^ x.num) 0
  else if off = 0x40 then s.deviceTolerance
  else if 0x100 ≤ off ∧ off ≤ 0x1F8 then s.mgmt.mbox.getD ((off - 0x100) / 8) 0
  else if off = 0x208 then (if s.mgmt.busy then 1 else 0) + 256 * s.mgmt.status
  else 0

/-- A byte of BAR0 (R416): of a unit's last snapshot in the snapshot window, 0 where it has never latched; otherwise of a register. -/
def State.registerByte (s : State) (a : Nat) : Byte :=
  if 0x10000 ≤ a ∧ a < 0x19C000 then
    match s.snaps.find? fun x => x.unit == (a - 0x10000) / 4096 with
    | some x => Config.snapByte x.unit x.label x.cycle (a % 4096)
    | none => 0
  else BitVec.ofNat 8 (s.register (a / 8 * 8) / 256 ^ (a % 8))

/-- A byte of memory as an outside agent reads it for a tenant: zero where the ownership check fails (R298, R405) (log 68). -/
def State.ownedByte (s : State) (tenant pa : Nat) : Byte := if s.owner pa = tenant ∧ pa < memEnd then s.mem.get pa else 0

/-- HOST_APERTURE_READ (R405 to R407, R416): a read by the host, an application core or a root-port device, whose answer goes to it. The
whole read is made at one instant, which may lie between the landings of two lines of a commit (R57) (DESIGN CHOICE, log 68). -/
def execHostApertureRead (from' : HostAddr) (len : Nat) (s : State) : Out :=
  let off := from'.off
  let answer (t : State) (bs : List Byte) : Out := .next { t with hostReads := s.hostReads ++ [(from'.space, off, bs)] }
  let bytes (f : Nat → Byte) : List Byte := (List.range len).map fun i => f (off + i)
  match from'.space with
  | .aperture => answer (match s.aperture off with
      | some pa => s.traffic (homeSlice pa)
      | none => s.hostAccess) (bytes s.apertureByte)
  | .window =>
    if s.boot.recovery then .next s
    else
      let k := s.windowGate (off / 65536) (off % 65536 / 16)
      answer (s.traffic (s.sliceHost k.1 k.2.1)) (s.windowRead off len)
  | .register => answer s.hostAccess (bytes s.registerByte)
  | .memory tenant => answer (s.traffic (homeSlice off)) (bytes (s.ownedByte tenant))

/-- Lines of a root-port device's DMA, or of an application core's write: landed if the granule is the tenant's, otherwise dropped and logged (R298, R406). -/
def State.dmaLines (s : State) (port tenant : Nat) : List (Nat × List Byte) → State
  | [] => s
  | (pa, bs) :: rest =>
    if s.owner pa = tenant ∧ pa + bs.length ≤ memEnd then
      ((s.traffic (homeSlice pa)).outsideWrite none pa (bs.map some)).dmaLines port tenant rest
    else ({ s.traffic (homeSlice pa) with snapLog := s.snapLog ++ [LogEntry.dmaDrop port pa] } : State).dmaLines port tenant rest

/-- ROOT_PORT_DMA (R405, R406): a write into device memory by a device of root port 0 to 3, or by application core k as port 4 + k. -/
def execRootPortDma (port tenant addr : Nat) (bytes : List (BitVec 8)) (s : State) : Out :=
  .next (s.dmaLines port tenant (cutLines (bytes.length + 1) addr bytes))

/-! ## The pod barrier network (R385, R394) -/

/-- The module's POD gate is raised. -/
def State.raisePod (s : State) : State :=
  match s.gates.find? Gate.pod with
  | some g => s.arrive .pod g.key 1
  | none => s

/-- POD_EPISODE (R385): the network finds every member's counter at least 1, this module's among them. -/
def execPodEpisode (s : State) : Out :=
  match s.pod with
  | none => .next s
  | some p => if 1 ≤ p.count then .next ({ s with pod := some { p with count := p.count - 1 } } : State).raisePod else .next s

/-! ## Lines from other modules (R391, R392) -/

/-- The failure of a line, which is traffic all the same (R411, R412): nothing lands, the sender learns of it, and the port logs it
(R391). -/
def State.rcpFail (s : State) (m : RcpLine) : State :=
  let s1 : State := { s.hostAccess with
                             snapLog := s.snapLog ++ [LogEntry.rcpFail m.port m.window],
                             fabricOut := s.fabricOut ++ [FabricMsg.ack m.sender m.xfer false] }
  let known := s.staging.any fun x => x.sender == m.sender && x.xfer == m.xfer
  let mark (x : Staging) : Staging :=
    if x.sender = m.sender ∧ x.xfer = m.xfer then { x with failed := true, lines := [] } else x
  { s1 with staging := if known then s.staging.map mark
              else s.staging ++ [{ sender := m.sender, xfer := m.xfer, window := m.window, lines := [], failed := true }] }

/-- The pieces of an arriving line: the memory lines it lies in, by virtual address. -/
def Export.pieces (e : Export) (m : RcpLine) : List (Nat × List Byte) := cutLines (m.bytes.length + 1) (e.base + m.off) m.bytes

/-- A piece lands where its address translates to. -/
def State.landPiece (s : State) (tenant : Nat) (p : Nat × List Byte) : State :=
  match s.translate none tenant .store p.1 with
  | .ok pa => s.outsideWrite none pa (p.2.map some)
  | .error _ => s

/-- The receiving launch has ended: it has been released or killed, or its final round has committed (R28, R391). -/
def Launch.over (l : Launch) : Bool := l.ended || l.dying.isSome || (l.hold != .none && l.allExited)

/-- The checks of R391 on a line: the export entry, the launch and the physical address. -/
def State.rcpCheck (s : State) (m : RcpLine) : Option (Export × Nat) :=
  match s.exports.find? fun e => e.window == m.window with
  | none => none
  | some e =>
    match s.launch? e.launch with
    | none => none
    | some l =>
      if (e.sender ≠ 0xFFF ∧ e.sender ≠ m.sender) ∨ l.over = true ∨ e.len < m.off + m.bytes.length then none
      else if m.bytes.isEmpty then some (e, 0)
      else
        let bad := (e.pieces m).any fun p => match s.translate none e.tenant .store p.1 with
          | .ok _ => false
          | .error _ => true
        match bad, s.translate none e.tenant .store (e.base + m.off) with
        | false, .ok pa => some (e, pa)
        | _, _ => none

/-- What is staged of a transfer. -/
def State.staged (s : State) (m : RcpLine) : Option Staging :=
  s.staging.find? fun x => x.sender == m.sender && x.xfer == m.xfer

/-- Keep a line of an accumulating transfer until the last one arrives (R391). -/
def State.stage (s : State) (m : RcpLine) : State :=
  match s.staged m with
  | some _ =>
    { s with staging := s.staging.map fun (x : Staging) =>
        if x.sender = m.sender ∧ x.xfer = m.xfer then { x with lines := x.lines ++ [m] } else x }
  | none =>
    { s with staging := s.staging ++
        [{ sender := m.sender, xfer := m.xfer, window := m.window, lines := [m], failed := false }] }

/-- The contributions of one staged line (R273, R392): keys sort by sender, by the contribution key of its
command's fibre there, and by offset. -/
def State.lineContribs (s : State) (e : Export) (m : RcpLine) : List Contrib :=
  let n := sizeBytes m.size
  (List.range (m.bytes.length / n)).map fun i =>
    let va := e.base + m.off + n * i
    { space := .global, addr := va, size := n, nib := none, value := ofLe ((m.bytes.drop (n * i)).take n), tag := false,
      rule := 3, flt := false, key := { remote := m.sender + 1, block := m.block, fibre := m.fibre, seq := m.seq, sub := m.off + n * i },
      wo := false,
      phys := match s.translate none e.tenant .store va with
        | .ok pa => pa
        | .error _ => 0,
      dest := none, opened := 0, issued := s.clock }

/-- The end of a transfer whose last line has arrived (R391): an accumulation joins the open round whole, a failed one not
at all, and the gate arrival follows. -/
def State.rcpEnd (s : State) (m : RcpLine) (e : Export) : State :=
  let st := s.staged m
  let failed := match st with
    | some x => x.failed
    | none => false
  let s1 : State := { s with staging := s.staging.filter fun x => !(x.sender == m.sender && x.xfer == m.xfer) }
  if failed then s1
  else
    let lines := match st with
      | some x => x.lines
      | none => []
    let s2 := if m.acc then
        { s1.joinRound e.launch (lines.flatMap (s.lineContribs e)) with
          fabricOut := s1.fabricOut ++ [FabricMsg.ack m.sender m.xfer true] }
      else s1
    if m.raise then s2.arrive .remote (e.tenant, e.gslice, e.gate) 1 else s2

/-- RCP_LINE_ARRIVAL (R391, R63). -/
def execRcpLineArrival (m : RcpLine) (s : State) : Out :=
  match s.rcpCheck m with
  | none =>
    let s1 := s.rcpFail m
    if m.last then
      .next { s1 with staging := s1.staging.filter fun x => !(x.sender == m.sender && x.xfer == m.xfer) }
    else .next s1
  | some (e, pa) =>
    let s1 := s.traffic (homeSlice pa)
    let s2 := if m.bytes.isEmpty then s1
      else if m.acc then (if (s.staged m).any Staging.failed then s1 else s1.stage m)
      else
        let s3 := (e.pieces m).foldl (fun s p => s.landPiece e.tenant p) s1
        { s3 with fabricOut := s3.fabricOut ++ [FabricMsg.ack m.sender m.xfer true] }
    if m.last then .next (s2.rcpEnd m e) else .next s2

/-! ## Links (R388) -/

/-- FLIT_RETRY (R388): recorded by the port; one that fails counts toward the sixteen consecutive failures, one that succeeds ends their
run. -/
def execFlitRetry (x : FlitTry) (s : State) : Out :=
  if s.guyPorts.any fun p => p.num == x.port && p.up then
    .next { s with
      snapLog := s.snapLog ++ [LogEntry.retry x.port],
      guyPorts := s.guyPorts.map fun (p : GuyPort) =>
        if p.num = x.port then { p with streak := if x.failed then p.streak + 1 else 0, retries := p.retries + 1 } else p }
  else .next s

/-- A command that sends over Guyline. -/
def Cmd.isRcp (c : Cmd) : Bool :=
  match c.instr with
  | .rcp .. => true
  | _ => false

/-- Transfers whose route needs a direction without ports end at the sender (R388, R273). -/
def State.failRoutes (s : State) : List Cmd → State
  | [] => s
  | c :: cs =>
    let dead := c.isRcp && c.phase != .finished && match s.importOf c with
      | some i => !s.routeUp i.module
      | none => false
    (if dead then s.finishCmd c.id FaultCode.fabric.num (if c.num 32 1 = 3 then 0 else c.count) else s).failRoutes cs

/-- The port has failed sixteen consecutive retries (R388). -/
def GuyPort.fails (p : GuyPort) : Bool := p.up && decide (16 ≤ p.streak)

/-- PORT_DOWN (R388, R414). -/
def execPortDown (port : Nat) (s : State) : Out :=
  match s.guyPorts.find? fun p => p.num == port with
  | none => .next s
  | some p =>
    if !p.fails then .next s
    else
      let s1 : State := { s with guyPorts := s.guyPorts.map fun (x : GuyPort) => if x.num = port then { x with up := false } else x,
                                 snapLog := s.snapLog ++ [LogEntry.portDown port] }
      .next ((s1.raiseCond 3).failRoutes s1.cmds)

end Sys2Proof.Machine
end

