-- ==== Sys2Proof/Machine/Int.lean ====
section
/-! DEFINITION. Integer arithmetic of 32 and 64 bits and the immediate forms (06_isa_control_integer_lanes.md R136,
R137, R141, R143). Every result is modulo 2^32 or 2^64 unless it saturates; there are no flags (R136). -/

namespace Sys2Proof.Machine

/-- `Sat` of R136 into a 32-bit register. -/
def sat32 (x lo hi : Int) : Word := BitVec.ofInt 32 (clampInt x lo hi)

/-- Bits [63:32] of a product. -/
def high32 (x : Int) : Word := BitVec.ofInt 32 (x / 2 ^ 32)

def smin (w : Nat) (a b : BitVec w) : BitVec w := if a.toInt ≤ b.toInt then a else b
def smax (w : Nat) (a b : BitVec w) : BitVec w := if a.toInt ≤ b.toInt then b else a
def umin (w : Nat) (a b : BitVec w) : BitVec w := if a.toNat ≤ b.toNat then a else b
def umax (w : Nat) (a b : BitVec w) : BitVec w := if a.toNat ≤ b.toNat then b else a
/-- The magnitude; the most negative value stays (R136, R137). -/
def sabs (w : Nat) (a : BitVec w) : BitVec w := if a.toInt < 0 then -a else a

/-- IADD (R136). -/
def execIadd (d a b : BitVec 6) (s : State) : Out := s.setReg (.iadd d a b) d fun e f => e.srcA f a + e.srcB f b
/-- ISUB (R136). -/
def execIsub (d a b : BitVec 6) (s : State) : Out := s.setReg (.isub d a b) d fun e f => e.srcA f a - e.srcB f b
/-- IMUL (R136). -/
def execImul (d a b : BitVec 6) (s : State) : Out := s.setReg (.imul d a b) d fun e f => e.srcA f a * e.srcB f b
/-- IMULHI (R136). -/
def execImulhi (d a b : BitVec 6) (s : State) : Out :=
  s.setReg (.imulhi d a b) d fun e f => high32 ((e.srcA f a).toInt * (e.srcB f b).toInt)
/-- IMULHIN (R136). -/
def execImulhin (d a b : BitVec 6) (s : State) : Out :=
  s.setReg (.imulhin d a b) d fun e f => high32 ((e.srcA f a).toNat * (e.srcB f b).toNat : Nat)
/-- IMAD (R136). -/
def execImad (d a b : BitVec 6) (s : State) : Out :=
  s.setReg (.imad d a b) d fun e f => e.srcA f a * e.srcB f b + e.srcT f d
/-- IMIN (R136). -/
def execImin (d a b : BitVec 6) (s : State) : Out :=
  s.setReg (.imin d a b) d fun e f => smin 32 (e.srcA f a) (e.srcB f b)
/-- IMAX (R136). -/
def execImax (d a b : BitVec 6) (s : State) : Out :=
  s.setReg (.imax d a b) d fun e f => smax 32 (e.srcA f a) (e.srcB f b)
/-- IMINN (R136). -/
def execIminn (d a b : BitVec 6) (s : State) : Out :=
  s.setReg (.iminn d a b) d fun e f => umin 32 (e.srcA f a) (e.srcB f b)
/-- IMAXN (R136). -/
def execImaxn (d a b : BitVec 6) (s : State) : Out :=
  s.setReg (.imaxn d a b) d fun e f => umax 32 (e.srcA f a) (e.srcB f b)
/-- IABS (R136). -/
def execIabs (d a : BitVec 6) (s : State) : Out := s.setReg (.iabs d a) d fun e f => sabs 32 (e.srcA f a)
/-- INEG (R136). -/
def execIneg (d a : BitVec 6) (s : State) : Out := s.setReg (.ineg d a) d fun e f => 0 - e.srcA f a
/-- IADDS (R136). -/
def execIadds (d a b : BitVec 6) (s : State) : Out :=
  s.setReg (.iadds d a b) d fun e f => sat32 ((e.srcA f a).toInt + (e.srcB f b).toInt) (-(2 ^ 31)) (2 ^ 31 - 1)
/-- ISUBS (R136). -/
def execIsubs (d a b : BitVec 6) (s : State) : Out :=
  s.setReg (.isubs d a b) d fun e f => sat32 ((e.srcA f a).toInt - (e.srcB f b).toInt) (-(2 ^ 31)) (2 ^ 31 - 1)
/-- IADDSN (R136). -/
def execIaddsn (d a b : BitVec 6) (s : State) : Out :=
  s.setReg (.iaddsn d a b) d fun e f => sat32 (((e.srcA f a).toNat : Int) + (e.srcB f b).toNat) 0 (2 ^ 32 - 1)
/-- ISUBSN (R136). -/
def execIsubsn (d a b : BitVec 6) (s : State) : Out :=
  s.setReg (.isubsn d a b) d fun e f => sat32 (((e.srcA f a).toNat : Int) - (e.srcB f b).toNat) 0 (2 ^ 32 - 1)

/-- LADD (R137). -/
def execLadd (d a b : BitVec 6) (s : State) : Out := s.setPair (.ladd d a b) d fun e f => e.pairA f a + e.pairB f b
/-- LSUB (R137). -/
def execLsub (d a b : BitVec 6) (s : State) : Out := s.setPair (.lsub d a b) d fun e f => e.pairA f a - e.pairB f b
/-- LMUL (R137). -/
def execLmul (d a b : BitVec 6) (s : State) : Out := s.setPair (.lmul d a b) d fun e f => e.pairA f a * e.pairB f b
/-- LMAD (R137). -/
def execLmad (d a b : BitVec 6) (s : State) : Out :=
  s.setPair (.lmad d a b) d fun e f => e.pairA f a * e.pairB f b + e.pairT f d
/-- LMIN (R137). -/
def execLmin (d a b : BitVec 6) (s : State) : Out :=
  s.setPair (.lmin d a b) d fun e f => smin 64 (e.pairA f a) (e.pairB f b)
/-- LMAX (R137). -/
def execLmax (d a b : BitVec 6) (s : State) : Out :=
  s.setPair (.lmax d a b) d fun e f => smax 64 (e.pairA f a) (e.pairB f b)
/-- LMINN (R137). -/
def execLminn (d a b : BitVec 6) (s : State) : Out :=
  s.setPair (.lminn d a b) d fun e f => umin 64 (e.pairA f a) (e.pairB f b)
/-- LMAXN (R137). -/
def execLmaxn (d a b : BitVec 6) (s : State) : Out :=
  s.setPair (.lmaxn d a b) d fun e f => umax 64 (e.pairA f a) (e.pairB f b)
/-- LSHL (R137). -/
def execLshl (d a b : BitVec 6) (s : State) : Out :=
  s.setPair (.lshl d a b) d fun e f => e.pairA f a <<< ((e.srcB f b).toNat % 64)
/-- LSHR (R137). -/
def execLshr (d a b : BitVec 6) (s : State) : Out :=
  s.setPair (.lshr d a b) d fun e f => e.pairA f a >>> ((e.srcB f b).toNat % 64)
/-- LSRA (R137). -/
def execLsra (d a b : BitVec 6) (s : State) : Out :=
  s.setPair (.lsra d a b) d fun e f => (e.pairA f a).sshiftRight ((e.srcB f b).toNat % 64)
/-- LNEG (R137). -/
def execLneg (d a : BitVec 6) (s : State) : Out := s.setPair (.lneg d a) d fun e f => 0 - e.pairA f a
/-- LABS (R137). -/
def execLabs (d a : BitVec 6) (s : State) : Out := s.setPair (.labs d a) d fun e f => sabs 64 (e.pairA f a)

/-- IADDI (R141). -/
def execIaddi (d a : BitVec 6) (imm : BitVec 11) (s : State) : Out :=
  s.setReg (.iaddi d a imm) d fun e f => e.srcA f a + imm.signExtend 32
/-- ANDI (R141). -/
def execAndi (d a : BitVec 6) (imm : BitVec 11) (s : State) : Out :=
  s.setReg (.andi d a imm) d fun e f => e.srcA f a &&& imm.signExtend 32
/-- ORI (R141). -/
def execOri (d a : BitVec 6) (imm : BitVec 11) (s : State) : Out :=
  s.setReg (.ori d a imm) d fun e f => e.srcA f a ||| imm.signExtend 32
/-- XORI (R141). -/
def execXori (d a : BitVec 6) (imm : BitVec 11) (s : State) : Out :=
  s.setReg (.xori d a imm) d fun e f => e.srcA f a ^^^ imm.signExtend 32
/-- SHLI (R141). -/
def execShli (d a : BitVec 6) (n : BitVec 5) (s : State) : Out :=
  s.setReg (.shli d a n) d fun e f => e.srcA f a <<< n.toNat
/-- SHRI (R141). -/
def execShri (d a : BitVec 6) (n : BitVec 5) (s : State) : Out :=
  s.setReg (.shri d a n) d fun e f => e.srcA f a >>> n.toNat
/-- SRAI (R141). -/
def execSrai (d a : BitVec 6) (n : BitVec 5) (s : State) : Out :=
  s.setReg (.srai d a n) d fun e f => (e.srcA f a).sshiftRight n.toNat
/-- MOVI (R143). -/
def execMovi (d : BitVec 6) (imm : BitVec 17) (s : State) : Out :=
  s.setReg (.movi d imm) d fun _ _ => imm.signExtend 32
/-- MOVHI (R143): `v[d]` is read at the fibre's own newest value. -/
def execMovhi (d : BitVec 6) (imm : BitVec 15) (s : State) : Out :=
  s.setReg (.movhi d imm) d fun _ f => (imm.setWidth 32 <<< 17) ||| (f.reg d.toNat &&& 0x0001FFFF)

end Sys2Proof.Machine
end

