-- ==== Sys2Proof/Machine/Lane.lean ====
section
/-! DEFINITION. Lane operations and bitmaps (06_isa_control_integer_lanes.md R147, R148). A lane word reads every lane
of the home group at its step-start value; the guard only chooses who receives a result. -/

namespace Sys2Proof.Machine

/-- Position of set bit number `n` among bits from `i` on, or 64 (R148). -/
def nthSet : Nat → Nat → Nat → Nat → Nat
  | 0, _, _, _ => 64
  | k + 1, i, n, x =>
    if x % 2 = 1 then (if n = 0 then i else nthSet k (i + 1) (n - 1) (x / 2)) else nthSet k (i + 1) n (x / 2)

/-- `S(i)` of R147. -/
def Env.laneVal (e : Env) (f : Fibre) (a : BitVec 6) (i : Nat) : Word := e.laneReg f.group i a.toNat

/-- The lanes of the home group that count (R147). -/
def Env.liveLanes (e : Env) (f : Fibre) : List Nat := (List.range 64).filter fun i => e.laneLive f.group i

/-- The lanes with S(i) ≠ 0. -/
def Env.setLanes (e : Env) (f : Fibre) (a : BitVec 6) : List Nat :=
  (e.liveLanes f).filter fun i => e.laneVal f a i != 0

/-- LSHFL (R147). -/
def execLshfl (d a b : BitVec 6) (s : State) : Out :=
  s.setReg (.lshfl d a b) d fun e f => e.laneVal f a ((e.srcB f b).toNat % 64)
/-- LVOTEANY (R147). -/
def execLvoteany (p a : BitVec 6) (s : State) : Out :=
  s.setSpec (.lvoteany p a) p fun e f => (e.liveLanes f).any fun i => e.laneVal f a i != 0
/-- LVOTEALL (R147). -/
def execLvoteall (p a : BitVec 6) (s : State) : Out :=
  s.setSpec (.lvoteall p a) p fun e f => (e.liveLanes f).all fun i => e.laneVal f a i != 0
/-- LBALLOT (R147). -/
def execLballot (d a : BitVec 6) (s : State) : Out :=
  s.setPair (.lballot d a) d fun e f => (e.setLanes f a).foldl (fun m i => m ||| 1#64 <<< i) 0
/-- LRANK (R147). -/
def execLrank (d a : BitVec 6) (s : State) : Out :=
  s.setReg (.lrank d a) d fun e f => BitVec.ofNat 32 ((e.setLanes f a).filter (· < f.lane)).length
/-- LFIRST (R147). -/
def execLfirst (d a : BitVec 6) (s : State) : Out :=
  s.setReg (.lfirst d a) d fun e f => BitVec.ofNat 32 ((e.setLanes f a).headD 64)

/-- BXPOS (R148). -/
def execBxpos (d a b : BitVec 6) (s : State) : Out :=
  s.setPair (.bxpos d a b) d fun e f =>
    pairOf (BitVec.ofNat 32 (nthSet 64 0 (e.srcB f b).toNat (e.pairA f a).toNat))
      (BitVec.ofNat 32 (popCount 64 (e.pairA f a).toNat))
/-- BXCNT (R148). -/
def execBxcnt (d a b : BitVec 6) (s : State) : Out :=
  s.setReg (.bxcnt d a b) d fun e f => BitVec.ofNat 32 (popCount 64 (e.pairA f a &&& e.pairB f b).toNat)
/-- BMERGE (R148). -/
def execBmerge (d a b : BitVec 6) (s : State) : Out :=
  s.setPair (.bmerge d a b) d fun e f => e.pairA f a ||| e.pairB f b
/-- BMPRE (R148). -/
def execBmpre (d a b : BitVec 6) (s : State) : Out :=
  s.setReg (.bmpre d a b) d fun e f =>
    BitVec.ofNat 32 (popCount (min (e.srcB f b).toNat 64) (e.pairA f a).toNat)

end Sys2Proof.Machine
end

