-- ==== Sys2Proof/Machine/Logic.lean ====
section
/-! DEFINITION. Logic, shifts and bit fields, and the integer compares (06_isa_control_integer_lanes.md R138 to R140,
R142). -/

namespace Sys2Proof.Machine

/-- Leading zeros of the low `k` bits. -/
def leadZeros : Nat → Nat → Nat
  | 0, _ => 0
  | k + 1, n => if n / 2 ^ k % 2 = 1 then 0 else leadZeros k n + 1

/-- Trailing zeros of the low `k` bits. -/
def trailZeros : Nat → Nat → Nat
  | 0, _ => 0
  | k + 1, n => if n % 2 = 1 then 0 else trailZeros k (n / 2) + 1

/-- The low `k` bits in reverse order. -/
def reverseBits : Nat → Nat → Nat
  | 0, _ => 0
  | k + 1, n => n % 2 * 2 ^ k + reverseBits k (n / 2)

/-- The field of R139: position and extracted width. -/
def fieldPos (c : Word) : Nat := c.toNat % 32
def fieldWidth (c : Word) : Nat := min (fieldPos c + c.toNat / 256 % 64) 32 - fieldPos c

/-- `bfe` (R139). -/
def bfeWord (a c : Word) : Word := BitVec.ofNat 32 (a.toNat / 2 ^ fieldPos c % 2 ^ fieldWidth c)

/-- `bfes` (R139). -/
def bfesWord (a c : Word) : Word :=
  if fieldWidth c = 0 then 0
  else BitVec.ofInt 32 (signedOf (fieldWidth c) (a.toNat / 2 ^ fieldPos c % 2 ^ fieldWidth c))

/-- `bfi` (R139). -/
def bfiWord (a c t : Word) : Word :=
  let m := BitVec.ofNat 32 ((2 ^ fieldWidth c - 1) * 2 ^ fieldPos c)
  (t &&& ~~~m) ||| ((a <<< fieldPos c) &&& m)

/-- `bswap` (R138). -/
def bswapWord (a : Word) : Word := BitVec.ofNat 32 (ofLe (leBytes 4 a.toNat).reverse)

/-- AND (R138). -/
def execAnd (d a b : BitVec 6) (s : State) : Out := s.setReg (.and d a b) d fun e f => e.srcA f a &&& e.srcB f b
/-- OR (R138). -/
def execOr (d a b : BitVec 6) (s : State) : Out := s.setReg (.or d a b) d fun e f => e.srcA f a ||| e.srcB f b
/-- XOR (R138). -/
def execXor (d a b : BitVec 6) (s : State) : Out := s.setReg (.xor d a b) d fun e f => e.srcA f a ^^^ e.srcB f b
/-- ANDN (R138). -/
def execAndn (d a b : BitVec 6) (s : State) : Out := s.setReg (.andn d a b) d fun e f => e.srcA f a &&& ~~~(e.srcB f b)
/-- ORN (R138). -/
def execOrn (d a b : BitVec 6) (s : State) : Out := s.setReg (.orn d a b) d fun e f => e.srcA f a ||| ~~~(e.srcB f b)
/-- XNOR (R138). -/
def execXnor (d a b : BitVec 6) (s : State) : Out := s.setReg (.xnor d a b) d fun e f => ~~~(e.srcA f a ^^^ e.srcB f b)
/-- NOT (R138). -/
def execNot (d a : BitVec 6) (s : State) : Out := s.setReg (.not d a) d fun e f => ~~~(e.srcA f a)
/-- SHL (R138). -/
def execShl (d a b : BitVec 6) (s : State) : Out :=
  s.setReg (.shl d a b) d fun e f => e.srcA f a <<< ((e.srcB f b).toNat % 32)
/-- SHR (R138). -/
def execShr (d a b : BitVec 6) (s : State) : Out :=
  s.setReg (.shr d a b) d fun e f => e.srcA f a >>> ((e.srcB f b).toNat % 32)
/-- SRA (R138). -/
def execSra (d a b : BitVec 6) (s : State) : Out :=
  s.setReg (.sra d a b) d fun e f => (e.srcA f a).sshiftRight ((e.srcB f b).toNat % 32)
/-- ROTL (R138). -/
def execRotl (d a b : BitVec 6) (s : State) : Out :=
  s.setReg (.rotl d a b) d fun e f => (e.srcA f a).rotateLeft ((e.srcB f b).toNat % 32)
/-- ROTR (R138). -/
def execRotr (d a b : BitVec 6) (s : State) : Out :=
  s.setReg (.rotr d a b) d fun e f => (e.srcA f a).rotateRight ((e.srcB f b).toNat % 32)
/-- POPC (R138). -/
def execPopc (d a : BitVec 6) (s : State) : Out :=
  s.setReg (.popc d a) d fun e f => BitVec.ofNat 32 (popCount 32 (e.srcA f a).toNat)
/-- CLZ (R138). -/
def execClz (d a : BitVec 6) (s : State) : Out :=
  s.setReg (.clz d a) d fun e f => BitVec.ofNat 32 (leadZeros 32 (e.srcA f a).toNat)
/-- CTZ (R138). -/
def execCtz (d a : BitVec 6) (s : State) : Out :=
  s.setReg (.ctz d a) d fun e f => BitVec.ofNat 32 (trailZeros 32 (e.srcA f a).toNat)
/-- BREV (R138). -/
def execBrev (d a : BitVec 6) (s : State) : Out :=
  s.setReg (.brev d a) d fun e f => BitVec.ofNat 32 (reverseBits 32 (e.srcA f a).toNat)
/-- BFE (R139). -/
def execBfe (d a b : BitVec 6) (s : State) : Out := s.setReg (.bfe d a b) d fun e f => bfeWord (e.srcA f a) (e.srcB f b)
/-- BFES (R139). -/
def execBfes (d a b : BitVec 6) (s : State) : Out :=
  s.setReg (.bfes d a b) d fun e f => bfesWord (e.srcA f a) (e.srcB f b)
/-- BFI (R139). -/
def execBfi (d a b : BitVec 6) (s : State) : Out :=
  s.setReg (.bfi d a b) d fun e f => bfiWord (e.srcA f a) (e.srcB f b) (e.srcT f d)
/-- BSWAP (R138). -/
def execBswap (d a : BitVec 6) (s : State) : Out := s.setReg (.bswap d a) d fun e f => bswapWord (e.srcA f a)

/-- ICMP (R140). -/
def execIcmp (p a b : BitVec 6) (cond : BitVec 4) (s : State) : Out :=
  s.setSpec (.icmp p a b cond) p fun e f => icond 32 cond.toNat (e.srcA f a).toNat (e.srcB f b).toNat
/-- LCMP (R140). -/
def execLcmp (p a b : BitVec 6) (cond : BitVec 4) (s : State) : Out :=
  s.setSpec (.lcmp p a b cond) p fun e f => icond 64 cond.toNat (e.pairA f a).toNat (e.pairB f b).toNat
/-- ICMPI (R142). -/
def execIcmpi (p a : BitVec 6) (cond : BitVec 4) (imm : BitVec 7) (s : State) : Out :=
  s.setSpec (.icmpi p a cond imm) p fun e f => icond 32 cond.toNat (e.srcA f a).toNat (imm.signExtend 32).toNat

end Sys2Proof.Machine
end

