-- ==== Sys2Proof/Machine/Mgmt.lean ====
section
/-! DEFINITION. Boot, the management registers and the mailbox (25_package_host_boot_power.md R408, R409, R414 to R417;
21 R351, R365, R366; 24 R389, R390, R393, R395 to R400; 17 R315). -/

namespace Sys2Proof.Machine

/-! ## Boot (R408, R409) -/

/-- The image the host has placed at BAR4 offset 0: up to the last byte it has written that is not 0 (log 29). -/
def Boot.placed (b : Boot) : List Byte :=
  match b.area.getLast? with
  | none => []
  | some c => Memory.bytes b.area 0 (c.1 + 1)

/-- The image under check. -/
def Boot.image (b : Boot) : List Byte := if b.fromHost then b.placed else b.nvme.getD []

/-- BOOTST after a check: the first failure in R408's order, or 0. -/
def Boot.verdict (b : Boot) : Nat :=
  let img := b.image
  if !Config.imageFormat img then 2
  else if !Config.imageRsa img then 3
  else if !Config.imageSlh img then 4
  else if Config.imageVersion img < b.fuses then 5
  else 0

/-- The end of a check: the firmware runs and blows fuses up to its image's minimum version, or the ROM is in recovery. -/
def Boot.finish (b : Boot) : Boot :=
  if b.verdict = 0 then
    { b with status := 0, checking := false, running := some b.image,
             fuses := max b.fuses (min 64 (Config.imageMin b.image)) }
  else { b with status := b.verdict, checking := false }

/-- The boot ROM does something next: it begins with the drive's image or finds no source, or it finishes a check. -/
def Boot.busy (b : Boot) : Bool := b.checking || (b.status == 1 && b.running.isNone)

/-- One step of the boot ROM. -/
def Boot.next (b : Boot) : Boot :=
  if b.checking then b.finish
  else if b.nvme.isSome then { b with checking := true, fromHost := false }
  else { b with status := 6 }

/-- BOOTDB accepts a check: the ROM waits for the host, and no check is in progress (R408, R409). -/
def Boot.accepts (b : Boot) : Bool :=
  !b.checking && b.running.isNone && (decide (2 ≤ b.status) || (b.status == 1 && b.nvme.isNone))

/-- A mapping of BAR4 that R406 can have: within the aperture and within memory. -/
def mapOk (m : BarMap) : Bool := decide (m.off + m.len ≤ 2 ^ 36) && decide (m.phys + m.len ≤ memEnd)

/-- One step of the boot ROM. A firmware that starts maps BAR4 for its tenants (R406): which parts, for whom and where is a free value
(log 34). -/
def State.bootStep (s : State) : State :=
  let b := s.boot.next
  let s1 : State := { s with boot := b }
  if b.running.isSome && s.boot.running.isNone then
    { s1 with free := s.free + 1, barMap := (((Config.barMaps s.free).map fun x =>
        { off := x.1, len := x.2.1, phys := x.2.2.1, tenant := x.2.2.2 : BarMap }).filter mapOk) }
  else s1

/-- BOOTDB (R408, R409, R416): a write of 1 starts a check of the image the host has placed. -/
def execBootdb (v : BitVec 64) (s : State) : Out :=
  let s1 := s.hostAccess
  if v = 1 ∧ s.boot.accepts then
    .next { s1 with boot := { s.boot with status := 1, checking := true, fromHost := true } }
  else .next s1

/-! ## VS1 on working hardware (R399, R400) -/

/-- A slice's working cores at its sixteen positions, spares taken in order for failed ones (R400): position and core. -/
def State.positions (s : State) (slice : Nat) : List (Nat × Nat) :=
  let ok (c : Nat) : Bool := match s.core? (18 * slice + c) with
    | some k => !k.failed
    | none => false
  let bad := (List.range 16).filter fun c => !ok c
  let spares := [16, 17].filter ok
  ((List.range 16).filter ok).map (fun c => (c, 18 * slice + c)) ++ (bad.zip spares).map fun x => (x.1, 18 * slice + x.2)

/-- The physical cluster that a logical cluster takes first, of 4n. -/
def clusterPlace (n cluster : Nat) : Nat := cluster % (4 * n)

/-- The cores of a partition's physical clusters, by position: a spare counts for the core that it replaces (R400). -/
def State.clustersOf (s : State) (first n : Nat) : List (List Nat) :=
  (List.range n).flatMap fun i =>
    let ps := s.positions (first + i)
    (List.range 4).map fun k => (List.range 4).filterMap fun j => (ps.find? fun x => x.1 == 4 * k + j).map Prod.snd

/-- Logical cores that a map of logical to physical cores puts on a core. -/
def loadOf (m : List (Nat × Nat)) (k : Nat) : Nat := (m.filter fun x => x.2 == k).length

/-- Of some cores, the first with the fewest logical cores. -/
def leastLoaded (load : Nat → Nat) : List Nat → Option Nat
  | [] => none
  | k :: ks =>
    match leastLoaded load ks with
    | none => some k
    | some j => if load k ≤ load j then some k else some j

/-- Logical cores are put on cores of a list, one after another where the fewest are. -/
def placeCores (pool : List Nat) : List Nat → List (Nat × Nat) → List (Nat × Nat)
  | [], m => m
  | c :: cs, m =>
    match leastLoaded (loadOf m) pool with
    | none => m
    | some k => placeCores pool cs (m ++ [(c, k)])

/-- Logical clusters are put on physical clusters (R399): each whole on the first from its own place on that has room for it, with at most
`cap` logical cores to a core; where none has, its cores are spread over all. -/
def placeClusters (cap n : Nat) (clusters : List (List Nat)) : List Nat → List (Nat × Nat) → List (Nat × Nat)
  | [], m => m
  | l :: ls, m =>
    let room (p : List Nat) : Nat := cap * p.length - (p.map (loadOf m)).sum
    let order := clusters.rotateLeft (clusterPlace n l)
    let pool := (order.find? fun p => decide (4 ≤ room p)).getD clusters.flatten
    placeClusters cap n clusters ls (placeCores pool ((List.range 4).map (4 * l + ·)) m)

/-- Logical and physical core of every logical core of a partition, at most ⌈192 ÷ active⌉ to a core (R398, R399). -/
def State.coreMap (s : State) (first n : Nat) : List (Nat × Nat) :=
  let clusters := s.clustersOf first n
  let active := (clusters.map List.length).sum
  placeClusters ((191 + active) / max 1 active) n clusters (List.range 48) []

/-- Runs of a layout: first slice and size of each partition, in slice order (R396). -/
def Layout.runs (y : Layout) : List (Nat × Nat) :=
  ((List.range 12).filter fun p => y.slices.contains p).map fun p =>
    ((y.slices.idxOf p), (y.slices.filter (· == p)).length)

/-- Every partition presents VS1 on its working hardware: hosts, spares and the ports' engines are set anew (R399, R400). -/
def State.remap (s : State) (runs : List (Nat × Nat)) : State :=
  let map := runs.flatMap fun r => s.coreMap r.1 r.2
  let touched (slice : Nat) : Bool := runs.any fun r => decide (r.1 ≤ slice) && decide (slice < r.1 + r.2)
  let t := s.rehostPorts
  { t with cores := s.cores.map fun (k : Core) =>
      if touched (k.num / 18) then
        let hosts := (map.filter fun x => x.2 == k.num).map Prod.fst
        { k with hosts := hosts, spare := decide (16 ≤ k.num % 18) && hosts.isEmpty }
      else k }

/-- A slice has used both spares and multiplexes (R414 bit 0). -/
def State.sliceShort (s : State) (slice : Nat) : Bool :=
  decide (2 < (s.cores.filter fun k => k.num / 18 == slice && k.failed).length)

/-- REPLREQ bit 0 for the slices that need it. -/
def State.checkSpares (s : State) : State :=
  if (List.range 12).any s.sliceShort then s.raiseCond 0 else s

/-- More than 1% of the granules of a slice's stack are retired (R400, R414). -/
def State.stackWorn (s : State) (slice : Nat) : Bool :=
  decide (sliceGranules < 100 * (s.mgmt.retired.filter fun g => g / sliceGranules == slice).length)

/-- A condition of R414 holds. -/
def State.condHolds (s : State) (bit : Nat) : Bool :=
  match bit with
  | 0 => (List.range 12).any s.sliceShort
  | 1 => !s.failedEngines.isEmpty
  | 2 => (List.range 12).any s.stackWorn
  | 3 => s.guyPorts.any fun p => !p.up
  | _ => s.mgmt.overRate

/-- Bits of conditions that hold and whose REPLREQ bit is clear: they are set (R414). -/
def State.lostConds (s : State) : List Nat :=
  (List.range 5).filter fun i => s.condHolds i && s.mgmt.replreq / 2 ^ i % 2 == 0

/-- A bit is set again whose condition persists (R414). Whether correctable errors still exceed the rate is a free choice (log 38). -/
def State.setAgain (s : State) (bit : Nat) : State :=
  if bit = 4 then
    let r := s.choose 2
    if r.1 = 0 then { r.2 with mgmt := { r.2.mgmt with overRate := false } } else r.2.raiseCond 4
  else s.raiseCond bit

/-- RESET (R408, R400): the state after reset, but for what a reset does not touch: memory (log 7), fuses, the drive, what
has failed or is retired, the module's id, and what has left the device or is on its way to it. -/
def State.warmReset (s : State) : State :=
  let r := State.reset
  let s1 : State := { r with
    mem := s.mem, poison := s.poison, images := s.images, moduleId := s.moduleId, free := s.free, failedEngines := s.failedEngines,
    inputs := s.inputs.map fun x => (x.1 - s.clock, x.2),
    cores := r.cores.map fun k => { k with failed := s.cores.any fun x => x.num == k.num && x.failed },
    owners := s.mgmt.retired.map fun g => (g, 0),
    mgmt := { r.mgmt with overRate := s.mgmt.overRate, retired := s.mgmt.retired },
    fabricOut := s.fabricOut, hostReads := s.hostReads, spdmOut := s.spdmOut,
    boot := { r.boot with fuses := s.boot.fuses, nvme := s.boot.nvme } }
  let s2 := s1.remap [(0, 12)]
  s2.lostConds.foldl State.raiseCond s2

/-- RESET. -/
def execReset (s : State) : Out := .next s.warmReset

/-! ## Registers (R414 to R416) -/

/-- SNAPTRIG (R415, R416). -/
def execSnaptrig (v : BitVec 64) (s : State) : Out :=
  let n := v.toNat
  let units := if n / 2 ^ 16 % 2 = 0 then List.range 396
    else if n / 2 ^ 20 % 16 < 12 then sliceUnits (n / 2 ^ 20 % 16) else []
  .next (s.hostAccess.latchUnits units (n % 2 ^ 16) 1)

/-- SNAPTRIG_PIN (R415): the pin carries no label. -/
def execSnaptrigPin (s : State) : Out := .next (s.latchFree (List.range 396) 2)

/-- REPLREQ (R414): ones clear bits. -/
def execReplreq (v : BitVec 64) (s : State) : Out :=
  let s1 := s.hostAccess
  .next { s1 with mgmt := { s.mgmt with replreq := s.mgmt.replreq - (s.mgmt.replreq &&& v.toNat) } }

/-- MBDB (R416, R417): dropped while busy; without firmware there is nobody to take it (log 33). -/
def State.mailboxDoorbell (s : State) (code : Nat) : State :=
  if s.mgmt.busy || !s.firmware then s
  else { s with mgmt := { s.mgmt with busy := true, pending := some code } }

/-- REGISTER_WRITE (R416): by offset; a read-only or unlisted one ignores the write. -/
def execRegisterWrite (off : Nat) (v : BitVec 64) (s : State) : Out :=
  let s1 := s.hostAccess
  match off with
  | 0x10 => execBootdb v s
  | 0x20 => execReplreq v s
  | 0x28 => execSnaptrig v s
  | 0x30 => .next { s1 with mgmt := { s.mgmt with snapmask := v.toNat } }
  | 0x200 => .next (s1.mailboxDoorbell v.toNat)
  | _ =>
    if 0x100 ≤ off ∧ off ≤ 0x1F8 ∧ off % 8 = 0 then
      .next { s1 with mgmt := { s.mgmt with mbox := s.mgmt.mbox.set ((off - 0x100) / 8) v.toNat } }
    else .next s1

/-! ## Mailbox commands (R416, R417) -/

/-- Word w of MBOX. -/
def State.word (s : State) (w : Nat) : Nat := s.mgmt.mbox.getD w 0

/-- The end of a command: results, then the status, then busy cleared (R417). -/
def State.mboxDone (s : State) (status : Nat) (results : List (Nat × Nat)) : State :=
  { s with mgmt := { s.mgmt with
      mbox := results.foldl (fun m r => m.set r.1 (r.2 % 2 ^ 64)) s.mgmt.mbox, status := status, busy := false,
      pending := none } }

/-- A refusal. -/
def State.mboxFail (s : State) (code : FaultCode) : State := s.mboxDone code.num []

/-- A command runs when the firmware has its code; words that are not its arguments must be 0 (R417). -/
def State.mailbox (s : State) (code : Nat) (args : List Nat) (run : State → State) : Out :=
  if s.mgmt.pending ≠ some code then .next s
  else if (List.range 32).any fun w => !args.contains w && s.word w != 0 then .next (s.mboxFail .illegalField)
  else .next (run s)

/-- Several words as one number. -/
def State.words (s : State) (first n : Nat) : Nat :=
  (List.range n).foldl (fun t i => t + s.word (first + i) * 2 ^ (64 * i)) 0

/-- An export entry of 256 bits (R389). -/
def exportOf (n : Nat) : Export :=
  { base := bitsOf n 207 160, len := bitsOf n 159 120, sender := bitsOf n 119 108, tenant := bitsOf n 107 96,
    launch := bitsOf n 95 64, gate := bitsOf n 63 52, gslice := bitsOf n 51 48, window := bitsOf n 47 32 }

/-- Every row of R389 holds, and the tenant has the launch. -/
def State.exportOk (s : State) (n : Nat) : Bool :=
  let e := exportOf n
  bitsOf n 255 208 == 0 && e.base % 8 == 0 && e.len != 0 && e.tenant != 0 && e.tenant != 0xFFF && e.gslice ≤ 11
    && bitsOf n 31 1 == 0
    && match s.launch? e.launch with
       | some l => l.tenant == e.tenant && !l.ended
       | none => false

/-- The lowest free window number. -/
def State.freeWindow (s : State) : Option Nat :=
  ((List.range 65535).map (· + 1)).find? fun w => !s.exports.any fun e => e.window == w

/-- Register an entry under a window number. -/
def State.addExport (s : State) (e : Export) (window : Nat) : State :=
  if (s.exports.any fun x => x.window == window) || 4096 ≤ s.exports.length then s.mboxFail .indexExhausted
  else ({ s with exports := s.exports ++ [{ e with window := window }] } : State).mboxDone 0 [(0, window)]

/-- REGISTER_EXPORT_ENTRY (R389, R417). -/
def execRegisterExportEntry (s : State) : Out :=
  s.mailbox 1 [0, 1, 2, 3] fun s =>
    let n := s.words 0 4
    let e := exportOf n
    if n % 2 = 0 then
      if e.window = 0 then s.mboxFail .illegalField
      else ({ s with exports := s.exports.filter fun x => x.window != e.window } : State).mboxDone 0 [(0, e.window)]
    else if !s.exportOk n then s.mboxFail .illegalField
    else if e.window = 0 then
      match s.freeWindow with
      | some w => s.addExport e w
      | none => s.mboxFail .indexExhausted
    else s.addExport e e.window

/-- REGISTER_IMPORT_ENTRY (R390, R417) (log 35). -/
def execRegisterImportEntry (s : State) : Out :=
  s.mailbox 2 [0, 1, 2] fun s =>
    let n := s.words 0 2
    let id := s.word 2 % 65536
    let rest := s.imports.filter fun x => x.objid != id
    let e : Import := { objid := id, len := bitsOf n 103 64, module := bitsOf n 43 32, window := bitsOf n 31 16 }
    if id = 0 then s.mboxFail .illegalField
    else if n % 2 = 0 then ({ s with imports := rest } : State).mboxDone 0 []
    else if bitsOf n 127 104 ≠ 0 ∨ bitsOf n 63 44 ≠ 0 ∨ bitsOf n 15 1 ≠ 0 ∨ e.len = 0 ∨ e.module = 0xFFF ∨ e.window = 0 then
      s.mboxFail .illegalField
    else if 4096 ≤ rest.length then s.mboxFail .indexExhausted
    else ({ s with imports := rest ++ [e] } : State).mboxDone 0 []

/-- The modules of a box (R417 command 3), by id. -/
def boxMembers (lo hi : Nat) : List Nat :=
  (List.range 4096).filter fun m => (List.range 3).all fun i =>
    decide (lo / 16 ^ i % 16 ≤ m / 16 ^ i % 16) && decide (m / 16 ^ i % 16 ≤ hi / 16 ^ i % 16)

/-- JOIN_POD_GROUP (R393, R417) (log 36). -/
def execJoinPodGroup (s : State) : Out :=
  s.mailbox 3 [0, 1, 2] fun s =>
    let lo := s.word 1 % 4096
    let hi := s.word 1 / 4096 % 4096
    let ext (i : Nat) : Nat := s.word 2 / 16 ^ i % 16 + 1
    let ms := boxMembers lo hi
    if (List.range 3).any (fun i => hi / 16 ^ i % 16 < lo / 16 ^ i % 16 || ext i ≤ hi / 16 ^ i % 16)
        || ms.length < 2 || 2048 < ms.length || 2048 < ext 0 * ext 1 * ext 2 || !ms.contains s.moduleId then
      s.mboxFail .illegalField
    else if s.pod.isSome then s.mboxFail .fabric
    else
      ({ s with pod := some { tag := s.word 0 % 2 ^ 32, members := ms, count := 0 }, torus := (ext 0, ext 1, ext 2) } :
        State).mboxDone 0 [(0, ms.length)]

/-- REMOVE_POD_MEMBER (R395, R417): a module that removes itself is in no group (log 36). -/
def execRemovePodMember (s : State) : Out :=
  s.mailbox 4 [0] fun s =>
    let id := s.word 0 % 4096
    match s.pod with
    | none => s.mboxFail .illegalField
    | some p =>
      if !p.members.contains id then s.mboxFail .illegalField
      else
        let rest := p.members.filter (· != id)
        ({ s with pod := if id = s.moduleId then none else some { p with members := rest } } : State).mboxDone 0
          [(0, rest.length)]

/-! ## Debuggers (R351) -/

/-- The launch's fibres wait at a gated `rstop` that names a gate (R351) (log 37). -/
def Launch.waitsOn (l : Launch) (k : Nat × Nat × Nat) : Bool :=
  let fs := l.blockList.flatMap fun b => b.fibres.filter Fibre.live
  let names := l.named ++ l.blockList.flatMap fun b => b.named.map Prod.fst
  !fs.isEmpty && fs.all Fibre.isAtRstop && names.any fun n => l.gateIndex n == k

/-- ATTACH_DEBUGGER (R351, R417). -/
def execAttachDebugger (s : State) : Out :=
  s.mailbox 5 [0, 1] fun s =>
    match s.launch? (s.word 1 % 2 ^ 32) with
    | none => s.mboxFail .illegalField
    | some l =>
      match (if s.word 0 < 2 ^ 48 then s.region? (rkey l.tenant (s.word 0)) else none) with
      | none => s.mboxFail .illegalField
      | some r =>
        if l.ended then s.mboxFail .illegalField
        else if !l.sup then s.mboxFail .privilege
        else if !l.waitsOn (l.tenant, s.eff r.rcb 7 Region.hslice, s.eff r.rcb 7 Region.hgate) then
          s.mboxFail .engineHazard
        else (s.modRegion r.rcb fun x => { x with dbg := some { launch := l.id } }).mboxDone 0 []

/-- DETACH_DEBUGGER (R351, R417). -/
def execDetachDebugger (s : State) : Out :=
  s.mailbox 6 [0] fun s =>
    match s.regions.find? fun r => r.addr == s.word 0 && r.dbg.isSome with
    | none => s.mboxFail .illegalField
    | some r => (s.modRegion r.rcb fun x => { x with dbg := none }).mboxDone 0 []

/-! ## Partition layout (R396, R397) -/

/-- Nibbles of a word. -/
def nibbles (w n : Nat) : List Nat := (List.range n).map fun i => w / 16 ^ i % 16

/-- Partition numbers rise from 0 in slice order. -/
def numbered : Nat → List Nat → Bool
  | _, [] => true
  | p, x :: xs => (x == p || x == p + 1) && numbered x xs

/-- A layout is one of R396 and R397: sizes, first slices, and at least one copy-engine group for each partition. -/
def Layout.ok (y : Layout) : Bool :=
  let runs := y.runs
  y.slices.head? == some 0 && numbered 0 y.slices
    && runs.all (fun r => [1, 2, 3, 4, 6, 12].contains r.2 && r.1 % r.2 == 0)
    && y.groups.all (fun g => g == 15 || decide (g < runs.length))
    && (List.range runs.length).all fun p => y.groups.contains p

/-- SET_PARTITION_LAYOUT (R396, R397, R417). -/
def execSetPartitionLayout (s : State) : Out :=
  s.mailbox 7 [0, 1] fun s =>
    let y : Layout := { slices := nibbles (s.word 0) 12, groups := nibbles (s.word 1) 12 }
    if !y.ok then s.mboxFail .illegalField
    else if s.tenants.any fun t => !y.runs.contains (t.first, t.slices) then s.mboxFail .engineHazard
    else
      let fresh := y.runs.filter fun r => !s.layout.runs.contains r
      (({ s with layout := y } : State).remap fresh).mboxDone 0 []

/-! ## Tenant switch (R365, R366) -/

/-- Dispatch applies every record that waits in a core (R334). -/
def State.drainCore (s : State) (core : Nat) : Nat → State
  | 0 => s
  | n + 1 => (s.dispatchRecord core fun _ => true).drainCore core n

/-- Several cores. -/
def State.drainCores (s : State) : List Nat → State
  | [] => s
  | c :: cs => (s.drainCore c 256).drainCores cs

/-- Blocks of several launches stop (R365 item 2). -/
def State.stopLaunches (s : State) : List Launch → State
  | [] => s
  | l :: ls => (s.stopBlocks l.id l.blockList).stopLaunches ls

/-- Launches of a tenant. -/
def State.tenantLaunches (s : State) (t : Nat) : List Launch := s.launches.filter fun l => l.tenant == t

/-- A command that stands inside a position goes on to its next resumable point (R256): at most as many lines as one position has. -/
def State.toPoint (s : State) (cmd : Nat) : Nat → State
  | 0 => s
  | n + 1 =>
    match s.cmd? cmd with
    | none => s
    | some c =>
      if c.phase ≠ .running ∨ c.resumable = true then s
      else
        match (if c.outs.isEmpty && !c.sourceDone then execEngineSourceLine cmd s else execEngineOutputLine cmd s) with
        | .next t => t.toPoint cmd n
        | _ => s

/-- Lines of the widest position of a gather command. -/
def positionLines : Nat := 1024

/-- Several commands. -/
def State.toPoints (s : State) : List Nat → State
  | [] => s
  | c :: cs => (s.toPoint c positionLines).toPoints cs

/-- The quiesce of a partition (R365): its blocks are unbound or aborted, its commands stop at their resumable points and
its ports are released. -/
def State.quiesce (s : State) (t : Tenant) : State :=
  let cores := (s.cores.filter fun k => s.sliceIn t.num (k.num / 18)).map Core.num
  let s0 := s.drainCores cores
  let ofTenant (s : State) (c : Cmd) : Bool := (s.tenantLaunches t.num).any fun l => l.id == c.launch
  let s2 := (s0.stopLaunches (s0.tenantLaunches t.num)).drainCores cores
  let s1 := s2.toPoints ((s2.cmds.filter (ofTenant s2)).map Cmd.id)
  let mine (c : Cmd) : Bool := ofTenant s1 c
  { s1 with
    cmds := s1.cmds.map fun (c : Cmd) =>
      if mine c && !c.isLaunch && (c.phase == .running || c.phase == .staged) then { c with phase := .held } else c,
    ports := s1.ports.map fun (p : Port) =>
      let p1 := if p.holder.any fun r => r / 2 ^ 48 == t.num then p.release else p
      { p1 with queue := p1.queue.filter fun q => !(s1.cmds.any fun c => c.id == q && mine c) } }

/-- Granules of an owner. -/
def State.granulesOf (s : State) (t : Nat) : List Nat :=
  ((s.owners.filter fun o => o.2 == t).map Prod.fst).foldl (fun m g => insertNat g m) []

/-- The image of a quiesced tenant, but for its digest (R363, R366). -/
def State.imageOf (s : State) (t : Tenant) : TenantImage :=
  let ls := s.tenantLaunches t.num
  let mine (l : Nat) : Bool := ls.any fun x => x.id == l
  let gs := s.granulesOf t.num
  { digest := [], version := Config.imageVersion (s.boot.running.getD []), tenant := t, launches := ls,
    regions := s.regions.filter fun r => r.tenant == t.num, sparse := s.sparse.filter fun r => r.tenant == t.num,
    gates := s.gates.filter fun g => g.tenant == t.num, cmds := s.cmds.filter fun c => mine c.launch,
    ports := s.ports.flatMap fun p => (p.saved.filter fun x => x.region / 2 ^ 48 == t.num).map fun x => (p.num % 96, x),
    barMap := s.barMap.filter fun m => m.tenant == t.num,
    scratchPoison := s.scratchPoison.filter fun p => mine p.1, granules := gs,
    cells := s.mem.filter fun c => gs.contains (c.1 / unit), poison := s.poison.filter fun l => gs.contains (l * 128 / unit) }

/-- The tenant leaves the device: everything that the image holds is gone and its granules are free (log 30). -/
def State.dropTenant (s : State) (t : Nat) : State :=
  let ls := s.tenantLaunches t
  let mine (l : Nat) : Bool := ls.any fun x => x.id == l
  let gs := s.granulesOf t
  { s with
    tenants := s.tenants.filter fun x => x.num != t, launches := s.launches.filter fun l => l.tenant != t,
    regions := s.regions.filter fun r => r.tenant != t, sparse := s.sparse.filter fun r => r.tenant != t,
    gates := s.gates.filter fun g => g.tenant != t, cmds := s.cmds.filter fun c => !mine c.launch,
    ports := s.ports.map fun (p : Port) => { p with saved := p.saved.filter fun x => x.region / 2 ^ 48 != t },
    barMap := s.barMap.filter fun m => m.tenant != t, scratchPoison := s.scratchPoison.filter fun p => !mine p.1,
    owners := s.owners.filter fun o => o.2 != t, poison := s.poison.filter fun l => !gs.contains (l * 128 / unit),
    cores := s.cores.map fun (k : Core) => { k with
      ranges := k.ranges.filter fun e => e.tenant != t, code := k.code.filter fun x => !mine x.1,
      launchTable := k.launchTable.filter fun x => !mine x.2, blockTable := k.blockTable.filter fun x => !mine x.launch,
      cache := k.cache.filter fun x => !gs.contains (x.line * 128 / unit) },
    slices := s.slices.map fun (x : Slice) => if (x.moving.any fun m => m.1 == t) then { x with moving := none }
      else if x.draining.any fun d => d.tenant == t then { x with draining := none } else x }

/-- The image area is acceptable: whole granules of the firmware that BAR4 reaches (R417) (log 34). -/
def State.areaOk (s : State) (pa len : Nat) : Bool :=
  pa % unit == 0 && decide (pa + len ≤ memEnd)
    && (List.range ((len + unit - 1) / unit)).all (fun i => s.owner (pa + i * unit) == 0)
    && s.barMap.any fun m => m.tenant == 0 && decide (m.phys ≤ pa) && decide (pa + len ≤ m.phys + m.len)

/-- Bytes of an image: the spec gives no layout, so each is a free value (log 2) (log 30). -/
def freeImage (start n : Nat) : List Byte := (List.range n).map fun i => Config.freeBits (start + i) 8

/-- The bound blocks of a tenant. -/
def State.boundOf (s : State) (t : Nat) : List Cand :=
  ((s.tenantLaunches t).filter fun l => !l.ended).flatMap fun l =>
    (l.blockList.filter fun b => b.groups.any Group.bound && b.graceEnd.isNone).map fun b => { l := l, b := b }

/-- Several blocks must leave their cores. -/
def State.giveGraces (s : State) : List Cand → State
  | [] => s
  | c :: cs => (s.giveGrace c (c.b.groups.filter Group.bound)).giveGraces cs

/-- Items 1 and 2 of R365: records that are written are applied and none is written any more; a block at a blocking point is unbound,
and every other one is given its grace. -/
def State.beginQuiesce (s : State) (t : Tenant) : State :=
  let s1 := s.drainCores ((s.cores.filter fun k => s.sliceIn t.num (k.num / 18)).map Core.num)
  s1.giveGraces (s1.boundOf t.num)

/-- Work of the tenant is still on a core, or a record waits to take it off. -/
def State.onCores (s : State) (t : Nat) : Bool :=
  s.cores.any fun k => k.contexts.any fun x => (s.launch? x.launch).any fun l => l.tenant == t

/-- A tenant's image is written to its area, and the tenant leaves (R366). -/
def State.saveTenant (s : State) (t : Tenant) (pa size : Nat) : State :=
  let q := s.quiesce t
  let bytes := freeImage q.free size
  let img := { q.imageOf t with digest := sha256 bytes }
  let s1 := ({ q with free := q.free + size, images := img :: q.images } : State).dropTenant t.num
  let word (i : Nat) : Nat := ofLe ((img.digest.drop (8 * i)).take 8)
  (s1.writeRun pa bytes).mboxDone 0 [(0, size), (1, word 0), (2, word 1), (3, word 2), (4, word 3)]

/-- The command goes on once nothing of the tenant is on a core (R365 items 3 and 4). -/
def State.goOnSaving (s : State) (tenant pa len extra : Nat) : State :=
  if s.onCores tenant then s
  else
    let s1 : State := { s with mgmt := { s.mgmt with begun := none } }
    let size := (s.granulesOf tenant).length * unit + extra
    match s.tenant? tenant with
    | none => s1.mboxFail .illegalField
    | some t => if len < size then s1.mboxFail .indexExhausted else s1.saveTenant t pa size

/-- TENANT_SAVE (R365, R366, R417): the quiesce begins when the command is accepted, and the image is written when it is complete. -/
def execTenantSave (s : State) : Out :=
  match s.mgmt.begun with
  | some (.save tenant pa len extra) => .next (s.goOnSaving tenant pa len extra)
  | _ =>
    s.mailbox 8 [0, 1, 2] fun s =>
      let pa := s.word 1
      let len := s.word 2
      match s.tenant? (s.word 0 % 4096) with
      | none => s.mboxFail .illegalField
      | some t =>
        if !s.areaOk pa len then s.mboxFail .illegalField
        else
          let extra := Config.freeChoice s.free
          let s1 : State := { s with free := s.free + 1 }
          if len < (s.granulesOf t.num).length * unit + extra then s1.mboxFail .indexExhausted
          else
            ({ s1 with mgmt := { s.mgmt with begun := some (.save t.num pa len extra) } } : State).beginQuiesce t

/-- Runs of memory that an image must keep whole, first byte and length: each range with its descriptor's one base, a PARTIAL range's
bitmap, the directory, and the launches' spill ranges (R232, R297, R315). -/
def TenantImage.whole (i : TenantImage) : List (Nat × Nat) :=
  let es := (List.range i.tenant.ndir).map fun k => entryOf (Memory.num i.cells (i.tenant.dir + 32 * k) 32)
  es.map (fun e => (e.pbase * unit, e.units * unit))
    ++ (es.filter RangeEntry.part).map (fun e => (e.bitmap, (e.units + 63) / 64 * 8))
    ++ [(i.tenant.dir, 32 * i.tenant.ndir)] ++ i.launches.map fun l => (l.spillbase, l.spilllen)

/-- Granules g and g + 1 lie in one of some runs. -/
def linked (whole : List (Nat × Nat)) (g : Nat) : Bool :=
  whole.any fun w => decide (w.1 / unit ≤ g) && decide ((g + 1) * unit < w.1 + w.2)

/-- Runs of consecutive granules that must stay together: first and length. -/
def runsOf (whole : List (Nat × Nat)) : List Nat → List (Nat × Nat)
  | [] => []
  | g :: gs =>
    match runsOf whole gs with
    | [] => [(g, 1)]
    | r :: rs => if r.1 = g + 1 ∧ linked whole g = true then (g, r.2 + 1) :: rs else (g, 1) :: r :: rs

/-- The longest runs first. -/
def insertRun (r : Nat × Nat) : List (Nat × Nat) → List (Nat × Nat)
  | [] => [r]
  | x :: xs => if x.2 < r.2 then r :: x :: xs else x :: insertRun r xs

/-- Free runs of a partition. -/
def State.partitionRuns (s : State) (first n : Nat) : List (Nat × Nat) :=
  s.freeRunsFrom (sliceGranules * n) (sliceGranules * first) none

/-- A place for every run of an image in the partition, the longest run first, each in the lowest free run that holds it: old first
granule, new one, length (R366 item 1) (log 12). -/
def State.allot (s : State) (t first n : Nat) : List (Nat × Nat) → Option (State × List (Nat × Nat × Nat))
  | [] => some (s, [])
  | r :: rs =>
    match (s.partitionRuns first n).find? fun x => decide (r.2 ≤ x.2) with
    | none => none
    | some x =>
      match (s.setOwner (x.1 * unit) (r.2 * unit) t).allot t first n rs with
      | none => none
      | some y => some (y.1, (r.1, x.1, r.2) :: y.2)

/-- Where a physical address of an image has gone. -/
def moved (map : List (Nat × Nat × Nat)) (pa : Nat) : Nat :=
  match map.find? fun m => decide (m.1 ≤ pa / unit) && decide (pa / unit < m.1 + m.2.2) with
  | some m => pa - m.1 * unit + m.2.1 * unit
  | none => pa

/-- The bytes of some granules are gone. -/
def Memory.clear (m : Memory) (gs : List Nat) : Memory := m.filter fun c => !gs.contains (c.1 / unit)

/-- Cells at new places. -/
def Memory.putCells (m : Memory) (f : Nat → Nat) : List Host.Cell → Memory
  | [] => m
  | c :: cs => Memory.putCells (m.set (f c.1) c.2) f cs

/-- The parts of an image with their physical addresses moved, and its commands' ports those of the new partition. -/
def TenantImage.rebase (i : TenantImage) (first : Nat) (f : Nat → Nat) : TenantImage :=
  let fl (line : Nat) : Nat := f (128 * line) / 128
  let fg (g : Nat) : Nat := f (g * unit) / unit
  let con (c : Contrib) : Contrib := if c.space == .global then { c with phys := f c.phys } else c
  { i with
    launches := i.launches.map fun (l : Launch) =>
      { l with roundLog := l.roundLog.map con, woSecond := l.woSecond.map con, logPoison := l.logPoison.map fl,
               stale := l.stale.map fun x => { x with line := fl x.line }, landing := l.landing.map fun x => (fl x.1, x.2),
               spillExt := l.spillExt.map fg, spillbase := f l.spillbase,
               blockList := l.blockList.map fun b =>
                 { b with contribs := b.contribs.map con, area := b.area.map fg, bufPoison := b.bufPoison.map (moveEntry fl),
                          fibres := b.fibres.map fun x => { x with loads := x.loads.map fun p => { p with line := [] } } } },
    cmds := i.cmds.map fun (c : Cmd) =>
      { c with port := c.port.map fun p => 96 * first + p % 96, frees := c.frees.map fg,
               before := c.before.map fun x => (fl x.1, x.2) },
    tenant := { i.tenant with dir := f i.tenant.dir },
    sparse := i.sparse.map fun x => { x with desc := f x.desc, poolLimit := f (x.poolLimit - 1) + 1 },
    barMap := i.barMap.map fun m => { m with phys := f m.phys }, poison := i.poison.map fl }

/-- Pool addresses in sparse descriptors at their new places (R312). -/
def State.fixPools (s : State) (f : Nat → Nat) : List Sparse → State
  | [] => s
  | r :: rs => (s.outsideWrite none (r.desc + 40) ((leBytes 8 (f (s.mem.num (r.desc + 40) 8))).map some)).fixPools f rs

/-- Descriptors at their new places, each with its generation raised (R366 item 2). -/
def State.fixDir (s : State) (t : Tenant) (f : Nat → Nat) : State :=
  s.writeDescs t 0 (((s.dirList t).map entryOf).map fun e =>
    { e.next with pbase := f (e.pbase * unit) / unit, bitmap := if e.part then f e.bitmap else e.bitmap })

/-- Blocks of launches that are not suspended and could go on wait to be placed (R365, R366 item 4). -/
def Launch.awake (l : Launch) (clock : Nat) : Launch :=
  { l with blockList := l.blockList.map fun b =>
      { b with lastCommit := clock, waitStart := if b.status = .waiting then clock else b.waitStart,
               groups := b.groups.map fun g => { g with bound := false, ready := clock } } }

/-- Restore the parts of an image (R366 items 2 to 4). -/
def State.putImage (s : State) (img : TenantImage) (first : Nat) (map : List (Nat × Nat × Nat)) : State :=
  let f := moved map
  let i := img.rebase first f
  let s0 := s.ensurePorts first
  let t : Tenant := { i.tenant with first := first }
  let gs := map.flatMap fun m => (List.range m.2.2).map (m.2.1 + ·)
  let ls := i.launches.map fun l => l.awake s.clock
  let s1 : State := { s with
    mem := (s.mem.clear gs).putCells f img.cells, poison := (s.poison.filter fun l => !gs.contains (l * 128 / unit)) ++ i.poison,
    tenants := s.tenants ++ [t], launches := s.launches ++ ls, regions := s.regions ++ i.regions,
    sparse := s.sparse ++ i.sparse, gates := s.gates ++ i.gates, cmds := s.cmds ++ i.cmds, barMap := s.barMap ++ i.barMap,
    scratchPoison := s.scratchPoison ++ i.scratchPoison,
    ports := s0.ports.map fun (p : Port) =>
      { p with saved := p.saved ++ (i.ports.filter fun x => 96 * first + x.1 == p.num).map Prod.snd } }
  let s2 := (s1.fixPools f i.sparse).fixDir t f
  s2.resumeCmds ((ls.filter fun l => !l.suspended).map Launch.id)

/-- TENANT_RESTORE (R366, R417): the image is known by the digest of its bytes (log 31). -/
def execTenantRestore (s : State) : Out :=
  s.mailbox 9 [0, 1, 2] fun s =>
    let fail (detail : Nat) (code : FaultCode) : State := s.mboxDone code.num [(0, detail)]
    let first := s.word 0 % 16
    match s.images.find? fun i => i.digest == sha256 (s.mem.bytes (s.word 1) (s.word 2)) with
    | none => fail 3 .format
    | some i =>
      let now := Config.imageVersion (s.boot.running.getD [])
      let r := if i.version = now then (0, s) else s.choose 2
      if r.1 ≠ 0 then r.2.mboxDone FaultCode.format.num [(0, 4)]
      else
        match s.layout.runs.find? fun x => x.1 == first with
        | none => r.2.mboxDone FaultCode.illegalField.num [(0, 1)]
        | some run =>
          if run.2 ≠ i.tenant.slices then r.2.mboxDone FaultCode.illegalField.num [(0, 1)]
          else if s.tenants.any fun t => t.num == i.tenant.num || t.first == first then
            r.2.mboxDone FaultCode.indexExhausted.num [(0, 2)]
          else
            match r.2.allot i.tenant.num first run.2 ((runsOf i.whole i.granules).foldr insertRun []) with
            | none => r.2.mboxDone FaultCode.indexExhausted.num [(0, 2)]
            | some x => (x.1.putImage i first x.2).mboxDone 0 [(0, 0), (1, i.tenant.num)]

/-! ## Range descriptors (R315) -/

/-- Two ranges of a directory overlap. -/
def RangeEntry.meets (a b : RangeEntry) : Bool := decide (a.vbase < b.limit) && decide (b.vbase < a.limit)

/-- Insert a descriptor in sorted place. -/
def insertRange (e : RangeEntry) : List RangeEntry → List RangeEntry
  | [] => [e]
  | x :: xs => if e.vbase < x.vbase then e :: x :: xs else x :: insertRange e xs

/-- The removal of a range ends once no access of before is on its way to it (R300, R417). -/
def State.endRemoval (s : State) (tenant since lo len count : Nat) : State :=
  let begun : Option Begun := if s.onItsWay tenant since [(lo, len)] then some (.range tenant since lo len count) else none
  let s1 : State := { s with mgmt := { s.mgmt with begun := begun } }
  if begun.isSome then s1 else s1.mboxDone 0 [(0, count)]

/-- WRITE_RANGE_DESCRIPTOR (R315, R417): a removal follows R300. -/
def execWriteRangeDescriptor (s : State) : Out :=
  match s.mgmt.begun with
  | some (.range tenant since lo len count) => .next (s.endRemoval tenant since lo len count)
  | _ =>
    s.mailbox 10 [0, 1, 2, 3, 4, 5] fun s =>
      let d := s.words 1 4
      let e := entryOf d
      match s.tenant? (s.word 0 % 4096) with
      | none => s.mboxFail .illegalField
      | some t =>
        let all := (s.dirList t).map entryOf
        if s.word 5 % 2 = 1 then
          match all.find? fun x => x.vbase == e.vbase with
          | none => s.mboxFail .rangeMiss
          | some old =>
            if s.moveInFlight t.num e.vbase then s.mboxFail .engineHazard
            else
              let rest := all.filter fun x => x.vbase != e.vbase
              (s.setDir t rest [e.vbase]).endRemoval t.num s.clock (old.vbase * unit) (old.units * unit) rest.length
        else if descBad t.num d || all.any e.meets then s.mboxFail .format
        else if min t.cap 65535 ≤ t.ndir then s.mboxFail .indexExhausted
        else if !s.ownsRun t.num (e.pbase * unit) (e.units * unit) then s.mboxFail .ownership
        else
          let es := insertRange e all
          (s.setDir t es []).mboxDone 0 [(0, es.length)]

/-- MAILBOX_UNKNOWN_COMMAND (R416). -/
def execMailboxUnknownCommand (code : Nat) (s : State) : Out :=
  if s.mgmt.pending = some code ∧ (code = 0 ∨ 10 < code) then .next (s.mboxFail .illegalOpcode) else .next s

end Sys2Proof.Machine
end

