-- ==== Sys2Proof/Machine/Move.lean ====
section
/-! DEFINITION. Moves, special registers and predicates (06_isa_control_integer_lanes.md R144 to R146; 22 R380). -/

namespace Sys2Proof.Machine

/-- The special registers of R145, but for `clock`'s latch; code 12 is the low half of the cycle count. -/
def Env.special (e : Env) (f : Fibre) (sr : Nat) : Word :=
  let region := e.s.region? e.l.rcb
  match sr with
  | 0 => BitVec.ofNat 32 f.id
  | 1 => BitVec.ofNat 32 e.b.index
  | 2 => BitVec.ofNat 32 e.l.blockdim
  | 3 => BitVec.ofNat 32 e.l.nblocks
  | 4 => BitVec.ofNat 32 f.lane
  | 5 => BitVec.ofNat 32 f.group
  | 6 => BitVec.ofNat 32 e.b.step
  | 7 => BitVec.ofNat 32 e.l.round
  | 8 => BitVec.ofNat 32 (e.b.index % 192)
  | 9 => BitVec.ofNat 32 (e.b.index % 192 / 4)
  | 10 => BitVec.ofNat 32 (e.b.index % 192 / 16)
  | 11 => 1
  | 12 => BitVec.ofNat 32 e.is.cycle
  | 13 => f.clockh
  | 14 => BitVec.ofNat 32 (e.s.eff e.l.rcb 0 Region.prio)
  | 15 => BitVec.ofNat 32 ((region.map Region.regionid).getD 0)
  | 16 => BitVec.ofNat 32 e.l.id
  | 17 => if f.trap.mode then 1 else 0
  | 18 => f.trap.epc
  | 19 => f.trap.ecause
  | 20 => f.trap.einfo0
  | 21 => f.trap.einfo1
  | 22 => BitVec.ofNat 32 e.l.tenant
  | 23 => BitVec.ofNat 32 ((region.map Region.ltolSeen).getD 0)
  | _ => BitVec.ofNat 32 e.b.spawnLeft

/-- The writable trap registers (R380). -/
def TrapRegs.put (t : TrapRegs) (sr : Nat) (v : Word) : TrapRegs :=
  match sr with
  | 18 => { t with epc := v }
  | 19 => { t with ecause := v }
  | 20 => { t with einfo0 := v }
  | 21 => { t with einfo1 := v }
  | _ => t

/-- MOV (R144). -/
def execMov (d a : BitVec 6) (s : State) : Out := s.setReg (.mov d a) d fun e f => e.srcA f a
/-- ISEL (R144). -/
def execIsel (d a b : BitVec 6) (s : State) : Out :=
  s.setReg (.isel d a b) d fun e f => if e.srcT f d ≠ 0 then e.srcA f a else e.srcB f b
/-- MOVS (R145): a read of `clock` sets the fibre's latch. -/
def execMovs (d sr : BitVec 6) (s : State) : Out :=
  .next (s.actEach (.movs d sr) fun e r f =>
    let g := if sr = 12 then { f with clockh := BitVec.ofNat 32 (e.is.cycle / 2 ^ 32) } else f
    own (g.write [(d.toNat, e.special r sr.toNat)]))

/-- Sets the latency tolerance that the device's next power decision takes (R380). What `movs` returns follows at the step's
commit (R2) (log 55). -/
def State.setLtol (s : State) (rcb : Nat) (v : Word) : State := s.modRegion rcb fun r => { r with ltol := v.toNat }

/-- `ltol` written by each active fibre in key order (R380, R20). -/
def State.setLtols (e : Env) (b : BitVec 6) : List Fibre → State → State
  | [], s => s
  | f :: fs, s => State.setLtols e b fs (if e.active f then s.setLtol e.l.rcb (e.srcB f b) else s)

/-- MOVSW (R380): the trap registers of the fibre, or the latency tolerance of the launch's region. -/
def execMovsw (sr b : BitVec 6) (s : State) : Out :=
  let s1 := s.actEach (.movsw sr b) fun e r f =>
    if sr = 23 then .ok { fibre := { f with seq := f.seq + 1 }, ltols := [(f.id, f.seq, (e.srcB r b).toNat)] }
    else own (.ok { f with trapSaved := f.trapSaved.orElse fun _ => some f.trap,
                           trap := f.trap.put sr.toNat (e.srcB r b) })
  match s.env?, s1.issue with
  | some e, some is1 => if sr = 23 then .next (State.setLtols e b (is1.live.filterMap e.b.fibre?) s1) else .next s1
  | _, _ => .next s1

/-- PAND (R146). -/
def execPand (p : BitVec 6) (a b : BitVec 4) (s : State) : Out :=
  s.setSpec (.pand p a b) p fun _ f => f.pred a.toNat && f.pred b.toNat
/-- POR (R146). -/
def execPor (p : BitVec 6) (a b : BitVec 4) (s : State) : Out :=
  s.setSpec (.por p a b) p fun _ f => f.pred a.toNat || f.pred b.toNat
/-- PXOR (R146). -/
def execPxor (p : BitVec 6) (a b : BitVec 4) (s : State) : Out :=
  s.setSpec (.pxor p a b) p fun _ f => f.pred a.toNat != f.pred b.toNat
/-- PANDN (R146). -/
def execPandn (p : BitVec 6) (a b : BitVec 4) (s : State) : Out :=
  s.setSpec (.pandn p a b) p fun _ f => f.pred a.toNat && !f.pred b.toNat
/-- PNOT (R146). -/
def execPnot (p : BitVec 6) (a : BitVec 4) (s : State) : Out := s.setSpec (.pnot p a) p fun _ f => !f.pred a.toNat
/-- PMOV (R146). -/
def execPmov (p : BitVec 6) (a : BitVec 4) (s : State) : Out := s.setSpec (.pmov p a) p fun _ f => f.pred a.toNat
/-- PWORD (R146). -/
def execPword (d : BitVec 6) (s : State) : Out := s.setReg (.pword d) d fun _ f => pwordOf f.preds

/-- A write of the whole predicate word: one journal entry however many change (R30, R146). -/
def Fibre.writePreds (f : Fibre) (w : BitVec 16) : Except Trap Fibre :=
  match f.savePreds with
  | .error t => .error t
  | .ok g => .ok { g with preds := w, fresh := g.fresh.filter fun x => x.reg < 64 }

/-- PSETW (R146). -/
def execPsetw (a b : BitVec 6) (s : State) : Out :=
  .next (s.actEach (.psetw a b) fun e r f => own (f.writePreds (psetwWord f.preds (e.srcA r a) (e.srcB r b))))

end Sys2Proof.Machine
end

