-- ==== Sys2Proof/Machine/Power.lean ====
section
/-! DEFINITION. Power states, the clock, failures in operation and soft errors (25_package_host_boot_power.md R411 to R414;
24 R400; 21 R357, R360). -/

namespace Sys2Proof.Machine

/-! ## Power (R411 to R413) -/

/-- A block of the launch lies on a core of the slice. -/
def Launch.onSlice (l : Launch) (slice : Nat) (b : Nat) : Bool :=
  match l.block? b with
  | some x => x.core / 18 == slice
  | none => false

/-- An engine command (R259, R263). -/
def Cmd.isEngine (c : Cmd) : Bool :=
  c.instr.isEng || match c.instr with
    | .cp .. => true
    | _ => false

/-- The slice is idle (R411). -/
def State.idle (s : State) (slice : Nat) : Bool :=
  let bound := s.cores.any fun k => k.num / 18 == slice && (!k.contexts.isEmpty || !k.blockTable.isEmpty)
  let cmds := s.cmds.any fun c => c.isEngine && match s.launch? c.launch with
    | some l => l.onSlice slice c.block
    | none => false
  let commits := s.launches.any fun l => !l.ended && s.sliceOf l == slice && s.roundReady l
  let gates := s.gates.any fun g => s.sliceHost g.tenant g.slice == slice && decide (g.thresh ≤ g.count)
    && match s.launch? g.launch with
       | some l => !l.ended && l.named.any fun n => l.gateIndex n == g.key
       | none => false
  !(bound || cmds || commits || gates)

/-- The effective tolerance of a slice's partition, in µs (R411). -/
def State.tolerance (s : State) (slice : Nat) : Nat :=
  (s.regions.filter fun r => s.sliceIn r.tenant slice).foldl (fun t r => min t r.ltol) s.power.ltr

/-- The deepest state of one slice that a tolerance admits. -/
def deepest (t : Nat) : PState := if 40 ≤ t then .c2 else if 2 ≤ t then .c1 else .d0

/-- The conditions of C3 (R411). -/
def State.c3Ok (s : State) : Bool :=
  s.slices.all (fun x => s.idle x.num && (x.power == .c2 || x.power == .c3) && decide (400 ≤ s.tolerance x.num))
    && decide (s.power.lastHost + s.cyclesOf 1000 ≤ s.clock)

/-- LTR_UPDATE (R411): the host sets its PCIe LTR value. -/
def execLtrUpdate (us : Nat) (s : State) : Out := .next { s.hostAccess with power := { s.power with ltr := us, lastHost := s.clock } }

/-- POWER_STATE_ENTRY (R411): an idle slice is kept in the deepest state its tolerance admits, any other in D0. -/
def execPowerStateEntry (slice : Nat) (s : State) : Out :=
  .next (s.modSlice slice fun x =>
    if x.power = .c3 ∧ s.c3Ok = true then x
    else { x with power := if s.idle slice then deepest (s.tolerance slice) else .d0 })

/-- C3_ENTRY (R411). -/
def execC3Entry (s : State) : Out :=
  if s.c3Ok then .next { s with slices := s.slices.map fun (x : Slice) => { x with power := .c3 } } else .next s

/-- POWER_WAKE (R412). -/
def execPowerWake (slice : Nat) (s : State) : Out := .next (s.wake slice)

/-- CLOCK_THROTTLE (R413): 100 MHz down while power would exceed the limit, but not below 1.0 GHz; up again after, to
2.1 GHz. -/
def execClockThrottle (excess : Bool) (s : State) : Out :=
  .next { s with power := { s.power with
    clock := if excess then max 1000 (s.power.clock - 100) else min 2100 (s.power.clock + 100) } }

/-! ## Failures in operation (R400) -/

/-- A failed core holds nothing. -/
def Core.dead (k : Core) : Core :=
  { k with failed := true, cache := [], ranges := [], code := [], contexts := [], lastIssued := [], slotAt := [], sliceSince := [],
           pitch := [], launchTable := [], blockTable := [], hosts := [], spare := false }

/-- A group that a failed core held is bound no more. -/
def Group.lose (core : Nat) (g : Group) : Group := if g.bound ∧ g.core = core then { g with bound := false } else g

/-- Bound blocks that a core serves, with a context or with scratch banks. -/
def State.servedBy (s : State) (core : Nat) : List Cand :=
  let k := (s.core? core).getD (Core.reset core)
  (s.launches.filter fun l => !l.ended).flatMap fun l =>
    (l.blockList.filter fun b => b.status == .bound && ((b.groups.any fun g => g.bound && g.core == core)
      || k.blockTable.any fun x => x.launch == l.id && x.block == b.index)).map fun b => { l := l, b := b }

/-- Several blocks stop: evicted at a blocking point, otherwise aborted first (R400, R361). -/
def State.stopCands (s : State) : List Cand → State
  | [] => s
  | c :: cs => (s.stopBlock c.l.id c.b).stopCands cs

/-- Active cores that the other logical cores of a logical core's cluster lie on. -/
def clusterCores (active : List Core) (c : Nat) : List Nat :=
  (active.filter fun k => k.hosts.any fun h => h / 4 == c / 4).map Core.num

/-- Logical cores of a failed core are put on active ones, at most `cap` to each, in their own cluster where they fit (R399): logical and
physical cores. -/
def spread (cap : Nat) (active : List Core) : List Nat → List (Nat × Nat) → List (Nat × Nat)
  | [], m => m
  | c :: cs, m =>
    let load (k : Nat) : Nat := loadOf m k + ((active.find? fun x => x.num == k).map fun x => x.hosts.length).getD 0
    let near := (clusterCores active c).filter fun k => decide (load k < cap)
    match leastLoaded load (if near.isEmpty then active.map Core.num else near) with
    | none => m
    | some k => spread cap active cs (m ++ [(c, k)])

/-- The logical cores of a failed one go to a working spare of its slice, or else are spread (R399, R400). -/
def State.rehost (s : State) (k : Core) : State :=
  let slice := k.num / 18
  match s.cores.find? fun x => x.num / 18 == slice && x.spare && !x.failed with
  | some x => s.modCore x.num fun y => { y with hosts := k.hosts, spare := false }
  | none =>
    let run := (s.layout.runs.find? fun r => decide (r.1 ≤ slice) && decide (slice < r.1 + r.2)).getD (slice, 1)
    let active := s.cores.filter fun x =>
      decide (run.1 ≤ x.num / 18) && decide (x.num / 18 < run.1 + run.2) && !x.failed && !x.spare
    let map := spread ((191 + active.length) / max 1 active.length) active k.hosts []
    { s with cores := s.cores.map fun (x : Core) =>
        { x with hosts := x.hosts ++ (map.filter fun y => y.2 == x.num).map Prod.fst } }

/-- CORE_FAILURE (R400): the core's blocks are aborted and wait to be bound elsewhere. -/
def execCoreFailure (core : Nat) (s : State) : Out :=
  match s.core? core with
  | none => .next s
  | some k =>
    if k.failed then .next s
    else
      let s1 := s.stopCands (s.servedBy core)
      let s2 : State := { s1.modCore core Core.dead with
        launches := s1.launches.map fun (l : Launch) =>
          { l with blockList := l.blockList.map fun b => { b with groups := b.groups.map (Group.lose core) } } }
      .next ((s2.rehost k).checkSpares)

/-- MATRIX_ENGINE_FAILURE (R400, R414): the engine's ports are served by another engine of the slice, which keeps every
value; a replacement is requested (log 38). -/
def execMatrixEngineFailure (engine : Nat) (s : State) : Out :=
  if s.failedEngines.contains engine then .next s
  else .next ((({ s with failedEngines := engine :: s.failedEngines } : State).rehostPorts).raiseCond 1)

/-! ## Soft errors (R360) -/

/-- A value joins a list once. -/
def addOnce {α : Type} [BEq α] (x : α) (xs : List α) : List α := if xs.contains x then xs else x :: xs

/-- The core of a block, whose snapshot registers count what is corrected in its banks. -/
def State.blockUnit (s : State) (l b : Nat) : Nat := (((s.launch? l).bind (·.block? b)).map Block.core).getD 0

/-- The snapshot unit whose storage an error strikes (R360, R416). -/
def State.siteUnit (s : State) : ErrorSite → Nat
  | .memLine _ pa => 216 + homeSlice pa
  | .scratchLine _ l b _ => s.blockUnit l b
  | .privLine _ l b _ _ => s.blockUnit l b
  | .window _ l b g => ((((s.launch? l).bind (·.block? b)).bind (·.group? g)).map Group.core).getD 0
  | .roundLog _ _ line => 216 + homeSlice (128 * line)
  | .sparseLog _ l region _ =>
    216 + homeSlice (((s.sparse? (skey (((s.launch? l).map Launch.tenant).getD 0) region)).map Sparse.desc).getD 0)
  | .stepSpill _ l b _ => s.blockUnit l b
  | .rangeEntry _ core _ => core
  | .gate _ slice _ => 216 + slice

/-- A correctable error (R360, R414): counted in the snapshot registers of its unit; whether the rate then passes the firmware's threshold
is a free choice (log 38). -/
def State.corrected (s : State) (unit : Nat) : State :=
  let r := ({ s with snapLog := s.snapLog ++ [LogEntry.correctable unit] } : State).choose 2
  if r.1 = 0 then r.2 else ({ r.2 with mgmt := { r.2.mgmt with overRate := true } } : State).raiseCond 4

/-- The granule of a line in error is retired (R400): whether the firmware retires it is a free choice, and of granules in use it retires
none (log 38). -/
def State.retire (s : State) (pa : Nat) : State :=
  let r := s.choose 2
  if r.1 = 0 ∨ s.owner pa ≠ 0xFFF then r.2
  else
    { r.2.giveGranules [pa / unit] 0 with mgmt := { r.2.mgmt with retired := r.2.mgmt.retired ++ [pa / unit] } }

/-- A register window or journal in error (R360, R357): the block path for its lowest-keyed live fibre. -/
def State.windowError (s : State) (l b g : Nat) : State :=
  match (s.launch? l).bind (·.block? b) with
  | none => s
  | some bl =>
    match bl.group? g, bl.fibres.find? Fibre.live with
    | some gr, some f => if gr.bound then (s.blockPath l b f.id .memUncorrectable gr.wbase 0).releaseDone l b else s
    | _, _ => s

/-- A gate in error (R360): count 0 and a record that names it (log 38). -/
def State.gateError (s : State) (slice index : Nat) : State :=
  let k := s.windowGate slice index
  match s.gate? k with
  | none => s
  | some g => (s.changeGate k fun x => { x with count := 0 }).launchPath g.launch .memUncorrectable (4096 * slice + index) 0

/-- SOFT_ERROR (R360): a correctable error changes no value; an uncorrectable one poisons what it hit. -/
def execSoftError (site : ErrorSite) (s : State) : Out :=
  match site with
  | .memLine true _ => .next (s.corrected (s.siteUnit site))
  | .scratchLine true _ _ _ => .next (s.corrected (s.siteUnit site))
  | .privLine true _ _ _ _ => .next (s.corrected (s.siteUnit site))
  | .window true _ _ _ => .next (s.corrected (s.siteUnit site))
  | .roundLog true _ _ => .next (s.corrected (s.siteUnit site))
  | .sparseLog true _ _ _ => .next (s.corrected (s.siteUnit site))
  | .stepSpill true _ _ _ => .next (s.corrected (s.siteUnit site))
  | .rangeEntry true _ _ => .next (s.corrected (s.siteUnit site))
  | .gate true _ _ => .next (s.corrected (s.siteUnit site))
  | .memLine false pa => .next (({ s with poison := addOnce (pa / 128) s.poison } : State).retire pa)
  | .scratchLine false l b line => .next { s with scratchPoison := addOnce (l, b, line) s.scratchPoison }
  | .privLine false l b f line => .next (s.modFibre l b f fun x => { x with privPoison := addOnce line x.privPoison })
  | .window false l b g => .next (s.windowError l b g)
  | .roundLog false l line => .next (s.modLaunch l fun x => { x with logPoison := addOnce line x.logPoison })
  | .sparseLog false l region line => .next (s.modLaunch l fun x =>
      { x with sparsePoison := addOnce (skey x.tenant region, line) x.sparsePoison })
  | .stepSpill false l b entry => .next (s.modBlock l b fun x => { x with bufPoison := addOnce entry x.bufPoison })
  | .rangeEntry false core pos => .next (s.modCore core fun k => { k with ranges := k.ranges.eraseIdx pos })
  | .gate false slice index => .next (s.gateError slice index)

end Sys2Proof.Machine
end

