-- ==== Sys2Proof/Machine/Spdm.lean ====
section
/-! DEFINITION. Attestation: the SPDM requests over DOE and their answers (25_package_host_boot_power.md R410). -/

namespace Sys2Proof.Machine

/-- The endpoint answers; a request is host traffic (R411). -/
def State.answer (s : State) (m : SpdmMsg) : Out := .next { s.hostAccess with spdmOut := s.spdmOut ++ [m] }

/-- GET_VERSION: SPDM 1.2. -/
def execGetVersion (s : State) : Out := s.answer (.version 1 2)
/-- GET_CAPABILITIES. -/
def execGetCapabilities (s : State) : Out := s.answer .capabilities
/-- NEGOTIATE_ALGORITHMS: RSASSA-PSS 3072 and SHA-384, the only ones. -/
def execNegotiateAlgorithms (s : State) : Out := s.answer (.algorithms .rsassaPss3072 .sha384)
/-- GET_DIGESTS. -/
def execGetDigests (s : State) : Out := s.answer .digests
/-- GET_CERTIFICATE. -/
def execGetCertificate (s : State) : Out := s.answer .certificate
/-- CHALLENGE. -/
def execChallenge (s : State) : Out := s.answer .challengeAuth

/-- The partition layout as a number: the words of the mailbox command that sets it (R410, R417). -/
def Layout.num (y : Layout) : Nat :=
  (y.slices ++ List.replicate 4 0 ++ y.groups).foldr (fun x t => x + 16 * t) 0

/-- The content of a measurement index (R410). -/
def State.measurement (s : State) (idx : Nat) : Option Nat :=
  match idx with
  | 1 => some Config.romDigest
  | 2 => some (Config.imageDigest (s.boot.running.getD []))
  | 3 => some s.boot.fuses
  | 4 => some s.layout.num
  | _ => none

/-- GET_MEASUREMENTS: signed, with the SLH-DSA block; an index that R410 does not list is any other request (log 32). -/
def execGetMeasurements (idx : Nat) (s : State) : Out :=
  match s.measurement idx with
  | some v => s.answer (.measurements idx v true true)
  | none => s.answer .unsupported

/-- UNSUPPORTED_REQUEST: any other request, whatever its code. -/
def execUnsupportedRequest (_code : Nat) (s : State) : Out := s.answer .unsupported

end Sys2Proof.Machine
end

