-- ==== Sys2Proof/Machine/Dispatch.lean ====
section
/-! DEFINITION. One arm for each row of the opcode table. -/

namespace Sys2Proof.Machine

def exec (i : Instr) (s : State) : Host.Outcome State Fault Refusal :=
  match i with
  | .nop => Sys2Proof.Machine.execNop s
  | .yield => Sys2Proof.Machine.execYield s
  | .brk => Sys2Proof.Machine.execBrk s
  | .trap code => Sys2Proof.Machine.execTrap code s
  | .tret => Sys2Proof.Machine.execTret s
  | .exit => Sys2Proof.Machine.execExit s
  | .stop => Sys2Proof.Machine.execStop s
  | .rstop => Sys2Proof.Machine.execRstop s
  | .rstopGated g => Sys2Proof.Machine.execRstopGated g s
  | .gadd g b => Sys2Proof.Machine.execGadd g b s
  | .gread d g => Sys2Proof.Machine.execGread d g s
  | .br delta slot => Sys2Proof.Machine.execBr delta slot s
  | .call a delta slot => Sys2Proof.Machine.execCall a delta slot s
  | .brx a => Sys2Proof.Machine.execBrx a s
  | .callx d a => Sys2Proof.Machine.execCallx d a s
  | .ret a => Sys2Proof.Machine.execRet a s
  | .spawn a delta slot => Sys2Proof.Machine.execSpawn a delta slot s
  | .iadd d a b => Sys2Proof.Machine.execIadd d a b s
  | .isub d a b => Sys2Proof.Machine.execIsub d a b s
  | .imul d a b => Sys2Proof.Machine.execImul d a b s
  | .imulhi d a b => Sys2Proof.Machine.execImulhi d a b s
  | .imulhin d a b => Sys2Proof.Machine.execImulhin d a b s
  | .imad d a b => Sys2Proof.Machine.execImad d a b s
  | .imin d a b => Sys2Proof.Machine.execImin d a b s
  | .imax d a b => Sys2Proof.Machine.execImax d a b s
  | .iminn d a b => Sys2Proof.Machine.execIminn d a b s
  | .imaxn d a b => Sys2Proof.Machine.execImaxn d a b s
  | .iabs d a => Sys2Proof.Machine.execIabs d a s
  | .ineg d a => Sys2Proof.Machine.execIneg d a s
  | .iadds d a b => Sys2Proof.Machine.execIadds d a b s
  | .isubs d a b => Sys2Proof.Machine.execIsubs d a b s
  | .iaddsn d a b => Sys2Proof.Machine.execIaddsn d a b s
  | .isubsn d a b => Sys2Proof.Machine.execIsubsn d a b s
  | .ladd d a b => Sys2Proof.Machine.execLadd d a b s
  | .lsub d a b => Sys2Proof.Machine.execLsub d a b s
  | .lmul d a b => Sys2Proof.Machine.execLmul d a b s
  | .lmad d a b => Sys2Proof.Machine.execLmad d a b s
  | .lmin d a b => Sys2Proof.Machine.execLmin d a b s
  | .lmax d a b => Sys2Proof.Machine.execLmax d a b s
  | .lminn d a b => Sys2Proof.Machine.execLminn d a b s
  | .lmaxn d a b => Sys2Proof.Machine.execLmaxn d a b s
  | .lshl d a b => Sys2Proof.Machine.execLshl d a b s
  | .lshr d a b => Sys2Proof.Machine.execLshr d a b s
  | .lsra d a b => Sys2Proof.Machine.execLsra d a b s
  | .lneg d a => Sys2Proof.Machine.execLneg d a s
  | .labs d a => Sys2Proof.Machine.execLabs d a s
  | .and d a b => Sys2Proof.Machine.execAnd d a b s
  | .or d a b => Sys2Proof.Machine.execOr d a b s
  | .xor d a b => Sys2Proof.Machine.execXor d a b s
  | .andn d a b => Sys2Proof.Machine.execAndn d a b s
  | .orn d a b => Sys2Proof.Machine.execOrn d a b s
  | .xnor d a b => Sys2Proof.Machine.execXnor d a b s
  | .not d a => Sys2Proof.Machine.execNot d a s
  | .shl d a b => Sys2Proof.Machine.execShl d a b s
  | .shr d a b => Sys2Proof.Machine.execShr d a b s
  | .sra d a b => Sys2Proof.Machine.execSra d a b s
  | .rotl d a b => Sys2Proof.Machine.execRotl d a b s
  | .rotr d a b => Sys2Proof.Machine.execRotr d a b s
  | .popc d a => Sys2Proof.Machine.execPopc d a s
  | .clz d a => Sys2Proof.Machine.execClz d a s
  | .ctz d a => Sys2Proof.Machine.execCtz d a s
  | .brev d a => Sys2Proof.Machine.execBrev d a s
  | .bfe d a b => Sys2Proof.Machine.execBfe d a b s
  | .bfes d a b => Sys2Proof.Machine.execBfes d a b s
  | .bfi d a b => Sys2Proof.Machine.execBfi d a b s
  | .bswap d a => Sys2Proof.Machine.execBswap d a s
  | .icmp p a b cond => Sys2Proof.Machine.execIcmp p a b cond s
  | .lcmp p a b cond => Sys2Proof.Machine.execLcmp p a b cond s
  | .mov d a => Sys2Proof.Machine.execMov d a s
  | .isel d a b => Sys2Proof.Machine.execIsel d a b s
  | .movs d sr => Sys2Proof.Machine.execMovs d sr s
  | .movsw sr b => Sys2Proof.Machine.execMovsw sr b s
  | .pand p a b => Sys2Proof.Machine.execPand p a b s
  | .por p a b => Sys2Proof.Machine.execPor p a b s
  | .pxor p a b => Sys2Proof.Machine.execPxor p a b s
  | .pandn p a b => Sys2Proof.Machine.execPandn p a b s
  | .pnot p a => Sys2Proof.Machine.execPnot p a s
  | .pmov p a => Sys2Proof.Machine.execPmov p a s
  | .pword d => Sys2Proof.Machine.execPword d s
  | .psetw a b => Sys2Proof.Machine.execPsetw a b s
  | .iaddi d a imm => Sys2Proof.Machine.execIaddi d a imm s
  | .andi d a imm => Sys2Proof.Machine.execAndi d a imm s
  | .ori d a imm => Sys2Proof.Machine.execOri d a imm s
  | .xori d a imm => Sys2Proof.Machine.execXori d a imm s
  | .shli d a n => Sys2Proof.Machine.execShli d a n s
  | .shri d a n => Sys2Proof.Machine.execShri d a n s
  | .srai d a n => Sys2Proof.Machine.execSrai d a n s
  | .icmpi p a cond imm => Sys2Proof.Machine.execIcmpi p a cond imm s
  | .movi d imm => Sys2Proof.Machine.execMovi d imm s
  | .movhi d imm => Sys2Proof.Machine.execMovhi d imm s
  | .fadd d a b => Sys2Proof.Machine.execFadd d a b s
  | .fsub d a b => Sys2Proof.Machine.execFsub d a b s
  | .fmul d a b => Sys2Proof.Machine.execFmul d a b s
  | .ffma d a b => Sys2Proof.Machine.execFfma d a b s
  | .ffms d a b => Sys2Proof.Machine.execFfms d a b s
  | .fnfma d a b => Sys2Proof.Machine.execFnfma d a b s
  | .fmin d a b => Sys2Proof.Machine.execFmin d a b s
  | .fmax d a b => Sys2Proof.Machine.execFmax d a b s
  | .fabs d a => Sys2Proof.Machine.execFabs d a s
  | .fneg d a => Sys2Proof.Machine.execFneg d a s
  | .fdiv d a b => Sys2Proof.Machine.execFdiv d a b s
  | .fsqrt d a => Sys2Proof.Machine.execFsqrt d a s
  | .frcp d a => Sys2Proof.Machine.execFrcp d a s
  | .frsq d a => Sys2Proof.Machine.execFrsq d a s
  | .fexp2 d a => Sys2Proof.Machine.execFexp2 d a s
  | .flog2 d a => Sys2Proof.Machine.execFlog2 d a s
  | .fsinpi d a => Sys2Proof.Machine.execFsinpi d a s
  | .fcospi d a => Sys2Proof.Machine.execFcospi d a s
  | .fkey d a => Sys2Proof.Machine.execFkey d a s
  | .fkeyinv d a => Sys2Proof.Machine.execFkeyinv d a s
  | .fcmp p a b cond => Sys2Proof.Machine.execFcmp p a b cond s
  | .dcmp p a b cond => Sys2Proof.Machine.execDcmp p a b cond s
  | .dadd d a b => Sys2Proof.Machine.execDadd d a b s
  | .dsub d a b => Sys2Proof.Machine.execDsub d a b s
  | .dmul d a b => Sys2Proof.Machine.execDmul d a b s
  | .dfma d a b => Sys2Proof.Machine.execDfma d a b s
  | .dmin d a b => Sys2Proof.Machine.execDmin d a b s
  | .dmax d a b => Sys2Proof.Machine.execDmax d a b s
  | .dabs d a => Sys2Proof.Machine.execDabs d a s
  | .dneg d a => Sys2Proof.Machine.execDneg d a s
  | .ddiv d a b => Sys2Proof.Machine.execDdiv d a b s
  | .dsqrt d a => Sys2Proof.Machine.execDsqrt d a s
  | .dkey d a => Sys2Proof.Machine.execDkey d a s
  | .hadd2 d a b => Sys2Proof.Machine.execHadd2 d a b s
  | .hsub2 d a b => Sys2Proof.Machine.execHsub2 d a b s
  | .hmul2 d a b => Sys2Proof.Machine.execHmul2 d a b s
  | .hfma2 d a b => Sys2Proof.Machine.execHfma2 d a b s
  | .hmin2 d a b => Sys2Proof.Machine.execHmin2 d a b s
  | .hmax2 d a b => Sys2Proof.Machine.execHmax2 d a b s
  | .hkey2 d a => Sys2Proof.Machine.execHkey2 d a s
  | .badd2 d a b => Sys2Proof.Machine.execBadd2 d a b s
  | .bsub2 d a b => Sys2Proof.Machine.execBsub2 d a b s
  | .bmul2 d a b => Sys2Proof.Machine.execBmul2 d a b s
  | .bfma2 d a b => Sys2Proof.Machine.execBfma2 d a b s
  | .bmin2 d a b => Sys2Proof.Machine.execBmin2 d a b s
  | .bmax2 d a b => Sys2Proof.Machine.execBmax2 d a b s
  | .cvt d a dt sty rm => Sys2Proof.Machine.execCvt d a dt sty rm s
  | .fix d a rm scale => Sys2Proof.Machine.execFix d a rm scale s
  | .unfix d a rm scale => Sys2Proof.Machine.execUnfix d a rm scale s
  | .lshfl d a b => Sys2Proof.Machine.execLshfl d a b s
  | .lvoteany p a => Sys2Proof.Machine.execLvoteany p a s
  | .lvoteall p a => Sys2Proof.Machine.execLvoteall p a s
  | .lballot d a => Sys2Proof.Machine.execLballot d a s
  | .lrank d a => Sys2Proof.Machine.execLrank d a s
  | .lfirst d a => Sys2Proof.Machine.execLfirst d a s
  | .bxpos d a b => Sys2Proof.Machine.execBxpos d a b s
  | .bxcnt d a b => Sys2Proof.Machine.execBxcnt d a b s
  | .bmerge d a b => Sys2Proof.Machine.execBmerge d a b s
  | .bmpre d a b => Sys2Proof.Machine.execBmpre d a b s
  | .ld d cap x size hint f => Sys2Proof.Machine.execLd d cap x size hint f s
  | .st d cap x size rule f => Sys2Proof.Machine.execSt d cap x size rule f s
  | .fadr d cap x size f => Sys2Proof.Machine.execFadr d cap x size f s
  | .movb d bi => Sys2Proof.Machine.execMovb d bi s
  | .stb d bi rule f => Sys2Proof.Machine.execStb d bi rule f s
  | .capsub d a b => Sys2Proof.Machine.execCapsub d a b s
  | .capperm d a b => Sys2Proof.Machine.execCapperm d a b s
  | .capget d a sel => Sys2Proof.Machine.execCapget d a sel s
  | .captag p a => Sys2Proof.Machine.execCaptag p a s
  | .capmint d a => Sys2Proof.Machine.execCapmint d a s
  | .tld d cap x => Sys2Proof.Machine.execTld d cap x s
  | .tst d cap x rule f => Sys2Proof.Machine.execTst d cap x rule f s
  | .tnext d a cap => Sys2Proof.Machine.execTnext d a cap s
  | .tcount d cap => Sys2Proof.Machine.execTcount d cap s
  | .cp d dst src x size => Sys2Proof.Machine.execCp d dst src x size s
  | .cpt d a b => Sys2Proof.Machine.execCpt d a b s
  | .cpd d a b => Sys2Proof.Machine.execCpd d a b s
  | .cps d a b => Sys2Proof.Machine.execCps d a b s
  | .gath d a b => Sys2Proof.Machine.execGath d a b s
  | .scat d a b => Sys2Proof.Machine.execScat d a b s
  | .mmb d a b => Sys2Proof.Machine.execMmb d a b s
  | .mma d a b => Sys2Proof.Machine.execMma d a b s
  | .mmd d a b => Sys2Proof.Machine.execMmd d a b s
  | .mmz d a b => Sys2Proof.Machine.execMmz d a b s
  | .lease d a b => Sys2Proof.Machine.execLease d a b s
  | .unlease d a b => Sys2Proof.Machine.execUnlease d a b s
  | .digest d a b => Sys2Proof.Machine.execDigest d a b s
  | .rcp d a b => Sys2Proof.Machine.execRcp d a b s
  | .rsplit d a b => Sys2Proof.Machine.execRsplit d a b s
  | .rmerge d a b => Sys2Proof.Machine.execRmerge d a b s
  | .rinval d a b => Sys2Proof.Machine.execRinval d a b s
  | .rres d a b => Sys2Proof.Machine.execRres d a b s
  | .rmove d a b => Sys2Proof.Machine.execRmove d a b s
  | .bankmode d a b => Sys2Proof.Machine.execBankmode d a b s
  | .rgkill d a b => Sys2Proof.Machine.execRgkill d a b s
  | .rgreset d a b => Sys2Proof.Machine.execRgreset d a b s
  | .rgresume d a b => Sys2Proof.Machine.execRgresume d a b s
  | .rgpri d a b => Sys2Proof.Machine.execRgpri d a b s
  | .rgbud d a b => Sys2Proof.Machine.execRgbud d a b s
  | .fret d a b => Sys2Proof.Machine.execFret d a b s
  | .snap d a b => Sys2Proof.Machine.execSnap d a b s
  | .wdarm d a b => Sys2Proof.Machine.execWdarm d a b s
  | .snew d a b => Sys2Proof.Machine.execSnew d a b s
  | .sgrow d a b => Sys2Proof.Machine.execSgrow d a b s
  | .gcfg d a b => Sys2Proof.Machine.execGcfg d a b s
  | .launch d a b => Sys2Proof.Machine.execLaunch d a b s
  | .stepCommit l b => Sys2Proof.Machine.execStepCommit l b s
  | .roundCommit l => Sys2Proof.Machine.execRoundCommit l s
  | .heldCommitRetry l => Sys2Proof.Machine.execHeldCommitRetry l s
  | .launchEnd l => Sys2Proof.Machine.execLaunchEnd l s
  | .tokenLanding cmd => Sys2Proof.Machine.execTokenLanding cmd s
  | .engineOutputLine cmd => Sys2Proof.Machine.execEngineOutputLine cmd s
  | .loadDataReturn l b f => Sys2Proof.Machine.execLoadDataReturn l b f s
  | .codeLineFill core l line => Sys2Proof.Machine.execCodeLineFill core l line s
  | .rangeWalk core tenant va => Sys2Proof.Machine.execRangeWalk core tenant va s
  | .stagedCommandEnqueue cmd => Sys2Proof.Machine.execStagedCommandEnqueue cmd s
  | .matrixRowGrant port => Sys2Proof.Machine.execMatrixRowGrant port s
  | .matrixPortGrant port => Sys2Proof.Machine.execMatrixPortGrant port s
  | .engineQuiesceStop cmd => Sys2Proof.Machine.execEngineQuiesceStop cmd s
  | .rcpLineArrival msg => Sys2Proof.Machine.execRcpLineArrival msg s
  | .watchdog l b => Sys2Proof.Machine.execWatchdog l b s
  | .timeSliceExpiry core => Sys2Proof.Machine.execTimeSliceExpiry core s
  | .gracePeriodEnd l b => Sys2Proof.Machine.execGracePeriodEnd l b s
  | .placementDecision slice => Sys2Proof.Machine.execPlacementDecision slice s
  | .bind core => Sys2Proof.Machine.execBind core s
  | .unbind core => Sys2Proof.Machine.execUnbind core s
  | .rebind core => Sys2Proof.Machine.execRebind core s
  | .scoreboardWaitThreshold l b g => Sys2Proof.Machine.execScoreboardWaitThreshold l b g s
  | .gtoDemotion core ctx => Sys2Proof.Machine.execGtoDemotion core ctx s
  | .compactorMove slice => Sys2Proof.Machine.execCompactorMove slice s
  | .portDown port => Sys2Proof.Machine.execPortDown port s
  | .hostGateWrite off size v => Sys2Proof.Machine.execHostGateWrite off size v s
  | .hostApertureWrite off bytes => Sys2Proof.Machine.execHostApertureWrite off bytes s
  | .hostApertureRead off len => Sys2Proof.Machine.execHostApertureRead off len s
  | .rootPortDma port tenant addr bytes => Sys2Proof.Machine.execRootPortDma port tenant addr bytes s
  | .ltrUpdate us => Sys2Proof.Machine.execLtrUpdate us s
  | .powerStateEntry slice => Sys2Proof.Machine.execPowerStateEntry slice s
  | .powerWake slice => Sys2Proof.Machine.execPowerWake slice s
  | .clockThrottle excess => Sys2Proof.Machine.execClockThrottle excess s
  | .coreFailure core => Sys2Proof.Machine.execCoreFailure core s
  | .matrixEngineFailure engine => Sys2Proof.Machine.execMatrixEngineFailure engine s
  | .bootdb v => Sys2Proof.Machine.execBootdb v s
  | .snaptrig v => Sys2Proof.Machine.execSnaptrig v s
  | .replreq v => Sys2Proof.Machine.execReplreq v s
  | .registerWrite off v => Sys2Proof.Machine.execRegisterWrite off v s
  | .mailboxUnknownCommand code => Sys2Proof.Machine.execMailboxUnknownCommand code s
  | .getMeasurements idx => Sys2Proof.Machine.execGetMeasurements idx s
  | .unsupportedRequest code => Sys2Proof.Machine.execUnsupportedRequest code s
  | .softError site => Sys2Proof.Machine.execSoftError site s
  | .flitRetry port => Sys2Proof.Machine.execFlitRetry port s
  | .engineSourceLine cmd => Sys2Proof.Machine.execEngineSourceLine cmd s
  | .unassignedEncoding w => Sys2Proof.Machine.execUnassignedEncoding w s
  | .issuePolicyChange core policy => Sys2Proof.Machine.execIssuePolicyChange core policy s
  | .podEpisode => Sys2Proof.Machine.execPodEpisode s
  | .c3Entry => Sys2Proof.Machine.execC3Entry s
  | .reset => Sys2Proof.Machine.execReset s
  | .snaptrigPin => Sys2Proof.Machine.execSnaptrigPin s
  | .registerExportEntry => Sys2Proof.Machine.execRegisterExportEntry s
  | .registerImportEntry => Sys2Proof.Machine.execRegisterImportEntry s
  | .joinPodGroup => Sys2Proof.Machine.execJoinPodGroup s
  | .removePodMember => Sys2Proof.Machine.execRemovePodMember s
  | .attachDebugger => Sys2Proof.Machine.execAttachDebugger s
  | .detachDebugger => Sys2Proof.Machine.execDetachDebugger s
  | .setPartitionLayout => Sys2Proof.Machine.execSetPartitionLayout s
  | .tenantSave => Sys2Proof.Machine.execTenantSave s
  | .tenantRestore => Sys2Proof.Machine.execTenantRestore s
  | .writeRangeDescriptor => Sys2Proof.Machine.execWriteRangeDescriptor s
  | .getVersion => Sys2Proof.Machine.execGetVersion s
  | .getCapabilities => Sys2Proof.Machine.execGetCapabilities s
  | .negotiateAlgorithms => Sys2Proof.Machine.execNegotiateAlgorithms s
  | .getDigests => Sys2Proof.Machine.execGetDigests s
  | .getCertificate => Sys2Proof.Machine.execGetCertificate s
  | .challenge => Sys2Proof.Machine.execChallenge s

end Sys2Proof.Machine
end

