-- ==== Sys2Proof/Machine/Run.lean ====
section
/-! DEFINITION. How the machine goes on: opening a chain, what follows each of its words and its end (02_step_machine.md
R16; 04 R71 to R76, R96; 18 R318 to R320), the events of the device's own agents, and a program placed for the next step. -/

namespace Sys2Proof.Machine

/-- What follows an outcome that is a next state. -/
def after (o : Out) (f : State → State) : Out :=
  match o with
  | .next s => .next (f s)
  | .fault r => .fault r
  | .refused r => .refused r

/-! ## The word to run next -/

/-- The position of a chain's first word. -/
def chainStart (ws : List (BitVec 32)) (chain : Nat) : Nat :=
  ((List.range 3).find? fun p => chainAt ws p == chain).getD 3

/-- The word at a position with the modifier before it: where it stands, its modifier, and what it is. A word that R94 does
not assign is an unassigned encoding. -/
def Issue.next (is : Issue) : Option (Nat × Mods × Instr) :=
  match is.words[is.pos]? with
  | none => none
  | some w =>
    match decodeWord w.toNat with
    | .ok { body := .instr i, .. } => some (is.pos, is.mods, i)
    | .ok { body := .mods m, .. } =>
      match is.words[is.pos + 1]? with
      | none => none
      | some x => (instrOf x).map fun i => (is.pos + 1, m, i)
    | .error _ => some (is.pos, is.mods, .unassignedEncoding w)

/-! ## A chain's end -/

/-- The fibres that have come through a chain go on at the next one. -/
def Block.nextChain (b : Block) (ids : List Nat) (chain : Nat) : Block :=
  { b with fibres := b.fibres.map fun f => if ids.contains f.id then { f with chain := chain, arrival := .resume } else f }

/-- A chain's end (R72, R74, R352): its failures are recorded; the others go on at the next chain, or the packet ends. -/
def State.endChain (s : State) (is : Issue) : State :=
  let s1 := s.flushParks is.launch is.block is.group is.pc is.chain is.parks
  let s2 := if is.pos < 3 then s1.modBlock is.launch is.block fun b => b.nextChain is.live (is.chain + 1)
    else s1.finishPacket is
  { s2 with issue := none }

/-- What follows a word of a chain: the next word, or the chain's end (R71). -/
def State.afterWord (pos : Nat) (s : State) : State :=
  match s.issue with
  | none => s
  | some is =>
    let d : Issue := { is with pos := pos + 1, mods := Mods.none }
    if (is.words.getD pos 0).getLsbD 31 && decide (pos < 2) && !is.live.isEmpty then { s with issue := some d }
    else s.endChain d

/-- Run the word at the issue's position (R72). -/
def State.runWord (s : State) (is : Issue) : Out :=
  match is.next with
  | none => .fault .corruptIssue
  | some (pos, m, i) => after (exec i { s with issue := some { is with pos := pos, mods := m } }) (State.afterWord pos)

/-! ## Opening a chain -/

/-- The slot's bookkeeping at an issue (R318, R319, R320, R340). -/
def Core.issued (k : Core) (x : Context) (cycle : Nat) : Core :=
  let slot := x.num % 4
  { k with
    contexts := k.contexts.map fun (y : Context) =>
      if y.num = x.num then
        { y with streak := if y.last + 1 = cycle ∧ 0 < y.streak then y.streak + 1 else 1, last := cycle }
      else y,
    lastIssued := (slot, x.num) :: k.lastIssued.filter fun z => z.1 != slot,
    slotAt := (slot, cycle) :: k.slotAt.filter fun z => z.1 != slot }

/-- The cohort's pace after a chain (R75): the stall count runs from the cycle of a chain that issued; that of a `nop` chain is added
to what its next chain would have to wait for anyway. -/
def Group.pace (g : Group) (cycle stall : Nat) (nops : Bool) : Group :=
  if nops then { g with pad := g.pad + stall } else { g with ready := cycle + 1 + stall, pad := 0 }

/-- A code line is fetched for a core: the most recently used of its buffer (R321), and its range table has been asked (R294). -/
def State.fetchLine (s : State) (core : Nat) (l : Launch) (pc : Nat) : State :=
  if l.codelen ≤ pc then s
  else
    (s.touchRange core l.tenant (l.codeVa pc)).modCore core fun k =>
      if k.holdsLine l.id (pc / 128) then k.loadLines [(l.id, pc / 128)] else k

/-- Open a chain (R96, R318): the packet is checked, then what the chain reads and writes too early (R76); failures are recorded at
the chain, and the others issue (log 3). Only a chain that issues counts for its slot and its stall count. -/
def State.openChain (s : State) (r : Ready) : State :=
  let fr := r.frag
  match s.launch? fr.launch with
  | none => s
  | some l =>
    match l.block? fr.block with
    | none => s
    | some b =>
      let fs := fr.fibres.filterMap b.fibre?
      let c := s.checkPacket r.core l fs fr.pc
      let short := if c.bad.isSome then [] else s.stallShort l r.cycle (fs.filter fun f => c.live.contains f.id) c.words fr.chain
      let live := c.live.filter fun id => !short.any fun x => x.1 == id
      let s1 := ({ s with clock := if r.nops then s.clock else max s.clock r.cycle, pick := none } : State).fetchLine r.core l fr.pc
      let s2 := s1.flushParks fr.launch fr.block fr.group fr.pc fr.chain (c.fails ++ short)
      match (s2.launch? fr.launch).bind (·.block? fr.block) with
      | none => s2
      | some b1 =>
        if live.isEmpty then s2
        else
          let is : Issue :=
            { launch := fr.launch, block := fr.block, group := fr.group, frag := fr.fibres, live := live, pc := fr.pc,
              words := c.words, pos := (match c.bad with | some x => x.2 | none => chainStart c.words fr.chain), chain := fr.chain,
              mods := Mods.none, view := b1.fibres, parks := [], cycle := r.cycle }
          if c.bad.isSome then { s2 with issue := some is }
          else
            let s3 := if r.nops then s2 else s2.modCore r.core fun k => k.issued r.ctx r.cycle
            { s3.modBlock fr.launch fr.block fun x =>
                x.modGroup fr.group fun g => g.pace r.cycle (chainStall c.words fr.chain) r.nops with issue := some is }

/-- Open a chain and run its first word. -/
def State.startChain (s : State) (r : Ready) : Out :=
  let s1 := s.openChain r
  match s1.issue with
  | none => .next s1
  | some is => s1.runWord is

/-! ## Choosing a chain (R318 to R320) -/

/-- The chain that the model's `pick` names, if it can issue. -/
def State.picked (s : State) : Option Ready :=
  match s.pick with
  | none => none
  | some (l, b, g, pc, chain) =>
    s.cores.findSome? fun k => k.contexts.findSome? fun x =>
      if x.launch = l ∧ x.block = b ∧ x.group = g then
        match s.readyOf k x with
        | some r => if r.frag.pc = pc ∧ r.frag.chain = chain then some r else none
        | none => none
      else none

/-- Every chain that can issue. -/
def State.readies (s : State) : List Ready := s.cores.flatMap fun k => k.contexts.filterMap (s.readyOf k)

/-- The oldest of a slot's contexts (R319). -/
def oldest : List Ready → Option Ready
  | [] => none
  | r :: rs =>
    match oldest rs with
    | none => some r
    | some q => if r.ctx.age ≤ q.ctx.age then some r else some q

/-- The lowest context number of a list. -/
def lowestCtx : List Ready → Option Ready
  | [] => none
  | r :: rs =>
    match lowestCtx rs with
    | none => some r
    | some q => if r.ctx.num ≤ q.ctx.num then some r else some q

/-- A slot's choice in a cycle (R319, R320). -/
def Core.choose (k : Core) (slot cycle : Nat) (rs : List Ready) : Option Ready :=
  match k.policy with
  | .gto =>
    match rs.find? fun r => decide (0 < r.ctx.streak) && r.ctx.last + 1 == cycle with
    | some r => some r
    | none => oldest rs
  | .rr =>
    match k.lastIssued.find? fun z => z.1 == slot with
    | none => lowestCtx rs
    | some z =>
      match lowestCtx (rs.filter fun r => decide (z.2 < r.ctx.num)) with
      | some r => some r
      | none => lowestCtx rs

/-- Its slot chooses a chain among those that can issue in a cycle (R318). -/
def State.slotPicks (s : State) (t : Nat) (now : List Ready) (r : Ready) : Bool :=
  let slot := r.ctx.num % 4
  ((s.core? r.core).bind fun k => k.choose slot t (now.filter fun q => q.core == r.core && q.ctx.num % 4 == slot)).any
    fun q => q.ctx.num == r.ctx.num

/-- The key of a chain's lowest fibre (R20), then its launch. -/
def Ready.key (r : Ready) : List Nat := [r.frag.block, r.frag.fibres.headD 0, r.frag.launch]

/-- The chain with the lowest key. -/
def lowestKey : List Ready → Option Ready
  | [] => none
  | r :: rs =>
    match lowestKey rs with
    | none => some r
    | some q => if lexLt q.key r.key then some q else some r

/-- The chain that issues in the earliest cycle: of the chains that the slots choose in it, the one with the lowest key, so that
records of one cycle are in the order of their keys (R352) (log 3). -/
def State.earliest (s : State) (rs : List Ready) : Option Ready :=
  match (rs.map Ready.cycle).min? with
  | none => none
  | some t =>
    let now := rs.filter fun r => r.cycle == t
    lowestKey (now.filter (s.slotPicks t now))

/-- The chain that goes next: a `nop` chain first, for it takes no cycle (R71). -/
def State.chosen (s : State) : Option Ready :=
  let rs := s.readies
  match rs.find? Ready.nops with
  | some r => some r
  | none => s.earliest rs

/-! ## Events of the device itself -/

/-- Events of a block. -/
def Block.events (b : Block) (l : Nat) : List Instr :=
  ((b.fibres.filter fun f => !f.loads.isEmpty).map fun f => .loadDataReturn l b.index f.id)
    ++ [.stepCommit l b.index, .watchdog l b.index, .gracePeriodEnd l b.index]
    ++ (b.groups.filter Group.bound).map fun g => .scoreboardWaitThreshold l b.index g.index

/-- The code line that a context's fragment is at. -/
def State.lineOf (s : State) (x : Context) : Option (Nat × Nat) :=
  (((s.launch? x.launch).bind (·.block? x.block)).bind (·.fragOf x.launch x.group)).map fun fr => (x.launch, fr.pc / 128)

/-- Contexts whose fragment is at a line that the core does not hold, each with the line; the one that issued longest ago first. -/
def State.missing (s : State) (k : Core) : List (Context × Nat × Nat) :=
  (k.contexts.filterMap fun x => (s.lineOf x).bind fun n => if k.code.contains n then none else some (x, n)).foldr
    (fun x xs => xs.takeWhile (fun y => decide (y.1.last < x.1.last)) ++ x :: xs.dropWhile fun y => decide (y.1.last < x.1.last)) []

/-- A fill would drop a line that some context's fragment is at (R321). -/
def State.crowded (s : State) (k : Core) : Bool :=
  decide (64 ≤ k.code.length) && (k.code.head?).any fun n => k.contexts.any fun x => s.lineOf x == some n

/-- The fills of the lines that a core's contexts need. -/
def State.fills (s : State) (k : Core) : List Instr := (s.missing k).map fun x => .codeLineFill k.num x.2.1 x.2.2

/-- Events of a core: bind records, its time slice, demotions, and code lines that find room. -/
def State.coreEvents (s : State) (k : Core) : List Instr :=
  [.unbind k.num, .bind k.num, .rebind k.num, .timeSliceExpiry k.num]
    ++ (k.contexts.map fun x => .gtoDemotion k.num x.num)
    ++ (if s.crowded k then [] else s.fills k)

/-- Fills that take the place of a line another context is at: they may come late, so that what is held can be issued from (R321). -/
def State.lateFills (s : State) : List Instr := (s.cores.filter s.crowded).flatMap s.fills

/-- Events of a command: its own, and those of its port. -/
def Cmd.events (c : Cmd) : List Instr :=
  [.engineQuiesceStop c.id, .stagedCommandEnqueue c.id, .engineSourceLine c.id, .engineOutputLine c.id, .tokenLanding c.id]
    ++ match c.port with
       | some p => [.matrixRowGrant p, .matrixPortGrant p]
       | none => []

/-- A core has a context, or a record to apply. -/
def Core.busy (k : Core) : Bool := !k.contexts.isEmpty || (k.entry k.pitchAt).valid

/-- A port is held, and no command is there for it. -/
def State.portAlone (s : State) (p : Port) : Bool := p.holder.isSome && !s.cmds.any fun c => c.port == some p.num

/-- A slice's compactor is on, or has a move in flight. -/
def Slice.compacts (x : Slice) : Bool := x.threshold != 0 || x.moving.isSome || x.draining.isSome

/-- Some launch may want a placement, or some region's usage may be out of date. -/
def State.wantsPlaces (s : State) : Bool := s.launches.any (fun l => !l.ended) || !s.regions.isEmpty

/-- Events of commands in flight, the oldest command's first, and of held ports (R237 to R257). -/
def State.cmdEvents (s : State) : List Instr :=
  s.cmds.flatMap Cmd.events ++ (s.ports.filter s.portAlone).map fun p => .matrixPortGrant p.num

/-- The other events that the device's own agents may make, each tried in this order (log 8). -/
def State.events (s : State) : List Instr :=
  ((s.launches.filter fun l => !l.ended).flatMap fun (l : Launch) => (l.blockList.flatMap fun b => b.events l.id)
      ++ [.roundCommit l.id, .heldCommitRetry l.id, .launchEnd l.id])
    ++ (s.cores.filter Core.busy).flatMap s.coreEvents
    ++ (if s.wantsPlaces then s.slices.map fun x => .placementDecision x.num else [])
    ++ (s.slices.filter Slice.compacts).map (fun x => .compactorMove x.num)
    ++ s.slices.map (fun x => .powerStateEntry x.num)
    ++ [.c3Entry] ++ (s.guyPorts.filter GuyPort.fails).map (fun p => .portDown p.num)
    ++ (match s.mgmt.pending with
        | none => []
        | some c =>
          [.registerExportEntry, .registerImportEntry, .joinPodGroup, .removePodMember, .attachDebugger, .detachDebugger,
            .setPartitionLayout, .tenantSave, .tenantRestore, .writeRangeDescriptor, .mailboxUnknownCommand c])

/-- An event's state, if it changes anything. -/
def State.try? (s : State) (i : Instr) : Option State :=
  match exec i s with
  | .next t => if t = s then none else some t
  | _ => none

/-- The first event that changes the state. -/
def State.firstEvent (s : State) (is : List Instr) : Option State := is.findSome? s.try?

/-- Cycles that something waits for: inputs, data on its way, the end of a step, of grace periods and time slices, the landing of the next
line of a commit, the next watchdog check, scoreboard waits, and the host's silence. -/
def State.times (s : State) : List Nat :=
  let us := s.cyclesOf 1
  s.inputs.map Prod.fst
    ++ (s.launches.filter fun l => !l.ended).flatMap (fun (l : Launch) =>
        (if l.landing.isEmpty then [] else [l.landAt + 1])
          ++ l.blockList.flatMap fun b => b.endedAt :: b.graceEnd.toList ++ (b.fibres.flatMap fun f => f.loads.map PendLoad.due)
            ++ (b.groups.filter Group.bound).map fun g => g.ready + s.cyclesOf waitThreshold + 1)
    ++ (s.cores.flatMap fun k => k.sliceSince.map fun x => x.2 + s.cyclesOf (s.eff x.1 5 Region.timeslice))
    ++ (if s.launches.any fun l => !l.ended then [(s.clock / us + 1) * us] else [])
    ++ s.strays.map Stray.due ++ [s.power.lastHost + s.cyclesOf 1000]

/-- The first of them that is still to come. -/
def State.nextTime (s : State) : Option Nat := (s.times.filter fun t => decide (s.clock < t)).min?

/-- The boot ROM goes on (R408); otherwise the clock, to the next cycle that something waits for (log 8). -/
def State.idleStep (s : State) : State :=
  if s.boot.busy then s.bootStep else { s with clock := s.nextTime.getD (s.clock + 1) }

/-- Take the first input that is due (log 4). -/
def takeDue (now : Nat) : List (Nat × Instr) → Option (Instr × List (Nat × Instr))
  | [] => none
  | x :: xs => if x.1 ≤ now then some (x.2, xs) else (takeDue now xs).map fun r => (r.1, x :: r.2)

/-- The next chain of a context, or what comes in a cycle before it. -/
def State.startChosen (s : State) (r : Ready) : Out :=
  match s.nextTime with
  | some t => if !r.nops && decide (t ≤ r.cycle) then .next { s with clock := t } else s.startChain r
  | none => s.startChain r

/-- The turn of the command that has been there longest, and of the code line that has been needed longest (R42, R321). -/
def State.oldestTurn (s : State) : State :=
  let s1 := (s.firstEvent s.cmdEvents).getD s
  { (s1.firstEvent s1.lateFills).getD s1 with wait := 0, run := s.run + 1 }

/-- A command's event, or a late code fill: one of those that can happen, which a number decides (R241). -/
def State.command (s : State) (ts : List State) (n : Nat) : State :=
  { ts.getD (n % ts.length) s with wait := s.wait + 1, run := s.run + 1 }

/-- Commands and chains go on (log 8): the order of command events, and between them and chains, is a free choice, for a command
takes a time that the spec does not fix; but neither side waits longer than a bound (R42) (log 58). -/
def State.race (s0 : State) : Out :=
  let s : State := { s0 with free := s0.free + 2 }
  let ts := (s.cmdEvents ++ s.lateFills).filterMap s.try?
  let next := s.command ts (Config.freeChoice (s0.free + 1))
  match ts, s.chosen with
  | [], none => .next s0.idleStep
  | [], some r => ({ s0 with wait := 0, run := 0 } : State).startChosen r
  | _ :: _, none => .next (if Config.raceBound < s.wait then s.oldestTurn else next)
  | _ :: _, some r =>
    let chain : State := { s with wait := s.wait + 1, run := 0 }
    if Config.raceBound < s.run then chain.startChosen r
    else if Config.raceBound < s.wait then .next s.oldestTurn
    else if Config.freeChoice s0.free % 2 = 0 then .next next
    else chain.startChosen r

/-- One step with no chain open: an input that is due, the picked chain, a condition whose bit is set again (R414), an event of the
device, or a command or chain. -/
def State.between (s : State) : Out :=
  match takeDue s.clock s.inputs with
  | some (i, rest) => exec i { s with inputs := rest }
  | none =>
    match s.picked with
    | some r => s.startChain r
    | none =>
      match s.lostConds with
      | i :: _ => .next (s.setAgain i)
      | [] =>
        match s.firstEvent s.events with
        | some t => .next t
        | none => s.race

/-! ## A program for the next step -/

/-- The lowest tenant number in no use. -/
def State.freshTenant (s : State) : Nat :=
  (((List.range 4094).map (· + 1)).find? fun n => (s.tenant? n).isNone).getD 1

/-- The lowest granule that is in the free pool. -/
def State.freshGranule (s : State) : Nat :=
  ((List.range (s.owners.length + 1)).find? fun g => !s.owners.any fun o => o.1 == g).getD 0

/-- A code line that holds one word at its first packet and `nop` after it: valid, a destination, with the stop mirror
(R66 to R69). -/
def oneWordLine (w : Nat) : List Byte :=
  leBytes 8 (2 ^ 20 + 1 + (if stopWord (BitVec.ofNat 32 w) then 2 ^ 10 else 0)) ++ leBytes 4 w ++ leBytes 8 0

/-- A directory with one code range of 64 KiB at virtual address 0 (R293, R315). -/
def codeRange (tenant granule : Nat) : Nat :=
  descOf { gen := 0, tenant := tenant, part := false, space := 3, perm := 5, pbase := granule, limit := 1, vbase := 0, bitmap := 0,
           word := none }

/-- A supervisor launch of one fibre whose code begins at virtual address 0 (R324). -/
def oneLaunch (id tenant clock core context : Nat) : Launch :=
  let regs : List Word := List.replicate 64 0
  let b := Block.start 0 1 0 8 clock regs 0 0
  { id := id, tenant := tenant, rcb := rkey tenant 0, codebase := 0, codelen := 128, entry := 8, trapvec := 0xFFFFFFFF,
    nblocks := 1, blockdim := 1, spawns := 0, window := 64, gates := 0, scratchSize := 0, privSize := 0, gatebase := 0,
    gateslice := 0, det := false, sup := true, check := false, constbase := 0, database := 0, datalen := 0, spillbase := 0,
    spilllen := 0, sparse := 0, round := 0,
    blockList := [{ b with status := .bound, core := core, cores := 1, groups := b.groups.map fun g =>
      { g with bound := true, core := core, context := context } }],
    roundLog := [], heldLog := [], landing := [], landAt := 0, consts := List.replicate 1024 0, spillExt := [], woBytes := [],
    woSecond := [], named := [], stale := [], logPoison := [], sparsePoison := [], hold := .none, notes := [],
    dying := none, faults := [], grown := [], suspended := false,
    ended := false, latched := [], leases := [], parent := none }

/-- The core 0 as the launch's group is bound to a fresh context and its code line held. -/
def Core.bindOne (k : Core) (launch context : Nat) : Core :=
  { k with contexts := k.contexts ++ [{ num := context, launch := launch, block := 0, group := 0, age := k.nextAge, gen := 0,
                                         banks := 0, wbase := 0, streak := 0, last := 0 }],
           nextAge := k.nextAge + 1, code := k.code ++ [(launch, 0)] }

/-- Load one word as the program that runs next (log 9): a fresh tenant, its directory and code line in granules that were
free, a supervisor launch of one fibre bound to core 0, and the choice of its chain. -/
def State.placeWord (s : State) (w : Nat) : State :=
  let t := s.freshTenant
  let g := s.freshGranule
  let own := s.owners ++ [(g, 0)]
  let c := ({ s with owners := own } : State).freshGranule
  let id := s.nextLaunch
  let ctx := 1 + (((s.core? 0).map fun k => (k.contexts.map Context.num).foldl max 0).getD 0)
  let m := (s.mem.setBytes (g * unit) (leBytes 32 (codeRange t c))).setBytes (c * unit) (oneWordLine w)
  { s with
    issue := none, inputs := [], pick := some (id, 0, 0, 8, 0), mem := m,
    poison := s.poison.filter fun l => l != c * 512, owners := own ++ [(c, t)],
    tenants := s.tenants ++ [{ num := t, first := 0, slices := 12, dir := g * unit, ndir := 1, cap := 65535 }],
    launches := s.launches ++ [oneLaunch id t s.clock 0 ctx], nextLaunch := id + 1,
    cores := s.cores.map fun k => if k.num = 0 then k.bindOne id ctx else k }

end Sys2Proof.Machine
end

