-- ==== Sys2Proof/Machine/Step.lean ====
section
/-! DEFINITION. One step of the machine: the next word of an open chain, or what comes between chains. -/

namespace Sys2Proof.Machine

/-- One step (log 3): the chain that is open runs its next word; with none open, an input, an event or a chain comes next. -/
def step (s : State) : Host.Outcome State Fault Refusal :=
  match s.issue with
  | some is => s.runWord is
  | none => s.between

/-- The state with one word stored where the next step fetches it (log 9); every word of the device has 32 bits. -/
def State.withFetchWord (s : State) (nbits w : Nat) : State := s.placeWord (w % 2 ^ min nbits 32)

end Sys2Proof.Machine
end

