-- ==== Sys2Proof/Safety.lean ====
section
/-! DEFINITION. The terms in which statements about the machine are made: when a word can act on a fibre without a trap or a
free choice, and what a register or predicate write leaves. -/

namespace Sys2Proof.Machine

/-- The memory keeps its canonical form. -/
def State.memOk (s : State) : Prop := s.mem.wf = true

/-! ## Conditions -/

/-- A fibre of the block that issues, as it stands now; `e.b` holds it as the chain found it (R72). -/
def Env.cur? (e : Env) (id : Nat) : Option Fibre :=
  ((e.s.launch? e.is.launch).bind (·.block? e.is.block)).bind (·.fibre? id)

/-- A register or predicate (64 + q) holds its value: no four-cycle result is on its way (R76), none is pending (R36, R55). -/
def Fibre.settled (f : Fibre) (now n : Nat) : Bool := (f.early now n).isNone && (f.pendingRound n).isNone

/-- Journal entries that writes would add (R30): q0 is never written (R14). -/
def Fibre.entries (f : Fibre) (ns : List Nat) : Nat :=
  ((ns.filter (· < 64)).filter fun n => !f.journal.any fun x => x.1 == n).length
    + (if ns.any (64 < ·) && f.jpreds.isNone then 1 else 0)

/-- The fibre can take these writes: none pending, each register in its window, room in the journal (R30, R31, R55). -/
def Fibre.takes (f : Fibre) (ns : List Nat) : Bool :=
  (ns.all fun n => (f.pendingRound n).isNone && (decide (64 ≤ n) || decide (n < f.regs.length)))
    && decide (f.journalUsed + f.entries ns ≤ 24)

/-- The guard can be read, and if it lets the fibre act, so can everything the word names, and its writes can be taken. -/
def Env.allows (e : Env) (i : Instr) (v c : Fibre) : Bool :=
  (e.is.mods.gq == 0 || v.settled e.is.cycle (64 + e.is.mods.gq.toNat))
    && (!e.active v ||
      ((i.newestReads e.is.mods ++ i.writesNow).all (v.settled e.is.cycle) && c.takes i.writesNow))

/-- A well-formed word acts without a trap on every fibre of its fragment. -/
def Env.ready (e : Env) (i : Instr) : Bool :=
  i.wf && decide e.is.live.Nodup && e.is.live.all fun id =>
    match e.b.fibre? id, e.cur? id with
    | some v, some c => e.allows i v c
    | _, _ => false

/-! ## Effects -/

/-- The value a list of register writes gives a register; the later of two holds. -/
def written (ws : List (Nat × Word)) (n : Nat) (old : Word) : Word :=
  match ws with
  | [] => old
  | w :: rest => written rest n (if w.1 = n then w.2 else old)

/-- `g` is `f` after register writes (R29 to R32, R120): the registers written hold their values and the tags of their quads
are clear, every other register and tag and every step-start value is as before, and so is the rest of the fibre: its
predicates, place, status, trap registers, private memory and everything pending. The cycles in which results can be read
may change (`fresh`, `busy`; R76, R338). -/
def Fibre.wrote (f g : Fibre) (ws : List (Nat × Word)) : Prop :=
  (∀ n, g.reg n = written ws n (f.reg n)) ∧
  (∀ q, g.tag q = (f.tag q && !ws.any fun w => w.1 / 4 == q)) ∧
  (∀ n, g.startReg n = f.startReg n) ∧
  { g with regs := f.regs, tags := f.tags, journal := f.journal, fresh := f.fresh, busy := f.busy } = f

/-- `g` is `f` after a write of predicates (R14, R30): `p` gives each of q1 to q15; the step-start predicates and the rest of
the fibre are as before. -/
def Fibre.predded (f g : Fibre) (p : Nat → Bool) : Prop :=
  (∀ q, 0 < q → q < 16 → g.pred q = p q) ∧
  g.jpreds.getD g.preds = f.jpreds.getD f.preds ∧
  { g with preds := f.preds, jpreds := f.jpreds, fresh := f.fresh, busy := f.busy } = f

/-- `SetPred(spec, x)` on the predicates (R88). -/
def specTo (v f : Fibre) (spec : BitVec 6) (x : Bool) (q : Nat) : Bool :=
  if q ≠ spec.toNat % 16 then f.pred q
  else if spec.toNat / 16 = 0 then x
  else if spec.toNat / 16 = 1 then v.pred q && x
  else v.pred q || x

/-- From `s` to `t` nothing changes but fibres of the fragment: each active one is related by `P` to what it was (`v` as the
chain found it, then as it stood before the word, then after), the others stand. -/
def Env.acts (e : Env) (s t : State) (P : Fibre → Fibre → Fibre → Prop) : Prop :=
  ∃ upd : Fibre → Fibre,
    t = s.modBlock e.is.launch e.is.block (fun b => { b with fibres := b.fibres.map upd }) ∧
    (∀ f : Fibre, f.id ∉ e.is.live → upd f = f) ∧
    ∀ id ∈ e.is.live, ∀ v c, e.b.fibre? id = some v → e.cur? id = some c →
      if e.active v = true then P v c (upd c) else upd c = c

/-! ## The tables of results

Each table gives, for an instruction of its family, the destination and what the spec says of the value, in terms of the
operands A, B and T of R119; it answers nothing for any other instruction. -/

/-- The word that stands for an integer, modulo 2^32. -/
def is32 (x : Int) (w : Word) : Prop := w = BitVec.ofInt 32 x
/-- The pair value that stands for an integer, modulo 2^64. -/
def is64 (x : Int) (w : DWord) : Prop := w = BitVec.ofInt 64 x
/-- A word given bit by bit. -/
def bits32 (p : Nat → Bool) (w : Word) : Prop := ∀ k, k < 32 → w.getLsbD k = p k
/-- A pair value given bit by bit. -/
def bits64 (p : Nat → Bool) (w : DWord) : Prop := ∀ k, k < 64 → w.getLsbD k = p k
/-- `Sat` of R136. -/
def satInt (x lo hi : Int) : Int := max lo (min x hi)

/-- R136. -/
def Env.int32 (e : Env) (f : Fibre) : Instr → Option (BitVec 6 × (Word → Prop))
  | .iadd d a b => some (d, is32 ((e.srcA f a).toInt + (e.srcB f b).toInt))
  | .isub d a b => some (d, is32 ((e.srcA f a).toInt - (e.srcB f b).toInt))
  | .imul d a b => some (d, is32 ((e.srcA f a).toInt * (e.srcB f b).toInt))
  | .imulhi d a b => some (d, is32 ((e.srcA f a).toInt * (e.srcB f b).toInt / 2 ^ 32))
  | .imulhin d a b => some (d, is32 (((e.srcA f a).toNat : Int) * (e.srcB f b).toNat / 2 ^ 32))
  | .imad d a b => some (d, is32 ((e.srcA f a).toInt * (e.srcB f b).toInt + (e.srcT f d).toInt))
  | .imin d a b => some (d, is32 (min (e.srcA f a).toInt (e.srcB f b).toInt))
  | .imax d a b => some (d, is32 (max (e.srcA f a).toInt (e.srcB f b).toInt))
  | .iminn d a b => some (d, is32 (min (e.srcA f a).toNat (e.srcB f b).toNat : Nat))
  | .imaxn d a b => some (d, is32 (max (e.srcA f a).toNat (e.srcB f b).toNat : Nat))
  | .iabs d a => some (d, is32 ((e.srcA f a).toInt.natAbs : Nat))
  | .ineg d a => some (d, is32 (0 - (e.srcA f a).toInt))
  | .iadds d a b => some (d, is32 (satInt ((e.srcA f a).toInt + (e.srcB f b).toInt) (-(2 ^ 31)) (2 ^ 31 - 1)))
  | .isubs d a b => some (d, is32 (satInt ((e.srcA f a).toInt - (e.srcB f b).toInt) (-(2 ^ 31)) (2 ^ 31 - 1)))
  | .iaddsn d a b => some (d, is32 (satInt (((e.srcA f a).toNat : Int) + (e.srcB f b).toNat) 0 (2 ^ 32 - 1)))
  | .isubsn d a b => some (d, is32 (satInt (((e.srcA f a).toNat : Int) - (e.srcB f b).toNat) 0 (2 ^ 32 - 1)))
  | _ => none

/-- R137: shifts take the amount from one 32-bit register. -/
def Env.int64 (e : Env) (f : Fibre) : Instr → Option (BitVec 6 × (DWord → Prop))
  | .ladd d a b => some (d, is64 ((e.pairA f a).toInt + (e.pairB f b).toInt))
  | .lsub d a b => some (d, is64 ((e.pairA f a).toInt - (e.pairB f b).toInt))
  | .lmul d a b => some (d, is64 ((e.pairA f a).toInt * (e.pairB f b).toInt))
  | .lmad d a b => some (d, is64 ((e.pairA f a).toInt * (e.pairB f b).toInt + (e.pairT f d).toInt))
  | .lmin d a b => some (d, is64 (min (e.pairA f a).toInt (e.pairB f b).toInt))
  | .lmax d a b => some (d, is64 (max (e.pairA f a).toInt (e.pairB f b).toInt))
  | .lminn d a b => some (d, is64 (min (e.pairA f a).toNat (e.pairB f b).toNat : Nat))
  | .lmaxn d a b => some (d, is64 (max (e.pairA f a).toNat (e.pairB f b).toNat : Nat))
  | .lshl d a b => some (d, is64 ((e.pairA f a).toNat * 2 ^ ((e.srcB f b).toNat % 64) : Nat))
  | .lshr d a b => some (d, is64 ((e.pairA f a).toNat / 2 ^ ((e.srcB f b).toNat % 64) : Nat))
  | .lsra d a b => some (d, is64 ((e.pairA f a).toInt / 2 ^ ((e.srcB f b).toNat % 64)))
  | .lneg d a => some (d, is64 (0 - (e.pairA f a).toInt))
  | .labs d a => some (d, is64 ((e.pairA f a).toInt.natAbs : Nat))
  | _ => none

/-- The field of R139: position, end and width. -/
def fieldOf (c : Word) : Nat × Nat × Nat :=
  let pos := c.toNat % 32
  let stop := min (pos + c.toNat / 256 % 64) 32
  (pos, stop, stop - pos)

/-- R138 and R139, bit by bit. -/
def Env.logic (e : Env) (f : Fibre) : Instr → Option (BitVec 6 × (Word → Prop))
  | .and d a b => some (d, bits32 fun k => (e.srcA f a).getLsbD k && (e.srcB f b).getLsbD k)
  | .or d a b => some (d, bits32 fun k => (e.srcA f a).getLsbD k || (e.srcB f b).getLsbD k)
  | .xor d a b => some (d, bits32 fun k => (e.srcA f a).getLsbD k != (e.srcB f b).getLsbD k)
  | .andn d a b => some (d, bits32 fun k => (e.srcA f a).getLsbD k && !(e.srcB f b).getLsbD k)
  | .orn d a b => some (d, bits32 fun k => (e.srcA f a).getLsbD k || !(e.srcB f b).getLsbD k)
  | .xnor d a b => some (d, bits32 fun k => (e.srcA f a).getLsbD k == (e.srcB f b).getLsbD k)
  | .not d a => some (d, bits32 fun k => !(e.srcA f a).getLsbD k)
  | .shl d a b => some (d, is32 ((e.srcA f a).toNat * 2 ^ ((e.srcB f b).toNat % 32) : Nat))
  | .shr d a b => some (d, is32 ((e.srcA f a).toNat / 2 ^ ((e.srcB f b).toNat % 32) : Nat))
  | .sra d a b => some (d, is32 ((e.srcA f a).toInt / 2 ^ ((e.srcB f b).toNat % 32)))
  | .rotl d a b => some (d, bits32 fun k => (e.srcA f a).getLsbD ((k + 32 - (e.srcB f b).toNat % 32) % 32))
  | .rotr d a b => some (d, bits32 fun k => (e.srcA f a).getLsbD ((k + (e.srcB f b).toNat % 32) % 32))
  | .popc d a => some (d, is32 (((List.range 32).filter fun k => (e.srcA f a).getLsbD k).length : Nat))
  | .clz d a => some (d, is32 (((List.range 32).takeWhile fun k => !(e.srcA f a).getLsbD (31 - k)).length : Nat))
  | .ctz d a => some (d, is32 (((List.range 32).takeWhile fun k => !(e.srcA f a).getLsbD k).length : Nat))
  | .brev d a => some (d, bits32 fun k => (e.srcA f a).getLsbD (31 - k))
  | .bfe d a b => some (d, bits32 fun k =>
      let x := fieldOf (e.srcB f b)
      decide (k < x.2.2) && (e.srcA f a).getLsbD (x.1 + k))
  | .bfes d a b => some (d, bits32 fun k =>
      let x := fieldOf (e.srcB f b)
      decide (0 < x.2.2) && (e.srcA f a).getLsbD (x.1 + min k (x.2.2 - 1)))
  | .bfi d a b => some (d, bits32 fun k =>
      let x := fieldOf (e.srcB f b)
      if x.1 ≤ k ∧ k < x.2.1 then (e.srcA f a).getLsbD (k - x.1) else (e.srcT f d).getLsbD k)
  | .bswap d a => some (d, bits32 fun k => (e.srcA f a).getLsbD (8 * (3 - k / 8) + k % 8))
  | _ => none

/-- R141 and R143; `movhi` reads the fibre's own newest value. -/
def Env.immediate (e : Env) (f : Fibre) : Instr → Option (BitVec 6 × (Word → Prop))
  | .iaddi d a imm => some (d, is32 ((e.srcA f a).toInt + imm.toInt))
  | .andi d a imm => some (d, bits32 fun k => (e.srcA f a).getLsbD k && imm.getLsbD (min k 10))
  | .ori d a imm => some (d, bits32 fun k => (e.srcA f a).getLsbD k || imm.getLsbD (min k 10))
  | .xori d a imm => some (d, bits32 fun k => (e.srcA f a).getLsbD k != imm.getLsbD (min k 10))
  | .shli d a n => some (d, is32 ((e.srcA f a).toNat * 2 ^ n.toNat : Nat))
  | .shri d a n => some (d, is32 ((e.srcA f a).toNat / 2 ^ n.toNat : Nat))
  | .srai d a n => some (d, is32 ((e.srcA f a).toInt / 2 ^ n.toNat))
  | .movi d imm => some (d, is32 imm.toInt)
  | .movhi d imm => some (d, is32 (imm.toNat * 2 ^ 17 + (f.reg d.toNat).toNat % 2 ^ 17 : Nat))
  | _ => none

/-- R144, R146 (`pword`), R205 (`movb`). -/
def Env.move (e : Env) (f : Fibre) : Instr → Option (BitVec 6 × (Word → Prop))
  | .mov d a => some (d, fun w => w = e.srcA f a)
  | .isel d a b => some (d, fun w => w = if (e.srcT f d).toNat ≠ 0 then e.srcA f a else e.srcB f b)
  | .pword d => some (d, bits32 fun k => k == 0 || (decide (k < 16) && f.pred k))
  | .movb d bi => some (d, fun w => w = e.b.bregs.getD bi.toNat 0)
  | _ => none

/-- The lanes of the home group that count, with S(i) ≠ 0 (R147). -/
def Env.flagged (e : Env) (f : Fibre) (a : BitVec 6) (i : Nat) : Bool :=
  e.laneLive f.group i && e.laneReg f.group i a.toNat != 0

/-- R147, the words with a register result. -/
def Env.lane32 (e : Env) (f : Fibre) : Instr → Option (BitVec 6 × (Word → Prop))
  | .lshfl d a b => some (d, fun w => w = e.laneReg f.group ((e.srcB f b).toNat % 64) a.toNat)
  | .lrank d a => some (d, is32 (((List.range 64).filter fun i => decide (i < f.lane) && e.flagged f a i).length : Nat))
  | .lfirst d a => some (d, is32 ((((List.range 64).find? (e.flagged f a)).getD 64 : Nat)))
  | _ => none

/-- Set bits of a bitmap below a position. -/
def setBelow (x : DWord) (n : Nat) : Nat := ((List.range n).filter fun k => x.getLsbD k).length

/-- R148, the words with a register result. -/
def Env.bitmap32 (e : Env) (f : Fibre) : Instr → Option (BitVec 6 × (Word → Prop))
  | .bxcnt d a b => some (d, is32 (((List.range 64).filter fun k =>
      (e.pairA f a).getLsbD k && (e.pairB f b).getLsbD k).length : Nat))
  | .bmpre d a b => some (d, is32 (setBelow (e.pairA f a) (min (e.srcB f b).toNat 64) : Nat))
  | _ => none

/-- R147 and R148, the words with a pair result; the low register of `bxpos` holds the position, the high one the count. -/
def Env.bitmap64 (e : Env) (f : Fibre) : Instr → Option (BitVec 6 × (DWord → Prop))
  | .lballot d a => some (d, bits64 (e.flagged f a))
  | .bxpos d a b => some (d, fun w =>
      loOf w = BitVec.ofNat 32 (((List.range 64).find? fun k =>
        (e.pairA f a).getLsbD k && setBelow (e.pairA f a) k == (e.srcB f b).toNat).getD 64)
      ∧ hiOf w = BitVec.ofNat 32 (setBelow (e.pairA f a) 64))
  | .bmerge d a b => some (d, bits64 fun k => (e.pairA f a).getLsbD k || (e.pairB f b).getLsbD k)
  | _ => none

/-- A function of patterns with a result of 32 bits. -/
def isNum32 (n : Nat) (w : Word) : Prop := w = BitVec.ofNat 32 n
/-- A function of patterns with a result of 64 bits. -/
def isNum64 (n : Nat) (w : DWord) : Prop := w = BitVec.ofNat 64 n

/-- R179: sums and products rounded once to the nearest, R181, R182, R165, R166, R167. -/
def Env.float32 (e : Env) (f : Fibre) : Instr → Option (BitVec 6 × (Word → Prop))
  | .fadd d a b => some (d, isNum32 (f32.sum .rne [f32.read (e.srcA f a).toNat, f32.read (e.srcB f b).toNat]))
  | .fsub d a b => some (d, isNum32 (f32.sum .rne [f32.read (e.srcA f a).toNat, (f32.read (e.srcB f b).toNat).neg]))
  | .fmul d a b => some (d, isNum32 (f32.sum .rne [(f32.read (e.srcA f a).toNat).mul (f32.read (e.srcB f b).toNat)]))
  | .ffma d a b => some (d, isNum32 (f32.sum .rne
      [(f32.read (e.srcA f a).toNat).mul (f32.read (e.srcB f b).toNat), f32.read (e.srcT f d).toNat]))
  | .ffms d a b => some (d, isNum32 (f32.sum .rne
      [(f32.read (e.srcA f a).toNat).mul (f32.read (e.srcB f b).toNat), (f32.read (e.srcT f d).toNat).neg]))
  | .fnfma d a b => some (d, isNum32 (f32.sum .rne
      [((f32.read (e.srcA f a).toNat).mul (f32.read (e.srcB f b).toNat)).neg, f32.read (e.srcT f d).toNat]))
  | .fmin d a b => some (d, isNum32 (f32.fmin (e.srcA f a).toNat (e.srcB f b).toNat))
  | .fmax d a b => some (d, isNum32 (f32.fmax (e.srcA f a).toNat (e.srcB f b).toNat))
  | .fabs d a => some (d, bits32 fun k => decide (k < 31) && (e.srcA f a).getLsbD k)
  | .fneg d a => some (d, bits32 fun k => (e.srcA f a).getLsbD k != (k == 31))
  | .fdiv d a b => some (d, isNum32 (f32.div (e.srcA f a).toNat (e.srcB f b).toNat))
  | .fsqrt d a => some (d, isNum32 (f32.sqrt (e.srcA f a).toNat))
  | .frcp d a => some (d, isNum32 (f32.rcp (e.srcA f a).toNat))
  | .frsq d a => some (d, isNum32 (f32.rsq (e.srcA f a).toNat))
  | .fexp2 d a => some (d, isNum32 (exp2Bits (e.srcA f a).toNat))
  | .flog2 d a => some (d, isNum32 (log2Bits (e.srcA f a).toNat))
  | .fsinpi d a => some (d, isNum32 (sinPiBits (e.srcA f a).toNat))
  | .fcospi d a => some (d, isNum32 (cosPiBits (e.srcA f a).toNat))
  | .fkey d a => some (d, bits32 fun k => if (e.srcA f a).getLsbD 31 then !(e.srcA f a).getLsbD k
      else k == 31 || (e.srcA f a).getLsbD k)
  | .fkeyinv d a => some (d, bits32 fun k => if (e.srcA f a).getLsbD 31 then decide (k < 31) && (e.srcA f a).getLsbD k
      else !(e.srcA f a).getLsbD k)
  | _ => none

/-- R184. -/
def Env.float64 (e : Env) (f : Fibre) : Instr → Option (BitVec 6 × (DWord → Prop))
  | .dadd d a b => some (d, isNum64 (f64.sum .rne [f64.read (e.pairA f a).toNat, f64.read (e.pairB f b).toNat]))
  | .dsub d a b => some (d, isNum64 (f64.sum .rne [f64.read (e.pairA f a).toNat, (f64.read (e.pairB f b).toNat).neg]))
  | .dmul d a b => some (d, isNum64 (f64.sum .rne [(f64.read (e.pairA f a).toNat).mul (f64.read (e.pairB f b).toNat)]))
  | .dfma d a b => some (d, isNum64 (f64.sum .rne
      [(f64.read (e.pairA f a).toNat).mul (f64.read (e.pairB f b).toNat), f64.read (e.pairT f d).toNat]))
  | .dmin d a b => some (d, isNum64 (f64.fmin (e.pairA f a).toNat (e.pairB f b).toNat))
  | .dmax d a b => some (d, isNum64 (f64.fmax (e.pairA f a).toNat (e.pairB f b).toNat))
  | .dabs d a => some (d, bits64 fun k => decide (k < 63) && (e.pairA f a).getLsbD k)
  | .dneg d a => some (d, bits64 fun k => (e.pairA f a).getLsbD k != (k == 63))
  | .ddiv d a b => some (d, isNum64 (f64.div (e.pairA f a).toNat (e.pairB f b).toNat))
  | .dsqrt d a => some (d, isNum64 (f64.sqrt (e.pairA f a).toNat))
  | .dkey d a => some (d, bits64 fun k => if (e.pairA f a).getLsbD 63 then !(e.pairA f a).getLsbD k
      else k == 63 || (e.pairA f a).getLsbD k)
  | _ => none

/-- The two elements of a packed register (R185). -/
def halvesAre (g : Nat → Nat) (w : Word) : Prop :=
  w.toNat % 65536 = g 0 ∧ w.toNat / 65536 = g 1

/-- An element of a packed register. -/
def half (w : Word) (k : Nat) : Nat := w.toNat / 65536 ^ k % 65536

/-- R185: each element from the same element of the sources. -/
def Env.packed (e : Env) (f : Fibre) : Instr → Option (BitVec 6 × (Word → Prop))
  | .hadd2 d a b => some (d, halvesAre fun k =>
      f16.sum .rne [f16.read (half (e.srcA f a) k), f16.read (half (e.srcB f b) k)])
  | .hsub2 d a b => some (d, halvesAre fun k =>
      f16.sum .rne [f16.read (half (e.srcA f a) k), (f16.read (half (e.srcB f b) k)).neg])
  | .hmul2 d a b => some (d, halvesAre fun k =>
      f16.sum .rne [(f16.read (half (e.srcA f a) k)).mul (f16.read (half (e.srcB f b) k))])
  | .hfma2 d a b => some (d, halvesAre fun k =>
      f16.sum .rne [(f16.read (half (e.srcA f a) k)).mul (f16.read (half (e.srcB f b) k)), f16.read (half (e.srcT f d) k)])
  | .hmin2 d a b => some (d, halvesAre fun k => f16.fmin (half (e.srcA f a) k) (half (e.srcB f b) k))
  | .hmax2 d a b => some (d, halvesAre fun k => f16.fmax (half (e.srcA f a) k) (half (e.srcB f b) k))
  | .hkey2 d a => some (d, halvesAre fun k => f16.key (half (e.srcA f a) k))
  | .badd2 d a b => some (d, halvesAre fun k =>
      bf16.sum .rne [bf16.read (half (e.srcA f a) k), bf16.read (half (e.srcB f b) k)])
  | .bsub2 d a b => some (d, halvesAre fun k =>
      bf16.sum .rne [bf16.read (half (e.srcA f a) k), (bf16.read (half (e.srcB f b) k)).neg])
  | .bmul2 d a b => some (d, halvesAre fun k =>
      bf16.sum .rne [(bf16.read (half (e.srcA f a) k)).mul (bf16.read (half (e.srcB f b) k))])
  | .bfma2 d a b => some (d, halvesAre fun k =>
      bf16.sum .rne [(bf16.read (half (e.srcA f a) k)).mul (bf16.read (half (e.srcB f b) k)), bf16.read (half (e.srcT f d) k)])
  | .bmin2 d a b => some (d, halvesAre fun k => bf16.fmin (half (e.srcA f a) k) (half (e.srcB f b) k))
  | .bmax2 d a b => some (d, halvesAre fun k => bf16.fmax (half (e.srcA f a) k) (half (e.srcB f b) k))
  | _ => none

/-- The integer a pattern of an integer type stands for (R153, R187). -/
def typeInt (signed : Bool) (bits src : Nat) : Int :=
  if signed && (src % 2 ^ bits / 2 ^ (bits - 1) == 1) then ((src % 2 ^ bits : Nat) : Int) - 2 ^ bits else (src % 2 ^ bits : Nat)

/-- The range of an integer type (R153). -/
def typeLo (signed : Bool) (bits : Nat) : Int := if signed then -(2 ^ (bits - 1)) else 0
/-- The range of an integer type (R153). -/
def typeHi (signed : Bool) (bits : Nat) : Int := if signed then 2 ^ (bits - 1) - 1 else 2 ^ bits - 1

/-- The result of `cvt` by R161 to R164, R187 and R188, as a pattern of 64 bits; an integer result is extended by its type. -/
def cvtResult (dt st : CvtType) (mode : RMode) (src : Nat) : Nat :=
  match st, dt with
  | .int s n, .int t k => (satInt (typeInt s n src) (typeLo t k) (typeHi t k) % (2 ^ 64 : Nat)).toNat
  | .int s n, .flt f => if typeInt s n src = 0 then 0 else f.roundDy mode (typeInt s n src) 0 false
  | .flt f, .int t k =>
    match f.read (src % 2 ^ f.width) with
    | .nan => 0
    | .inf true => (typeLo t k % (2 ^ 64 : Nat)).toNat
    | .inf false => (typeHi t k % (2 ^ 64 : Nat)).toNat
    | .zero _ => 0
    | .fin m x => (satInt (roundInt mode m x) (typeLo t k) (typeHi t k) % (2 ^ 64 : Nat)).toNat
  | .flt f, .flt g =>
    match f.read (src % 2 ^ f.width) with
    | .nan => g.nan
    | .inf neg => g.signed neg g.infBits
    | .zero neg => g.signed neg 0
    | .fin m x => if f = g then g.roundDy .rne (roundInt mode m x) 0 (decide (m < 0)) else g.roundDy mode m x false

/-- `cvt` to a type of up to 32 bits, and `unfix` (R186 to R190). -/
def Env.convert32 (e : Env) (f : Fibre) : Instr → Option (BitVec 6 × (Word → Prop))
  | .cvt d a dt st rm =>
    if wide dt then none
    else some (d, isNum32 (cvtResult (.ofCode dt.toNat) (.ofCode st.toNat) (.ofCode rm.toNat)
      (if wide st then (e.pairA f a).toNat else (e.srcA f a).toNat)))
  | .unfix d a rm scale => some (d, isNum32 (if (e.pairA f a).toInt = 0 then 0
      else f32.roundDy (.ofCode rm.toNat) (e.pairA f a).toInt (-scale.toInt) false))
  | _ => none

/-- `cvt` to a type of 64 bits, and `fix` (R186 to R190). -/
def Env.convert64 (e : Env) (f : Fibre) : Instr → Option (BitVec 6 × (DWord → Prop))
  | .cvt d a dt st rm =>
    if wide dt then some (d, isNum64 (cvtResult (.ofCode dt.toNat) (.ofCode st.toNat) (.ofCode rm.toNat)
      (if wide st then (e.pairA f a).toNat else (e.srcA f a).toNat)))
    else none
  | .fix d a rm scale => some (d, is64 (match f32.read (e.srcA f a).toNat with
      | .nan => 0
      | .inf true => -(2 ^ 63)
      | .inf false => 2 ^ 63 - 1
      | .zero _ => 0
      | .fin m x => satInt (roundInt (.ofCode rm.toNat) m (x + scale.toInt)) (-(2 ^ 63)) (2 ^ 63 - 1)))
  | _ => none

/-- The integer conditions of R140. -/
def intCond (cond : Nat) (a b : Int) (m n : Nat) : Bool :=
  match cond with
  | 0 => decide (m = n)
  | 1 => decide (m ≠ n)
  | 2 => decide (a < b)
  | 3 => decide (a ≤ b)
  | 4 => decide (b < a)
  | 5 => decide (b ≤ a)
  | 6 => decide (m < n)
  | 7 => decide (m ≤ n)
  | 8 => decide (n < m)
  | _ => decide (n ≤ m)

/-- Every word of a table writes what the table says to its destination in each active fibre, and nothing else changes. -/
def writesWord (tab : Env → Fibre → Instr → Option (BitVec 6 × (Word → Prop))) : Prop :=
  ∀ (s : State) (e : Env) (i : Instr), s.env? = some e → e.ready i = true → (∀ f, (tab e f i).isSome = true) →
    ∃ t, exec i s = .next t ∧ e.acts s t fun v c g =>
      ∃ d p w, tab e v i = some (d, p) ∧ p w ∧ c.wrote g [(d.toNat, w)]

/-- The same for pairs: the low half goes to `v[d]`, the high half to `v[d+1]` (R87). -/
def writesPair (tab : Env → Fibre → Instr → Option (BitVec 6 × (DWord → Prop))) : Prop :=
  ∀ (s : State) (e : Env) (i : Instr), s.env? = some e → e.ready i = true → (∀ f, (tab e f i).isSome = true) →
    ∃ t, exec i s = .next t ∧ e.acts s t fun v c g =>
      ∃ d p w, tab e v i = some (d, p) ∧ p w ∧ c.wrote g [(d.toNat, loOf w), (d.toNat + 1, hiOf w)]

/-- The words that perform `SetPred` (R140, R142, R146, R147, R183, R210): the spec in their field d, and the truth value. -/
def Env.truth (e : Env) (f : Fibre) : Instr → Option (BitVec 6 × Bool)
  | .icmp p a b c => some (p, intCond c.toNat (e.srcA f a).toInt (e.srcB f b).toInt (e.srcA f a).toNat (e.srcB f b).toNat)
  | .lcmp p a b c =>
    some (p, intCond c.toNat (e.pairA f a).toInt (e.pairB f b).toInt (e.pairA f a).toNat (e.pairB f b).toNat)
  | .icmpi p a c imm =>
    some (p, intCond c.toNat (e.srcA f a).toInt imm.toInt (e.srcA f a).toNat (imm.signExtend 32).toNat)
  | .fcmp p a b c => some (p, fcond (f32.read (e.srcA f a).toNat) (f32.read (e.srcB f b).toNat) c.toNat)
  | .dcmp p a b c => some (p, fcond (f64.read (e.pairA f a).toNat) (f64.read (e.pairB f b).toNat) c.toNat)
  | .pand p a b => some (p, f.pred a.toNat && f.pred b.toNat)
  | .por p a b => some (p, f.pred a.toNat || f.pred b.toNat)
  | .pxor p a b => some (p, f.pred a.toNat != f.pred b.toNat)
  | .pandn p a b => some (p, f.pred a.toNat && !f.pred b.toNat)
  | .pnot p a => some (p, !f.pred a.toNat)
  | .pmov p a => some (p, f.pred a.toNat)
  | .lvoteany p a => some (p, (List.range 64).any (e.flagged f a))
  | .lvoteall p a => some (p, (List.range 64).all fun i => !e.laneLive f.group i || e.flagged f a i)
  | .captag p a => some (p, capValid e.l (f.tag a.toNat) (capOf (f.quad a.toNat)))
  | _ => none

/-! ## Words with other effects -/

/-- The fibres of the fragment that act, in key order, as the chain found them and as they stand (R17, R20). -/
def Env.actives (e : Env) : List (Fibre × Fibre) :=
  e.is.live.filterMap fun id =>
    match e.b.fibre? id, e.cur? id with
    | some v, some c => if e.active v then some (v, c) else none
    | _, _ => none

/-- From `s` to `t` each active fibre changes as `P` says and adds contributions, gate amounts and spawn requests to the step
buffer in key order (R45); nothing else changes. -/
def Env.gives (e : Env) (s t : State) (P : Fibre → Fibre → Fibre → Prop) (C : Fibre → Fibre → List Contrib)
    (G : Fibre → Fibre → List (Nat × Nat × Nat × Nat)) (Q : Fibre → Fibre → List SpawnReq) : Prop :=
  ∃ upd : Fibre → Fibre,
    t = s.modBlock e.is.launch e.is.block (fun b =>
      { b with fibres := b.fibres.map upd, contribs := b.contribs ++ e.actives.flatMap fun x => C x.1 x.2,
               gadds := b.gadds ++ e.actives.flatMap fun x => G x.1 x.2,
               spawns := b.spawns ++ e.actives.flatMap fun x => Q x.1 x.2 }) ∧
    (∀ f : Fibre, f.id ∉ e.is.live → upd f = f) ∧
    ∀ id ∈ e.is.live, ∀ v c, e.b.fibre? id = some v → e.cur? id = some c →
      if e.active v = true then P v c (upd c) else upd c = c

/-- `g` is `f` with a capability written to quad q (R206): the four registers hold it and the tag is set. -/
def Fibre.wroteCap (f g : Fibre) (q v : Nat) : Prop :=
  (∀ n, g.reg n = if n / 4 = q then BitVec.ofNat 32 (v / 2 ^ (32 * (n % 4))) else f.reg n) ∧
  (∀ r, g.tag r = (r == q || f.tag r)) ∧
  (∀ n, g.startReg n = f.startReg n) ∧
  { g with regs := f.regs, tags := f.tags, journal := f.journal, fresh := f.fresh, busy := f.busy } = f

/-- `g` is `f` with room kept for registers whose results land later (R30, R31, R55): their step-start values are as before,
and nothing but the journal has changed. -/
def Fibre.kept (f g : Fibre) (regs : List Nat) : Prop :=
  (∀ n, g.startReg n = f.startReg n) ∧ (∀ n ∈ regs, (g.journal.any fun x => x.1 == n) = true) ∧
  { g with journal := f.journal, fresh := f.fresh, busy := f.busy } = f

/-- From `s` to `t` one fibre becomes `g` and contributions join the step buffer; the core of the fibre may take a range entry
and a line into its CACHE banks, and lines that it has now read as new are noted for every launch (R224, R225, R294, R226);
nothing else changes, memory among it. -/
def Env.accesses (e : Env) (s t : State) (g : Fibre) (cs : List Contrib) : Prop :=
  (∃ seen : Stale → Stale, t.launches =
    (s.modBlock e.is.launch e.is.block fun b => { b.modFibre g.id (fun _ => g) with contribs := b.contribs ++ cs }).launches.map
      fun (l : Launch) => { l with stale := l.stale.map seen }) ∧
  (t.cores.map fun (k : Core) => { k with cache := [], ranges := [] }) =
    (s.cores.map fun (k : Core) => { k with cache := [], ranges := [] }) ∧
  { t with launches := s.launches, cores := s.cores, free := s.free } = s

/-- The word's fragment is one fibre, which acts: `v` as the chain found it, `c` as it stands. -/
def Env.single (e : Env) (v c : Fibre) : Prop :=
  e.is.live = [v.id] ∧ e.b.fibre? v.id = some v ∧ e.cur? v.id = some c ∧ e.active v = true

/-- The state with the fragment cut down to some of its fibres. -/
def State.narrow (s : State) (ids : List Nat) : State :=
  { s with issue := s.issue.map fun is => { is with live := ids } }

/-- The fibres of the fragment that are still in the packet. -/
def State.liveIds (s : State) : List Nat := (s.issue.map Issue.live).getD []

/-- The rows of the opcode table without an encoding: what happens in the machine or reaches it, but is no word. -/
def isEvent (i : Instr) : Bool :=
  match i with
  | .stepCommit .. => true
  | .roundCommit .. => true
  | .heldCommitRetry .. => true
  | .launchEnd .. => true
  | .tokenLanding .. => true
  | .engineOutputLine .. => true
  | .loadDataReturn .. => true
  | .codeLineFill .. => true
  | .rangeWalk .. => true
  | .stagedCommandEnqueue .. => true
  | .matrixRowGrant .. => true
  | .matrixPortGrant .. => true
  | .engineQuiesceStop .. => true
  | .rcpLineArrival .. => true
  | .watchdog .. => true
  | .timeSliceExpiry .. => true
  | .gracePeriodEnd .. => true
  | .placementDecision .. => true
  | .bind .. => true
  | .unbind .. => true
  | .rebind .. => true
  | .scoreboardWaitThreshold .. => true
  | .gtoDemotion .. => true
  | .compactorMove .. => true
  | .portDown .. => true
  | .hostGateWrite .. => true
  | .hostApertureWrite .. => true
  | .hostApertureRead .. => true
  | .rootPortDma .. => true
  | .ltrUpdate .. => true
  | .powerStateEntry .. => true
  | .powerWake .. => true
  | .clockThrottle .. => true
  | .coreFailure .. => true
  | .matrixEngineFailure .. => true
  | .bootdb .. => true
  | .snaptrig .. => true
  | .replreq .. => true
  | .registerWrite .. => true
  | .mailboxUnknownCommand .. => true
  | .getMeasurements .. => true
  | .unsupportedRequest .. => true
  | .softError .. => true
  | .flitRetry .. => true
  | .engineSourceLine .. => true
  | .unassignedEncoding .. => true
  | .issuePolicyChange .. => true
  | .podEpisode => true
  | .c3Entry => true
  | .reset => true
  | .snaptrigPin => true
  | .registerExportEntry => true
  | .registerImportEntry => true
  | .joinPodGroup => true
  | .removePodMember => true
  | .attachDebugger => true
  | .detachDebugger => true
  | .setPartitionLayout => true
  | .tenantSave => true
  | .tenantRestore => true
  | .writeRangeDescriptor => true
  | .getVersion => true
  | .getCapabilities => true
  | .negotiateAlgorithms => true
  | .getDigests => true
  | .getCertificate => true
  | .challenge => true
  | _ => false

/-- The words that act once for their fragment with a parameter block: form, d, a and b (R258, R310, R368, R381). -/
def onceOf (i : Instr) : Option (OnceForm × BitVec 6 × BitVec 4 × BitVec 6) :=
  match i with
  | .cpt d a b => some (engForm, d, a, b)
  | .cpd d a b => some (engForm, d, a, b)
  | .cps d a b => some (engForm, d, a, b)
  | .gath d a b => some (engForm, d, a, b)
  | .scat d a b => some (engForm, d, a, b)
  | .mmb d a b => some (engForm, d, a, b)
  | .mma d a b => some (engForm, d, a, b)
  | .mmd d a b => some (engForm, d, a, b)
  | .mmz d a b => some (engForm, d, a, b)
  | .lease d a b => some (engForm, d, a, b)
  | .unlease d a b => some (engForm, d, a, b)
  | .digest d a b => some (engForm, d, a, b)
  | .rcp d a b => some (engForm, d, a, b)
  | .rsplit d a b => some (sysForm, d, a, b)
  | .rmerge d a b => some (sysForm, d, a, b)
  | .rinval d a b => some (sysForm, d, a, b)
  | .rres d a b => some (sysForm, d, a, b)
  | .rmove d a b => some (sysForm, d, a, b)
  | .bankmode d a b => some (sysForm, d, a, b)
  | .rgkill d a b => some (sysForm, d, a, b)
  | .rgreset d a b => some (sysForm, d, a, b)
  | .rgresume d a b => some (sysForm, d, a, b)
  | .rgpri d a b => some (sysForm, d, a, b)
  | .rgbud d a b => some (sysForm, d, a, b)
  | .fret d a b => some (sysForm, d, a, b)
  | .snap d a b => some (sysForm, d, a, b)
  | .wdarm d a b => some (sysForm, d, a, b)
  | .snew d a b => some (sysForm, d, a, b)
  | .sgrow d a b => some (sysForm, d, a, b)
  | .gcfg d a b => some (sysForm, d, a, b)
  | .launch d a b => some (launchForm, d, a, b)
  | _ => none

/-- `cp` also acts once (R245, R263). -/
def isCp (i : Instr) : Bool :=
  match i with
  | .cp .. => true
  | _ => false

/-- The words that act for each fibre by itself, but for `yield`, `movsw`, and the sparse words, which do something once as
well (R123, R380, R291), and the words that act once (R17). -/
def perFibre (i : Instr) : Bool :=
  match i with
  | .yield => false
  | .movsw _ _ => false
  | .tld _ _ _ => false
  | .tst _ _ _ _ _ => false
  | .tnext _ _ _ => false
  | .tcount _ _ => false
  | _ => !isEvent i && (onceOf i).isNone && !isCp i

/-! ## Memory accesses -/

/-- What a load may answer, bytes and tag, by the space of its capability (R198, R199, R200). The constant block answers what it
held when the launch was issued (R29). A line of global memory that an outside write has changed in the round reads old or new,
and new once the fibre's core has returned the new bytes (R59, R226). -/
def Env.loadMay (e : Env) (f : Fibre) (a : Acc) (bs : List Byte) (tag : Bool) : Prop :=
  let tagged : Bool := a.size == 16 && a.cap.hasCaps
  match a.cap.space with
  | 1 => bs = Memory.bytes e.b.scratch a.addr a.size ∧ tag = (tagged && e.b.scratchTags.contains a.addr)
  | 2 => bs = Memory.bytes f.privMem a.addr a.size ∧ tag = false
  | 6 => bs = f.windowBytes a.addr a.size ∧ tag = (tagged && f.tag (a.addr / 16))
  | sp =>
    tag = false ∧ ∃ pa, e.phys f (if sp = 3 then .constLoad else .load) a.addr = .ok pa ∧
      if sp = 3 ∧ e.l.constbase ≤ a.addr ∧ a.addr + a.size ≤ e.l.constbase + 1024 then
        bs = (e.l.consts.drop (a.addr - e.l.constbase)).take a.size
      else
        bs = e.s.mem.bytes pa a.size ∨
          ∃ x, e.l.stale.find? (fun x => x.line == pa / 128) = some x ∧ e.b.coreOf f.group ∉ x.seen ∧
            bs = (x.old.drop (pa % 128)).take a.size

/-- The checks 5 and 6 of R197 pass, and the window registers of a load hold their values (R55). -/
def Env.loadPasses (e : Env) (f : Fibre) (a : Acc) : Prop :=
  match a.cap.space with
  | 1 => e.s.scratchPoison.contains (e.l.id, e.b.index, a.addr / 128) = false
  | 2 => f.privPoison.contains (a.addr / 128) = false
  | 6 => ∀ n ∈ windowRegs a.addr a.size, f.pendingRound n = none
  | sp => ∃ pa, e.phys f (if sp = 3 then .constLoad else .load) a.addr = .ok pa ∧ e.s.poisoned pa = false

/-- The contribution of a store or a `fadr` (R45, R202, R203). -/
def Env.contribution (e : Env) (c : Fibre) (a : Acc) (space : CSpace) (pa v : Nat) (tag : Bool) (rule : Nat) (flt : Bool)
    (dest : Option (Nat × Bool)) : Contrib :=
  { space := space, addr := a.addr, size := a.size, nib := a.nib, value := v, tag := tag, rule := rule, flt := flt,
    key := { remote := 0, block := e.b.index, fibre := c.id, seq := c.seq, sub := 0 }, wo := a.cap.isWO, phys := pa,
    dest := dest, opened := 0, issued := e.is.cycle }

/-- A block whose fibre `v` has failed its chain (R352): the fibre stands as the chain found it, and what the chain's words have put
into the step buffer for it is gone (contributions, gate amounts, spawn requests, writes of `ltol`, and commands it issued, whose
tokens nobody waits for then); it receives no command of the chain. -/
def Block.undone (v : Fibre) (b : Block) : Block :=
  let chain (fibre seq : Nat) : Bool := fibre == v.id && decide (v.seq ≤ seq)
  let gone := (b.reqs.filter fun q => chain q.fibre q.seq).map CmdReq.id
  { b with
    fibres := b.fibres.map fun f =>
      if f.id = v.id then v else { f with tokens := f.tokens.filter fun x => !gone.contains x.cmd },
    contribs := b.contribs.filter fun c => !chain c.key.fibre c.key.seq,
    gadds := b.gadds.filter fun g => !chain g.2.2.1 g.2.2.2,
    spawns := b.spawns.filter fun q => !chain q.fibre q.seq,
    ltols := b.ltols.filter fun x => !chain x.1 x.2.1,
    reqs := (b.reqs.filter fun q => !chain q.fibre q.seq).map fun q =>
      if v.tokens.any (fun x => x.cmd == q.id) then q
      else { q with dests := q.dests.filter (· != v.id), lanes := q.lanes.filter fun x => x.1 != v.id } }

/-- The fragment's only fibre, `v` as the chain found it, has failed the word (R197, R206, R352): its block is left without the
chain's effects for it, it waits to be parked, and the fragment is empty; nothing else changes, but that the walk of the failed
access may have filled an entry of a range table (R295). -/
def Env.fails (e : Env) (s t : State) (v : Fibre) (tr : Trap) : Prop :=
  { t with cores := s.cores } =
    { s.modBlock e.is.launch e.is.block (Block.undone v) with
      issue := some { e.is with live := [], parks := e.is.parks ++ [(v.id, tr.code, tr.info0, tr.info1)] } } ∧
  t.cores.map (fun (k : Core) => { k with ranges := [] }) = s.cores.map (fun (k : Core) => { k with ranges := [] })

/-- A trap of check 5 or 6 (R197): the code, and the address in the info words. -/
def Trap.at (tr : Trap) (code : FaultCode) (va : Nat) : Prop :=
  tr.code = code ∧ tr.info0 = va % 2 ^ 32 ∧ tr.info1 = va / 2 ^ 32 % 2 ^ 16

/-! ## Control words -/

/-- What a control word does at its packet's end (R74, R122 to R131); `br` and `call` compute their destination from the
packet's line (R124; one before the image stays beyond every image), `brx`, `callx` and `ret` from A (R125). -/
def Env.controlOf (e : Env) (f : Fibre) : Instr → Option CtlAct
  | .brk => some (.trap .breakCode 0)
  | .trap code => some (.trap .trapCode code.toNat)
  | .tret => some .tret
  | .exit => some .exit
  | .stop => some .stop
  | .rstop => some (.rstop none)
  | .rstopGated g => some (.rstop (some g.toNat))
  | .br delta slot =>
    some (.jump (((((e.is.pc - e.is.pc % 128 : Nat) : Int) + delta.toInt * 128 + 8 + 12 * slot.toNat) % 2 ^ 33).toNat))
  | .brx a => some (.jump (e.srcA f a).toNat)
  | .ret a => some (.jump (e.srcA f a).toNat)
  | _ => none

/-- The control words that end a step or call the trap routine: inside a trap routine they fault (R126, R127, R350). -/
def isStepEnd (i : Instr) : Bool :=
  match i with
  | .brk => true
  | .trap _ => true
  | .exit => true
  | .stop => true
  | .rstop => true
  | .rstopGated _ => true
  | _ => false

/-- The calls: the link register and the destination (R124, R125). -/
def Env.callOf (e : Env) (f : Fibre) : Instr → Option (BitVec 6 × CtlAct)
  | .call a delta slot =>
    some (a, .jump (((((e.is.pc - e.is.pc % 128 : Nat) : Int) + delta.toInt * 128 + 8 + 12 * slot.toNat) % 2 ^ 33).toNat))
  | .callx d a => some (d, .jump (e.srcA f a).toNat)
  | _ => none

/-! ## Words that act once -/

/-- The guards of a fragment can be read and `el :: rest` are its active fibres, lowest key first (R17). -/
def Env.elects (e : Env) (el : Nat) (rest : List Nat) : Prop :=
  e.is.live.Nodup ∧
  (∀ id ∈ e.is.live, ∃ v c, e.b.fibre? id = some v ∧ e.cur? id = some c ∧
    (e.is.mods.gq = 0 ∨ v.settled e.is.cycle (64 + e.is.mods.gq.toNat) = true)) ∧
  e.actives.map (fun x => x.1.id) = el :: rest

/-- Every active fibre can take the token register d (R30, R31, R55, R76, R238). -/
def Env.takesToken (e : Env) (d : Nat) : Prop :=
  ∀ x ∈ e.actives, x.1.settled e.is.cycle d = true ∧ x.2.takes [d] = true

/-- From `s` to `t` the command `q` is recorded in the step buffer, its token register becomes pending in each active fibre, and
the elected fibre's issue order moves on (R238, R242, R259); nothing else changes. -/
def Env.records (e : Env) (s t : State) (q : CmdReq) : Prop :=
  ∃ upd : Fibre → Fibre,
    t = { s.modBlock e.is.launch e.is.block (fun b => { b with fibres := b.fibres.map upd, reqs := b.reqs ++ [q] }) with
          nextCmd := s.nextCmd + 1 } ∧
    (∀ f : Fibre, f.id ∉ e.actives.map (fun x => x.1.id) → upd f = f) ∧
    ∀ x ∈ e.actives,
      (upd x.2).tokens = x.2.tokens ++ [{ reg := q.reg, cmd := q.id, step := e.b.step }] ∧
      (upd x.2).seq = (if x.2.id = q.fibre then x.2.seq + 1 else x.2.seq) ∧
      x.2.kept { upd x.2 with tokens := x.2.tokens, seq := x.2.seq } [q.reg]

/-! ## Commits -/

/-- From `s` to `t` the round of a launch has ended (R26 items 3 to 6, R28, R37): the counter has risen, nothing of the round is
left, each gate it named is consumed once and no other one, and each block goes on in its step, its fibres at `rstop` running, and a
fibre whose `fadr` has its result receives it (R54); or the final commit is made. -/
def State.roundEnds (s t : State) (l : Nat) (ln : Launch) : Prop :=
  ∃ ln', t.launch? l = some ln' ∧ ln'.round = ln.round + 1 ∧ ln'.named = [] ∧ ln'.stale = [] ∧ ln'.woBytes = [] ∧
    ln'.hold = (if ln.allExited = true then .final else .none) ∧
    (∀ k g, s.gate? k = some g →
      ((∃ n ∈ ln.named, ln.gateIndex n = k) → (t.gate? k).map Gate.count = some (g.count - g.thresh)) ∧
      ((∀ n ∈ ln.named, ln.gateIndex n ≠ k) → t.gate? k = some g)) ∧
    (ln.allExited = false → ∀ (i : Nat) (bl : Block), ln.blockList[i]? = some bl → bl.status ≠ .terminated →
      ∃ bl' : Block, ln'.blockList[i]? = some bl' ∧ bl'.step = bl.step ∧
        ∀ (k : Nat) (f : Fibre), bl.fibres[k]? = some f → ∃ g : Fibre, bl'.fibres[k]? = some g ∧ g.id = f.id ∧ g.pc = f.pc ∧
          g.status = (if f.isAtRstop = true then .running else f.status) ∧
          (f.fadrs.any PendFadr.round = false → g.regs = f.regs) ∧
          ∀ p v, f.fadrs = [p] → p.round = true → p.got = some v → p.reg + 1 < f.regs.length →
            g.fadrs = [] ∧ g.reg p.reg = BitVec.ofNat 32 v ∧
            (p.wide = true → g.reg (p.reg + 1) = BitVec.ofNat 32 (v / 2 ^ 32)))

/-! ## Mailbox commands -/

/-- The words of MBOX that a command takes as arguments (R417). -/
def mboxArgs (code : Nat) : List Nat :=
  match code with
  | 1 => [0, 1, 2, 3]
  | 2 => [0, 1, 2]
  | 3 => [0, 1, 2]
  | 4 => [0]
  | 5 => [0, 1]
  | 6 => [0]
  | 7 => [0, 1]
  | 8 => [0, 1, 2]
  | 9 => [0, 1, 2]
  | 10 => [0, 1, 2, 3, 4, 5]
  | _ => []

/-- The event that carries out a mailbox command (R417). -/
def mboxEvent (code : Nat) : Instr :=
  match code with
  | 1 => .registerExportEntry
  | 2 => .registerImportEntry
  | 3 => .joinPodGroup
  | 4 => .removePodMember
  | 5 => .attachDebugger
  | 6 => .detachDebugger
  | 7 => .setPartitionLayout
  | 8 => .tenantSave
  | 9 => .tenantRestore
  | 10 => .writeRangeDescriptor
  | c => .mailboxUnknownCommand c

/-- The firmware has the command, and every word that is no argument of it is 0 (R417). -/
def State.mboxRuns (s : State) (code : Nat) : Prop :=
  s.mgmt.pending = some code ∧ ∀ w < 32, w ∉ mboxArgs code → s.word w = 0

/-- The end of a command (R417): its results from word 0 on, its status, and busy clear; nothing else changes. -/
def State.mboxEnds (s : State) (status : Nat) (results : List Nat) : State :=
  { s with mgmt := { s.mgmt with
      mbox := results.zipIdx.foldl (fun m r => m.set r.2 (r.1 % 2 ^ 64)) s.mgmt.mbox,
      status := status, busy := false, pending := none } }

/-! ## Dispatch -/

/-- What checks made in order leave (R98, R261, R310): the first condition that holds gives the status, and where none does, `passed`
holds. -/
def inOrder (r : State) (ends : Nat → State) (passed : Prop) : List (Prop × Nat) → Prop
  | [] => passed
  | (p, n) :: rest => (p → r = ends n) ∧ (¬ p → inOrder r ends passed rest)

/-! ## Numbers -/

/-- The pattern of the value that is nearest, ties to the even significand, to the exact result ± x (R154 to R158, R165). -/
def Fmt.nearest (f : Fmt) (neg : Bool) (x : ℝ) (p : Nat) : Prop :=
  let q : ℝ := (2 : ℝ) ^ (max (Int.log 2 x) f.emin - f.fbits)
  let big : ℝ := (2 - (2 : ℝ) ^ (-(f.fbits : Int))) * (2 : ℝ) ^ f.bias
  ∃ n : ℕ, (|x / q - n| < 1 / 2 ∨ (|x / q - n| = 1 / 2 ∧ n % 2 = 0)) ∧
    (big < n * q → p = f.signed neg f.infBits) ∧
    (n * q ≤ big → (n = 0 → f.read p = .zero neg) ∧
      (n ≠ 0 → ∃ m e, f.read p = .fin m e ∧ (m : ℝ) * (2 : ℝ) ^ e = (if neg = true then -1 else 1) * (n * q)))

/-- The real number a finite float value stands for (R155); 0 for the others. -/
def FVal.toRat : FVal → ℚ
  | .fin m e => (m : ℚ) * (2 : ℚ) ^ e
  | _ => 0

/-- −0 is ordered below +0, and otherwise values by size (R51, R181). -/
def FVal.below (x y : FVal) : Prop := x.lt y = true ∨ (x = .zero true ∧ y = .zero false)

/-- The result of `fmin` or `fmax` on two patterns, as R181 says. -/
def minMax (f : Fmt) (greater : Prop) (a b r : Nat) : Prop :=
  (f.isNan a = true ∨ f.isNan b = true → r = f.nan) ∧
  (f.isNan a = false → f.isNan b = false →
    ((f.read a).below (f.read b) → (greater → r = b) ∧ (¬ greater → r = a)) ∧
    ((f.read b).below (f.read a) → (greater → r = a) ∧ (¬ greater → r = b)) ∧
    (¬ (f.read a).below (f.read b) → ¬ (f.read b).below (f.read a) → r = a ∧ a = b))

/-- The integer that R157 chooses for the exact quotient t, `neg` its sign. -/
noncomputable def chooseInt (mode : RMode) (neg : Bool) (t : ℚ) : Nat :=
  let n := ⌊t⌋₊
  if t = n then n
  else
    match mode with
    | .rne => if 1 / 2 < t - n ∨ (t - n = 1 / 2 ∧ n % 2 = 1) then n + 1 else n
    | .rtz => n
    | .rup => if neg then n else n + 1
    | .rdn => if neg then n + 1 else n
    | .rto => if n % 2 = 0 then n + 1 else n

end Sys2Proof.Machine
end

