-- ==== Sys2Proof/Certificates/Slice0/Obligations.lean ====
section
/-! DEFINITION. The statements for the provers. -/

open Sys2Proof Sys2Proof.Machine

/-! ## Words and their encoding -/

/-- Words that the spec writes out (R83, R136, R140 to R143, R145 to R148, R182 to R190), and one of each of the families MISC, SYNC,
branch, call, spawn, 64-bit integer, memory, capability, sparse, engine, supervisor and launch from its format, decode to the
instructions they stand for. -/
def Obligations.DecodeOfWrittenWords : Prop :=
  decodeWord 0x040828C5 = .ok { chain := false, stall := 0, body := .instr (.imad 4 5 6) } ∧
  decodeWord 0x8080001E =
    .ok { chain := true, stall := 0, body := .mods { gn := false, gq := 0, pa := 0, pb := 0, c := 7, kind := 2 } } ∧
  decodeWord 0x05C41886 = .ok { chain := false, stall := 0, body := .instr (.icmp 0x22 3 4 6) } ∧
  decodeWord 0x0A0A3207 = .ok { chain := false, stall := 0, body := .instr (.shri 5 6 7) } ∧
  decodeWord 0x0A864102 = .ok { chain := false, stall := 0, body := .instr (.icmpi 3 8 2 2) } ∧
  decodeWord 0x0B125678 = .ok { chain := false, stall := 0, body := .instr (.movi 9 0x5678) } ∧
  decodeWord 0x06100002 = .ok { chain := false, stall := 0, body := .instr (.movs 8 0) } ∧
  decodeWord 0x06801887 = .ok { chain := false, stall := 0, body := .instr (.psetw 3 4) } ∧
  decodeWord 0x10282803 = .ok { chain := false, stall := 0, body := .instr (.lballot 20 5) } ∧
  decodeWord 0x109461C0 = .ok { chain := false, stall := 0, body := .instr (.bxpos 10 12 14) } ∧
  decodeWord 0x0C12516A = .ok { chain := false, stall := 0, body := .instr (.fdiv 9 10 11) } ∧
  decodeWord 0x0D083100 = .ok { chain := false, stall := 0, body := .instr (.dadd 4 6 8) } ∧
  decodeWord 0x0D8828D3 = .ok { chain := false, stall := 0, body := .instr (.bfma2 4 5 6) } ∧
  decodeWord 0x0E0A3450 = .ok { chain := false, stall := 0, body := .instr (.cvt 5 6 8 10 0) } ∧
  decodeWord 0x0EA82820 = .ok { chain := false, stall := 0, body := .instr (.fix 20 5 0 32) } ∧
  decodeWord 0x00000001 = .ok { chain := false, stall := 0, body := .instr .yield } ∧
  decodeWord 0x01000021 = .ok { chain := false, stall := 0, body := .instr (.rstopGated 0) } ∧
  decodeWord 0x01FFFFF2 = .ok { chain := false, stall := 0, body := .instr (.br (-1) 2) } ∧
  decodeWord (4 * 2 ^ 23 + 8 * 2 ^ 17 + 1 * 2 ^ 4 + 9) = .ok { chain := false, stall := 0, body := .instr (.call 8 1 9) } ∧
  decodeWord (6 * 2 ^ 23 + 8 * 2 ^ 17 + 1 * 2 ^ 4 + 9) = .ok { chain := false, stall := 0, body := .instr (.spawn 8 1 9) } ∧
  decodeWord 0x04B8D00B = .ok { chain := false, stall := 0, body := .instr (.lneg 28 26) } ∧
  decodeWord 0x14064221 = .ok { chain := false, stall := 0, body := .instr (.ld 3 2 4 2 0 1) } ∧
  decodeWord 0x16081280 = .ok { chain := false, stall := 0, body := .instr (.capsub 4 2 20) } ∧
  decodeWord 0x16A86800 = .ok { chain := false, stall := 0, body := .instr (.tld 20 3 16) } ∧
  decodeWord 0x18980083 = .ok { chain := false, stall := 0, body := .instr (.gath 12 0 4) } ∧
  decodeWord 0x1C240286 = .ok { chain := false, stall := 0, body := .instr (.rgkill 18 0 20) } ∧
  decodeWord 0x1C940080 = .ok { chain := false, stall := 0, body := .instr (.launch 10 0 4) }

/-- Decoding the encoding of a well-formed word gives it back, with its chain bit and its stall count: no bit of a field is
dropped (R66, R70, R77 to R82, R94). -/
def Obligations.DecodeOfEncode : Prop :=
  ∀ (i : Instr) (chain : Bool) (stall : BitVec 2), i.wf = true → isEvent i = false →
    decodeBytes (encode chain stall i) = .ok { chain := chain, stall := stall.toNat, body := .instr i }

/-- Every word that decodes is the encoding of what it decodes to: no two words of 32 bits are one instruction with one chain
bit and stall count, or one modifier, so each field's bits matter and every other bit is checked (R77, R83, R94 to R96). -/
def Obligations.EncodeOfDecode : Prop :=
  ∀ w, w < 2 ^ 32 → ∀ d, decodeWord w = .ok d →
    match d.body with
    | .instr i => isEvent i = false ∧ i.wf = true ∧ d.stall < 4 ∧ encodeWord d.chain (BitVec.ofNat 2 d.stall) i = w
    | .mods m => encodeMods m = w

/-- A step with a chain open runs the instruction that the word at its position decodes to, with the modifier before it, and
then goes on to the next word or ends the chain (R71, R72, R83); a word that R94 does not assign runs as one (R95). With none
open, the picked chain is opened on the words that stand in memory at the fragment's packet (R66), and its first word runs (logs 3 and 15). -/
def Obligations.StepRunsTheDecodedWord : Prop :=
  (∀ (s : State) (is : Issue) (w : BitVec 32) (c : Bool) (k : Nat) (i : Instr), s.issue = some is →
    is.words[is.pos]? = some w → decodeWord w.toNat = .ok { chain := c, stall := k, body := .instr i } →
    step s = after (exec i s) (State.afterWord is.pos)) ∧
  (∀ (s : State) (is : Issue) (w x : BitVec 32) (c d : Bool) (j k : Nat) (m : Mods) (i : Instr), s.issue = some is →
    is.words[is.pos]? = some w → is.words[is.pos + 1]? = some x →
    decodeWord w.toNat = .ok { chain := c, stall := j, body := .mods m } →
    decodeWord x.toNat = .ok { chain := d, stall := k, body := .instr i } →
    step s = after (exec i { s with issue := some { is with pos := is.pos + 1, mods := m } }) (State.afterWord (is.pos + 1))) ∧
  (∀ (s : State) (is : Issue) (w : BitVec 32) (er : DecodeErr), s.issue = some is →
    is.words[is.pos]? = some w → decodeWord w.toNat = .error er →
    step s = after (exec (.unassignedEncoding w) s) (State.afterWord is.pos)) ∧
  (∀ (s : State) (r : Ready) (l : Launch) (b : Block) (pa : Nat) (is : Issue), s.issue = none →
    takeDue s.clock s.inputs = none → s.picked = some r → s.launch? r.frag.launch = some l →
    l.block? r.frag.block = some b → s.translate (some r.core) l.tenant .fetch (l.codeVa r.frag.pc) = .ok pa →
    (s.openChain r).issue = some is →
    is.words = packetWords s.mem pa ∧ step s = (s.openChain r).runWord is) ∧
  (∀ (m : Memory) (pa k : Nat), k < 3 → ∃ w, (packetWords m pa)[k]? = some w ∧
    decodeBytes (m.bytes (pa + 4 * k) 4) = decodeWord w.toNat)

/-! ## Reset and memory -/

/-- After reset: the clock counts from 0 (R145), there are 216 cores with 48 banks each, all REG (R220), 96 matrix ports, 24
Guyline ports, 12 slices and 32 mailbox words. Nothing is placed: no launch, tenant, region, command or input, no bound context
or held port, and no memory byte is listed, so that memory is in its canonical form, which every step keeps
(`StepKeepsMemoryCanonical`); that the tables start empty is the model's choice (logs 4, 5 and 6). -/
def Obligations.ResetState : Prop :=
  State.reset.mem = [] ∧ State.reset.launches = [] ∧ State.reset.tenants = [] ∧ State.reset.regions = [] ∧
  State.reset.sparse = [] ∧ State.reset.gates = [] ∧ State.reset.cmds = [] ∧ State.reset.issue = none ∧
  State.reset.inputs = [] ∧ State.reset.exports = [] ∧ State.reset.imports = [] ∧ State.reset.clock = 0 ∧
  State.reset.cores.length = 216 ∧ (∀ k ∈ State.reset.cores, k.banks = List.replicate 48 .reg ∧ k.contexts = []) ∧
  State.reset.ports.length = 96 ∧ (∀ p ∈ State.reset.ports, p.holder = none) ∧ State.reset.guyPorts.length = 24 ∧
  State.reset.slices.length = 12 ∧ State.reset.mgmt.mbox.length = 32 ∧ State.reset.memOk


/-- Every step keeps the canonical form of memory, from every state that has it. -/
def Obligations.StepKeepsMemoryCanonical : Prop :=
  ∀ s t : State, s.memOk → step s = .next t → t.memOk

/-- Writes to memory leave every other byte alone: bytes that land at a line (R226) are read back where their mask is set, and
a byte outside them, or masked out, reads as before; so does a byte of the firmware's state in a live region's control block, which
software cannot write (R328, log 59). A number is stored little-endian (R5) (log 5). -/
def Obligations.LandedBytesReadBack : Prop :=
  ∀ (s : State) (own : Option Nat) (pa : Nat) (bs : List (Option Byte)) (a : Nat), s.memOk →
    (s.outsideWrite own pa bs).memOk ∧
    (s.outsideWrite own pa bs).mem.get a =
      (if pa ≤ a ∧ a < pa + bs.length ∧ s.fwByte a = false then (bs.getD (a - pa) none).getD (s.mem.get a) else s.mem.get a) ∧
    (∀ n v, ((s.mem.setNum pa n v).num pa n = v % 256 ^ n) ∧
      (a < pa ∨ pa + n ≤ a → (s.mem.setNum pa n v).get a = s.mem.get a))

/-! ## Words that act for each fibre -/

/-- A word of a fragment acts fibre by fibre in key order (R17, R20): what it does for the first fibres of a fragment and then
for the rest is what it does for all of them (log 3). -/
def Obligations.WordsActFibreByFibre : Prop :=
  ∀ (i : Instr) (s : State) (is : Issue) (xs ys : List Nat), perFibre i = true → s.issue = some is → is.live = xs ++ ys →
    is.live.Nodup →
    ∃ t u, exec i (s.narrow xs) = .next t ∧ exec i (t.narrow ys) = .next u ∧
      exec i s = .next (u.narrow (t.liveIds ++ u.liveIds))

/-- R136: each 32-bit integer word writes the table's value to `v[d]` of each active fibre, and nothing else changes; there are
no flags. -/
def Obligations.IntegerWords : Prop := writesWord Env.int32

/-- R137: each 64-bit integer word writes the table's value to the pair d, low half to `v[d]` and high half to `v[d+1]`. -/
def Obligations.LongWords : Prop := writesPair Env.int64

/-- R138, R139, R141, R143, R144, R146 and R205: logic, shifts, counts and bit fields, bit by bit; the immediate forms with `movi` and
`movhi`; `mov`, `isel`, `pword` and `movb`. -/
def Obligations.LogicImmediateAndMoveWords : Prop :=
  writesWord Env.logic ∧ writesWord Env.immediate ∧ writesWord Env.move


/-- R147 and R148: the lane and bitmap words. -/
def Obligations.LaneAndBitmapWords : Prop :=
  writesWord Env.lane32 ∧ writesWord Env.bitmap32 ∧ writesPair Env.bitmap64

/-- R165, R179, R181, R182, R184: the FP32 and FP64 words; sums and products of exact values are rounded once to the nearest. -/
def Obligations.FloatAndDoubleWords : Prop := writesWord Env.float32 ∧ writesPair Env.float64

/-- R185: the packed-half words, element by element. -/
def Obligations.PackedHalfWords : Prop := writesWord Env.packed

/-- R161 to R164, R186 to R188 and R190: `cvt`, `fix` and `unfix`. -/
def Obligations.ConversionWords : Prop := writesWord Env.convert32 ∧ writesPair Env.convert64

/-- R88, R140, R142, R146, R147, R183, R210: each word that performs `SetPred` combines its truth value with the predicate its
spec names, and a result for q0 is discarded; no register or other predicate changes. `psetw` takes the bits that B selects
from A, for q1 to q15. -/
def Obligations.PredicateWords : Prop :=
  (∀ (s : State) (e : Env) (i : Instr), s.env? = some e → e.ready i = true → (∀ f, (e.truth f i).isSome = true) →
    ∃ t, exec i s = .next t ∧ e.acts s t fun v c g => ∃ p x, e.truth v i = some (p, x) ∧ c.predded g (specTo v c p x)) ∧
  (∀ (s : State) (e : Env) (a b : BitVec 6), s.env? = some e → e.ready (.psetw a b) = true →
    ∃ t, exec (.psetw a b) s = .next t ∧ e.acts s t fun v c g =>
      c.predded g fun q => if (e.srcB v b).getLsbD q then (e.srcA v a).getLsbD q else c.pred q)

/-- R145: `movs` writes the special register, and a read of `clock` sets the fibre's latch; the registers of the table that the
machine keeps read as their names say. R380: `movsw` writes a trap register of each active fibre, or the latency tolerance of
the launch's region, which holds the value of the last active fibre for the device's next power decision; the step buffer keeps
every fibre's write for what `movs` returns after the step's commit (log 55). -/
def Obligations.SpecialRegisters : Prop :=
  (∀ (s : State) (e : Env) (d sr : BitVec 6), s.env? = some e → e.ready (.movs d sr) = true →
    ∃ t, exec (.movs d sr) s = .next t ∧ e.acts s t fun v c g =>
      (if sr = 12 then { c with clockh := BitVec.ofNat 32 (e.is.cycle / 2 ^ 32) } else c).wrote g
        [(d.toNat, e.special v sr.toNat)]) ∧
  (∀ (e : Env) (f : Fibre),
    e.special f 0 = BitVec.ofNat 32 f.id ∧ e.special f 1 = BitVec.ofNat 32 e.b.index ∧
    e.special f 2 = BitVec.ofNat 32 e.l.blockdim ∧ e.special f 3 = BitVec.ofNat 32 e.l.nblocks ∧
    e.special f 4 = BitVec.ofNat 32 f.lane ∧ e.special f 5 = BitVec.ofNat 32 f.group ∧
    e.special f 6 = BitVec.ofNat 32 e.b.step ∧ e.special f 7 = BitVec.ofNat 32 e.l.round ∧
    e.special f 8 = BitVec.ofNat 32 (e.b.index % 192) ∧ e.special f 9 = BitVec.ofNat 32 (e.b.index % 192 / 4) ∧
    e.special f 10 = BitVec.ofNat 32 (e.b.index % 192 / 16) ∧ e.special f 11 = 1 ∧
    e.special f 12 = BitVec.ofNat 32 e.is.cycle ∧ e.special f 13 = f.clockh ∧ e.special f 16 = BitVec.ofNat 32 e.l.id ∧
    e.special f 17 = (if f.trap.mode then 1 else 0) ∧ e.special f 18 = f.trap.epc ∧ e.special f 19 = f.trap.ecause ∧
    e.special f 14 = BitVec.ofNat 32 (e.s.eff e.l.rcb 0 Region.prio) ∧
    e.special f 20 = f.trap.einfo0 ∧ e.special f 21 = f.trap.einfo1 ∧ e.special f 22 = BitVec.ofNat 32 e.l.tenant ∧
    (∀ r, e.s.region? e.l.rcb = some r → e.special f 15 = BitVec.ofNat 32 r.regionid ∧ e.special f 23 = BitVec.ofNat 32 r.ltolSeen) ∧
    e.special f 24 = BitVec.ofNat 32 e.b.spawnLeft) ∧
  (∀ (s : State) (e : Env) (sr b : BitVec 6), s.env? = some e → e.ready (.movsw sr b) = true → sr ≠ 23 →
    ∃ t, exec (.movsw sr b) s = .next t ∧ e.acts s t fun v c g =>
      g = { c with trap := g.trap, trapSaved := some (c.trapSaved.getD c.trap), busy := g.busy } ∧ g.trap.mode = c.trap.mode ∧
      g.trap.epc = (if sr = 18 then e.srcB v b else c.trap.epc) ∧
      g.trap.ecause = (if sr = 19 then e.srcB v b else c.trap.ecause) ∧
      g.trap.einfo0 = (if sr = 20 then e.srcB v b else c.trap.einfo0) ∧
      g.trap.einfo1 = (if sr = 21 then e.srcB v b else c.trap.einfo1)) ∧
  (∀ (s : State) (e : Env) (b : BitVec 6) (v c : Fibre), s.env? = some e → e.ready (.movsw 23 b) = true →
    e.actives.getLast? = some (v, c) →
    ∃ t, exec (.movsw 23 b) s = .next t ∧
      { t with launches := s.launches } = (s.modRegion e.l.rcb fun r => { r with ltol := (e.srcB v b).toNat }) ∧
      ∃ upd : Fibre → Fibre, t.launches = (s.modBlock e.is.launch e.is.block fun x => { x with
          fibres := x.fibres.map upd,
          ltols := x.ltols ++ e.actives.map fun y => (y.2.id, y.2.seq, (e.srcB y.1 b).toNat) }).launches ∧
        (∀ f : Fibre, f.id ∉ e.actives.map (fun y => y.1.id) → upd f = f) ∧
        ∀ y ∈ e.actives, { upd y.2 with busy := y.2.busy } = { y.2 with seq := y.2.seq + 1 })

/-! ## Memory words -/

/-- R196 to R198: the element index and the byte offset, and the order of the checks 1 to 4 with their info words: the word and
the index. By space and instruction: what needs which permission, what each space refuses, and which stores a write-only capability
lets through (R61). A failure of check 5 names the address, and so does one of check 6 for a load, of global memory, scratch or
private memory. -/
def Obligations.AccessChecks : Prop :=
  (∀ (e : Env) (f : Fibre) (q : BitVec 4) (x : BitVec 6) (size : BitVec 3) (op : MemOp),
    let idx := ((f.reg x.toNat).toNat + (if e.is.mods.kind = 1 then e.is.mods.c.toNat else 0)) % 2 ^ 32
    let c := capOf (f.quad q.toNat)
    let n := if size = 0 then 1 else 2 ^ (size.toNat - 1)
    let off := if size = 0 then idx / 2 else idx * n
    let trap (code : FaultCode) : Except Trap Acc := .error { code := code, info0 := e.is.word, info1 := idx }
    (capValid e.l (f.tag q.toNat) c = false → e.access f q x size op = trap .capTag) ∧
    (capValid e.l (f.tag q.toNat) c = true →
      (∀ code, spaceCheck c op e.l.sup = some code → e.access f q x size op = trap code) ∧
      (spaceCheck c op e.l.sup = none →
        (c.len < off + n ∨ 2 ^ 48 < c.base + off + n → e.access f q x size op = trap .capBounds) ∧
        (off + n ≤ c.len → c.base + off + n ≤ 2 ^ 48 →
          ((c.base + off) % n ≠ 0 → e.access f q x size op = trap .misaligned) ∧
          ((c.base + off) % n = 0 → e.access f q x size op =
            .ok { cap := c, addr := c.base + off, size := n, nib := if size = 0 then some (idx % 2) else none, idx := idx }))))) ∧
  (∀ (c : Cap) (sup : Bool), c.space < 8 →
    (∀ op, c.isSup = true → sup = false → spaceCheck c op sup = some .capPerm) ∧
    (c.isSup = false ∨ sup = true →
      (spaceCheck c .load sup = none ↔ c.canR = true ∧ c.space ≠ 4 ∧ c.space ≠ 7) ∧
      (spaceCheck c .load sup ≠ none → spaceCheck c .load sup = some .capPerm) ∧
      (spaceCheck c .fadr sup = none ↔ c.canR = true ∧ c.canW = true ∧ (c.space = 0 ∨ c.space = 1)) ∧
      (spaceCheck c .fadr sup ≠ none → spaceCheck c .fadr sup = some .capPerm) ∧
      (∀ rule, c.canW = false ∨ c.space = 3 ∨ c.space = 4 ∨ c.space = 7 → spaceCheck c (.store rule) sup = some .capPerm) ∧
      (∀ rule, c.canW = true → c.isWO = false → (c.space = 0 ∨ c.space = 1 ∨ c.space = 5) → spaceCheck c (.store rule) sup = none) ∧
      (∀ rule, c.canW = true → c.isWO = false → (c.space = 2 ∨ c.space = 6) →
        spaceCheck c (.store rule) sup = if rule = 0 ∨ rule = 1 then none else some .illegalField) ∧
      (∀ rule, c.canW = true → c.isWO = true → (c.space = 1 ∨ c.space = 2 ∨ c.space = 6) →
        spaceCheck c (.store rule) sup = some .capPerm) ∧
      (∀ rule, c.canW = true → c.isWO = true → (c.space = 0 ∨ c.space = 5) →
        spaceCheck c (.store rule) sup = if rule = 0 ∨ rule = 1 ∨ rule = 6 then none else some .illegalField))) ∧
  (∀ (e : Env) (f : Fibre) (op : Access) (va : Nat),
    let found := e.s.translate (some (e.b.coreOf f.group)) e.l.tenant op va
    (∀ pa, found = .ok pa → e.phys f op va = .ok pa) ∧
    (∀ code, found = .error code → ∃ tr, e.phys f op va = .error tr ∧ tr.at code va)) ∧
  (∀ (e : Env) (f : Fibre) (a : Acc) (hint : Nat),
    let poisoned : Prop := ∃ tr, e.loadData f a hint = .error tr ∧ tr.at .memUncorrectable a.addr
    (a.cap.space = 1 → e.s.scratchPoison.contains (e.l.id, e.b.index, a.addr / 128) = true → poisoned) ∧
    (a.cap.space = 2 → f.privPoison.contains (a.addr / 128) = true → poisoned) ∧
    (a.cap.space = 0 ∨ a.cap.space = 3 ∨ a.cap.space = 5 →
      let found := e.phys f (if a.cap.space = 3 then .constLoad else .load) a.addr
      (∀ tr, found = .error tr → e.loadData f a hint = .error tr) ∧
      (∀ pa, found = .ok pa → e.s.poisoned pa = true → poisoned)))

/-- R201, R22, R30: a load whose checks pass writes nothing yet: its data are fixed, and wait to land in the destination
registers, which keep their step-start values; memory and every other fibre stay as they are. The table of R201: extension of narrow
data, the nibble of `.x4`, and the words of wide data, low word first. -/
def Obligations.LoadFixesItsData : Prop :=
  (∀ (s : State) (e : Env) (v c : Fibre) (d : BitVec 6) (cap : BitVec 4) (x : BitVec 6) (size hint : BitVec 3) (fl : BitVec 1)
    (a : Acc), s.env? = some e → e.ready (.ld d cap x size hint fl) = true → e.single v c →
    e.access v cap x size .load = .ok a → e.loadPasses v a →
    ∃ t g p bs tag, exec (.ld d cap x size hint fl) s = .next t ∧ e.accesses s t g [] ∧ e.loadMay v a bs tag ∧
      g.loads = c.loads ++ [p] ∧ p.regs = loadWords d.toNat size.toNat (fl == 1) a.nib bs ∧
      p.tag = (if size = 5 then some (d.toNat / 4, tag) else none) ∧
      c.kept { g with loads := c.loads } (p.regs.map Prod.fst)) ∧
  (∀ (d : Nat) (b0 b1 b2 b3 : Byte) (rest : List Byte),
    (∀ k < 2, loadWords d 0 false (some k) [b0] = [(d, BitVec.ofNat 32 (b0.toNat / 16 ^ k % 16))]) ∧
    (∀ k < 2, loadWords d 0 true (some k) [b0] = [(d, (BitVec.ofNat 4 (b0.toNat / 16 ^ k)).signExtend 32)]) ∧
    loadWords d 1 false none [b0] = [(d, b0.setWidth 32)] ∧ loadWords d 1 true none [b0] = [(d, b0.signExtend 32)] ∧
    loadWords d 2 false none [b0, b1] = [(d, (b1 ++ b0).setWidth 32)] ∧
    loadWords d 2 true none [b0, b1] = [(d, (b1 ++ b0).signExtend 32)] ∧
    loadWords d 3 false none [b0, b1, b2, b3] = [(d, b3 ++ b2 ++ b1 ++ b0)] ∧
    (rest.length = 8 → loadWords d 4 false none rest =
      [(d, BitVec.ofNat 32 (ofLe (rest.take 4))), (d + 1, BitVec.ofNat 32 (ofLe (rest.drop 4)))]) ∧
    (rest.length = 16 → loadWords d 5 false none rest = (List.range 4).map fun i =>
      (d + i, BitVec.ofNat 32 (ofLe ((rest.drop (4 * i)).take 4)))))

/-- R202, R45, R199, R200: a store whose checks pass makes one contribution at the address its access computes (scratch,
global, lease), or writes the fibre's private memory or register window at once, and nothing but the bytes of its width there; the
step buffer holds which nibbles of private memory the step has written (R230). No byte of memory changes at the store. -/
def Obligations.Stores : Prop :=
  ∀ (s : State) (e : Env) (v c : Fibre) (d : BitVec 6) (cap : BitVec 4) (x : BitVec 6) (size rule : BitVec 3) (fl : BitVec 1)
    (a : Acc), s.env? = some e → e.ready (.st d cap x size rule fl) = true → e.single v c →
    e.access v cap x size (.store rule.toNat) = .ok a →
    let tag : Bool := size == 5 && v.tag (d.toNat / 4) && a.cap.hasCaps
    let value := storeValue v d.toNat size.toNat
    (a.cap.space = 1 → ∃ t, exec (.st d cap x size rule fl) s = .next t ∧
      e.accesses s t { c with seq := c.seq + 1 } [e.contribution c a .scratch 0 value tag rule.toNat (fl == 1) none]) ∧
    (a.cap.space = 0 ∨ a.cap.space = 5 → ∀ pa, e.phys c .store a.addr = .ok pa → ∃ t,
      exec (.st d cap x size rule fl) s = .next t ∧
      e.accesses s t { c with seq := c.seq + 1 } [e.contribution c a .global pa value false rule.toNat (fl == 1) none]) ∧
    (a.cap.space = 2 → ∃ t, exec (.st d cap x size rule fl) s = .next t ∧
      let now := storeBytes a.nib a.size value (Memory.bytes c.privMem a.addr a.size)
      e.accesses s t { c with seq := c.seq + 1, privMem := Memory.setBytes c.privMem a.addr now,
                              privNibs := c.privNibs ++ a.nibbles } []) ∧
    (a.cap.space = 6 → c.takes (windowRegs a.addr a.size) = true → a.addr + a.size ≤ 4 * c.regs.length →
      ∃ t g, exec (.st d cap x size rule fl) s = .next t ∧ e.accesses s t g [] ∧
      (∀ n, g.windowBytes n 1 = (if a.addr ≤ n ∧ n < a.addr + a.size
        then [(storeBytes a.nib a.size value (c.windowBytes a.addr a.size)).getD (n - a.addr) 0] else c.windowBytes n 1)) ∧
      g.seq = c.seq + 1 ∧
      (∀ n, g.startReg n = c.startReg n) ∧
      (∀ q, g.tag q = if q = a.addr / 16 ∧ tag = true then true
        else (c.tag q && !(windowRegs a.addr a.size).any fun n => n / 4 == q)) ∧
      { g with regs := c.regs, tags := c.tags, journal := c.journal, fresh := c.fresh, busy := c.busy, seq := c.seq } = c)

/-- R203, R54, R55: `fadr` whose checks pass makes one contribution under `.acc`, and its destination, one register or an even pair,
is pending until the commit of its scope: the step for scratch, the round for global memory. R205: `stb` makes one contribution of
four bytes to the block register, in each active fibre. -/
def Obligations.FadrAndBlockRegisterStores : Prop :=
  (∀ (s : State) (e : Env) (v c : Fibre) (d : BitVec 6) (cap : BitVec 4) (x : BitVec 6) (size : BitVec 3) (fl : BitVec 1)
    (a : Acc), s.env? = some e → e.ready (.fadr d cap x size fl) = true → e.single v c →
    e.access v cap x size .fadr = .ok a →
    let value := storeValue v d.toNat size.toNat
    let dest := some (d.toNat, size == 4)
    let pend (round : Bool) : PendFadr :=
      { reg := d.toNat, wide := size == 4, round := round, seq := c.seq, step := e.b.step, got := none }
    let regs := if size = 4 then [d.toNat, d.toNat + 1] else [d.toNat]
    (a.cap.space = 1 → e.s.scratchPoison.contains (e.l.id, e.b.index, a.addr / 128) = false →
      ∃ t g, exec (.fadr d cap x size fl) s = .next t ∧ g.fadrs = c.fadrs ++ [pend false] ∧
      g.seq = c.seq + 1 ∧ c.kept { g with fadrs := c.fadrs, seq := c.seq } regs ∧
      e.accesses s t g [{ e.contribution c a .scratch 0 value false 3 (fl == 1) dest with nib := none, wo := false }]) ∧
    (a.cap.space = 0 → ∀ pa, e.phys c .store a.addr = .ok pa → e.s.poisoned pa = false →
      ∃ t g, exec (.fadr d cap x size fl) s = .next t ∧
      g.fadrs = c.fadrs ++ [pend true] ∧ g.seq = c.seq + 1 ∧ c.kept { g with fadrs := c.fadrs, seq := c.seq } regs ∧
      e.accesses s t g [{ e.contribution c a .global pa value false 3 (fl == 1) dest with nib := none, wo := false }])) ∧
  (∀ (s : State) (e : Env) (d : BitVec 6) (bi : BitVec 5) (rule : BitVec 3) (fl : BitVec 1), s.env? = some e →
    e.ready (.stb d bi rule fl) = true →
    ∃ t, exec (.stb d bi rule fl) s = .next t ∧ e.gives s t (fun _ c g => g = { c with seq := c.seq + 1 })
      (fun v c => [{ space := .breg, addr := bi.toNat, size := 4, nib := none, value := (v.reg d.toNat).toNat, tag := false,
                     rule := rule.toNat, flt := fl == 1,
                     key := { remote := 0, block := e.b.index, fibre := c.id, seq := c.seq, sub := 0 }, wo := false, phys := 0,
                     dest := none, opened := 0, issued := e.is.cycle }])
      (fun _ _ => []) (fun _ _ => []))


/-- R197, R204, R352: a load, store or `fadr` that fails a check has no effect for its fibre, nor has its chain. It waits to be
parked with the fault's code and info words, unless it is misaligned and takes the trap-routine path: then the fibre goes on to its
packet's end and takes the trap there. R206 to R208, R211: where a check of a capability word fails, nothing is written, and the
fibre waits to be parked with the word in info 0 and 0 in info 1 (log 14). -/
def Obligations.AccessFaults : Prop :=
  (∀ (s : State) (e : Env) (v c : Fibre) (i : Instr) (tr : Trap), s.env? = some e → e.ready i = true → e.single v c →
    (match i with
      | .ld _ cap x size hint _ => e.access v cap x size .load = .error tr ∨
          ∃ a, e.access v cap x size .load = .ok a ∧ e.loadData v a hint.toNat = .error tr
      | .st _ cap x size rule _ => e.access v cap x size (.store rule.toNat) = .error tr ∨
          ∃ a, e.access v cap x size (.store rule.toNat) = .ok a ∧ (a.cap.space = 0 ∨ a.cap.space = 5) ∧
            e.phys c .store a.addr = .error tr
      | .fadr _ cap x size _ => e.access v cap x size .fadr = .error tr ∨
          ∃ a, e.access v cap x size .fadr = .ok a ∧
            ((a.cap.space = 1 ∧ e.s.scratchPoison.contains (e.l.id, e.b.index, a.addr / 128) = true ∧
                tr = addrTrap .memUncorrectable a.addr) ∨
              (a.cap.space = 0 ∧ (e.phys c .store a.addr = .error tr ∨
                ∃ pa, e.phys c .store a.addr = .ok pa ∧ e.s.poisoned pa = true ∧ tr = walkedTrap .memUncorrectable a.addr)))
      | _ => False) →
    ((tr.code ≠ .misaligned ∨ (c.trap.mode = false ∧ (e.l.trapvec = 0xFFFFFFFF ∨ e.is.hasControl = true))) →
      ∃ t, exec i s = .next t ∧ e.fails s t v tr) ∧
    (tr.code = .misaligned → c.trap.mode = true →
      ∃ t, exec i s = .next t ∧ e.fails s t v { code := .doubleTrap, info0 := FaultCode.misaligned.num, info1 := 0 }) ∧
    (tr.code = .misaligned → c.trap.mode = false → e.l.trapvec ≠ 0xFFFFFFFF → e.is.hasControl = false → c.ctl = none →
      ∃ t, exec i s = .next t ∧ e.acts s t fun _ c g =>
        g = { c with ctl := some (.misaligned tr.info0 tr.info1, e.is.word, e.is.pos) })) ∧
  (∀ (s : State) (e : Env) (v c : Fibre) (d a : BitVec 4) (b : BitVec 6), s.env? = some e → e.single v c →
    let k := capOf (v.quad a.toNat)
    let o := (v.pair b.toNat).toNat
    let n := (v.pair (b.toNat + 2)).toNat
    let trap (code : FaultCode) : Trap := { code := code, info0 := e.is.word, info1 := 0 }
    (e.ready (.capsub d a b) = true →
      (capValid e.l (v.tag a.toNat) k = false → ∃ t, exec (.capsub d a b) s = .next t ∧ e.fails s t v (trap .capTag)) ∧
      (capValid e.l (v.tag a.toNat) k = true → (k.hasSub = false ∨ (k.isSup = true ∧ e.l.sup = false)) →
        ∃ t, exec (.capsub d a b) s = .next t ∧ e.fails s t v (trap .capPerm)) ∧
      (capValid e.l (v.tag a.toNat) k = true → k.hasSub = true → (k.isSup = false ∨ e.l.sup = true) →
        (k.len < o + n ∨ 2 ^ 48 < k.base + o + n) →
        ∃ t, exec (.capsub d a b) s = .next t ∧ e.fails s t v (trap .capBounds))) ∧
    (e.ready (.capperm d a b) = true →
      (capValid e.l (v.tag a.toNat) k = false → ∃ t, exec (.capperm d a b) s = .next t ∧ e.fails s t v (trap .capTag)) ∧
      (capValid e.l (v.tag a.toNat) k = true → (k.hasSub = false ∨ (k.isSup = true ∧ e.l.sup = false)) →
        ∃ t, exec (.capperm d a b) s = .next t ∧ e.fails s t v (trap .capPerm))) ∧
    (e.ready (.capmint d b) = true →
      (capOf ((v.pair b.toNat).toNat + (v.pair (b.toNat + 2)).toNat * 2 ^ 64)).wellFormed = false →
      ∃ t, exec (.capmint d b) s = .next t ∧ e.fails s t v (trap .capTag)))

/-! ## Capability words -/

/-- R206 to R211: the capability words in each active fibre, where their checks pass. `capsub` adds an offset and takes a length;
`capperm` keeps the permissions that both sides have, and write-only takes the place of read where the mask asks for it; `capget`
answers a field, the fibre's private capability or its window's; `capmint` writes the image with bit 7 of its permissions as 0
(R193). Each makes its quad tagged, and nothing else changes. -/
def Obligations.CapabilityWords : Prop :=
  (∀ (s : State) (e : Env) (d a : BitVec 4) (b : BitVec 6), s.env? = some e → e.ready (.capsub d a b) = true →
    (∀ x ∈ e.actives, let c := capOf (x.1.quad a.toNat)
      capValid e.l (x.1.tag a.toNat) c = true ∧ c.hasSub = true ∧ (c.isSup = false ∨ e.l.sup = true) ∧
      (x.1.pair b.toNat).toNat + (x.1.pair (b.toNat + 2)).toNat ≤ c.len ∧
      c.base + (x.1.pair b.toNat).toNat + (x.1.pair (b.toNat + 2)).toNat ≤ 2 ^ 48) →
    ∃ t, exec (.capsub d a b) s = .next t ∧ e.acts s t fun v c g =>
      c.wroteCap g d.toNat (Cap.num { capOf (v.quad a.toNat) with
        base := (capOf (v.quad a.toNat)).base + (v.pair b.toNat).toNat, len := (v.pair (b.toNat + 2)).toNat })) ∧
  (∀ (s : State) (e : Env) (d a : BitVec 4) (b : BitVec 6), s.env? = some e → e.ready (.capperm d a b) = true →
    (∀ x ∈ e.actives, let c := capOf (x.1.quad a.toNat)
      capValid e.l (x.1.tag a.toNat) c = true ∧ c.hasSub = true ∧ (c.isSup = false ∨ e.l.sup = true)) →
    ∃ t, exec (.capperm d a b) s = .next t ∧ e.acts s t fun v c g =>
      ∃ p, c.wroteCap g d.toNat (Cap.num { capOf (v.quad a.toNat) with perm := p }) ∧
        ∀ k, p.testBit k =
          (let q := (capOf (v.quad a.toNat)).perm
           let m := (v.reg b.toNat).toNat % 256
           let wo := m.testBit 2 && q.testBit 1
           decide (k < 7) && (if k = 0 then q.testBit 0 && m.testBit 0 && !wo
             else if k = 2 then (q.testBit 2 && m.testBit 2) || wo else q.testBit k && m.testBit k))) ∧
  (∀ (s : State) (e : Env) (d : BitVec 6) (a : BitVec 4) (sel : BitVec 6), s.env? = some e →
    e.ready (.capget d a sel) = true →
    ∃ t, exec (.capget d a sel) s = .next t ∧ e.acts s t fun v c g =>
      let q := v.quad a.toNat
      if sel = 16 then
        c.wroteCap g (d.toNat % 16) (Cap.num { base := 0, len := e.l.privSize, space := 2, perm := 0x1B, objid := 0, zero := 0 })
      else if sel = 17 then
        c.wroteCap g (d.toNat % 16) (Cap.num { base := 0, len := 4 * e.l.window, space := 6, perm := 0x1B, objid := 0, zero := 0 })
      else c.wrote g [(d.toNat, BitVec.ofNat 32
        (if sel = 0 then (capOf q).base % 2 ^ 32 else if sel = 1 then (capOf q).base / 2 ^ 32
         else if sel = 2 then (capOf q).len % 2 ^ 32 else if sel = 3 then (capOf q).len / 2 ^ 32
         else if sel = 4 then (capOf q).space + 16 * (capOf q).perm + 4096 * (capOf q).objid
         else if v.tag a.toNat = true ∧ ((capOf q).space = 5 → ∃ x ∈ e.l.leases, x.num = (capOf q).objid) then 1 else 0))]) ∧
  (∀ (s : State) (e : Env) (d : BitVec 4) (a : BitVec 6), s.env? = some e → e.ready (.capmint d a) = true →
    (∀ x ∈ e.actives, (capOf ((x.1.pair a.toNat).toNat + (x.1.pair (a.toNat + 2)).toNat * 2 ^ 64)).wellFormed = true) →
    ∃ t, exec (.capmint d a) s = .next t ∧ e.acts s t fun v c g =>
      ∃ n, c.wroteCap g d.toNat n ∧
        ∀ k, n.testBit k = (k != 99 && ((v.pair a.toNat).toNat + (v.pair (a.toNat + 2)).toNat * 2 ^ 64).testBit k))

/-! ## Control words, gates and spawn -/

/-- R74, R122 to R131: a control word changes nothing but the fibre's record of what its packet's end does, and an earlier one
stands. `brk`, `trap`, `stop`, `rstop` and `exit` do so outside a trap routine and `tret` inside one; a gated `rstop` asks that its
gate is one of the launch's (R39). R124 and R125: `call` and `callx` also write the following packet's code offset to their link
register in their own chain; `callx` reads A before (the record is the model's, log 3). R126, R127, R350: inside a trap routine
`brk` and `trap` fail with `DOUBLE_TRAP` and the code that would have been raised, `stop`, `rstop` and `exit` with the word and its
position, and `tret` outside one with `ILLEGAL_FIELD` (logs 13 and 14). -/
def Obligations.ControlWords : Prop :=
  (∀ (s : State) (e : Env) (i : Instr), s.env? = some e → e.ready i = true → (∀ f, (e.controlOf f i).isSome = true) →
    (∀ g, i = .rstopGated g → g.toNat < e.l.gates) →
    (∀ x ∈ e.actives, (isStepEnd i = true → x.1.trap.mode = false) ∧ (i = .tret → x.1.trap.mode = true)) →
    ∃ t, exec i s = .next t ∧ e.acts s t fun v c g => ∃ a, e.controlOf v i = some a ∧
      g = if c.ctl.isSome = true then c else { c with ctl := some (a, e.is.word, e.is.pos), endAt := e.is.cycle }) ∧
  (∀ (s : State) (e : Env) (i : Instr), s.env? = some e → e.ready i = true → (∀ f, (e.callOf f i).isSome = true) →
    ∃ t, exec i s = .next t ∧ e.acts s t fun v c g => ∃ d a, e.callOf v i = some (d, a) ∧
      c.wrote { g with ctl := c.ctl, endAt := c.endAt }
        [(d.toNat, BitVec.ofNat 32 (if e.is.pc % 128 = 116 then e.is.pc + 20 else e.is.pc + 12))] ∧
      (c.ctl.isSome = true → g.ctl = c.ctl ∧ g.endAt = c.endAt) ∧
      (c.ctl = none → g.ctl = some (a, e.is.word, e.is.pos) ∧ g.endAt = e.is.cycle)) ∧
  (∀ (s : State) (e : Env) (v c : Fibre) (i : Instr), s.env? = some e → e.ready i = true → e.single v c →
    (v.trap.mode = true → i = .stop ∨ i = .rstop ∨ i = .exit →
      ∃ t, exec i s = .next t ∧ e.fails s t v { code := .doubleTrap, info0 := e.is.word, info1 := e.is.pos }) ∧
    (v.trap.mode = true → ∀ a, (i = .brk ∨ ∃ n, i = .trap n) → e.controlOf v i = some a →
      let first := if i = .brk then FaultCode.breakCode.num else FaultCode.trapCode.num
      ∃ t, exec i s = .next t ∧ e.fails s t v { code := .doubleTrap, info0 := first, info1 := 0 }) ∧
    (v.trap.mode = false → i = .tret →
      ∃ t, exec i s = .next t ∧ e.fails s t v { code := .illegalField, info0 := e.is.word, info1 := e.is.pos }))

/-- The packet's end (R74, R122 to R131, R349 to R351): a fibre with no control word falls through to the following packet; a
jump goes to its destination; `stop` and `rstop` end the step with every load landed, and the fibre goes on at the following
packet; `exit` ends the fibre; `trap` and `brk` save the trap registers and go to the trap vector, or park where there is none, or
for `brk` under a debugger; `tret` restores. The cycle in which the step's last result can be read is kept for the step's commit
(R22, R322) (log 13). -/
def Obligations.PacketEnd : Prop :=
  ∀ (f : Fibre) (pc step vec : Nat) (debug : Bool),
    let next := if pc % 128 = 116 then pc + 20 else pc + 12
    let atNext (d : Nat) (x : Arrival) : Fibre := { f with ctl := none, pc := d, chain := 0, arrival := x }
    let traps (g : Fibre) (code : FaultCode) (i0 i1 : Nat) : Prop :=
      g.trap = { mode := true, epc := BitVec.ofNat 32 next, ecause := BitVec.ofNat 32 code.num,
                 einfo0 := BitVec.ofNat 32 i0, einfo1 := BitVec.ofNat 32 i1 } ∧
      g.trapSaved = some (f.trapSaved.getD f.trap) ∧
      { g with trap := f.trap, trapSaved := f.trapSaved } = atNext vec (.transfer pc)
    let ends (g : Fibre) (x : FStatus) : Prop :=
      g = { (atNext next (.fall pc)).landAll with status := x, endAt := g.endAt } ∧ f.endAt ≤ g.endAt ∧
      (∀ p ∈ f.loads, p.due ≤ g.endAt) ∧ (∀ y ∈ f.fresh, y.ready ≤ g.endAt) ∧ (∀ y ∈ f.busy, y.2 ≤ g.endAt) ∧
      (g.endAt = f.endAt ∨ (∃ p ∈ f.loads, g.endAt = p.due) ∨ (∃ y ∈ f.fresh, g.endAt = y.ready) ∨
        ∃ y ∈ f.busy, g.endAt = y.2)
    (f.ctl = none → f.endPacket pc step vec debug = .goes (atNext next (.fall pc))) ∧
    ∀ act w pos, f.ctl = some (act, w, pos) →
      (∀ d, act = .jump d → f.endPacket pc step vec debug = .goes (atNext d (.transfer pc))) ∧
      (act = .stop → ∃ g, f.endPacket pc step vec debug = .goes g ∧ ends g .atStop) ∧
      (∀ g, act = .rstop g → f.namesGate = g ∧ ∃ h, f.endPacket pc step vec debug = .goes h ∧ ends h (.atRstop step)) ∧
      (act = .exit → f.endPacket pc step vec debug = .goes
        { atNext next (.fall pc) with status := .exited step, loads := [], privMem := [], rstopAt := none }) ∧
      (∀ code i0, act = .trap code i0 →
        (vec = 0xFFFFFFFF ∨ (debug = true ∧ code = .breakCode) →
          f.endPacket pc step vec debug = .parks (atNext next (.fall pc)) code i0 0 next 0) ∧
        (vec ≠ 0xFFFFFFFF → (debug = false ∨ code ≠ .breakCode) →
          ∃ g, f.endPacket pc step vec debug = .goes g ∧ traps g code i0 0)) ∧
      (∀ i0 i1, act = .misaligned i0 i1 → ∃ g, f.endPacket pc step vec debug = .goes g ∧ traps g .misaligned i0 i1) ∧
      (act = .tret → ∃ g, f.endPacket pc step vec debug = .goes g ∧
        g.trap = { f.trap with mode := false } ∧ g.trapSaved = some (f.trapSaved.getD f.trap) ∧
        { g with trap := f.trap, trapSaved := f.trapSaved } = atNext f.trap.epc.toNat .resume)



/-- R132, R133, R40: `gadd` adds its operand to the step buffer, in key order, and the gate's count is not changed yet; `gread`
writes a count that the gate has held since the block's step began, or holds now where none is recorded (log 16). R39: a gate index
at or above the launch's gate count makes `gadd`, a gated `rstop` and `gread` fail with `ILLEGAL_FIELD`: nothing is written or
added, the fibre waits to be parked as its chain found it, and where the chain ends it takes the park path (log 14). -/
def Obligations.GateWords : Prop :=
  (∀ (s : State) (e : Env) (g b : BitVec 6), s.env? = some e → e.ready (.gadd g b) = true → g.toNat < e.l.gates →
    ∃ t, exec (.gadd g b) s = .next t ∧ e.gives s t (fun _ c h => h = { c with seq := c.seq + 1 }) (fun _ _ => [])
      (fun v c => [(g.toNat, (e.srcB v b).toNat, c.id, c.seq)]) (fun _ _ => [])) ∧
  (∀ (s : State) (e : Env) (d g : BitVec 6), s.env? = some e → e.ready (.gread d g) = true → g.toNat < e.l.gates →
    ∃ t t0, exec (.gread d g) s = .next t ∧ t0 = { t with free := s.free } ∧ e.acts s t0 fun _ c h =>
      ∃ n, c.wrote h [(d.toNat, BitVec.ofNat 32 n)] ∧
        let now := ((s.gate? (e.l.tenant, e.l.gateslice, e.l.gatebase + g.toNat)).map Gate.count).getD 0
        n ∈ e.b.gateSeen.getD g.toNat [] ∨ (e.b.gateSeen.getD g.toNat [] = [] ∧ n = now)) ∧
  (∀ (s : State) (e : Env) (v c : Fibre) (i : Instr) (g : BitVec 6), s.env? = some e → e.ready i = true → e.single v c →
    (i = .rstopGated g ∨ (∃ b, i = .gadd g b) ∨ ∃ d, i = .gread d g) → e.l.gates ≤ g.toNat →
    ∃ t, exec i s = .next t ∧ e.fails s t v { code := .illegalField, info0 := e.is.word, info1 := e.is.pos }) ∧
  (∀ (s : State) (l b group pc chain id i0 i1 : Nat),
    s.flushParks l b group pc chain [(id, .illegalField, i0, i1)] = s.park l b group [id] .illegalField pc chain i0 i1)

/-- R135 and R36: `spawn` leaves one request with eight registers and the tags of whole quads in the step buffer, and q15 is
pending; the predicate word takes its journal entry (log 17). -/
def Obligations.SpawnWord : Prop :=
  ∀ (s : State) (e : Env) (a : BitVec 6) (delta : BitVec 13) (slot : BitVec 4), s.env? = some e →
    e.ready (.spawn a delta slot) = true → (∀ x ∈ e.actives, x.2.jpreds.isSome = true ∨ x.2.journalUsed < 24) →
    ∃ t, exec (.spawn a delta slot) s = .next t ∧ e.gives s t
      (fun _ c h => h = { c with jpreds := some (c.jpreds.getD c.preds), spawnPending := true, seq := c.seq + 1 })
      (fun _ _ => []) (fun _ _ => [])
      (fun v c => [{ fibre := c.id, seq := c.seq, group := e.is.group, exec := e.is.cycle,
                     target := ((((e.is.pc - e.is.pc % 128 : Nat) : Int) + delta.toInt * 128 + 8 + 12 * slot.toNat) % 2 ^ 33).toNat,
                     origin := e.is.pc, regs := (List.range 8).map fun k => v.reg (a.toNat + k),
                     tag0 := decide (a.toNat % 4 = 0) && v.tag (a.toNat / 4),
                     tag1 := decide (a.toNat % 4 = 0) && v.tag (a.toNat / 4 + 1) }])

/-- R123: `nop` has no effect. `yield` has none on any visible state; with an active fibre it makes its context the youngest
of its core under greedy-then-oldest issue, and changes nothing under round-robin. -/
def Obligations.NopAndYield : Prop :=
  ∀ (s : State) (e : Env), s.env? = some e →
    (e.ready .nop = true → ∃ t, exec .nop s = .next t ∧ e.acts s t fun _ c g => g = c) ∧
    (e.ready .yield = true →
      let youngest (k : Core) : Core :=
        if k.num = e.b.coreOf e.is.group ∧ k.policy = .gto then
          { k with
            nextAge := k.nextAge + 1,
            contexts := k.contexts.map fun (x : Context) =>
              if x.launch = e.is.launch ∧ x.block = e.is.block ∧ x.group = e.is.group then
                { x with age := k.nextAge, streak := 0 }
              else x }
        else k
      ∃ t0 : State, (e.acts s t0 fun _ c g => g = c) ∧
        (e.actives = [] → exec .yield s = .next t0) ∧
        (e.actives ≠ [] → exec .yield s = .next { t0 with cores := s.cores.map youngest }))


/-- R95 and R97: a word that R94 does not assign fails in every fibre of the fragment, whatever its guards, with the word and its
position in the info words; nothing else changes (log 14). The park path (R342, R352): the fibres wait where they failed, at their
packet and chain, and nothing else in the block changes; the launch notes the code, and one record of class 1 names them by lane,
with the live fibres of their group that did not fail. -/
def Obligations.UnassignedEncodingsAndParkPath : Prop :=
  (∀ (s : State) (is : Issue) (w : BitVec 32), s.issue = some is →
    exec (.unassignedEncoding w) s = .next { s with issue := some { is with
      live := [], parks := is.parks ++ is.live.map fun id => (id, FaultCode.illegalOpcode, w.toNat, is.pos) } }) ∧
  (∀ (s : State) (l b group : Nat) (ids : List Nat) (code : FaultCode) (pc chain i0 i1 : Nat) (ln : Launch) (bl : Block),
    s.launch? l = some ln → ln.block? b = some bl →
    let parked (f : Fibre) : Fibre :=
      if f.id ∈ ids then { f with status := .parked code.num, pc := pc, chain := chain, arrival := .resume } else f
    let fibres := bl.fibres.map parked
    s.park l b group ids code pc chain i0 i1 =
      (s.modLaunch l fun x => { x.modBlock b (fun y => { y with fibres := y.fibres.map parked }) with
        faults := x.faults ++ [{ code := code.num, fibres := ids.map fun i => (b, i), counts := false }] }).report
        { code := code.num, cls := 1, cohort := group, block := bl.index, rcb := ln.rcb,
          frag := laneMask (fibres.filter fun f => ids.contains f.id),
          sib := laneMask (fibres.filter fun f => f.group == group && f.live && !ids.contains f.id),
          launch := ln.id, pc := pc, step := bl.step, round := ln.round, info0 := i0, info1 := i1 })

/-- R66 to R69, R72 to R74, R83, R84, R94 to R97: what a packet's checks find, in their order, before its first chain issues; a place
outside the code image is never fetched. A line header is bad for its zero field, a target bit without a valid bit, the packet's valid bit
or its stop mirror, for every fibre; a fibre that came by a transfer fails where the target bit is clear; then the first word that fails
its own check, then the rules of chains and of one control word, then the window. R76: the checking scoreboard takes out of a chain each
fibre that would read or write a four-cycle result too early, and names the register (model's choices: logs 15, 27, 64 and 65). -/
def Obligations.PacketChecks : Prop :=
  (∀ (s : State) (core : Nat) (l : Launch) (fs : List Fibre) (pc : Nat),
    let r := s.checkPacket core l fs pc
    let all (code : FaultCode) (i0 i1 : Nat) : Checked :=
      { fails := fs.map fun f => (f.id, code, i0, i1), live := [], words := [], bad := none }
    let targets : Checked := { fails := fs.map fun f => (f.id, .target, f.origin, 0), live := [], words := [], bad := none }
    (l.codelen ≤ pc → r = targets) ∧
    (pc < l.codelen →
      (∀ er, s.translate (some core) l.tenant .fetch (l.codebase + pc) = .error er →
        r = all er ((l.codebase + pc) % 2 ^ 32) ((l.codebase + pc) / 2 ^ 32 % 2 ^ 16)) ∧
      (∀ pa, s.translate (some core) l.tenant .fetch (l.codebase + pc) = .ok pa →
        (s.poisoned pa = true → r = all .memUncorrectable ((l.codebase + pc) % 2 ^ 32) ((l.codebase + pc) / 2 ^ 32 % 2 ^ 16)) ∧
        (s.poisoned pa = false →
          let h := s.mem.num (pa / 128 * 128) 8
          let ws := (List.range 3).map fun i => BitVec.ofNat 32 (s.mem.num (pa + 4 * i) 4)
          let slot := slotOf pc
          (headerBad h slot ws = true → r = all .lineHeader (h % 2 ^ 32) (h / 2 ^ 32)) ∧
          (headerBad h slot ws = false → (slot = none → r = targets) ∧
            ∀ i, slot = some i →
              let barred (f : Fibre) : Bool := f.transferred && !h.testBit i
              let failed := (fs.filter barred).map fun f => (f.id, FaultCode.target, f.origin, 0)
              let go := (fs.filter fun f => !barred f).map Fibre.id
              (packetFault l.sup l.window ws = none → r = { fails := failed, live := go, words := ws, bad := none }) ∧
              (∀ w pos, packetFault l.sup l.window ws = some (.illegalOpcode, w, pos) →
                r = { fails := failed, live := go, words := ws, bad := some (w, pos) }) ∧
              (∀ c w pos, c ≠ .illegalOpcode → packetFault l.sup l.window ws = some (c, w, pos) →
                r = { fails := failed ++ go.map (fun id => (id, c, w.toNat, pos)), live := [], words := [], bad := none })))))) ∧
  (∀ pc i, slotOf pc = some i ↔ i < 10 ∧ pc % 128 = 8 + 12 * i) ∧
  (∀ h slot (ws : List (BitVec 32)), headerBad h slot ws = true ↔
    (∃ k, 30 ≤ k ∧ k < 64 ∧ h.testBit k = true) ∨ (∃ k < 10, h.testBit k = true ∧ h.testBit (20 + k) = false) ∨
    ∃ i, slot = some i ∧ (h.testBit (20 + i) = false ∨
      ¬ (h.testBit (10 + i) = true ↔ ∃ w ∈ ws, w.toNat / 2 ^ 23 % 64 = 2 ∧ w.toNat % 32 ≤ 1))) ∧
  (∀ sup before pos (w : BitVec 32) next,
    let barred : Prop := privWord w.toNat = true ∧ sup = false
    let r := wordFault sup before pos w next
    (decodeWord w.toNat = .error .illegalOpcode → r = some .illegalOpcode) ∧
    (decodeWord w.toNat ≠ .error .illegalOpcode → (barred → r = some .privilege) ∧
      (¬ barred → (decodeWord w.toNat = .error .illegalField → r = some .illegalField) ∧
        (∀ d m, decodeWord w.toNat = .ok d → d.body = .mods m →
          r = if pos = 2 ∨ ∃ x ∈ next.head?, x.toNat / 2 ^ 23 % 64 = 1 then some .illegalField else none) ∧
        (∀ d i, decodeWord w.toNat = .ok d → d.body = .instr i →
          r = if (pos = 2 ∧ w.getLsbD 31 = true) ∨ i.modOk (before.getD Mods.none) = false then some .illegalField else none)))) ∧
  (∀ sup window (ws : List (BitVec 32)), ws.length = 3 →
    let before (k : Nat) : Option Mods := if k = 0 then none else ws[k - 1]?.bind modsOf
    let own (k : Nat) (w : BitVec 32) : Option FaultCode := wordFault sup (before k) k w (ws.drop (k + 1))
    let clash (j k : Nat) : Prop := j < k ∧ ∃ w x i y, ws[j]? = some w ∧ ws[k]? = some x ∧ instrOf w = some i ∧ instrOf x = some y ∧
      ((chainAt ws j = chainAt ws k ∧ (i.pipe = y.pipe ∨ ∃ r ∈ i.writes, r ∈ y.writes)) ∨ (i.isControl = true ∧ y.isControl = true))
    let outside (k : Nat) (w : BitVec 32) : Prop :=
      ∃ i, instrOf w = some i ∧ ∃ r ∈ i.reads ((before k).getD Mods.none) ++ i.writes, window ≤ r ∧ r < 64
    let fits (k : Nat) (w : BitVec 32) : Prop := ws[k]? = some w
    (∀ k w c, fits k w → own k w = some c → (∀ j < k, ∀ x, fits j x → own j x = none) → packetFault sup window ws = some (c, w, k)) ∧
    ((∀ k w, fits k w → own k w = none) →
      (∀ k w, fits k w → (∃ j, clash j k) → (∀ m < k, ∀ j, ¬ clash j m) → packetFault sup window ws = some (.illegalField, w, k)) ∧
      ((∀ j k, ¬ clash j k) →
        (∀ k w, fits k w → outside k w → (∀ j < k, ∀ x, fits j x → ¬ outside j x) →
          packetFault sup window ws = some (.regWindow, w, k)) ∧
        ((∀ k w, fits k w → ¬ outside k w) → packetFault sup window ws = none)))) ∧
  (∀ (s : State) (l : Launch) (now : Nat) (fs : List Fibre) (ws : List (BitVec 32)) (chain : Nat),
    let r := s.stallShort l now fs ws chain
    (l.check = false → r = []) ∧
    (∀ x ∈ r, x.2.1 = .stallShort ∧ x.2.2.2 = 0 ∧ ∃ f ∈ fs, f.id = x.1 ∧ (f.early now x.2.2.1).isSome = true) ∧
    (l.check = true → ∀ f ∈ fs, ∀ x ∈ chainWords ws chain,
      (x.2.1.gq ≠ 0 ∧ (f.early now (64 + x.2.1.gq.toNat)).isSome = true) ∨
        (letsAct x.2.1 f = true ∧ isOnce x.2.2 = false ∧ ∃ n ∈ s.namedRegs l f x, (f.early now n).isSome = true) →
      f.id ∈ r.map Prod.fst))

/-- R36 and R55: a word that acts on each fibre and that names a pending register or predicate, as its guard, among its reads or among its
writes, fails with `PENDING_ROUND`, which names the low register of the `fadr` or 79. R30 and R31: a write that would need a 25th journal
entry is not made and fails with `JOURNAL_FULL`, which names the register, or 64 for the predicate word; a register or predicate word that
has its entry is written all the same. A fragment of one fibre. -/
def Obligations.RunTimeFaults : Prop :=
  (∀ (s : State) (e : Env) (i : Instr) (v c : Fibre) (tr : Trap), s.env? = some e → perFibre i = true → e.is.live = [v.id] →
    e.b.fibre? v.id = some v → e.cur? v.id = some c →
    let guard := 64 + e.is.mods.gq.toNat
    let named : List Nat := i.newestReads e.is.mods ++ i.writesNow
    (e.is.mods.gq ≠ 0 → v.pendingRound guard = some tr → ∃ t, exec i s = .next t ∧ e.fails s t v tr) ∧
    (e.is.mods.gq = 0 ∨ v.settled e.is.cycle guard = true → e.active v = true →
      ∀ (k n : Nat), named[k]? = some n → v.pendingRound n = some tr → (∀ j < k, ∀ m : Nat, named[j]? = some m → v.pendingRound m = none) →
        ∃ t, exec i s = .next t ∧ e.fails s t v tr)) ∧
  (∀ (f : Fibre) (n : Nat) (tr : Trap), f.pendingRound n = some tr →
    (n < 64 → ∃ p ∈ f.fadrs, (p.reg = n ∨ (p.wide = true ∧ p.reg + 1 = n)) ∧ tr = { code := .pendingRound, info0 := p.reg, info1 := 0 }) ∧
    (64 ≤ n → n = 79 ∧ f.spawnPending = true ∧ tr = { code := .pendingRound, info0 := 79, info1 := 0 })) ∧
  (∀ (f : Fibre) (n : Nat), f.pendingRound n = none ↔
    ((n < 64 → ∀ p ∈ f.fadrs, p.reg ≠ n ∧ (p.wide = true → p.reg + 1 ≠ n)) ∧ (n = 79 → f.spawnPending = false))) ∧
  (∀ (s : State) (e : Env) (i : Instr) (v c : Fibre) (d : BitVec 6), s.env? = some e → e.single v c →
    (e.is.mods.gq = 0 ∨ v.settled e.is.cycle (64 + e.is.mods.gq.toNat) = true) →
    (i.newestReads e.is.mods ++ i.writesNow).all (v.settled e.is.cycle) = true →
    24 ≤ c.journal.length + (if c.jpreds.isSome = true then 1 else 0) →
    ((∃ P, e.int32 v i = some (d, P) ∨ e.logic v i = some (d, P) ∨ e.immediate v i = some (d, P) ∨ e.float32 v i = some (d, P)) →
      c.pendingRound d.toNat = none → (∀ x ∈ c.journal, x.1 ≠ d.toNat) →
      ∃ t, exec i s = .next t ∧ e.fails s t v { code := .journalFull, info0 := d.toNat, info1 := 0 }) ∧
    (∀ x, e.truth v i = some (d, x) → d.toNat % 16 ≠ 0 → c.pendingRound (64 + d.toNat % 16) = none → c.jpreds = none →
      ∃ t, exec i s = .next t ∧ e.fails s t v { code := .journalFull, info0 := 64, info1 := 0 })) ∧
  (∀ (f : Fibre) (n : Nat) (v : Word), f.pendingRound n = none → (∃ x ∈ f.journal, x.1 = n) → f.write [(n, v)] = .ok (f.putReg n v))


/-! ## Sparse words, and words that act once -/

/-- R304 to R309, R291: the sparse words of one fibre whose checks pass. `tld` answers the value in the latched tree, 0 for an
absent key; `tnext` the least key above the cursor, −1 where there is none; `tcount` the entries; each lands like a load.
`tst` makes one contribution. The launch becomes a holder and has latched the root. -/
def Obligations.SparseWords : Prop :=
  ∀ (s : State) (e : Env) (v c : Fibre) (cap : BitVec 4) (sp : Sparse), s.env? = some e → e.single v c →
    let k := capOf (v.quad cap.toNat)
    let ds := s.rdesc sp
    let pend (nodes : Nat) (ws : List (Nat × Word)) : PendLoad :=
      { regs := ws, tag := none, line := [], core := e.b.coreOf c.group, va := none, issued := e.is.cycle,
        due := e.is.cycle + 220 * nodes }
    let sz := typeSize ds.typ
    let lands (i : Instr) (nodes : Nat) (ws : List (Nat × Word)) : Prop :=
      ∃ t g, exec i s = .next t ∧ g.loads = c.loads ++ [pend nodes ws] ∧
        c.kept { g with loads := c.loads } (ws.map Prod.fst) ∧
        t = (s.modFibre e.is.launch e.is.block v.id fun _ => g).noteHolder e.l.id sp
    s.sparse? (skey e.l.tenant k.objid) = some sp → capValid e.l (v.tag cap.toNat) k = true → k.space = 4 →
    (k.isSup = false ∨ e.l.sup = true) → s.owner sp.desc = sp.tenant →
    (∀ (d x : BitVec 6) (key val : Nat), e.ready (.tld d cap x) = true → k.canR = true → (sz = 8 → d.toNat % 2 = 0) →
      keyOf ds.rank ds.ext ((List.range 4).map fun n => (v.reg (x.toNat + n)).toNat) = .ok key →
      s.lookup ds (s.latchOf e.l sp).root key = .ok val → c.takes ((valueWords d.toNat sz val).map Prod.fst) = true →
      lands (.tld d cap x) (s.nodesRead ds (s.latchOf e.l sp).root) (valueWords d.toNat sz val)) ∧
    (∀ (d a : BitVec 6) (found : Option Nat), e.ready (.tnext d a cap) = true → k.canR = true →
      s.nextKey ds (s.latchOf e.l sp).root (e.pairA v a).toInt = .ok found →
      let above := if (e.pairA v a).toInt = 2 ^ 63 - 1 then none else found
      c.takes [d.toNat, d.toNat + 1] = true →
      lands (.tnext d a cap) (s.nodesRead ds (s.latchOf e.l sp).root) (valueWords d.toNat 8 (above.getD (2 ^ 64 - 1)))) ∧
    (∀ d : BitVec 6, e.ready (.tcount d cap) = true → k.canR = true →
      ((s.latchOf e.l sp).root = noNode ∨ s.rootError ds (s.latchOf e.l sp).root = none) →
      c.takes [d.toNat, d.toNat + 1] = true → lands (.tcount d cap) 1 (valueWords d.toNat 8 (s.latchOf e.l sp).entries)) ∧
    (∀ (d x : BitVec 6) (rule : BitVec 3) (fl : BitVec 1) (key : Nat), e.ready (.tst d cap x rule fl) = true → k.canW = true →
      tstOk ds.typ rule.toNat (fl == 1) = true →
      (sz = 8 → d.toNat % 2 = 0 ∧ v.settled e.is.cycle (d.toNat + 1) = true) →
      keyOf ds.rank ds.ext ((List.range 4).map fun n => (v.reg (x.toNat + n)).toNat) = .ok key →
      ∃ t, exec (.tst d cap x rule fl) s = .next t ∧
        t = (s.modBlock e.is.launch e.is.block fun b =>
          { b.modFibre v.id (fun _ => { c with seq := c.seq + 1 }) with contribs := b.contribs ++
            [{ space := .sparse sp.num, addr := key, size := sz, nib := none,
               value := if sz = 8 then (v.pair d.toNat).toNat else (v.reg d.toNat).toNat % 2 ^ (8 * sz), tag := false,
               rule := rule.toNat, flt := fl == 1,
               key := { remote := 0, block := e.b.index, fibre := c.id, seq := c.seq, sub := 0 }, wo := false, phys := 0,
               dest := none, opened := 0, issued := e.is.cycle }] }).noteHolder e.l.id sp)

/-- R17, R238, R259, R310, R368, R381: an engine, supervisor or `launch` word acts once, through its elected fibre. When that
fibre's capability and offset pass, the command is recorded with them and the gate, and every active fibre's token register
becomes pending. R245, R263: `cp` is one command of its fragment, with a lane for each active fibre, when every lane's checks pass.
A command is carried out at the step's commit, and memory is not read before (log 3). -/
def Obligations.CommandWords : Prop :=
  (∀ (s : State) (e : Env) (i : Instr) (k : OnceForm) (d : BitVec 6) (a : BitVec 4) (b : BitVec 6) (el : Nat) (rest : List Nat)
    (v c : Fibre) (n off : Nat) (gate : Option Nat), s.env? = some e → onceOf i = some (k, d, a, b) → i.wf = true →
    e.elects el rest → e.takesToken d.toNat → e.b.fibre? el = some v → e.cur? el = some c →
    (i.newestReads e.is.mods).all (v.settled e.is.cycle) = true → e.onceCheck v k a b = .ok (n, off, gate) →
    ∃ t, exec i s = .next t ∧ e.records s t
      { id := s.nextCmd, instr := i, fibre := el, seq := c.seq, dests := el :: rest, reg := d.toNat, cap := n, off := off,
        gate := gate, lanes := [] }) ∧
  (∀ (s : State) (e : Env) (d : BitVec 6) (dst src : BitVec 4) (x : BitVec 6) (size : BitVec 2) (el : Nat) (rest : List Nat)
    (c : Fibre) (lane : Fibre → Nat × Nat × Nat × Nat), s.env? = some e → (Instr.cp d dst src x size).wf = true →
    e.elects el rest → e.takesToken d.toNat → e.cur? el = some c →
    (∀ y ∈ e.actives, ((Instr.cp d dst src x size).newestReads e.is.mods).all (y.1.settled e.is.cycle) = true ∧
      e.cpCheck y.1 dst src x size = .ok (lane y.1)) →
    ∃ t, exec (.cp d dst src x size) s = .next t ∧ e.records s t
      { id := s.nextCmd, instr := .cp d dst src x size, fibre := el, seq := c.seq, dests := el :: rest, reg := d.toNat,
        cap := 0, off := 0, gate := none, lanes := e.actives.map fun y => (y.1.id, lane y.1) })

/-- What the issue of a command word checks, in order (R259, R310, R381, R39): the capability's validity, its permissions and
space, the alignment of offset and block, the bounds, and the gate; the word and the offset are the info words. A failure of a
fragment's one active fibre records no command and takes no command number, and the fibre waits to be parked as its chain found it
(R17) (log 14). -/
def Obligations.CommandChecks : Prop :=
  (∀ (e : Env) (f : Fibre) (k : OnceForm) (a : BitVec 4) (b : BitVec 6),
    let c := capOf (f.quad a.toNat)
    let off := (f.reg b.toNat).toNat
    let bad (code : FaultCode) : Except Trap (Nat × Nat × Option Nat) :=
      .error { code := code, info0 := e.is.word, info1 := off }
    let perm : Prop := c.canR = true ∧ (k.eng = true → c.hasEng = true) ∧ (c.isSup = true → e.l.sup = true) ∧
      (c.space = 0 ∨ c.space = 1)
    let gated : Prop := k.eng = true ∧ e.is.mods.kind = 2
    let g := (f.reg e.is.mods.c.toNat).toNat % 64
    (capValid e.l (f.tag a.toNat) c = false → e.onceCheck f k a b = bad .capTag) ∧
    (capValid e.l (f.tag a.toNat) c = true →
      (¬ perm → e.onceCheck f k a b = bad .capPerm) ∧
      (perm → (off % k.size ≠ 0 ∨ (c.base + off) % k.size ≠ 0 → e.onceCheck f k a b = bad .illegalField) ∧
        (off % k.size = 0 → (c.base + off) % k.size = 0 →
          (c.len < off + k.size → e.onceCheck f k a b = bad .capBounds) ∧
          (off + k.size ≤ c.len →
            (¬ gated → e.onceCheck f k a b = .ok (f.quad a.toNat, off, none)) ∧
            (gated → g < e.l.gates → e.onceCheck f k a b = .ok (f.quad a.toNat, off, some g)) ∧
            (gated → e.l.gates ≤ g →
              e.onceCheck f k a b = .error { code := .illegalField, info0 := e.is.word, info1 := e.is.pos })))))) ∧
  (∀ (s : State) (e : Env) (i : Instr) (k : OnceForm) (d : BitVec 6) (a : BitVec 4) (b : BitVec 6) (v c : Fibre) (tr : Trap),
    s.env? = some e → onceOf i = some (k, d, a, b) → e.elects v.id [] → e.single v c → e.takesToken d.toNat →
    (i.newestReads e.is.mods).all (v.settled e.is.cycle) = true → e.onceCheck v k a b = .error tr →
    ∃ t, exec i s = .next t ∧ e.fails s t v tr)

/-- R237 to R240, R245 to R250, R261 to R276: the words of a step are dispatched at its commit in the order of their contribution keys, with
the parameter block as it stands then; a block that cannot be read ends the command as a failed line does. Each engine word checks its
block in the order of R261: the first failure completes it with that status and count 0 and changes nothing else; one that passes runs,
with the ranges it names protected, and reads its scratch source at once. A lease pins its range where every slice has room for it and
gives out the lowest free number; `unlease` ends one; a matrix word is staged with what it reads of scratch and takes its place in its
port's queue if it may (model's choices: logs 3, 35 and 47). -/
def Obligations.EngineDispatch : Prop :=
  (∀ qs : List CmdReq, (sortReqs qs).Perm qs ∧
    (sortReqs qs).Pairwise fun x y => x.fibre < y.fibre ∨ (x.fibre = y.fibre ∧ x.seq ≤ y.seq)) ∧
  (∀ (s : State) (id n k : Nat) (c : Cmd), s.cmd? id = some c → { s.finishCmd id n k with cmds := s.cmds } = s ∧
    (s.finishCmd id n k).cmd? id = some { c with phase := .finished, status := n, count := k, outs := [] }) ∧
  (∀ (s : State) (l b : Nat) (q : CmdReq) (ln : Launch) (bl : Block), s.launch? l = some ln → ln.block? b = some bl →
    let k := capOf q.cap
    let c := q.cmd l b s.clock (bl.status == .terminated)
    let u : State := { s with cmds := s.cmds ++ [c] }
    let size := if c.isLaunch = true then 128 else 64
    (c.id = q.id ∧ c.capBase = k.base + q.off ∧ c.capVal = q.cap ∧ c.gate = q.gate ∧ c.dests = q.dests ∧ c.reg = q.reg ∧ c.protect = []) ∧
    (ln.ended = true → s.dispatchOne l b q = s) ∧
    (ln.ended = false →
      (∀ d w x o z, q.instr = .cp d w x o z → s.dispatchOne l b q =
        u.startCmd ln bl { c with protect := c.lanes.flatMap fun y =>
          [(capOf y.2.1).range y.2.2.2.1 (4 * 2 ^ z.toNat), (capOf y.2.2.1).range y.2.2.2.2 (4 * 2 ^ z.toNat)] }) ∧
      ((∀ d w x o z, q.instr ≠ .cp d w x o z) →
        (k.space = 1 → (∀ p ∈ s.scratchPoison, ¬ (p.1 = ln.id ∧ p.2.1 = bl.index)) → s.dispatchOne l b q =
          (u.modCmd q.id fun _ => { c with params := Memory.bytes bl.scratch c.capBase size }).dispatchRead ln bl
            { c with params := Memory.bytes bl.scratch c.capBase size }) ∧
        (∀ er, u.engAll ln bl k.space c.capBase size = .error er → s.dispatchOne l b q = u.lineFault c er.1 er.2)))) ∧
  ∀ (s : State) (l : Launch) (b : Block) (c : Cmd),
    let tag (i : Nat) : Bool := c.capScratch && b.scratchTags.contains (c.capBase + 16 * i)
    let bad (i : Nat) (x : Cap) : Prop := capValid l (tag i) x = false
    let usable (x : Cap) (write : Bool) (spaces : List Nat) : Prop :=
      (if write = true then x.canW = true else x.canR = true) ∧ x.hasEng = true ∧ x.space ∈ spaces ∧ (x.isSup = true → l.sup = true)
    let ends (n : Nat) : State := s.finishCmd c.id n 0
    let field := FaultCode.illegalField.num
    let capTag := FaultCode.capTag.num
    let capPerm := FaultCode.capPerm.num
    let bounds := FaultCode.capBounds.num
    let r := s.dispatchRead l b c
    (c.sourceDone = true ∨ c.nextPiece.1 ≠ 1 → s.startCmd l b c = s.modCmd c.id fun _ => c) ∧
    (∀ d a x, c.instr = .digest d a x →
      inOrder r ends (r = s.startCmd l b { c with protect := [c.cap0.range (c.num 40 8) (c.num 48 8), c.cap1.range (c.num 56 8) 32] })
        [(c.num 32 8 ≠ 0 ∨ 2 ^ 40 ≤ c.num 48 8, field), (bad 0 c.cap0 ∨ bad 1 c.cap1, capTag),
         (¬ usable c.cap0 false [0, 1, 3, 5] ∨ ¬ usable c.cap1 true [0, 1, 5], capPerm),
         (c.cap0.len < c.num 40 8 + c.num 48 8 ∨ c.cap1.len < c.num 56 8 + 32, bounds)]) ∧
    (∀ d a x, c.instr = .cpt d a x →
      let rows := c.num 36 2
      let kb := c.num 38 2
      let blk := blockBytes (c.num 33 1)
      let ps := c.planes (rows * kb) (c.num 34 1) true
      let prot := (List.range rows).map (fun i => c.cap0.range (c.num 40 8 + i * c.num 48 4) (kb * blk))
        ++ ps.map fun p => c.capC.range p.1 p.2.1
      inOrder r ends
        ((c.num 32 1 = 0 → r = s.startCmd l b { c with protect := prot }) ∧
          (c.num 32 1 = 1 → ∃ y : Cmd, { y with buf := c.buf, outs := c.outs } = { c with protect := prot } ∧
            (r = (s.modCmd c.id fun _ => y) ∨ ∃ code pa, r = (s.modCmd c.id fun _ => y).lineFault y code pa)))
        [(1 < c.num 32 1 ∨ 6 < c.num 33 1 ∨ 3 < c.num 34 1 ∨ 4 < c.num 35 1 ∨ 64 < kb ∨ c.num 16 16 ≠ 0 ∨ c.num 48 4 < kb * blk ∨
            planesBad ps = true, field),
         (bad 0 c.cap0, capTag), (¬ usable c.cap0 (c.num 32 1 == 1) [0, 1, 5] ∨ c.capC.space ≠ 1, capPerm), (rows * kb = 0, 0),
         (¬ (c.num 34 1 = 3 ↔ c.num 33 1 = 3), FaultCode.format.num),
         (c.cap0.len < c.num 40 8 + (rows - 1) * c.num 48 4 + kb * blk ∨ planesOut c.capC.len ps = true, bounds)]) ∧
    (∀ d a x, (c.instr = .gath d a x ∨ c.instr = .scat d a x) →
      let scat : Prop := c.instr = .scat d a x
      let n := c.num 36 2
      let size := c.num 38 2
      let unfit : Prop := c.num 35 1 ≠ 0 ∨ 4096 < n ∨ size = 0 ∨ 4096 < size ∨ c.num 48 4 < size ∨ c.num 60 4 < size ∨ c.num 52 4 % 4 ≠ 0
      let rule := c.num 32 1
      let es := sizeBytes (c.num 33 1)
      let illegal : Prop := 6 < rule ∨ c.num 33 1 = 0 ∨ 4 < c.num 33 1 ∨ 1 < c.num 34 1 ∨ rule49 rule (c.num 33 1) (c.num 34 1) = false ∨
        (2 ≤ rule ∧ rule ≤ 5 ∧ ∃ v ∈ [size, c.num 48 4, c.num 60 4, c.cap0.base + c.num 40 8, c.cap1.base + c.num 56 4], v % es ≠ 0)
      inOrder r ends
        ((∀ er, s.engAll l b c.capC.space (c.capC.base + c.num 52 4) (4 * n) = .error er → r = s.lineFault c er.1 er.2) ∧
          ∀ raw, s.engAll l b c.capC.space (c.capC.base + c.num 52 4) (4 * n) = .ok raw →
            let idx := (List.range n).map fun i => numAt raw (4 * i) 4
            ((∃ i ∈ idx, 2 ^ 31 ≤ i ∨ c.cap0.len < c.num 40 8 + i * c.num 48 4 + size) → r = ends bounds) ∧
            ((∀ i ∈ idx, i < 2 ^ 31 ∧ c.num 40 8 + i * c.num 48 4 + size ≤ c.cap0.len) →
              ∃ y : Cmd, r = s.startCmd l b y ∧ { y with protect := c.protect } = { c with lanes := idx.map fun i => (i, 0, 0, 0, 0) } ∧
                ∀ p, p ∈ y.protect ↔ p = c.capC.range (c.num 52 4) (4 * n) ∨
                  (∃ i ∈ idx, p = c.cap0.range (c.num 40 8 + i * c.num 48 4) size) ∨
                  ∃ i < n, p = c.cap1.range (c.num 56 4 + i * c.num 60 4) size))
        [(unfit ∨ (scat ∧ illegal) ∨ (¬ scat ∧ c.num 32 3 ≠ 0), field), (bad 0 c.cap0 ∨ bad 1 c.cap1, capTag),
         (¬ (scat → usable c.cap0 true [0, 1, 5] ∧ usable c.cap1 false [0, 1, 3, 5]) ∨
            ¬ (¬ scat → usable c.cap0 false [0, 1, 5] ∧ usable c.cap1 true [0, 1, 5]), capPerm),
         (n = 0, 0), (c.capC.len < c.num 52 4 + 4 * n ∨ c.cap1.len < c.num 56 4 + (n - 1) * c.num 60 4 + size, bounds)]) ∧
    (∀ d a x, (c.instr = .cpd d a x ∨ c.instr = .cps d a x) →
      let store : Prop := c.instr = .cps d a x
      let rc := if c.instr = .cps d a x then c.cap1 else c.cap0
      let dc := if c.instr = .cps d a x then c.cap0 else c.cap1
      inOrder r ends
        ((s.sparse? (skey l.tenant rc.objid) = none → r = ends (if rc.space = 4 then capTag else capPerm)) ∧
          ∀ sp, s.sparse? (skey l.tenant rc.objid) = some sp →
            let y := s.rdesc sp
            let size := typeSize y.typ
            let ext := c.extents
            let org := c.origin
            let rule := c.num 32 1
            inOrder r ends
              (∃ (u : State) (z : Cmd), u = s.noteHolder l.id sp ∧ z.protect = [.region sp.num, dc.range (c.num 60 4) (c.boxCount * size)] ∧
                { z with protect := c.protect, outs := c.outs, count := c.count, stop := c.stop } = c ∧
                (store → z.count = c.boxCount * size ∧ r = u.startCmd l b z) ∧
                (¬ store → r = (u.modCmd c.id fun _ => z) ∨ r = u.finishCmd c.id FaultCode.format.num 0 ∨
                  ∃ code pa, r = (u.modCmd c.id fun _ => z).lineFault z code pa))
              [(¬ usable rc (c.instr == .cps d a x) [4] ∨ ¬ usable dc (c.instr != .cps d a x) [0, 1, 5], capPerm),
               ((∃ i < 4, y.rank ≤ i ∧ (ext.getD i 0 ≠ 1 ∨ org.getD i 0 ≠ 0)) ∨ (dc.base + c.num 60 4) % size ≠ 0 ∨
                  (store ∧ tstOk y.typ rule (2 ≤ rule && rule ≤ 5 && 2 ≤ y.typ) = false), field),
               (c.boxCount = 0, 0), (dc.len < c.num 60 4 + c.boxCount * size, bounds),
               (∃ i < 4, i < y.rank ∧ y.ext.getD i 1 < org.getD i 0 + ext.getD i 0, FaultCode.sparseCoord.num)])
        [((store ∧ (6 < c.num 32 1 ∨ 1 < c.num 33 1 ∨ c.num 34 2 ≠ 0)) ∨ (¬ store ∧ c.num 32 4 ≠ 0), field),
         (bad 0 c.cap0 ∨ bad 1 c.cap1, capTag)]) ∧
    (∀ d a x, c.instr = .lease d a x →
      let base := c.cap0.base + c.num 40 8
      let n := c.num 48 8
      let out (v : Nat) (tagged : Bool) : OutLine :=
        { scratch := c.capScratch, addr := c.capBase + 16, bytes := (leBytes 16 v).map some, tag := tagged && c.capScratch, done := 0, need := 0 }
      let gives (v : Nat) (tagged : Bool) (k : Nat) : Cmd :=
        { c with outs := [out v tagged], count := k, protect := [.bytes c.capScratch (c.capBase + 16) 16] }
      inOrder r ends
        ((∀ er, s.badLoad l.tenant (n / 128 + 2) base n = some er → r = s.lineFault c er.1 er.2) ∧
          (s.badLoad l.tenant (n / 128 + 2) base n = none →
            (∀ m, 1 ≤ m → m ≤ 4095 → (∀ y ∈ l.leases, y.num ≠ m) → (∀ j, 1 ≤ j → j < m → ∃ y ∈ l.leases, y.num = j) →
              s.leaseFits l.tenant base n = true →
              r = (s.modLaunch l.id fun y => { y with leases := y.leases ++
                  [{ num := m, base := base, len := n, last := if c.num 36 4 = 0 then none else some (l.round + c.num 36 4) }] }).modCmd
                c.id fun _ => gives (Cap.num { base := base, len := n, space := 5, perm := c.cap0.perm &&& 0x73, objid := m, zero := 0 })
                  true (n / 128)) ∧
            (s.leaseFits l.tenant base n = false ∨ (∀ j, 1 ≤ j → j ≤ 4095 → ∃ y ∈ l.leases, y.num = j) →
              r = s.modCmd c.id fun _ => gives 0 false 0)))
        [(c.num 32 4 ≠ 0 ∨ c.num 56 8 ≠ 0 ∨ n % 128 ≠ 0 ∨ n = 0 ∨ base % 128 ≠ 0, field), (bad 0 c.cap0, capTag),
         (¬ usable c.cap0 false [0] ∨ c.capC.canW = false ∨ c.capC.hasCaps = false, capPerm), (c.cap0.len < c.num 40 8 + n, bounds)]) ∧
    (∀ d a x, c.instr = .unlease d a x →
      inOrder r ends
        (∃ y ∈ l.leases, y.num = c.cap0.objid ∧
          r = (s.modLaunch l.id fun z => { z with leases := z.leases.filter fun u => u.num != c.cap0.objid }).finishCmd c.id 0 (y.len / 128))
        [(c.num 16 48 ≠ 0, field), (bad 0 c.cap0, capTag),
         (c.cap0.hasEng = false ∨ c.cap0.space ≠ 5 ∨ (c.cap0.isSup = true ∧ l.sup = false), capPerm),
         (∀ y ∈ l.leases, y.num ≠ c.cap0.objid, capTag)]) ∧
    (∀ d a x, c.instr = .rcp d a x →
      let rule := c.num 32 1
      let es := sizeBytes (c.num 33 1)
      inOrder r ends (r = s.startCmd l b { c with protect := [c.cap0.range (c.num 40 8) (c.num 48 8)] })
        [((rule ≠ 0 ∧ rule ≠ 3) ∨ (rule = 3 ∧ c.num 33 1 ≠ 3 ∧ c.num 33 1 ≠ 4) ∨ (rule ≠ 3 ∧ c.num 33 1 ≠ 0) ∨ 1 < c.num 34 1 ∨
            c.num 35 5 ≠ 0 ∨ 2 ^ 40 ≤ c.num 48 8 ∨
            (rule = 3 ∧ (c.num 48 8 % es ≠ 0 ∨ (c.cap0.base + c.num 40 8) % es ≠ 0 ∨ c.num 56 8 % es ≠ 0)), field),
         (bad 0 c.cap0 ∨ bad 1 c.cap1, capTag), (¬ usable c.cap0 false [0, 1, 5] ∨ ¬ usable c.cap1 true [7], capPerm),
         (c.cap0.len < c.num 40 8 + c.num 48 8 ∨ c.cap1.len < c.num 56 8 + c.num 48 8, bounds),
         (s.importOf c = none ∨ ∃ i, s.importOf c = some i ∧ s.routeUp i.module = false, FaultCode.fabric.num)]) ∧
    (let u := s.ensurePorts (s.clusterOf c / 48)
     let left (n : Nat) : State := u.finishCmd c.id n 0
     let code := c.num 32 1
     let m := c.num 36 2
     let kb := c.num 38 2
     let half : Prop := code = 1 ∧ u.wholeFor l.rcb (u.clusterOf c) = true
     let noEngines : Prop := u.eff l.rcb 3 Region.mehalves = 0
     let priv := FaultCode.privilege.num
     let staged (bs : List Byte) : Prop :=
       let y : Cmd := { c with phase := .staged, port := some (u.portOf c), buf := bs, protect := c.matrixRanges }
       let v := u.modCmd c.id fun _ => y
       r = if v.mayEnqueue y = true then v.enqueue y else v
     let runs (read : Except (FaultCode × Nat) (List Byte)) : Prop :=
       (∀ er, read = .error er → r = u.lineFault c er.1 er.2) ∧ ∀ bs, read = .ok bs → staged bs
     (∀ d a x, c.instr = .mmz d a x → inOrder r left (staged [])
       [(1 < code ∨ 7 < c.num 33 1 ∨ c.num 34 30 ≠ 0 ∨ c.num 0 32 ≠ 0 ∨ half, field), (noEngines, priv)]) ∧
     (∀ d a x, c.instr = .mmb d a x →
       let ps := c.planes (m * kb) (c.num 33 1) false
       inOrder r left (runs (u.tileRead l b c (c.num 33 1) 0 (m * kb) false))
         [(2 < code ∨ 3 < c.num 33 1 ∨ c.num 34 2 ≠ 0 ∨ 1024 < m ∨ residentKb (c.num 33 1) * (if code = 2 then 2 else 1) < kb ∨
             c.num 40 12 ≠ 0 ∨ c.num 60 4 ≠ 0 ∨ c.num 0 32 ≠ 0 ∨ planesBad ps = true, field),
          (c.capC.space ≠ 1, capPerm), (m * kb = 0, 0), (noEngines, priv), (planesOut c.capC.len ps = true, bounds)]) ∧
     (∀ d a x, c.instr = .mma d a x →
       let ps := c.planes ((c.num 48 4 + m) * kb) (c.num 35 1) true
       inOrder r left (runs (u.tileRead l b c (c.num 35 1) (c.num 48 4 * kb) (m * kb) true))
         [(1 < code ∨ 7 < c.num 33 1 ∨ 1 < c.num 34 1 ∨ 3 < c.num 35 1 ∨ 16 < m ∨ 64 < kb ∨ c.num 0 32 ≠ 0 ∨ planesBad ps = true ∨ half, field),
          (c.capC.space ≠ 1, capPerm), (m = 0, 0), (noEngines, priv),
          (∀ y, u.tileFor l.rcb (u.portOf c) = some y → y.fmt ≠ c.num 35 1 ∨ y.kb < kb, FaultCode.format.num),
          (planesOut c.capC.len ps = true, bounds)]) ∧
     (∀ d a x, c.instr = .mmd d a x →
       let size := if c.num 34 1 = 6 then 4 else 2
       inOrder r left (staged [])
         [(1 < code ∨ 7 < c.num 33 1 ∨ c.num 34 1 ∉ [4, 5, 6] ∨ 4 < c.num 35 1 ∨ 16 < m ∨ 1024 < kb ∨ c.num 40 8 ≠ 0 ∨
             c.num 48 4 < kb * size ∨ c.num 52 4 % size ≠ 0 ∨ c.num 56 8 ≠ 0 ∨ c.num 0 32 ≠ 0 ∨ half, field),
          (c.capC.space ≠ 1, capPerm), (m * kb = 0, 0), (noEngines, priv),
          (c.capC.len < c.num 52 4 + (m - 1) * c.num 48 4 + kb * size, bounds)]))

/-- R221, R299 to R302, R310 to R317, R345, R351, R358, R369 to R379, R382: what each supervisor word and `launch` does when it is
dispatched. Its checks run in order; the first failure completes it with that status and count 0 and changes nothing else. The range words
rewrite the directory, raise the generations and finish with a wait for the accesses of before; `snew` and `sgrow` write their descriptor;
`bankmode`, `rgpri`, `rgbud`, `rgkill`, `rgreset`, `rgresume`, `wdarm`, `gcfg`, `snap` and `fret` change what they name and count it; a
`launch` that passes takes its gates and starts its blocks (model's choices: logs 12, 21, 24, 25, 26, 43, 73 and 74). -/
def Obligations.SupervisorDispatch : Prop :=
  (∀ (s : State) (t : Tenant) (es : List RangeEntry) (drop : List Nat), s.memOk → s.regions = [] →
    let u := s.setDir t es drop
    (∀ (i : Nat) (e : RangeEntry), es[i]? = some e → u.mem.num (t.dir + 32 * i) 32 = descOf e % 2 ^ 256) ∧
    (∀ a, a < t.dir ∨ t.dir + 32 * es.length ≤ a → u.mem.get a = s.mem.get a) ∧
    u.tenants = s.tenants.map (fun (x : Tenant) => if x.num = t.num then { x with ndir := es.length } else x) ∧
    ∀ k ∈ u.cores, ∀ e ∈ k.ranges, ¬ (e.tenant = t.num ∧ e.vbase ∈ drop)) ∧
  (∀ (s : State) (t : Tenant) start, (∀ i e, s.rangeAt t start = some (i, e) →
      (∃ d, (s.dirList t)[i]? = some d ∧ e = entryOf d) ∧ e.vbase * unit = start) ∧
    (s.rangeAt t start = none ↔ ∀ d ∈ s.dirList t, (entryOf d).vbase * unit ≠ start)) ∧
  (∀ (s : State) (l : Launch) (c : Cmd) (t : Tenant) (b : Block) (t0 t1 t2 : Bool), s.tenant? l.tenant = some t →
    let r := s.dispatchSys l b c t0 t1 t2
    let ends (n : Nat) : State := s.finishCmd c.id n 0
    let field := FaultCode.illegalField.num
    let miss := FaultCode.rangeMiss.num
    let hazard := FaultCode.engineHazard.num
    let bounds := FaultCode.capBounds.num
    let all := (s.dirList t).map entryOf
    let next (e : RangeEntry) : RangeEntry := { e with gen := (e.gen + 1) % 256 }
    let len (e : RangeEntry) : Nat := e.limit - e.vbase
    let bit (e : RangeEntry) (i : Nat) : Bool := s.bitmapBit e.bitmap i
    (∀ d a x, c.instr = .rsplit d a x →
      let m := c.num 8 8 / unit
      let up := c.num 24 8
      inOrder r ends
        (∃ i e, s.rangeAt t (c.num 0 8) = some (i, e) ∧
          let upper : Nat := if e.part = false then 0 else if up = 0 then e.bitmap + 8 * ((m - e.vbase) / 64) else up
          let bitsRun := s.writeRun up (bitWords (e.limit - m) fun j => bit e (m - e.vbase + j))
          inOrder r ends
            (r = ((if e.part = true ∧ up ≠ 0 then bitsRun else s).setDir t (all.take i ++
                [{ next e with limit := m }, { next e with vbase := m, pbase := e.pbase + (m - e.vbase), bitmap := upper }] ++
                all.drop (i + 1)) [e.vbase, m]).finishRange c.id 1 [(e.vbase, e.limit)] [])
            [(s.moveInFlight t.num e.vbase = true, hazard), (m ≤ e.vbase ∨ e.limit ≤ m, miss),
             (min t.cap 65535 ≤ t.ndir, FaultCode.indexExhausted.num),
             ((e.part = true ∧ e.bitmap % 8 ≠ 0) ∨ (e.part = true ∧ up = 0 ∧ (m - e.vbase) % 64 ≠ 0) ∨ (e.part = false ∧ up ≠ 0), field),
             (e.part = true ∧ up ≠ 0 ∧ s.ownsRun t.num up ((e.limit - m + 63) / 64 * 8) = false, FaultCode.ownership.num)])
        [(c.num 8 8 % unit ≠ 0 ∨ c.num 16 8 ≠ 0 ∨ up % 8 ≠ 0 ∨ c.num 32 32 ≠ 0, field), (s.rangeAt t (c.num 0 8) = none, miss)]) ∧
    (∀ d a x, c.instr = .rmerge d a x →
      inOrder r ends
        (∃ i e j g, s.rangeAt t (c.num 0 8) = some (i, e) ∧ s.rangeAt t (c.num 8 8) = some (j, g) ∧
          inOrder r ends
            (r = (s.setDir t (all.take i ++ [{ next e with limit := g.limit }] ++ all.drop (i + 2)) [e.vbase, g.vbase]).finishRange c.id 1
                [(e.vbase, g.limit)] [])
            [(s.moveInFlight t.num e.vbase = true ∨ s.moveInFlight t.num g.vbase = true, hazard),
             ((e.part = true ∧ e.bitmap % 8 ≠ 0) ∨ (g.part = true ∧ g.bitmap % 8 ≠ 0), field),
             (¬ (j = i + 1 ∧ e.limit = g.vbase ∧ e.pbase + len e = g.pbase ∧ e.perm = g.perm ∧ e.space = g.space ∧ e.part = g.part ∧
                e.tenant = g.tenant ∧ (e.part = true → len e % 64 = 0 ∧ g.bitmap = e.bitmap + 8 * (len e / 64))),
              FaultCode.rangePerm.num)])
        [(c.num 16 48 ≠ 0, field), (s.rangeAt t (c.num 0 8) = none ∨ s.rangeAt t (c.num 8 8) = none, miss)]) ∧
    (∀ d a x, c.instr = .rinval d a x →
      inOrder r ends
        (∃ i e, s.rangeAt t (c.num 0 8) = some (i, e) ∧ inOrder r ends
          (r = (s.setDir t (all.take i ++ [next e] ++ all.drop (i + 1)) [e.vbase]).finishRange c.id 1 [(e.vbase, e.limit)] [])
          [(s.moveInFlight t.num e.vbase = true, hazard)])
        [(c.num 8 56 ≠ 0, field), (s.rangeAt t (c.num 0 8) = none, miss)]) ∧
    (∀ d a x, c.instr = .rres d a x →
      let first := c.num 8 8
      let n := c.num 16 4
      let on := c.num 20 1 == 1
      inOrder r ends
        (∃ i e, s.rangeAt t (c.num 0 8) = some (i, e) ∧
          let changed := ((List.range n).filter fun j => bit e (first + j) != on).length
          let v := s.writeBits e.bitmap first n on
          inOrder r ends
            ((on = false → r = (v.setDir t (all.take i ++ [next e] ++ all.drop (i + 1)) [e.vbase]).finishRange c.id changed
                [(e.vbase, e.limit)] []) ∧
              (on = true → r = (v.dropWords t.num e.vbase).finishCmd c.id 0 changed))
            [(s.moveInFlight t.num e.vbase = true, hazard), (n = 0, 0), (e.part = false, FaultCode.rangePerm.num),
             (len e < first + n, bounds)])
        [(1 < c.num 20 1 ∨ c.num 21 43 ≠ 0, field), (s.rangeAt t (c.num 0 8) = none, miss)]) ∧
    (∀ d a x, c.instr = .rmove d a x →
      let dst := c.num 8 8
      inOrder r ends
        (∃ i e, s.rangeAt t (c.num 0 8) = some (i, e) ∧
          let n := len e * unit
          inOrder r ends
            (r = (s.moveRange t i e (dst / unit)).finishRange c.id (n / 128) [(e.vbase, e.limit)] (granules (e.pbase * unit) n))
            [(s.moveInFlight t.num e.vbase = true, hazard),
             ((dst < e.pbase * unit + n ∧ e.pbase * unit < dst + n ∧ n ≠ 0) ∨
                ¬ (t.first ≤ homeSlice dst ∧ homeSlice (dst + n - 1) < t.first + t.slices), field),
             (s.ownsRun t.num dst n = false, FaultCode.ownership.num)])
        [(dst % unit ≠ 0 ∨ c.num 16 48 ≠ 0, field), (s.rangeAt t (c.num 0 8) = none, miss)]) ∧
    (∀ d a x, c.instr = .snew d a x → let n := c.num 48 4
      let pool := c.cap0
      let desc := c.cap1
      inOrder r ends
        ((∀ er, s.translate none t.num .store desc.base = .error er → r = ends er.num) ∧
         ∀ da, s.translate none t.num .store desc.base = .ok da → (∃ p, s.translate none t.num .load desc.base = .ok p) →
          (descAreaOk s.mem da = false → r = ends field) ∧
          (descAreaOk s.mem da = true → (∀ er, s.walk t.num pool.base = .error er → r = ends FaultCode.rangePerm.num) ∧
            ∀ e, s.walk t.num pool.base = .ok e →
            inOrder r ends
              (∃ m, s.freeRegion t.num = some m ∧ r.sparse.length = s.sparse.length + 1 ∧
                (s.memOk → s.regions = [] → r.mem.num da 4 = 0xFFFFFFFF ∧ r.mem.num (da + 4) 4 = 0 ∧ r.mem.num (da + 8) 8 = 0 ∧
                  r.mem.num (da + 16) 2 = m % 2 ^ 16 ∧ r.mem.num (da + 40) 8 = e.phys pool.base % 2 ^ 64 ∧ r.mem.num (da + 48) 4 = n ∧
                  r.mem.num (da + 52) 4 = n) ∧
                (∀ x, s.cmd? c.id = some x → ∃ y, r.cmd? c.id = some y ∧ y.count = n ∧ ∃ o, y.outs = [o] ∧ o.addr = c.capBase + 32 ∧
                  o.tag = c.capScratch ∧ o.bytes = (leBytes 16 (Cap.num
                    { base := 0, len := 0, space := 4, perm := (pool.perm &&& 0x33) ||| 1, objid := m, zero := 0 })).map some))
              [(e.part = true ∨ e.perm % 4 ≠ 3 ∨ e.space ≠ 0 ∨ e.limit * unit < pool.base + 128 * n, FaultCode.rangePerm.num),
               (s.freeRegion t.num = none, FaultCode.indexExhausted.num)]))
        [(c.num 32 16 ≠ 0 ∨ c.num 52 12 ≠ 0 ∨ n = 0 ∨ 2 ^ 31 < n ∨ pool.base % 128 ≠ 0 ∨ desc.base % 64 ≠ 0, field),
         (s.supTag l t0 pool = false ∨ s.supTag l t1 desc = false, FaultCode.capTag.num),
         (¬ (∀ y ∈ [pool, desc], y.canR = true ∧ y.canW = true ∧ y.space = 0 ∧ (y.isSup = true → l.sup = true)), FaultCode.capPerm.num),
         (pool.len < 128 * n ∨ desc.len < 64, bounds)]) ∧
    (∀ d a x, c.instr = .sgrow d a x → let n := c.num 16 4
      let k := c.cap0
      inOrder r ends
        (∀ g, s.sparse? (skey t.num k.objid) = some g →
          let y := s.rdesc g
          inOrder r ends
            (r = (s.outsideWrite none (g.desc + 48) ((leBytes 4 n ++ leBytes 4 (n - (g.busy.filter (· < y.nodes)).length)).map some)).finishCmd
              c.id 0 (n - y.nodes))
            [(k.canW = false ∨ (k.isSup = true ∧ l.sup = false), FaultCode.capPerm.num), (n ≤ y.nodes, field),
             (g.poolLimit < y.pool + 128 * n ∨ s.ownsRun t.num y.pool (128 * n) = false, bounds)])
        [(2 ^ 31 < n ∨ c.num 20 44 ≠ 0, field), (s.supTag l t0 k = false, FaultCode.capTag.num), (k.space ≠ 4, FaultCode.capPerm.num),
         (s.sparse? (skey t.num k.objid) = none, FaultCode.capTag.num)]) ∧
    (∀ d a x, c.instr = .bankmode d a x →
      let bank := c.num 2 1
      let mode := bankModeOf (c.num 3 1)
      inOrder r ends
        (∀ k, s.hostOf t.num (c.num 0 2) = some k →
          (k.banks.getD bank .reg = mode → r = ends 0) ∧
          (k.banks.getD bank .reg ≠ mode → (s.bankLive k bank = true → r = ends hazard) ∧
            (s.bankLive k bank = false → r = (s.modCore k.num fun y => { y with
                banks := y.banks.set bank mode,
                cache := if y.banks.getD bank .reg = .cache then [] else y.cache }).finishCmd c.id 0 1)))
        [(191 < c.num 0 2 ∨ 47 < bank ∨ 2 < c.num 3 1 ∨ c.num 4 60 ≠ 0, field), (s.hostOf t.num (c.num 0 2) = none, field)]) ∧
    (let rcb := c.num 0 8
     let region := s.region? (rkey l.tenant rcb)
     let target (passed : Region → Prop) (more : List (Prop × Nat)) : Prop :=
       inOrder r ends (∀ g, region = some g → passed g)
         (more ++ [(region = none ∨ 2 ^ 48 ≤ rcb, field),
          (∃ g, region = some g ∧ (g.rcb = l.rcb ∨ s.inTree l.rcb g.rcb = false), FaultCode.privilege.num)])
     let zeros : List (Prop × Nat) := [(c.num 8 56 ≠ 0, field)]
     (∀ d a x, c.instr = .rgkill d a x → target (fun g => r = ((s.killRegion g.rcb FaultCode.watchdog.num).finishCmd c.id 0
         (s.launchesOf g.rcb).length).modCmd c.id fun y => { y with after := (s.launchesOf g.rcb).filterMap Launch.parent }) zeros) ∧
     (∀ d a x, c.instr = .rgreset d a x → target (fun g =>
         let rs := s.regions.filter fun y => s.inTree g.rcb y.rcb
         (s.launchesOf g.rcb ≠ [] → r = ends hazard) ∧
         (s.launchesOf g.rcb = [] → r = (s.resetRegions rs).finishCmd c.id 0 rs.length)) zeros) ∧
     (∀ d a x, c.instr = .rgresume d a x → target (fun g =>
         let ls := (s.launchesOf g.rcb).filter Launch.stopped
         let v := s.resumeLaunches ls
         let awake := v.regions.map fun (y : Region) => if s.inTree g.rcb y.rcb = true then { y with suspended := false } else y
         r = ({ v with regions := awake } : State).finishCmd c.id 0 ls.length) zeros) ∧
     (∀ d a x, c.instr = .wdarm d a x → target (fun g =>
         let ls := s.launchesOf g.rcb
         let n := (ls.map fun (y : Launch) => (y.blockList.filter fun z => z.status == .bound).length).sum
         let arm (z : Block) : Block := if z.status = .bound then { z with lastCommit := s.clock } else z
         let armed := s.launches.map fun (y : Launch) =>
           if y.id ∈ ls.map Launch.id then { y with blockList := y.blockList.map arm } else y
         r = ({ s with launches := armed } : State).finishCmd c.id 0 n) zeros) ∧
     (∀ d a x, c.instr = .rgpri d a x → target (fun g =>
         (s.eff l.rcb 0 Region.prio < c.num 8 1 → r = ends FaultCode.privilege.num) ∧
         (c.num 8 1 ≤ s.eff l.rcb 0 Region.prio → ∃ v : State, r = v.finishCmd c.id 0 1 ∧
           v.regions = s.regions.map fun (y : Region) => if y.rcb = g.rcb then
             { y with prio := c.num 8 1, inherit := g.inherit / 2 * 2 + c.num 9 1 } else y))
         [(31 < c.num 8 1 ∨ 1 < c.num 9 1 ∨ c.num 10 54 ≠ 0, field)]) ∧
     (∀ d a x, c.instr = .rgbud d a x →
       let mask := c.num 8 1
       let inh := c.num 9 1
       let sel := budFields.filter fun y => mask.testBit y.bit
       target (fun g => ∃ v : State, r = v.finishCmd c.id 0 sel.length ∧
           v.regions = s.regions.map fun (y : Region) => if y.rcb = g.rcb then
             sel.foldl (fun z y => z.setBud y.bit (c.num y.at' y.n)) { g with inherit := (g.inherit - (g.inherit &&& mask)) + inh } else y)
         [(mask.testBit 0 = true ∨ 127 < mask ∨ (inh &&& mask) ≠ inh ∨ c.num 10 6 ≠ 0 ∨ c.num 22 2 ≠ 0 ∨ c.num 32 32 ≠ 0 ∨
             ∃ y ∈ budFields, ¬ (if mask.testBit y.bit = true then y.lo ≤ c.num y.at' y.n ∧ c.num y.at' y.n ≤ y.hi else c.num y.at' y.n = 0),
           field)])) ∧
    (∀ d a x, c.instr = .snap d a x →
      let copies := (List.range 12).flatMap fun g =>
        if s.layout.groups.getD g 15 = s.layout.slices.getD t.first 0 then (List.range 8).map (276 + 8 * g + ·) else []
      let part (sl : Nat) : List Nat := (List.range 18).map (18 * sl + ·) ++ [216 + sl] ++ (List.range 4).map (228 + 4 * sl + ·)
      let home := b.coreOf (((b.fibre? c.fibre).map Fibre.group).getD 0) / 18
      ((1 < c.num 0 1 ∨ c.num 1 1 ≠ 0 ∨ c.num 4 60 ≠ 0) → r = ends field) ∧
      (c.num 1 1 = 0 → c.num 4 60 = 0 → c.num 0 1 ≤ 1 → ∃ units : List Nat,
        r = (s.latchUnits units (c.num 2 2) 0).finishCmd c.id 0 units.length ∧
        ∀ u, u ∈ units ↔ if c.num 0 1 = 1 then u ∈ part home ∨ (u ∈ copies ∧ 276 + 8 * home ≤ u ∧ u < 284 + 8 * home)
          else (∃ i < t.slices, u ∈ part (t.first + i)) ∨ u ∈ copies ∨ (372 ≤ u ∧ u < 396))) ∧
    (∀ d a x, c.instr = .gcfg d a x →
      let first := c.num 0 1
      let n := c.num 1 1
      let op := c.num 2 1
      let flags := c.num 8 1
      let mine (g : Gate) : Prop := g.tenant = l.tenant ∧ g.slice = l.gateslice ∧ l.gatebase + first ≤ g.index ∧
        g.index < l.gatebase + first + n
      inOrder r ends
        (∃ v : State, r = v.finishCmd c.id 0 n ∧ (∀ k g, s.gate? k = some g →
          (¬ mine g → v.gate? k = some g) ∧
          ((s.gates.map Gate.key).Nodup → mine g → v.gate? k = some { g with
            thresh := if op.testBit 0 = true then c.num 4 4 else g.thresh,
            pod := if op.testBit 1 = true then flags.testBit 0 else g.pod,
            host := if op.testBit 1 = true then flags.testBit 1 else g.host,
            remote := if op.testBit 1 = true then flags.testBit 2 else g.remote,
            count := if op.testBit 2 = true then c.num 12 4 else g.count })))
        [(63 < first ∨ n = 0 ∨ 64 < n ∨ l.gates < first + n ∨ 7 < op ∨ 7 < flags ∨ c.num 3 1 ≠ 0 ∨ c.num 9 3 ≠ 0 ∨ c.num 16 48 ≠ 0, field),
         (op.testBit 1 = true ∧ flags.testBit 0 = true ∧ (s.pod = none ∨ 1 < n ∨ ∃ g ∈ s.gates, g.pod = true ∧ ¬ mine g),
           FaultCode.fabric.num)]) ∧
    (∀ d a x, c.instr = .fret d a x →
      let op := c.num 20 1
      let k := capOf (c.num 32 16)
      inOrder r ends
        (∀ g, s.region? (rkey l.tenant (c.num 0 8)) = some g →
          (s.fretTarget g.rcb c = none → r = ends field) ∧
          (∀ tl tb f, s.fretTarget g.rcb c = some (tl, tb, f) →
            ((∀ n, f.status ≠ .parked n) → r = ends hazard) ∧
            (∀ code, f.status = .parked code →
              (op = 0 → ∃ y : Cmd, r = (s.modCmd c.id fun _ => y) ∧ y.count = 1 ∧ { y with phase := c.phase, outs := c.outs, count := c.count } = c ∧
                y.outs.flatMap OutLine.bytes = (f.contextBytes tl.window code).map some) ∧
              (op = 1 → ∀ bs, s.engAll l b k.space k.base 320 = .ok bs →
                (numAt bs 5 1 % 2 = 1 → r = (s.fretResume tl tb f bs).finishCmd c.id 0 1) ∧
                (numAt bs 5 1 % 2 = 0 → (∀ n, s.fretStatus tl f code bs = some n → r = ends n) ∧
                  (s.fretStatus tl f code bs = none → r = (s.fretResume tl tb f bs).finishCmd c.id 0 1))))))
        [(1 < op ∨ c.num 21 11 ≠ 0 ∨ c.num 48 16 ≠ 0 ∨ k.base % 64 ≠ 0, field), (s.supTag l t2 k = false, FaultCode.capTag.num),
         (¬ ((op = 1 → k.canR = true) ∧ (op = 0 → k.canW = true) ∧ (k.space = 0 ∨ k.space = 1) ∧ (k.isSup = true → l.sup = true)),
           FaultCode.capPerm.num),
         (k.len < 320, bounds), (s.region? (rkey l.tenant (c.num 0 8)) = none ∨ 2 ^ 48 ≤ c.num 0 8, field),
         (∃ g, s.region? (rkey l.tenant (c.num 0 8)) = some g ∧ (g.rcb = l.rcb ∨ s.inTree l.rcb g.rcb = false),
           FaultCode.privilege.num)])) ∧
  (∀ (s : State) (l : Launch) (c : Cmd),
    let r := s.dispatchLaunch l c
    let ends (n : Nat) : State := s.finishCmd c.id n 0
    let field := FaultCode.illegalField.num
    inOrder r ends
      (∀ rs, s.newRegions l.tenant 9 c.rRcb = some rs →
        let u := s.addRegions rs
        (∀ n, u.launchStatus l c = some n → r = ends n) ∧
        (u.launchStatus l c = none →
          (∀ j, s.jobOf l.tenant c = some j → c.rRegs < 24 → r = ends field) ∧
          ((s.jobOf l.tenant c = none ∨ 24 ≤ c.rRegs) → (∀ x ∈ s.launches, x.id ≠ s.nextLaunch) → ∃ x : Launch,
            r.launch? s.nextLaunch = some x ∧ r.nextLaunch = s.nextLaunch + 1 ∧ r.launches.length = s.launches.length + 1 ∧
            x.tenant = l.tenant ∧ x.rcb = rkey l.tenant c.rRcb ∧ x.round = 0 ∧ x.window = c.rRegs ∧ x.parent = some c.id ∧
            x.codebase = c.rCodebase ∧ x.codelen = c.rCodelen ∧ x.sup = c.rFlags.testBit 1 ∧ x.blockList.length = c.rBlocks ∧
            (∀ b ∈ x.blockList, b.status = .waiting ∧ b.step = 0 ∧ b.fibres.length = c.rFibres ∧ b.spawnLeft = c.rSpawns ∧
              ∀ f ∈ b.fibres, f.status = .running ∧ f.pc = c.rEntry ∧ f.regs.length = c.rRegs ∧
                (s.jobOf l.tenant c = none → ∀ i < 16, f.reg i = (startRegs c.rRegs c.rScratch c.rConstbase c.rDatabase c.rDatalen
                  c.rSparse).getD i 0)) ∧
            r.gates = s.gates ++ (List.range c.rGates).map (fun i =>
              ({ tenant := l.tenant, slice := c.rGateslice, index := c.rGatebase + i,
                 count := 0, thresh := 1, pod := false, host := false, remote := false, launch := s.nextLaunch } : Gate)) ∧
            ∀ y, s.cmd? c.id = some y → r.cmd? c.id = some { c with phase := .staged, child := some s.nextLaunch })))
      [(c.recordOk = false, field), (c.rFlags.testBit 1 = true ∧ l.sup = false, FaultCode.privilege.num),
       (s.newRegions l.tenant 9 c.rRcb = none ∨
          ∃ rs, s.newRegions l.tenant 9 c.rRcb = some rs ∧ (s.freshIds l.tenant rs = false ∨ s.levelsOk rs = false), field),
       (s.regionBelow l c.rRcb = false, FaultCode.privilege.num)])





/-! ## Operands, numbers and contributions -/

/-- R85, R86, R119, R29: what a source register reads, by its permutation code: the fibre's own newest value, or the step-start
value of the partner's register, 0 for a lane that does not exist or that exited in an earlier step. Both registers of a
pair are permuted alike, and the third source never is. -/
def Obligations.SourceOperands : Prop :=
  ∀ (e : Env) (f : Fibre) (code : BitVec 5) (n : Nat),
    let m := e.is.mods
    let i := f.lane
    (e.src f 0 n = f.reg n) ∧
    (∀ lane, (code.toNat ∈ [1, 2, 3, 4, 5, 6] → lane = i ^^^ 2 ^ (code.toNat - 1)) →
      (7 ≤ code.toNat → code.toNat ≤ 13 → lane = (i &&& 56) + ((i + (code.toNat - 6)) &&& 7)) →
      (code.toNat = 14 → lane = (i &&& 56) + (7 - (i &&& 7))) → (code.toNat = 15 → lane = 63 - i) →
      (code.toNat = 16 → lane = m.c.toNat) → code ≠ 0 → code.toNat ≤ 16 → i < 64 → e.src f code n = e.laneReg f.group lane n) ∧
    (∀ group lane,
      (e.b.atLane? group lane = none → e.laneReg group lane n = 0) ∧
      ∀ g, e.b.atLane? group lane = some g →
        (∀ k, g.status = .exited k → k < e.b.step → e.laneReg group lane n = 0) ∧
        ((∀ k, g.status = .exited k → e.b.step ≤ k) → e.laneReg group lane n = g.startReg n)) ∧
    (∀ a b d : BitVec 6,
      e.srcA f a = e.src f m.pa a.toNat ∧ e.srcB f b = e.src f m.pb b.toNat ∧
      e.pairA f a = e.src f m.pa (a.toNat + 1) ++ e.src f m.pa a.toNat ∧
      e.pairB f b = e.src f m.pb (b.toNat + 1) ++ e.src f m.pb b.toNat ∧
      e.srcT f d = f.reg (if m.kind = 2 then m.c.toNat else d.toNat))

/-- R154 to R158: the exact value ± m × 2^e is rounded to a multiple of the last significand bit's weight, or overflows. -/
def Obligations.RoundingRule : Prop :=
  ∀ f ∈ [f16, bf16, f32, f64], ∀ (mode : RMode) (neg : Bool) (m : Nat) (e : Int), 0 < m →
    let x : ℚ := (m : ℚ) * (2 : ℚ) ^ e
    let e0 : Int := max (Int.log 2 x) f.emin
    let q : ℚ := (2 : ℚ) ^ (e0 - f.fbits)
    let n := chooseInt mode neg (x / q)
    let big : ℚ := (2 - (2 : ℚ) ^ (-(f.fbits : Int))) * (2 : ℚ) ^ f.bias
    let r := f.read (f.round mode neg m e)
    (big < n * q → f.round mode neg m e = f.overflow mode neg) ∧
    ((n : ℚ) * q ≤ big → f.round mode neg m e < 2 ^ f.width ∧ (n = 0 → r = .zero neg) ∧
      (n ≠ 0 → ∃ a g, r = .fin a g ∧ r.toRat = (if neg = true then -1 else 1) * (n * q)))

/-- R158: what overflow delivers under each mode. -/
def Obligations.OverflowTable : Prop :=
  ∀ f ∈ [f16, bf16, f32, f64],
    f.read (f.overflow .rne false) = .inf false ∧ f.read (f.overflow .rne true) = .inf true ∧
    f.read (f.overflow .rup false) = .inf false ∧ f.read (f.overflow .rdn true) = .inf true ∧
    (∀ mode neg, (mode = .rtz ∨ mode = .rto ∨ (mode = .rup ∧ neg = true) ∨ (mode = .rdn ∧ neg = false)) →
      ∃ a g, f.read (f.overflow mode neg) = .fin a g ∧
        (f.read (f.overflow mode neg)).toRat =
          (if neg = true then -1 else 1) * ((2 - (2 : ℚ) ^ (-(f.fbits : Int))) * (2 : ℚ) ^ f.bias))

/-- R181: `fmin` and `fmax` return the canonical NaN when either operand is one, and otherwise the smaller or larger operand with
its bits, −0 below +0. -/
def Obligations.FloatMinMax : Prop :=
  ∀ (s : State) (e : Env) (d a b : BitVec 6), s.env? = some e →
    (e.ready (.fmin d a b) = true → ∃ t, exec (.fmin d a b) s = .next t ∧ e.acts s t fun v c g =>
      ∃ r, minMax f32 False (e.srcA v a).toNat (e.srcB v b).toNat r ∧ c.wrote g [(d.toNat, BitVec.ofNat 32 r)]) ∧
    (e.ready (.fmax d a b) = true → ∃ t, exec (.fmax d a b) s = .next t ∧ e.acts s t fun v c g =>
      ∃ r, minMax f32 True (e.srcA v a).toNat (e.srcB v b).toNat r ∧ c.wrote g [(d.toNat, BitVec.ofNat 32 r)])

/-- R183: the float conditions are numerical, with both zeros equal, infinities at the ends, and NaNs unordered. -/
def Obligations.FloatCompare : Prop :=
  ∀ (x y : FVal), let un := x = .nan ∨ y = .nan
    let less (u v : FVal) : Prop := ¬ (u = .nan ∨ v = .nan) ∧
      ((u = .inf true ∧ v ≠ .inf true) ∨ (v = .inf false ∧ u ≠ .inf false) ∨
        ((∀ b, u ≠ .inf b) ∧ (∀ b, v ≠ .inf b) ∧ u.toRat < v.toRat))
    (fcond x y 0 = true ↔ ¬ un ∧ ¬ less x y ∧ ¬ less y x) ∧ (fcond x y 1 = true ↔ un ∨ less x y ∨ less y x) ∧
    (fcond x y 2 = true ↔ less x y) ∧ (fcond x y 3 = true ↔ ¬ un ∧ ¬ less y x) ∧ (fcond x y 4 = true ↔ less y x) ∧
    (fcond x y 5 = true ↔ ¬ un ∧ ¬ less x y) ∧ (fcond x y 6 = true ↔ ¬ un) ∧ (fcond x y 7 = true ↔ un)

/-- R51: float `.max` and `.min` over the contributions to an element. -/
def Obligations.FloatExtremes : Prop :=
  ∀ (size start : Nat) (vals : List Nat), size ∈ [2, 4, 8] → vals ≠ [] → (∀ v ∈ vals, v < 2 ^ (8 * size)) →
    let f := if size = 2 then f16 else if size = 4 then f32 else f64
    let top := arithValue 4 size true start vals
    let low := arithValue 5 size true start vals
    ((∃ v ∈ vals, f.isNan v = true) → top = f.nan ∧ low = f.nan) ∧
    ((∀ v ∈ vals, f.isNan v = false) →
      (top ∈ vals ∧ ∀ v ∈ vals, ¬ (f.read top).below (f.read v)) ∧
      (low ∈ vals ∧ ∀ v ∈ vals, ¬ (f.read v).below (f.read low)))

/-- R165 with R154 to R158: division, square root, reciprocal and reciprocal square root give the value nearest to the exact result, ties
to even, and so does division and square root of FP64; the special cases of all eight functions of FP32 and the two of FP64, with the
powers of two that 2^x and log2 x give exactly. -/
def Obligations.CorrectRounding : Prop :=
  let neg (x : FVal) : Bool := decide (x.toRat < 0)
  (∀ f ∈ [f32, f64], ∀ a b : Nat,
    let x := f.read a
    let y := f.read b
    (∀ m e n g, x = .fin m e → y = .fin n g → f.nearest (neg x != neg y) |(x.toRat / y.toRat : ℚ)| (f.div a b)) ∧
    (∀ m e, x = .fin m e → 0 < m → f.nearest false (Real.sqrt (x.toRat : ℝ)) (f.sqrt a)) ∧
    (x = .nan ∨ y = .nan → f.div a b = f.nan) ∧ (x = .nan → f.sqrt a = f.nan) ∧
    (∀ m e t, x = .fin m e → y = .zero t → f.read (f.div a b) = .inf (neg x != t)) ∧
    (∀ s t, x = .zero s → y = .zero t → f.div a b = f.nan) ∧ (∀ s t, x = .inf s → y = .inf t → f.div a b = f.nan) ∧
    (∀ m e t, x = .fin m e → y = .inf t → f.read (f.div a b) = .zero (neg x != t)) ∧
    (∀ s t, x = .zero s → y = .inf t → f.read (f.div a b) = .zero (s != t)) ∧
    (∀ s n g, x = .zero s → y = .fin n g → f.read (f.div a b) = .zero (s != neg y)) ∧
    (∀ s, x = .zero s → f.read (f.sqrt a) = .zero s) ∧ (neg x = true ∨ x = .inf true → f.sqrt a = f.nan) ∧
    (x = .inf false → f.read (f.sqrt a) = .inf false)) ∧
  ∀ a : Nat,
    let x := f32.read a
    (∀ m e, x = .fin m e → f32.nearest (neg x) |((x.toRat)⁻¹ : ℚ)| (f32.rcp a)) ∧
    (∀ m e, x = .fin m e → 0 < m → f32.nearest false (Real.sqrt (x.toRat : ℝ))⁻¹ (f32.rsq a)) ∧
    (x = .nan → f32.rcp a = f32.nan ∧ f32.rsq a = f32.nan ∧ exp2Bits a = f32.nan ∧ log2Bits a = f32.nan ∧
      sinPiBits a = f32.nan ∧ cosPiBits a = f32.nan) ∧
    (∀ s, x = .zero s → f32.read (f32.rcp a) = .inf s ∧ f32.read (f32.rsq a) = .inf s ∧ exp2Bits a = 0x3F800000 ∧
      f32.read (log2Bits a) = .inf true ∧ f32.read (sinPiBits a) = .zero s ∧ cosPiBits a = 0x3F800000) ∧
    (∀ s, x = .inf s → f32.read (f32.rcp a) = .zero s ∧ sinPiBits a = f32.nan ∧ cosPiBits a = f32.nan) ∧
    (x = .inf false → f32.read (f32.rsq a) = .zero false ∧ f32.read (exp2Bits a) = .inf false ∧ f32.read (log2Bits a) = .inf false) ∧
    (x = .inf true → f32.rsq a = f32.nan ∧ f32.read (exp2Bits a) = .zero false ∧ log2Bits a = f32.nan) ∧
    (neg x = true → f32.rsq a = f32.nan ∧ log2Bits a = f32.nan) ∧
    (∀ (m e k : Int), x = .fin m e → x.toRat = k →
      (-149 ≤ k → k ≤ 127 → (f32.read (exp2Bits a)).toRat = (2 : ℚ) ^ k) ∧
      f32.read (sinPiBits a) = .zero (neg x)) ∧
    (∀ (m e k : Int), x = .fin m e → x.toRat = (2 : ℚ) ^ k →
      (f32.read (log2Bits a)).toRat = k ∧ (k = 0 → f32.read (log2Bits a) = .zero false)) ∧
    (∀ (m e k : Int), x = .fin m e → x.toRat = k + 1 / 2 → f32.read (cosPiBits a) = .zero false)


/-- R45, R46, R48, R50, R53: what a nibble holds after the contributions `cs` of one scope, in key order, have combined; `first` is
the value with which an element's accumulator was opened. One that none touches, and one that a collision takes, keeps its start
value; under a byte rule it takes the last value that one of its writers gave it, of the lowest-keyed one under `.low` and `.fault`,
and under `.any` with DET; an arithmetic element holds the combination of every value, with the opening value under `.acc` alone.
Integer sums are modulo the element's size. R54: a `fadr` receives its element's opening value combined with the values of lower keys. -/
def Obligations.ContributionsCombine : Prop :=
  (∀ (det : Bool) (k : Nat) (start : Nat → Byte) (first : Contrib → Nat) (cs : List Contrib) (a : Nat),
    cs.Pairwise (fun x y => y.key.lt x.key = false) →
    let after (h : Nat) : Nat := (newByte det k start first cs a).toNat / 16 ^ h % 16
    ∀ h < 2, let u := 2 * a + h
      (deadNibble cs u = true → after h = (start a).toNat / 16 ^ h % 16) ∧
      (deadNibble cs u = false →
        ((∀ c ∈ cs, c.touches u = false) → after h = (start a).toNat / 16 ^ h % 16) ∧
        (∀ c ∈ cs, c.touches u = true → c.arith = false → ∃ w ∈ cs, w.touches u = true ∧ after h = w.nibbleAt u ∧
          (∀ x ∈ cs, x.touches u = true → x.key.owner = w.key.owner → w.key.lt x.key = false) ∧
          (c.rule ≠ 1 ∨ det = true → ∀ x ∈ cs, x.touches u = true → x.key.owner ≠ w.key.owner → w.key.lt x.key = true)) ∧
        (∀ c ∈ cs, c.touches u = true → c.arith = true →
          ∃ o ∈ cs, o.touches u = true ∧ o.base = c.base ∧ o.size = c.size ∧ after h =
            arithValue c.rule c.size c.flt (first o)
              ((cs.filter fun x => x.arith && x.base == c.base && x.size == c.size).map Contrib.value)
                / 16 ^ (u - 2 * c.base) % 16))) ∧
  (∀ (size start : Nat) (v : Nat) (vs : List Nat),
    arithValue 2 size false start (v :: vs) = (v :: vs).sum % 2 ^ (8 * size) ∧
    arithValue 3 size false start (v :: vs) = (start + (v :: vs).sum) % 2 ^ (8 * size) ∧
    (∃ x ∈ v :: vs, arithValue 4 size false start (v :: vs) = x ∧ ∀ y ∈ v :: vs, signedElem size y ≤ signedElem size x) ∧
    (∃ x ∈ v :: vs, arithValue 5 size false start (v :: vs) = x ∧ ∀ y ∈ v :: vs, signedElem size x ≤ signedElem size y)) ∧
  (∀ (start : Nat → Byte) (first : Contrib → Nat) (cs : List Contrib) (c : Contrib),
    (deadNibble cs (2 * c.base) = false → fadrResult start first cs c = arithValue 3 c.size c.flt (first c)
      ((cs.filter fun x => x.arith && x.base == c.base && x.size == c.size && x.key.lt c.key).map Contrib.value)) ∧
    (deadNibble cs (2 * c.base) = true → fadrResult start first cs c = startNum start c.base c.size))

/-! ## Commits and landings -/

/-- STEP_COMMIT (R21 to R23, R30, R34 to R36, R45, R47, R53, R54, R61, R132, R233, R322): nothing happens before every live fibre has
ended the step with its results. A collision ends the block by the block path. A step whose round-log entries find no room waits, and
the firmware records that once. Otherwise, with no command and nothing held from engines, no store in a protected range and no entry
in error: scratch with its tags and the block registers combine, a `fadr` on scratch receives its result, the round's contributions go
to the round log with the values their elements hold now, write-only stores reach memory, and no other byte of it changes, gate
amounts are added, spawns are granted in order while the budget lasts, each with its request's registers, tags and lane, journals are
cleared, and the fibres at `stop` go on (model's choices: logs 2, 18, 42 and 62). What the launch spills is checked last (R298). -/
def Obligations.StepCommits : Prop :=
  (∀ (s : State) (l b : Nat) (ln : Launch) (bl : Block), s.launch? l = some ln → ln.block? b = some bl →
    (ln.stepReady bl = false ∨ s.clock < bl.endedAt → exec (.stepCommit l b) s = .next s) ∧
    (ln.ended = false → ln.suspended = false → bl.status ≠ .terminated → (∀ f ∈ bl.fibres, f.ended = true) →
      (∃ f ∈ bl.fibres, f.endsNow bl.step = true) → bl.endedAt ≤ s.clock →
      (∀ c, bl.stepCollision = some c → exec (.stepCommit l b) s =
        .next ((s.blockPath l b c.lo.key.fibre .collision (c.info false).1 (c.info false).2).releaseDone l b)) ∧
      (bl.stepCollision = none → s.stepRoomFor ln bl = none →
        ((∃ k, LogEntry.spillFull l k ∈ s.snapLog) → exec (.stepCommit l b) s = .next s) ∧
        ((∀ k, LogEntry.spillFull l k ∉ s.snapLog) → exec (.stepCommit l b) s =
          .next { s with snapLog := s.snapLog ++ [LogEntry.spillFull l (bl.core / 18)] })) ∧
      (bl.stepCollision = none → s.stepRoomFor ln bl = some [] → bl.reqs = [] → bl.heldLines = [] → bl.heldScat = [] →
        bl.bufPoison = [] → (∀ c ∈ bl.contribs, s.inHazard l b c = false) → Memory.wf bl.scratch = true →
        (∀ c ∈ bl.contribs, ∀ k, c.nib = some k → k < 2 ∧ 1 ≤ c.size) →
        let sc := sortKeys (bl.contribs.filter fun c => c.space == .scratch)
        let br := sortKeys (bl.contribs.filter fun c => c.space == .breg)
        let wo := sortKeys (bl.contribs.filter fun c => c.space == .global && c.wo)
        let oldS (a : Nat) : Byte := Memory.get bl.scratch a
        let firstS (c : Contrib) : Nat := startNum oldS c.base c.size
        let oldB (a : Nat) : Byte := BitVec.ofNat 8 ((bl.bregs.getD (a / 4) 0).toNat / 256 ^ (a % 4))
        let granted := min bl.spawns.length bl.spawnLeft
        ∃ (t : State) (ln' : Launch) (bl' : Block), exec (.stepCommit l b) s = .next (t.checkSpill l) ∧ t.launch? l = some ln' ∧ ln'.block? b = some bl' ∧
          bl'.step = bl.step + 1 ∧ bl'.contribs = [] ∧ bl'.gadds = [] ∧ bl'.spawns = [] ∧ bl'.ltols = [] ∧ bl'.named = [] ∧
          (∀ a, Memory.get bl'.scratch a = newByte ln.det s.free oldS firstS sc a) ∧
          (∀ a, a ∈ bl'.scratchTags ↔
            (∃ c ∈ sc, c.tag = true ∧ c.size = 16 ∧ c.base = a ∧ c.arith = false ∧
              ∀ i < 32, winner ln.det s.free sc (2 * a + i) = some c) ∨
            (a ∈ bl.scratchTags ∧ ∀ c ∈ sc, ∀ i < c.size, ¬ (a ≤ c.base + i ∧ c.base + i < a + 16))) ∧
          (∀ n < bl.bregs.length, bl'.bregs.getD n 0 = BitVec.ofNat 32 (ofLe ((List.range 4).map fun i =>
            newByte ln.det (s.free + anySpan) oldB (fun c => startNum oldB c.base c.size) br (4 * n + i)))) ∧
          ln'.roundLog = ln.roundLog ++ (bl.contribs.filter Contrib.toRound).map (fun c =>
            { c with opened := if c.space = .global then ofLe ((List.range c.size).map fun i => ln.roundByte s.mem (c.phys + i))
                       else c.opened,
                     issued := s.clock }) ∧
          ln'.named = ln.named ++ bl.named.map Prod.fst ∧
          (s.memOk → (∀ pa, (∀ c ∈ wo, ∀ i < c.size, physOf wo (c.base + i) ≠ pa) → t.mem.get pa = s.mem.get pa) ∧
            (s.regions = [] ∨ (∀ c ∈ wo, ∀ i < c.size, ∀ x ∈ wo, ∀ j < x.size,
                physOf wo (c.base + i) / 128 = physOf wo (x.base + j) / 128) →
              ∀ c ∈ wo, ∀ i < c.size, c.base + i ∉ ln.woBytes → s.fwByte (physOf wo (c.base + i)) = false →
                (∀ x ∈ wo, x ≠ c → x.meets (c.base + i) c = false) →
                (∀ x ∈ wo, ∀ j < x.size, physOf wo (x.base + j) = physOf wo (c.base + i) → x.base + j = c.base + i) →
                ∀ h < 2, c.touches (2 * (c.base + i) + h) = true →
                  (t.mem.get (physOf wo (c.base + i))).toNat / 16 ^ h % 16 = c.nibbleAt (2 * (c.base + i) + h))) ∧
          (∀ n g, s.gate? (ln.tenant, ln.gateslice, ln.gatebase + n) = some g → g.pod = false → g.count ≤ 0xFFFFFFFF →
            (t.gate? (ln.tenant, ln.gateslice, ln.gatebase + n)).map Gate.count =
              some (min (g.count + ((bl.gadds.filter fun x => x.1 == n).map fun x => x.2.1).sum) 0xFFFFFFFF)) ∧
          bl'.fibres.length = bl.fibres.length + granted ∧ bl'.spawnLeft = bl.spawnLeft - granted ∧
          (∀ i < granted, ∃ (q : SpawnReq) (g : Fibre), (sortSpawns bl.spawns)[i]? = some q ∧ bl'.fibres[bl.fibres.length + i]? = some g ∧
            g.id = bl.fibres.length + i ∧ g.pc = q.target ∧ g.status = .running ∧
            g.regs = (q.regs ++ List.replicate 56 0).take ln.window ∧ (∀ p, g.pred p = (p == 0)) ∧
            (∀ r, g.tag r = ((r == 0 && q.tag0) || (r == 1 && q.tag1))) ∧ bl.groups.length ≤ g.group ∧
            g.lane = (((sortSpawns bl.spawns).take i).filter fun x => x.group == q.group && x.exec == q.exec).length ∧
            ∀ j < granted, ∀ q' g', (sortSpawns bl.spawns)[j]? = some q' → bl'.fibres[bl.fibres.length + j]? = some g' →
              (g'.group = g.group ↔ q'.group = q.group ∧ q'.exec = q.exec)) ∧
          ∀ (k : Nat) (f : Fibre), bl.fibres[k]? = some f → ∃ g : Fibre, bl'.fibres[k]? = some g ∧ g.id = f.id ∧ g.pc = f.pc ∧
            g.journal = [] ∧ g.jpreds = none ∧ g.trapSaved = none ∧
            g.status = (if f.status = .atStop then .running else f.status) ∧
            (f.fadrs.all PendFadr.round = true → g.regs = f.regs ∧ g.startTags = f.tags) ∧
            (f.spawnPending = false → g.preds = f.preds) ∧
            ∀ p c, f.fadrs = [p] → p.round = false → p.reg + 1 < f.regs.length →
              sc.find? (fun x => x.dest.isSome && x.key.fibre == f.id && x.key.seq == p.seq) = some c →
              g.reg p.reg = BitVec.ofNat 32 (fadrResult oldS firstS sc c) ∧
              (p.wide = true → g.reg (p.reg + 1) = BitVec.ofNat 32 (fadrResult oldS firstS sc c / 2 ^ 32))))) ∧
  (∀ (s : State) (l : Nat) (ln : Launch), s.launch? l = some ln →
    (ln.ended = true ∨ s.spillForeign ln = none → s.checkSpill l = s) ∧
    (∀ pa, ln.ended = false → s.spillForeign ln = some pa → s.checkSpill l = s.machinePath ln none none pa))


/-- ROUND_COMMIT (R25 to R28, R37, R45, R54, R56, R59) of a round with contributions to global memory alone, without a collision, an
entry in error or a record that waits: the commit fixes, for every byte that a contribution touches, the combined value at its
physical address, and no other byte is to change, and the result of every `fadr`. One line of them lands at a time, at most one in a
cycle and in any order, and before the last one has landed the round goes on for nobody. With the last one, or at once where no byte
is to land, each named gate is consumed once, the round counter rises and the fibres at `rstop` go on; the final round waits for the
launch's commands. R278, R281, R288: the changes of a sparse region are applied in the commit as one change: the rebuilt tree's new
nodes and its descriptor, with the published root, the publication count and the entries, are written, and the nodes that the tree
has left are retired; with too few free nodes nothing of the region changes, its changes are held, and the launch records how many
it needs and has. HELD_COMMIT_RETRY (R281) applies the held changes of the regions that an `sgrow` has grown again. No line of a
suspended launch lands and none of its commits is retried (R344) (model's choices: logs 2, 42, 60 and 78). -/
def Obligations.RoundCommits : Prop :=
  (∀ (s : State) (l : Nat) (ln : Launch), s.launch? l = some ln →
    (s.roundReady ln = false → (∀ r h, ln.hold ≠ .landing r h) → exec (.roundCommit l) s = .next s) ∧
    (ln.ended = false → ln.suspended = false → ln.hold = .none → (∀ b ∈ ln.blockList, b.roundReady = true) →
      (∀ n ∈ ln.named, ∀ g, s.gate? (ln.gateIndex n) = some g → g.thresh ≤ g.count) →
      (ln.allExited = true → ∀ c ∈ s.cmds, c.launch ≠ l) → ln.logPoison = [] → ln.sparsePoison = [] → ln.notes = [] →
      let cs := sortKeys ln.roundLog
      ((∀ c ∈ ln.roundLog, c.space = .global) → collisions cs = [] → ln.woSecond = [] → (∀ r ∈ s.sparse, l ∉ r.holders) →
        let old (a : Nat) : Byte := s.mem.get (physOf cs a)
        ∃ (t : State) (ln' : Launch), exec (.roundCommit l) s = .next t ∧ t.launch? l = some ln' ∧ t.mem = s.mem ∧ ln'.roundLog = [] ∧
          (touchedBytes cs = [] → s.roundEnds t l ln) ∧
          (touchedBytes cs ≠ [] → ln'.round = ln.round ∧ ln'.hold = .landing none false ∧ ln'.landAt = s.clock ∧
            (∀ va ∈ touchedBytes cs, (∀ w ∈ touchedBytes cs, physOf cs w = physOf cs va → w = va) →
              ∃ m, (physOf cs va / 128, m) ∈ ln'.landing ∧ m.getD (physOf cs va % 128) none =
                some (newByte ln.det s.free old (openedIn ln.roundLog) cs va)) ∧
            (∀ x ∈ ln'.landing, ∀ i < 128, x.2.getD i none ≠ none → ∃ va ∈ touchedBytes cs, physOf cs va = 128 * x.1 + i) ∧
            ∀ (i : Nat) (bl : Block), ln.blockList[i]? = some bl → ∃ bl' : Block, ln'.blockList[i]? = some bl' ∧
              ∀ (k : Nat) (f : Fibre), bl.fibres[k]? = some f → ∃ g : Fibre, bl'.fibres[k]? = some g ∧ g.regs = f.regs ∧
                g.fadrs = f.fadrs.map fun p =>
                  if p.round = true ∧ p.got = none then
                    { p with got := (cs.find? fun c => c.dest.isSome && c.key.remote == 0 && c.key.block == bl.index &&
                        c.key.fibre == f.id && c.key.seq == p.seq).map (fadrResult old (openedIn ln.roundLog) cs) }
                  else p)) ∧
      (∀ num, ln.roundLog ≠ [] → (∀ c ∈ ln.roundLog, c.space = .sparse num) → collisions cs = [] → ln.woSecond = [] →
        let s0 := s.returnAll l (s.sparse.map Sparse.num)
        let none0 (f : Fibre) : Fibre := f.fixFadrs fun _ => none
        let v : State := { s0.modLaunch l (fun x =>
          { x with landing := [], landAt := s.clock, roundLog := [],
                   blockList := x.blockList.map fun b => { b with fibres := b.fibres.map none0 } }) with free := s0.free + anyRoom }
        (∀ u, v.applySparse ln.det num cs = .done u →
          ∃ t : State, exec (.roundCommit l) s = .next t ∧ t.mem = u.mem ∧ s.roundEnds t l ln) ∧
        (∀ need free, v.applySparse ln.det num cs = .short need free →
          ∃ (w : State) (ln' : Launch), exec (.roundCommit l) s = .next (w.writeNotes l) ∧ w.launch? l = some ln' ∧ w.mem = v.mem ∧
            ln'.hold = .pool num false ∧ ln'.heldLog = cs ∧ ln'.round = ln.round ∧
            ln'.notes = [{ code := .indexExhausted, info0 := need, info1 := free }]))) ∧
    (∀ region held, ln.hold = .landing region held → ln.ended = false →
      (s.clock ≤ ln.landAt ∨ ln.suspended = true → exec (.roundCommit l) s = .next s) ∧
      (ln.landAt < s.clock → ln.suspended = false → ln.landing ≠ [] → ∃ (t : State) (ln' : Launch) (i n : Nat) (m : List (Option Byte)), exec (.roundCommit l) s = .next t ∧
        ln.landing[i]? = some (n, m) ∧
        (ln.landing.length ≠ 1 ∨ ln.notes = [] → t.launch? l = some ln' ∧ t.mem = (s.outsideWrite (some l) (128 * n) m).mem) ∧
        (ln.landing.length ≠ 1 → ln'.hold = ln.hold ∧ ln'.round = ln.round ∧ ln'.landing = ln.landing.eraseIdx i ∧
          ln'.landAt = s.clock ∧ ln'.blockList = ln.blockList ∧ t.gates = s.gates) ∧
        (ln.landing.length = 1 → ln.notes = [] → ln'.landing = [] ∧
          (region = none → held = false → s.roundEnds t l ln) ∧
          (region = none → held = true → ln'.hold = .boundary ∧ ln'.round = ln.round) ∧
          (∀ r, region = some r → ln'.hold = .pool r held)))) ∧
    (∀ region also, ln.hold = .pool region also → ln.ended = false →
      (ln.suspended = false → ln.retries ≠ [] → exec (.heldCommitRetry l) s = .next (s.retryHeld ln ln.retries also).1) ∧
      (ln.suspended = true ∨ ln.retries = [] → exec (.heldCommitRetry l) s = .next s)) ∧
    ((∀ region also, ln.hold ≠ .pool region also) → exec (.heldCommitRetry l) s = .next s)) ∧
  (∀ (s : State) (det : Bool) (num : Nat) (cs : List Contrib) (sp : Sparse) (starts : List (Nat × Nat)),
    s.sparse? num = some sp →
    let d := s.rdesc sp
    s.startValues d (cs.foldl (fun m c => insertNat c.addr m) []) = .ok starts →
    let ch := changedKeys det (s.free + anySpan * num) d.typ starts cs
    let free := d.nodes - (sp.busy.filter (· < d.nodes)).length
    (ch = [] → s.applySparse det num cs = .done s) ∧
    (∀ tr, ch ≠ [] → s.rebuild d sp.busy ch = .ok tr →
      (free < tr.nodes.length → s.applySparse det num cs = .short tr.nodes.length free) ∧
      (tr.nodes.length ≤ free → s.owner sp.desc = sp.tenant → (∀ x ∈ tr.nodes, s.owner (d.pool + 128 * x.1) = sp.tenant) →
        let head := leBytes 4 tr.root ++ leBytes 4 (d.pub + 1) ++ leBytes 8 tr.entries
        let u := (s.writeNodes d.pool tr.nodes).outsideWrite none sp.desc (head.map some)
        ∃ (t : State) (sp' : Sparse), s.applySparse det num cs = .done t ∧ t.sparse? num = some sp' ∧ sp'.used = tr.used ∧
          sp'.retired = sp.retired ++ (sp.used.filter (fun n => !tr.used.contains n)).map (fun n => (n, [])) ∧
          t.mem = ((u.modSparse num fun _ => sp').writeFree num).mem)))


/-- LAUNCH_END (R28, R344, R345, R367): once the final commit has landed, and while the region path has not suspended the launch, the
token is written with the first fault's code, or 0 and the block count, and everything the launch held is released; a launch of a
killed region ends as soon as its commands stand at resumable points. TOKEN_LANDING (R238, R244, R260, R300, R345): once nothing that
the command's ranges had on its way is left, and no token that lands first is, the token word lands in each receiving fibre, whose
step-start values stay, and the gate operand's arrival follows. LOAD_DATA_RETURN (R201): a fibre's first load whose time has come
lands; in a state whose launches, blocks and fibres are told apart by their numbers, nothing happens where none is due (model's
choices: logs 8 and 42). -/
def Obligations.Landings : Prop :=
  (∀ (s : State) (l : Nat) (ln : Launch), s.launch? l = some ln →
    (∀ code, ln.dying = some code →
      (ln.ended = false → s.cmdsRest ln = true → exec (.launchEnd l) s = .next (s.killLaunch code ln)) ∧
      (ln.ended = true ∨ s.cmdsRest ln = false → exec (.launchEnd l) s = .next s)) ∧
    (ln.dying = none → ln.hold ≠ .final ∨ ln.ended = true ∨ ln.suspended = true → exec (.launchEnd l) s = .next s) ∧
    (ln.dying = none → ln.hold = .final → ln.ended = false → ln.suspended = false →
      ∃ (t : State) (ln' : Launch), exec (.launchEnd l) s = .next t ∧ t.launch? l = some ln' ∧ ln'.ended = true ∧ ln'.blockList = [] ∧
      ln'.leases = [] ∧ ln'.roundLog = [] ∧ t.gates = s.gates.filter (fun g => g.launch != l) ∧
      t.exports = s.exports.filter (fun e => e.launch != l) ∧ t.mem = s.mem ∧
      (∀ k ∈ t.cores, ∀ x ∈ k.contexts, x.launch ≠ l) ∧
      ∀ c q, ln.parent = some c → s.cmd? c = some q →
        let n := if ln.firstFault = none then ln.nblocks else 0
        t.cmd? c = some { q with phase := .finished, outs := [], status := ln.firstFault.getD 0, count := n })) ∧
  (∀ (s : State) (cmd : Nat) (c : Cmd), s.cmd? cmd = some c →
    let ready : Prop := c.phase = .finished ∧ s.undrained c = false ∧ ∀ x ∈ s.cmds, x.id ∉ c.after
    (¬ ready → exec (.tokenLanding cmd) s = .next s) ∧
    (ready →
    let w : Word := BitVec.ofNat 32 (c.status % 256 + 256 * min c.count 0xFFFFFF)
    ∃ t : State, exec (.tokenLanding cmd) s = .next t ∧ (∀ q ∈ t.cmds, q.id ≠ cmd) ∧ t.mem = s.mem ∧
      (∀ ln bl, s.launch? c.launch = some ln → ln.block? c.block = some bl → ∃ (ln' : Launch) (bl' : Block),
        t.launch? c.launch = some ln' ∧ ln'.block? c.block = some bl' ∧
        ∀ (k : Nat) (f : Fibre), bl.fibres[k]? = some f → ∃ g : Fibre, bl'.fibres[k]? = some g ∧
          (c.discard = true ∨ c.dests.contains f.id = false ∨ f.tokens.find? (fun x => x.cmd == cmd) = none → g = f) ∧
          ∀ x, c.discard = false → c.dests.contains f.id = true → f.tokens.find? (fun x => x.cmd == cmd) = some x →
            x.reg < f.regs.length → (∀ n, g.reg n = if n = x.reg then w else f.reg n) ∧
              (∀ n, g.startReg n = f.startReg n) ∧ g.tokens = f.tokens.filter fun y => y.cmd != cmd) ∧
      (∀ n ln g, c.gate = some n → s.launch? c.launch = some ln → s.gate? (ln.gateIndex n) = some g → g.pod = false →
        (t.gate? (ln.gateIndex n)).map Gate.count = some (min (g.count + 1) 0xFFFFFFFF)))) ∧
  (∀ (s : State) (l b f : Nat) (ln : Launch) (bl : Block) (x : Fibre), s.launch? l = some ln → ln.block? b = some bl →
    bl.fibre? f = some x →
    ((s.launches.map Launch.id).Nodup → (ln.blockList.map Block.index).Nodup → (bl.fibres.map Fibre.id).Nodup →
      (∀ p ∈ x.loads, s.clock < p.due) → exec (.loadDataReturn l b f) s = .next s) ∧
    (∀ (before after : List PendLoad) (p : PendLoad), x.loads = before ++ p :: after → (∀ q ∈ before, s.clock < q.due) →
      p.due ≤ s.clock → (∀ r ∈ p.regs, r.1 < x.regs.length) →
      ∃ (t : State) (g : Fibre), exec (.loadDataReturn l b f) s = .next t ∧
        ((t.launch? l).bind (·.block? b)).bind (·.fibre? f) = some g ∧
        g.loads = before ++ after ∧ (∀ n, g.reg n = written p.regs n (x.reg n)) ∧ g.preds = x.preds ∧ g.pc = x.pc ∧
        t.mem = s.mem))


/-! ## Engines -/

/-- ENGINE_SOURCE_LINE, ENGINE_OUTPUT_LINE, ENGINE_QUIESCE_STOP (R60, R239, R241, R256, R257): a running command reads its next source
line, at most one aligned line, or writes the next output line whose source bytes it has; scratch lines wait for the next commit, and
land at once when every fibre of the block has exited; memory lines land at once; an `rcp` sends its line. After its last line the
command is finished, or takes the fault that stopped its source. A line that fails ends the block, but a `scat` ends with what it has
(R250). A command of suspended work is held at its resumable point. A source byte that the launch's own commits have changed since the
command was dispatched is the one the command found (R248, R401) (model's choices: logs 10 and 42). -/
def Obligations.EngineEvents : Prop :=
  ∀ (s : State) (cmd : Nat),
    (s.cmd? cmd = none → exec (.engineSourceLine cmd) s = .next s ∧ exec (.engineOutputLine cmd) s = .next s ∧
      exec (.engineQuiesceStop cmd) s = .next s) ∧
    ∀ c, s.cmd? cmd = some c →
      (s.runnable c = false → exec (.engineSourceLine cmd) s = .next s ∧ exec (.engineOutputLine cmd) s = .next s) ∧
      (∀ l b, s.runnable c = true → s.blockOf c = some (l, b) →
        let p := c.nextPiece
        (c.outs = [] → c.sourceDone = true → exec (.engineSourceLine cmd) s = .next (s.afterSource l c)) ∧
        (c.outs = [] → c.sourceDone = false → p.2.2 ≤ 128 - p.2.1 % 128 ∧
          (∀ bs, s.engBytes l b p.1 p.2.1 p.2.2 = .ok bs → exec (.engineSourceLine cmd) s =
            .next (s.modCmd cmd fun _ => { c with buf := c.buf ++ s.sourceBytes l c p.1 p.2.1 bs })) ∧
          (∀ er, s.engBytes l b p.1 p.2.1 p.2.2 = .error er →
            ((∀ d a x, c.instr ≠ .scat d a x) →
              exec (.engineSourceLine cmd) s = .next (s.lineFault { c with progress := c.sourceProgress } er p.2.1)) ∧
            (∀ d a x, c.instr = .scat d a x →
              exec (.engineSourceLine cmd) s = .next (s.endScat l c (c.buf.length / c.num 38 2) (some (er, p.2.1)))))) ∧
        (c.outs ≠ [] → exec (.engineSourceLine cmd) s = .next s) ∧
        (c.nextOut = none → exec (.engineOutputLine cmd) s = .next s) ∧
        (∀ o, c.nextOut = some o →
          (∀ d a x, c.instr = .rcp d a x → exec (.engineOutputLine cmd) s = .next (s.sendLine c o)) ∧
          ((∀ d a x, c.instr ≠ .rcp d a x) →
            let d := c.wrote o
            let done (u : State) : State :=
              let v := u.modCmd cmd fun _ => d
              if d.allWritten = false then v
              else match d.stop with
                | some e => v.lineFault d e.1 e.2
                | none => v.finishCmd cmd 0 c.total
            let healed := s.healScratch l.id b.index o
            (o.scratch = true → b.allExited = false → exec (.engineOutputLine cmd) s = .next (done
              (healed.modBlock l.id b.index fun x => { x with heldLines := x.heldLines ++ [o] }))) ∧
            (o.scratch = true → b.allExited = true → exec (.engineOutputLine cmd) s = .next (done
              (healed.modBlock l.id b.index fun x => x.landLine o))) ∧
            (o.scratch = false →
              (∀ pa, s.translate none l.tenant .store o.addr = .ok pa →
                exec (.engineOutputLine cmd) s = .next (done (s.outsideWrite none pa o.bytes))) ∧
              (∀ er, s.translate none l.tenant .store o.addr = .error er →
                exec (.engineOutputLine cmd) s = .next (s.lineFault c er o.addr)))))) ∧
      (∀ ln, s.launch? c.launch = some ln →
        let stops : Prop := ln.suspended = true ∧ c.isLaunch = false ∧ (c.phase = .running ∨ c.phase = .staged) ∧
          c.resumable = true
        (stops → exec (.engineQuiesceStop cmd) s = .next (s.modCmd cmd fun x => { x with phase := .held })) ∧
        (¬ stops → exec (.engineQuiesceStop cmd) s = .next s)) ∧
      (∀ l a bs, s.sourceBytes l c 1 a bs = bs) ∧
      (∀ l sp a bs pa, sp ≠ 1 → s.translate none l.tenant (if sp = 3 then .constLoad else .load) a = .ok pa →
        (s.sourceBytes l c sp a bs).length = bs.length ∧
        ∀ i < bs.length, (s.sourceBytes l c sp a bs).getD i 0 =
          match (c.before.find? fun x => x.1 == pa / 128).bind fun x => x.2.getD (pa % 128 + i) none with
          | some old => old
          | none => bs.getD i 0)

/-- STAGED_COMMAND_ENQUEUE, MATRIX_ROW_GRANT, MATRIX_PORT_GRANT (R251 to R255, R266 to R268, R276). A staged command that may enters its
port's queue, and its region takes the ports it needs with what was saved there. The picked command is granted one A row of an `mma`,
whose words each gain the products of the k-blocks that are not skipped, in k-block order; or a whole `mmb`, which replaces B, `mmd`,
whose output lines are the words as they stand, or `mmz`; the physical port that serves a logical one holds its content then (R399).
A port that must be released is saved and given on to the waiting region
that comes first (model's choices: logs 42 and 43). -/
def Obligations.MatrixEvents : Prop :=
  (∀ (s : State) (cmd : Nat) (c : Cmd), s.cmd? cmd = some c →
    (s.mayEnqueue c = false → exec (.stagedCommandEnqueue cmd) s = .next s) ∧
    (s.mayEnqueue c = true → ∃ t, exec (.stagedCommandEnqueue cmd) s = .next t ∧ { t with ports := s.ports } = s ∧
      ∀ (k : Nat) (x : Port), s.ports[k]? = some x → ∃ y : Port, t.ports[k]? = some y ∧
        y.queue = (if x.num = s.portOf c then x.queue ++ [c.id] else x.queue) ∧
        (x.num ∈ s.portsFor c → y.holder = some (s.regionOf c) ∧ y.words = (x.viewFor (s.regionOf c)).words ∧
          y.btile = (x.viewFor (s.regionOf c)).btile ∧ y.whole = (x.viewFor (s.regionOf c)).whole) ∧
        (x.num ∉ s.portsFor c → { y with queue := x.queue } = x))) ∧
  (∀ (s : State) (port : Nat), s.pickRow port = none → exec (.matrixRowGrant port) s = .next s) ∧
  (∀ (s : State) (port : Nat) (c : Cmd) (x : Port), s.pickRow port = some c → s.cmd? c.id = some c → s.port? port = some x →
    let ran (t : State) : Prop := exec (.matrixRowGrant port) s = .next t ∧ { t with ports := s.ports, cmds := s.cmds } = s
    let ended (t : State) (status count : Nat) : Prop :=
      t.cmd? c.id = some { c with phase := .finished, status := status, count := count, outs := [] }
    let left := x.queue.filter fun q => q != c.id
    (∀ d a y, c.instr = .mma d a y →
      ((∀ tl, x.btile = some tl → tl.fmt ≠ c.num 35 1 ∨ tl.kb < c.num 38 2) →
        ∃ t, ran t ∧ ended t FaultCode.format.num c.count) ∧
      ∀ tl, x.btile = some tl → tl.fmt = c.num 35 1 → c.num 38 2 ≤ tl.kb → tl.n ≤ 1024 → c.progress < c.num 36 2 →
        c.num 36 2 ≤ 16 →
        let fmt := c.num 35 1
        let kb := c.num 38 2
        let units := c.num 36 2 * kb
        let exps := c.buf.drop (32 * tileElem fmt * units)
        let bits := exps.drop (if fmt = 3 then 0 else 2 * units)
        let unitAt (b : Nat) : Nat := c.progress * kb + b
        let steps := (List.range kb).filter fun b => bits.getD (unitAt b) 0 != 0 && c.num 40 8 / 2 ^ b % 2 == 1
        let add (acc col b : Nat) : Nat :=
          if fmt = 3 then dotInt acc (psbAt fmt c.buf exps (unitAt b)) (tl.block col b)
          else dotPsb fmt acc (psbAt fmt c.buf exps (unitAt b)) (tl.block col b)
        let start (slot row col : Nat) : Nat :=
          if slot = c.num 33 1 ∧ row < c.num 36 2 ∧ c.progress = 0 ∧ c.num 34 1 = 1 then 0
          else slotWord x.words (wordIdx slot row col)
        ∃ t z, ran t ∧ t.port? port = some z ∧
          (∀ slot row col, row < 16 → col < 1024 → slotWord z.words (wordIdx slot row col) =
            if slot = c.num 33 1 ∧ row = c.progress ∧ col < tl.n then
              steps.foldl (fun acc b => add acc col b) (start slot row col)
            else start slot row col) ∧
          z.holder = x.holder ∧ z.btile = x.btile ∧ z.perfRows = x.perfRows + 1 ∧ z.perfSteps = x.perfSteps + steps.length ∧
          z.perfCmds = x.perfCmds + (if c.progress + 1 = c.num 36 2 then 1 else 0) ∧ (port ∈ s.portsFor c → z.loaded = true) ∧
          (c.progress + 1 = c.num 36 2 → z.queue = left ∧ ended t 0 (c.count + steps.length)) ∧
          (c.progress + 1 ≠ c.num 36 2 → z.queue = x.queue ∧
            t.cmd? c.id = some { c with progress := c.progress + 1, count := c.count + steps.length })) ∧
    (∀ d a y, c.instr = .mmb d a y → x.holder = some (s.regionOf c) → port / 2 = s.clusterOf c →
      let n := c.num 36 2
      let kb := c.num 38 2
      let ne := 32 * tileElem (c.num 33 1) * (n * kb)
      let tile : BTile := { n := n, kb := kb, fmt := c.num 33 1, elems := c.buf.take ne, exps := c.buf.drop ne }
      ∃ t z, ran t ∧ ended t 0 (n * kb) ∧ t.port? port = some z ∧ z.btile = some tile ∧
        z.whole = (c.num 32 1 == 2 && port % 2 == 0) ∧ z.words = x.words ∧ z.queue = left ∧ z.holder = x.holder ∧
        (port ∈ s.portsFor c → z.loaded = true) ∧
        ∀ (k : Nat) (u : Port), s.ports[k]? = some u → u.num ≠ port → ∃ v : Port, t.ports[k]? = some v ∧
          v.queue = u.queue ∧ v.holder = u.holder ∧ v.words = u.words ∧ (u.num / 2 ≠ port / 2 → { v with loaded := u.loaded } = u) ∧
          (u.num / 2 = port / 2 → u.holder = some (s.regionOf c) → c.num 32 1 = 2 → v.btile = none)) ∧
    (∀ d a y, c.instr = .mmd d a y →
      let row (m : Nat) : List Byte := ((List.range (c.num 38 2)).map fun k =>
        drainWord (c.num 34 1) (rmode (c.num 35 1)) (slotWord x.words (wordIdx (c.num 33 1) m k))).flatten
      let line (m : Nat) : List OutLine := outRun 1 (c.capC.base + c.num 52 4 + m * c.num 48 4) (row m)
        (fun o => if o = (row m).length then m + 1 else m) fun _ => 0
      let outs := ((List.range (c.num 36 2)).map line).flatten
      ∃ t z, ran t ∧ t.cmd? c.id = some { c with outs := outs, phase := .running, count := c.num 36 2 } ∧
        t.port? port = some z ∧ z.words = x.words ∧ z.btile = x.btile ∧ z.queue = left) ∧
    (∀ d a y, c.instr = .mmz d a y → ∃ t z, ran t ∧ ended t 0 16 ∧ t.port? port = some z ∧ z.queue = left ∧
      (∀ slot row col, row < 16 → col < 1024 → slotWord z.words (wordIdx slot row col) =
        if slot = c.num 33 1 then 0 else slotWord x.words (wordIdx slot row col)))) ∧
  (∀ (s : State) (port : Nat) (x : Port), s.port? port = some x →
    let given (u : State) (c : Cmd) : State := if u.mayEnqueue c = true then u.enqueue c else u
    let u := s.modPort port Port.release
    (s.mustRelease x = false → x.holder ≠ none → exec (.matrixPortGrant port) s = .next s) ∧
    (x.holder = none → s.nextForPort port = none → exec (.matrixPortGrant port) s = .next s) ∧
    (∀ c, x.holder = none → s.nextForPort port = some c → exec (.matrixPortGrant port) s = .next (given s c)) ∧
    (s.mustRelease x = true → u.nextForPort port = none → exec (.matrixPortGrant port) s = .next u) ∧
    (∀ c, s.mustRelease x = true → u.nextForPort port = some c → exec (.matrixPortGrant port) s = .next (given u c)))

/-! ## Scheduling -/

/-- SCOREBOARD_WAIT_THRESHOLD (R336), TIME_SLICE_EXPIRY and GRACE_PERIOD_END (R333, R361, R362): a group that waits past the threshold is
unbound, once. Where one block's region has used up its slice of a core, what is at a blocking point, the block or its groups there, is
unbound at once and the rest is given 20 µs; at their end its step is aborted, unless the block has come to a blocking point. An abort
gives every register that the step wrote its step-start value, to a fibre that began the step running or parked, and leaves every other
fibre alone; the lines of the loads it drops are still on their way (R218) (model's choices: logs 41, 42 and 67). -/
def Obligations.PreemptionEvents : Prop :=
  (∀ (s : State) (l b : Nat) (ln : Launch) (bl : Block), s.launch? l = some ln → ln.block? b = some bl →
    (∀ t, bl.graceEnd = some t → (t ≤ s.clock → bl.blocked = false →
        exec (.gracePeriodEnd l b) s = .next ((s.abortBlock l bl).evictBlock l bl.index)) ∧
      (t ≤ s.clock → bl.blocked = true → exec (.gracePeriodEnd l b) s = .next (s.evictBlock l bl.index)) ∧
      (s.clock < t → exec (.gracePeriodEnd l b) s = .next s)) ∧
    (bl.graceEnd = none → exec (.gracePeriodEnd l b) s = .next s) ∧
    (∀ u, u = s.abortBlock l bl → { u with strays := s.strays } = s.modBlock l bl.index Block.abort ∧
      ∀ f ∈ bl.fibres, f.goesBack = true → ∀ p ∈ f.loads, s.clock < p.due →
        ∃ x ∈ u.strays, x.core = p.core ∧ x.line = p.line ∧ x.va = p.va ∧ x.due = p.due) ∧
    (∀ g gr, bl.group? g = some gr →
      (s.longWait ln bl gr = true → s.evicting gr = false → exec (.scoreboardWaitThreshold l b g) s =
        .next (s.modCore gr.core fun k => k.push { BindRecord.empty with valid := true, context := gr.context, group := gr.index, op := 1 })) ∧
      (s.longWait ln bl gr = false ∨ s.evicting gr = true → exec (.scoreboardWaitThreshold l b g) s = .next s))) ∧
  (∀ (f : Fibre) (step : Nat), (f.journal.map Prod.fst).Nodup →
    let g := f.abort step
    (f.startStatus = .running ∨ (∃ k, f.startStatus = .parked k) →
      (∀ n < f.regs.length, g.reg n = ((f.journal.find? fun x => x.1 == n).map Prod.snd).getD (f.reg n)) ∧
      g.preds = f.jpreds.getD f.preds ∧ g.pc = f.startPc ∧ g.status = .running ∧ g.trap.mode = false ∧ g.journal = [] ∧
      g.privMem = f.privStart ∧ g.id = f.id) ∧
    (f.startStatus ≠ .running → (∀ k, f.startStatus ≠ .parked k) → g = f)) ∧
  (∀ (s : State) (core : Nat) (k : Core), s.core? core = some k →
    ((∀ c ∈ s.blocksOn core, s.sliceOver k c = false) → exec (.timeSliceExpiry core) s = .next s) ∧
    (∀ c, (s.blocksOn core).filter (s.sliceOver k) = [c] →
      let here := c.b.groups.filter fun g => g.bound && g.core == core
      let gone := here.filter (s.groupBlocked c.l c.b)
      (c.b.blocked = true → exec (.timeSliceExpiry core) s = .next (s.evictBlock c.l.id c.b.index)) ∧
      (c.b.blocked = false → gone = here → exec (.timeSliceExpiry core) s = .next (s.evictGroups here)) ∧
      (c.b.blocked = false → gone ≠ here → exec (.timeSliceExpiry core) s = .next
        ((s.evictGroups gone).modBlock c.l.id c.b.index fun b => { b with graceEnd := some (s.clock + 20 * s.power.clock) }))))

/-- WATCHDOG (R344, R354), PLACEMENT_DECISION (R332, R337). The watchdog counts bound blocks with no parked fibre, in launches and regions
that are not suspended; at the first check after its period it takes the region path for the block that comes first; a watchdog of 0
never fires; a record that waits for the region's commands is written once they are held. Once no record waits, work at a blocking
point whose region holds more than a budget leaves (R372), or else the first candidate that fits is bound, or else the fewest victims,
of lowest priority and most recently bound first, that make room for the first candidate that can have room are unbound; and spill
ranges that have become short are extended (R233) and the firmware's account of the regions is brought up to date (model's choices:
logs 41, 42, 59, 62 and 67). -/
def Obligations.WatchdogAndPlacement : Prop :=
  (∀ (s : State) (l b : Nat) (ln : Launch) (bl : Block), s.launch? l = some ln → ln.block? b = some bl →
    let period := s.eff ln.rcb 6 Region.watchdog
    (ln.ended = false → ln.suspended = false → (∀ r, s.region? ln.rcb = some r → r.suspended = false) → period ≠ 0 →
      bl.status = .bound → (∃ g ∈ bl.groups, g.bound = true) → (∀ f ∈ bl.fibres, f.isParked = false) →
      (∃ f ∈ bl.fibres, f.live = true ∧ f.isAtRstop = false) →
      bl.lastCommit + period * s.power.clock ≤ s.lastCheck → s.overdueBefore ln bl = false →
      exec (.watchdog l b) s = .next (s.regionPath ln bl)) ∧
    (period = 0 ∨ s.clock < bl.lastCommit + period * s.power.clock ∨ ln.suspended = true ∨ bl.status ≠ .bound ∨
      (∃ f ∈ bl.fibres, f.isParked = true) →
      ((∀ r, s.region? ln.rcb = some r → r.due = none) → exec (.watchdog l b) s = .next s) ∧
      (∀ r x, s.region? ln.rcb = some r → r.due = some x →
        (r.suspended = true → s.cmdsRun r.rcb = true → exec (.watchdog l b) s = .next s) ∧
        (r.suspended = false ∨ s.cmdsRun r.rcb = false → exec (.watchdog l b) s =
          .next ((s.modRegion r.rcb fun y => { y with due := none }).report x)))) ∧
    (s.lastCheck ≤ s.clock ∧ (0 < s.power.clock → s.clock < s.lastCheck + s.power.clock))) ∧
  (∀ (s : State) (slice : Nat),
    let leaves (u : State) : Prop := exec (.placementDecision slice) s = .next u.extendShort.noteUsage
    let fits (u : State) (c : Cand) : Prop := (u.planFor c.l c.b).isSome = true
    ((∃ k ∈ s.cores, k.pending ≠ 0) ∨ (s.excess = none ∧ s.candidates slice = []) → leaves s) ∧
    (∀ v, (∀ k ∈ s.cores, k.pending = 0) → s.excess = some v → leaves (s.evictVictims [v]) ∧
      v.l ∈ s.launches ∧ v.l.ended = false ∧ s.withinBudgets v.l.rcb = false ∧
      (v.g = none → v.b.blocked = true) ∧ (∀ g, v.g = some g → v.b.blocked = false ∧ s.groupBlocked v.l v.b g = true)) ∧
    ((∀ l ∈ s.launches, l.ended = false → s.withinBudgets l.rcb = true) → s.excess = none) ∧
    ((∀ k ∈ s.cores, k.pending = 0) → s.excess = none →
      (∀ before c cs p cores, s.candidates slice = before ++ c :: cs → (∀ x ∈ before, ¬ fits s x) →
        s.planFor c.l c.b = some (p, cores) → leaves (s.enactPlan c.l c.b p cores)) ∧
      ((∀ x ∈ s.candidates slice, ¬ fits s x) →
        (∀ before c cs vs, s.candidates slice = before ++ c :: cs → (∀ x ∈ before, s.victimsFor x (s.victims x) [] = none) →
          s.victimsFor c (s.victims c) [] = some vs → leaves (s.evictVictims vs)) ∧
        ((∀ x ∈ s.candidates slice, s.victimsFor x (s.victims x) [] = none) → leaves s))) ∧
    (∀ c vs, s.victimsFor c (s.victims c) [] = some vs → vs <+: s.victims c ∧ vs ≠ [] ∧ fits (vs.foldl State.without s) c ∧
      ∀ ws, ws <+: vs → ws ≠ [] → ws ≠ vs → ¬ fits (ws.foldl State.without s) c) ∧
    (∀ c v, v ∈ s.victims c → v.l.ended = false ∧
      (v.l.rcb = c.l.rcb ∨ s.eff v.l.rcb 0 Region.prio < s.candPrio c) ∧
      (v.g = none → v.b.blocked = true) ∧ (∀ g, v.g = some g → s.groupBlocked v.l v.b g = true)) ∧
    (∀ c, (s.victims c).Pairwise fun x y => s.victimBefore y x = false))

/-- BIND, UNBIND, REBIND (R321, R334): dispatch takes the core's next record; one that fails a check is skipped and logged, one that
passes binds the group, as the core's youngest context, or frees its context. GTO_DEMOTION (R319, R340), ISSUE_POLICY_CHANGE
(R339), CODE_LINE_FILL (R321), RANGE_WALK (R294, R295) (model's choices: logs 42 and 48). -/
def Obligations.CoreEvents : Prop :=
  ∀ (s : State) (core : Nat) (k : Core), s.core? core = some k →
    let r := k.entry k.pitchAt
    (r.valid = false → exec (.bind core) s = .next s ∧ exec (.unbind core) s = .next s ∧ exec (.rebind core) s = .next s) ∧
    (∀ l b g ln bl gr, r.valid = true → (r.op = 0 ∨ r.op = 2) → k.named r = some (l, b, g) → s.launch? l = some ln →
      ln.block? b = some bl → bl.group? g = some gr →
      let i : Instr := if r.op = 0 then .bind core else .rebind core
      let ok : Prop := r.wsize ≠ 7 ∧ r.zero = 0 ∧ r.context < 128 ∧ 16 + 8 * r.wsize = ln.window ∧ gr.bound = false ∧
        (∀ x ∈ k.contexts, x.num ≠ r.context) ∧ k.inReg r.wbase (windowUnits ln.window) = true
      (ok → ∃ t ln' bl' gr' k', exec i s = .next t ∧ t.launch? l = some ln' ∧ ln'.block? b = some bl' ∧
        bl'.group? g = some gr' ∧ gr' = { gr with bound := true, core := core, context := r.context, wbase := r.wbase, gen := r.gen, ready := max gr.ready s.clock } ∧
        bl'.lastCommit = s.clock ∧ bl'.fibres = bl.fibres ∧ t.core? core = some k' ∧ k'.pitchAt = (k.pitchAt + 1) % 256 ∧
        k'.nextAge = k.nextAge + 1 ∧
        k'.contexts = k.contexts ++ [{ num := r.context, launch := l, block := b, group := g, age := k.nextAge, gen := r.gen,
                                       banks := r.banks, wbase := r.wbase, streak := 0, last := 0 }]) ∧
      (¬ ok → exec i s = .next { s.modCore core Core.advance with
        snapLog := s.snapLog ++ [LogEntry.skippedBind core k.pitchAt] })) ∧
    (r.valid = true → r.op = 1 → (r.wsize = 7 ∨ r.zero ≠ 0 ∨ ∀ x ∈ k.contexts, x.num ≠ r.context) →
      exec (.unbind core) s = .next { s.modCore core Core.advance with
        snapLog := s.snapLog ++ [LogEntry.skippedBind core k.pitchAt] }) ∧
    (∀ x, r.valid = true → r.op = 1 → r.wsize ≠ 7 → r.zero = 0 → k.contexts.find? (fun y => y.num == r.context) = some x →
      ∃ t k', exec (.unbind core) s = .next t ∧ t.core? core = some k' ∧ k'.pitchAt = (k.pitchAt + 1) % 256 ∧
        k'.contexts = k.contexts.filter (fun y => y.num != r.context) ∧
        ∀ ln bl gr, s.launch? x.launch = some ln → ln.block? x.block = some bl → bl.group? x.group = some gr →
          ∃ ln' bl', t.launch? x.launch = some ln' ∧ ln'.block? x.block = some bl' ∧
            bl'.group? x.group = some { gr with bound := false } ∧ bl'.fibres = bl.fibres) ∧
    (∀ ctx x, k.contexts.find? (fun y => y.num == ctx) = some x →
      (k.policy = .gto → 64 ≤ x.streak → s.clock ≤ x.last + 1 → s.otherIssues k x (x.last + 1) = true →
        exec (.gtoDemotion core ctx) s = .next (s.modCore core fun c => c.youngest x.launch x.block x.group)) ∧
      (k.policy = .rr ∨ x.streak < 64 ∨ x.last + 1 < s.clock ∨ s.otherIssues k x (x.last + 1) = false →
        exec (.gtoDemotion core ctx) s = .next s)) ∧
    (∀ p, exec (.issuePolicyChange core p) s = .next (s.modCore core fun c => { c with policy := p })) ∧
    (∀ l line ln, s.launch? l = some ln → ln.ended = false → s.lineReadable core ln (128 * line + 8) = true →
      ∃ t k', exec (.codeLineFill core l line) s = .next t ∧ t.core? core = some k' ∧ k'.code.getLast? = some (l, line) ∧
        k'.code.length ≤ 64 ∧ { t with cores := s.cores, launches := s.launches } = s ∧
        ∀ b g bl gr, ln.block? b = some bl → bl.group? g = some gr → ∃ (ln' : Launch) (bl' : Block), t.launch? l = some ln' ∧
          ln'.block? b = some bl' ∧ bl'.fibres = bl.fibres ∧
          let waits := !k.holdsLine l line && gr.bound && gr.core == core && (bl.fragOf l g).any fun fr => fr.pc / 128 == line
          bl'.group? g = some { gr with ready := if waits = true then max gr.ready s.clock else gr.ready }) ∧
    (∀ tenant va,
      (∀ e, s.walk tenant va = .ok e → exec (.rangeWalk core tenant va) s = .next (s.modCore core fun c => c.fillRange
        (if e.part = true then { e with word := some (e.wordOf va, s.mem.num (e.bitmap + 8 * e.wordOf va) 8) } else e))) ∧
      (∀ er, s.walk tenant va = .error er → exec (.rangeWalk core tenant va) s = .next s))

/-- COMPACTOR_MOVE (R302, R303): an idle compactor with more free runs than its threshold begins the move of the smallest enclosed
range that fits one, unless a move of that range is in flight, and the tenant then owns the target; the next event swaps the range: the
bytes are carried over, and the descriptor names the new base with its generation raised; and once no access of before the swap is on
its way to the range any more, the old granules are free and the compactor is idle (R300) (model's choices: logs 21 and 42). -/
def Obligations.CompactorMoves : Prop :=
  ∀ (s : State) (slice : Nat) (x : Slice), s.slices.find? (fun y => y.num == slice) = some x →
    (x.draining = none → x.moving = none → x.threshold = 0 ∨ (s.freeRuns slice).length ≤ x.threshold →
      exec (.compactorMove slice) s = .next s) ∧
    (∀ tenant vbase base t i e, x.draining = none → x.moving = none →
      s.compactorPick slice x.threshold = some (tenant, vbase, base) → s.rangeBy tenant vbase = some (t, i, e) →
      (∃ r ∈ s.freeRuns slice, r.1 = base) ∧
      (s.moveInFlight t.num e.vbase = true → exec (.compactorMove slice) s = .next s) ∧
      (s.moveInFlight t.num e.vbase = false → ∃ u : State, exec (.compactorMove slice) s = .next u ∧ u.mem = s.mem ∧
        (∃ y, u.slices.find? (fun y => y.num == slice) = some y ∧ y.moving = some (tenant, vbase, base)) ∧
        ∀ g, base ≤ g → g < base + e.units → u.owner (g * unit) = t.num)) ∧
    (∀ tenant vbase base t i e, x.draining = none → x.moving = some (tenant, vbase, base) →
      s.rangeBy tenant vbase = some (t, i, e) →
      let dst := base * unit
      let src := e.pbase * unit
      let n := e.units * unit
      let waits : Drain := { tenant := t.num, since := s.clock, lo := e.vbase, hi := e.limit, frees := granules src n }
      exec (.compactorMove slice) s =
        .next ((s.moveRange t i e base).modSlice slice fun y => { y with moving := none, draining := some waits }) ∧
      (s.memOk → s.regions = [] → (s.moveRange t i e base).mem.num (rebase src dst n t.dir + 32 * i) 32 =
        descOf { e with gen := (e.gen + 1) % 256, pbase := base,
                        bitmap := if e.part = true then rebase src dst n e.bitmap else e.bitmap } % 2 ^ 256)) ∧
    (∀ d, x.draining = some d →
      let span := [(d.lo * unit, (d.hi - d.lo) * unit)]
      (s.onItsWay d.tenant d.since span = true → exec (.compactorMove slice) s = .next s) ∧
      (s.onItsWay d.tenant d.since span = false → exec (.compactorMove slice) s =
        .next ((s.giveGranules d.frees 0xFFF).modSlice slice fun y => { y with draining := none }))) ∧
    (∀ (m : Memory) (src dst k a : Nat), Memory.wf m = true → src + 128 * k ≤ dst ∨ dst + 128 * k ≤ src →
      (copyRun m src dst k).get a = if dst ≤ a ∧ a < dst + 128 * k then m.get (a - dst + src) else m.get a)


/-! ## From outside -/

/-- HOST_GATE_WRITE (R38, R407, R409), HOST_APERTURE_WRITE, HOST_APERTURE_READ and ROOT_PORT_DMA (R59, R298, R405, R406, R416): an aligned
write of four bytes to a gate window is an arrival, and any other write there is dropped; in recovery there is no such window; a line
that the firmware has mapped for the tenant that owns its granule lands as an outside write, and any other is dropped and logged; a read
answers memory, the gate's count or the register, and zero bytes where nothing answers; every access, a dropped one too, keeps the device
out of C3 (model's choices: logs 11, 34, 49 and 68). -/
def Obligations.HostTraffic : Prop :=
  ∀ s : State,
    (s.boot.recovery = true → (∀ off size v, exec (.hostGateWrite off size v) s = .next s) ∧
      ∀ off len, exec (.hostApertureRead ⟨.window, off⟩ len) s = .next s) ∧
    (s.boot.recovery = false → ∀ slice n v g, slice < 12 → n < 4096 → s.windowGate slice n = Gate.key g → s.gate? g.key = some g →
      (g.host = true → g.pod = false → ∃ t : State, exec (.hostGateWrite (65536 * slice + 16 * n) 4 v) s = .next t ∧
        t.gate? g.key = some { g with count := min (g.count + v.toNat % 2 ^ 32) 0xFFFFFFFF } ∧ t.mem = s.mem) ∧
      (g.host = false ∨ g.pod = true → ∃ t : State, exec (.hostGateWrite (65536 * slice + 16 * n) 4 v) s = .next t ∧ t.gates = s.gates ∧
        t.launches = s.launches ∧ t.snapLog = s.snapLog ++ [LogEntry.dropped g.tenant g.slice g.index]) ∧
      ∃ t : State, exec (.hostApertureRead ⟨.window, 65536 * slice + 16 * n⟩ 4) s = .next t ∧ t.gates = s.gates ∧
        t.hostReads = s.hostReads ++ [(HostSpace.window, 65536 * slice + 16 * n, leBytes 4 g.count)]) ∧
    (s.boot.recovery = false → ∀ off size v, size ≠ 4 ∨ off % 16 ≠ 0 ∨ 12 * 65536 ≤ off →
      (∃ t : State, exec (.hostGateWrite off size v) s = .next t ∧ t.gates = s.gates ∧ t.mem = s.mem ∧ t.launches = s.launches ∧
        t.power = { s.power with lastHost := s.clock }) ∧
      ∃ t : State, exec (.hostApertureRead ⟨.window, off⟩ size) s = .next t ∧ t.gates = s.gates ∧
        t.hostReads = s.hostReads ++ [(HostSpace.window, off, List.replicate size 0)]) ∧
    (∀ off bs, s.firmware = true → bs ≠ [] → off % 128 + bs.length ≤ 128 →
      (∀ pa, s.aperture off = some pa → exec (.hostApertureWrite off bs) s =
        .next ((s.traffic (homeSlice pa)).outsideWrite none pa (bs.map some))) ∧
      (s.aperture off = none → exec (.hostApertureWrite off bs) s =
        .next { s.hostAccess with snapLog := s.snapLog ++ [LogEntry.hostDrop off] })) ∧
    (∀ off bs, s.firmware = false → exec (.hostApertureWrite off bs) s =
      .next { s.hostAccess with boot := { s.boot with area := Memory.setBytes s.boot.area off bs } }) ∧
    (∀ off len, ∃ (t : State) (bs : List Byte), exec (.hostApertureRead ⟨.aperture, off⟩ len) s = .next t ∧
      t.hostReads = s.hostReads ++ [(HostSpace.aperture, off, bs)] ∧ bs.length = len ∧ t.mem = s.mem ∧
      t.power = { s.power with lastHost := s.clock } ∧
      ∀ i < len, bs.getD i 0 = if s.firmware = true then
          (match s.aperture (off + i) with
           | some pa => s.mem.get pa
           | none => 0)
        else Memory.get s.boot.area (off + i)) ∧
    (∀ off v, ([(0x00, 0x0000124800010000), (0x08, s.boot.status), (0x18, s.boot.fuses), (0x20, s.mgmt.replreq),
        (0x30, s.mgmt.snapmask), (0x10, 0), (0x28, 0), (0x200, 0),
        (0x208, (if s.mgmt.busy = true then 1 else 0) + 256 * s.mgmt.status)] ++
        (List.range 32).map fun w => (0x100 + 8 * w, s.word w)).lookup off = some v →
      exec (.hostApertureRead ⟨.register, off⟩ 8) s =
        .next { s.hostAccess with hostReads := s.hostReads ++ [(HostSpace.register, off, leBytes 8 v)] }) ∧
    (∀ tenant addr len, ∃ (t : State) (bs : List Byte), exec (.hostApertureRead ⟨.memory tenant, addr⟩ len) s = .next t ∧
      t.hostReads = s.hostReads ++ [(HostSpace.memory tenant, addr, bs)] ∧ bs.length = len ∧ t.mem = s.mem ∧
      ∀ i < len, bs.getD i 0 = if s.owner (addr + i) = tenant ∧ addr + i < memEnd then s.mem.get (addr + i) else 0) ∧
    (∀ port tenant addr bs, bs ≠ [] → addr % 128 + bs.length ≤ 128 →
      (s.owner addr = tenant → addr + bs.length ≤ memEnd → exec (.rootPortDma port tenant addr bs) s =
        .next ((s.traffic (homeSlice addr)).outsideWrite none addr (bs.map some))) ∧
      (s.owner addr ≠ tenant ∨ memEnd < addr + bs.length → exec (.rootPortDma port tenant addr bs) s =
        .next { s.traffic (homeSlice addr) with snapLog := s.snapLog ++ [LogEntry.dmaDrop port addr] }))


/-- POD_EPISODE (R385), RCP_LINE_ARRIVAL (R391, R392), FLIT_RETRY and PORT_DOWN (R388): an episode takes one from this module's
counter and raises its POD gate; a line that fails its export entry, launch or translation does not land, its sender learns of it and the
receiving port logs it; a plain line lands at once, one under `.acc` waits in staging; a retry that succeeds ends the run of failures, and
the sixteenth consecutive failed one takes the port down (model's choice: log 42). -/
def Obligations.FabricEvents : Prop :=
  ∀ s : State,
    (∀ p, s.pod = some p → (1 ≤ p.count → ∃ t : State, exec .podEpisode s = .next t ∧ t.pod = some { p with count := p.count - 1 } ∧
        ∀ g, s.gates.find? Gate.pod = some g → s.gate? g.key = some g →
          t.gate? g.key = some { g with count := min (g.count + 1) 0xFFFFFFFF }) ∧
      (p.count = 0 → exec .podEpisode s = .next s)) ∧
    (s.pod = none → exec .podEpisode s = .next s) ∧
    (∀ m : RcpLine,
      ((∀ e ∈ s.exports, e.window ≠ m.window) ∨ ∃ e : Export, s.exports.find? (fun e => e.window == m.window) = some e ∧
        (s.launch? e.launch = none ∨ (e.sender ≠ 0xFFF ∧ e.sender ≠ m.sender) ∨ e.len < m.off + m.bytes.length ∨
          (∃ ln : Launch, s.launch? e.launch = some ln ∧ ln.over = true) ∨
          (m.bytes ≠ [] ∧ ∃ f, s.translate none e.tenant .store (e.base + m.off) = .error f))) →
      ∃ t : State, exec (.rcpLineArrival m) s = .next t ∧ t.mem = s.mem ∧ t.launches = s.launches ∧ t.gates = s.gates ∧
        t.fabricOut = s.fabricOut ++ [FabricMsg.ack m.sender m.xfer false] ∧
        t.snapLog = s.snapLog ++ [LogEntry.rcpFail m.port m.window] ∧ t.power = { s.power with lastHost := s.clock } ∧
        (m.last = false → ∃ x ∈ t.staging, x.sender = m.sender ∧ x.xfer = m.xfer ∧ x.failed = true)) ∧
    (∀ ln : Launch, ln.over = (ln.ended || ln.dying.isSome || (ln.hold != .none && ln.allExited))) ∧
    (∀ (m : RcpLine) (e : Export) (ln : Launch) pa, s.exports.find? (fun e => e.window == m.window) = some e →
      s.launch? e.launch = some ln → ln.over = false → (e.sender = 0xFFF ∨ e.sender = m.sender) →
      m.off + m.bytes.length ≤ e.len → m.bytes ≠ [] → (e.base + m.off) % 128 + m.bytes.length ≤ 128 →
      s.translate none e.tenant .store (e.base + m.off) = .ok pa → m.last = false →
      (m.acc = false → ∃ t : State, exec (.rcpLineArrival m) s = .next t ∧
        t.mem = (s.outsideWrite none pa (m.bytes.map some)).mem ∧
        t.fabricOut = s.fabricOut ++ [FabricMsg.ack m.sender m.xfer true]) ∧
      (m.acc = true → (∀ x ∈ s.staging, ¬ (x.sender = m.sender ∧ x.xfer = m.xfer)) → ∃ t : State,
        exec (.rcpLineArrival m) s = .next t ∧ t.mem = s.mem ∧ t.launches = s.launches ∧ t.staging = s.staging ++
          [{ sender := m.sender, xfer := m.xfer, window := m.window, lines := [m], failed := false }])) ∧
    (∀ port failed,
      ((∀ p ∈ s.guyPorts, p.num = port → p.up = false) → exec (.flitRetry ⟨port, failed⟩) s = .next s) ∧
      ((∃ p ∈ s.guyPorts, p.num = port ∧ p.up = true) → exec (.flitRetry ⟨port, failed⟩) s =
        .next { s with
          snapLog := s.snapLog ++ [LogEntry.retry port],
          guyPorts := s.guyPorts.map fun (p : GuyPort) => if p.num = port then
            { p with streak := if failed = true then p.streak + 1 else 0, retries := p.retries + 1 } else p })) ∧
    (∀ port p, s.guyPorts.find? (fun p => p.num == port) = some p →
      (p.up = false ∨ p.streak < 16 → exec (.portDown port) s = .next s) ∧
      (p.up = true → 16 ≤ p.streak → ∃ t : State, exec (.portDown port) s = .next t ∧
        t.guyPorts = s.guyPorts.map (fun (q : GuyPort) => if q.num = port then { q with up := false } else q) ∧
        t.snapLog = s.snapLog ++ [LogEntry.portDown port] ∧ t.mgmt.replreq.testBit 3 = true ∧ t.mem = s.mem))


/-! ## Power, failures and management -/

/-- LTR_UPDATE, POWER_STATE_ENTRY, POWER_WAKE, C3_ENTRY and CLOCK_THROTTLE (R411 to R413); CORE_FAILURE and
MATRIX_ENGINE_FAILURE (R400, R414); SOFT_ERROR (R360). A slice that is idle goes to the deepest state that its tolerance admits; in
C3 a wake is the whole device's; the clock moves by 100 MHz between 1.0 and 2.1 GHz. A failed core holds nothing. A correctable
error changes no value and is counted by the unit it struck; an uncorrectable one poisons the memory line, scratch line, private line,
round-log entry or spilled entry that it hit, discards a range-table entry, ends the block of a register window, and takes a gate to 0
(model's choices: logs 38, 42 and 62). -/
def Obligations.PowerAndFailures : Prop :=
  ∀ s : State,
    (∀ us, exec (.ltrUpdate us) s = .next { s.hostAccess with power := { s.power with ltr := us, lastHost := s.clock } }) ∧
    (∀ slice, ∃ t : State, exec (.powerStateEntry slice) s = .next t ∧ { t with slices := s.slices } = s ∧
      t.slices = s.slices.map fun (x : Slice) => if x.num ≠ slice ∨ (x.power = .c3 ∧ s.c3Ok = true) then x
        else { x with power := if s.idle slice = false ∨ s.tolerance slice < 2 then .d0
                               else if s.tolerance slice < 40 then .c1 else .c2 }) ∧
    (∀ slice, ∃ t : State, exec (.powerWake slice) s = .next t ∧ { t with slices := s.slices } = s ∧
      t.slices = s.slices.map fun (x : Slice) =>
        if x.num = slice ∨ (∃ y ∈ s.slices, y.power = .c3) then { x with power := .d0 } else x) ∧
    ((∀ x ∈ s.slices, s.idle x.num = true ∧ (x.power = .c2 ∨ x.power = .c3) ∧ 400 ≤ s.tolerance x.num) →
      s.power.lastHost + 1000 * s.power.clock ≤ s.clock →
      exec .c3Entry s = .next { s with slices := s.slices.map fun (x : Slice) => { x with power := .c3 } }) ∧
    (s.clock < s.power.lastHost + 1000 * s.power.clock → exec .c3Entry s = .next s) ∧
    (∀ excess, exec (.clockThrottle excess) s = .next { s with power := { s.power with
      clock := if excess = true then max 1000 (s.power.clock - 100) else min 2100 (s.power.clock + 100) } }) ∧
    (∀ core k, s.core? core = some k →
      (k.failed = true → exec (.coreFailure core) s = .next s) ∧
      (k.failed = false → ∃ (t : State) (k' : Core), exec (.coreFailure core) s = .next t ∧ t.core? core = some k' ∧ k'.failed = true ∧
        k'.contexts = [] ∧ k'.cache = [] ∧ t.mem = s.mem ∧
        ∀ ln ∈ t.launches, ∀ b ∈ ln.blockList, ∀ g ∈ b.groups, ¬ (g.bound = true ∧ g.core = core))) ∧
    (∀ engine, (engine ∈ s.failedEngines → exec (.matrixEngineFailure engine) s = .next s) ∧
      (engine ∉ s.failedEngines → ∃ t : State, exec (.matrixEngineFailure engine) s = .next t ∧
        t.failedEngines = engine :: s.failedEngines ∧ t.mgmt.replreq.testBit 1 = true ∧
        t.ports.map (fun (p : Port) => { p with host := 0, loaded := false }) =
          s.ports.map (fun (p : Port) => { p with host := 0, loaded := false }) ∧
        ∀ p ∈ t.ports, (∃ e < 4, 4 * (p.host / 2 / 4) + e ∉ t.failedEngines) → p.host / 2 ∉ t.failedEngines)) ∧
    (∀ site unit, (∃ pa, site = .memLine true pa ∧ unit = 216 + homeSlice pa) ∨
        (∃ core pos, site = .rangeEntry true core pos ∧ unit = core) ∨ (∃ sl i, site = .gate true sl i ∧ unit = 216 + sl) ∨
        (∃ (l b : Nat) (ln : Launch) (bl : Block), s.launch? l = some ln ∧ ln.block? b = some bl ∧ unit = bl.core ∧
          ((∃ line, site = .scratchLine true l b line) ∨ (∃ f line, site = .privLine true l b f line) ∨
           ∃ e, site = .stepSpill true l b e)) →
      ∃ t : State, exec (.softError site) s = .next t ∧ t.mem = s.mem ∧ t.poison = s.poison ∧ t.launches = s.launches ∧
        t.gates = s.gates ∧ t.cores = s.cores ∧ t.scratchPoison = s.scratchPoison ∧
        t.snapLog = s.snapLog ++ [LogEntry.correctable unit] ∧
        (t.mgmt = s.mgmt ∨ (t.mgmt.overRate = true ∧ t.mgmt.replreq.testBit 4 = true))) ∧
    (∀ pa, ∃ t : State, exec (.softError (.memLine false pa)) s = .next t ∧ t.mem = s.mem ∧ t.poisoned pa = true ∧
      t.launches = s.launches ∧ t.gates = s.gates ∧ (∀ a, a / 128 ≠ pa / 128 → t.poisoned a = s.poisoned a) ∧
      ∀ a, a / unit ≠ pa / unit ∨ s.owner pa ≠ 0xFFF → t.owner a = s.owner a) ∧
    (∀ l b line, ∃ t : State, exec (.softError (.scratchLine false l b line)) s = .next t ∧
      { t with scratchPoison := s.scratchPoison } = s ∧ ∀ x, x ∈ t.scratchPoison ↔ x = (l, b, line) ∨ x ∈ s.scratchPoison) ∧
    (∀ l b f line, ∃ p : List Nat → List Nat, (∀ xs x, x ∈ p xs ↔ x = line ∨ x ∈ xs) ∧
      exec (.softError (.privLine false l b f line)) s = .next (s.modFibre l b f fun x => { x with privPoison := p x.privPoison })) ∧
    (∀ l line, ∃ p : List Nat → List Nat, (∀ xs x, x ∈ p xs ↔ x = line ∨ x ∈ xs) ∧
      exec (.softError (.roundLog false l line)) s = .next (s.modLaunch l fun x => { x with logPoison := p x.logPoison })) ∧
    (∀ l region line (ln : Launch), s.launch? l = some ln → ∃ (t : State) (u : Launch),
      exec (.softError (.sparseLog false l region line)) s = .next t ∧ { t with launches := s.launches } = s ∧
      t.launch? l = some u ∧ { u with sparsePoison := ln.sparsePoison } = ln ∧
      ∀ x, x ∈ u.sparsePoison ↔ x = (skey ln.tenant region, line) ∨ x ∈ ln.sparsePoison) ∧
    (∀ l b entry, ∃ p : List SpillEntry → List SpillEntry, (∀ xs x, x ∈ p xs ↔ x = entry ∨ x ∈ xs) ∧
      exec (.softError (.stepSpill false l b entry)) s = .next (s.modBlock l b fun x => { x with bufPoison := p x.bufPoison })) ∧
    (∀ core pos, exec (.softError (.rangeEntry false core pos)) s =
      .next (s.modCore core fun k => { k with ranges := k.ranges.eraseIdx pos })) ∧
    (∀ (l b g : Nat) (ln : Launch) (bl : Block) (gr : Group) (f : Fibre), s.launch? l = some ln → ln.block? b = some bl →
      bl.group? g = some gr → bl.fibres.find? Fibre.live = some f → gr.bound = true →
      exec (.softError (.window false l b g)) s =
        .next ((s.blockPath l b f.id .memUncorrectable gr.wbase 0).releaseDone l b)) ∧
    (∀ slice index g, s.windowGate slice index = g.key → s.gate? g.key = some g →
      exec (.softError (.gate false slice index)) s = .next ((s.changeGate g.key fun x => { x with count := 0 }).launchPath
        g.launch .memUncorrectable (4096 * slice + index) 0))


/-- BOOTDB (R408, R409), SNAPTRIG and SNAPTRIG_PIN (R415), REPLREQ (R414), REGISTER_WRITE (R416) and RESET (R408): a write of 1
starts a check of the placed image where the ROM waits for one and is otherwise ignored; SNAPTRIG latches every unit, or one
slice's, under its label, and a later trigger replaces an earlier latch but not one of the same cycle whose source stands before its own;
a latch holds what the unit logged, counted and has in its range table; ones written to REPLREQ clear its bits; MBOX words are written one
at a time; a doorbell that finds the mailbox busy is dropped; reset keeps memory, fuses and what has failed or is retired (model's
choices: logs 7, 29, 33, 38 and 41). -/
def Obligations.ManagementRegisters : Prop :=
  ∀ s : State,
    let host : State := s.hostAccess
    let latch (u label rank : Nat) : Snap :=
      { unit := u, label := label, cycle := s.clock, rank := rank, ranges := s.rangeRecords u,
        log := s.snapLog.filter fun x => s.logUnit x == some u, perf := s.perfOf u, gens := if u < 216 then s.gensOut u else [] }
    let latches (t : State) (units : List Nat) (label rank : Nat) : Prop :=
      (∀ u ∈ units, t.snaps.find? (fun x => x.unit == u) = match s.snaps.find? (fun x => x.unit == u) with
        | none => some (latch u label rank)
        | some x => if x.cycle = s.clock ∧ x.rank < rank then some x else some (latch u label rank)) ∧
      ∀ u ∉ units, t.snaps.find? (fun x => x.unit == u) = s.snaps.find? (fun x => x.unit == u)
    (host = { s with slices := host.slices, power := { s.power with lastHost := s.clock } } ∧
      ((∀ x ∈ s.slices, x.power ≠ .c3) → host.slices = s.slices) ∧ ∀ x ∈ host.slices, x.power ≠ .c3) ∧
    (∀ v, (v = 1 ∧ s.boot.accepts = true → exec (.bootdb v) s =
        .next { host with boot := { s.boot with status := 1, checking := true, fromHost := true } }) ∧
      (v ≠ 1 ∨ s.boot.accepts = false → exec (.bootdb v) s = .next host)) ∧
    (s.boot.checking = true → s.boot.accepts = false) ∧
    (∀ v : BitVec 64, ∃ t : State, exec (.snaptrig v) s = .next t ∧ { t with snaps := s.snaps } = host ∧
      (v.toNat / 2 ^ 16 % 2 = 0 → latches t (List.range 396) (v.toNat % 2 ^ 16) 1) ∧
      (v.toNat / 2 ^ 16 % 2 = 1 → v.toNat / 2 ^ 20 % 16 < 12 → latches t (sliceUnits (v.toNat / 2 ^ 20 % 16)) (v.toNat % 2 ^ 16) 1) ∧
      (v.toNat / 2 ^ 16 % 2 = 1 → 12 ≤ v.toNat / 2 ^ 20 % 16 → t = host)) ∧
    (∃ (t : State) (label : Nat), exec .snaptrigPin s = .next t ∧ { t with snaps := s.snaps, free := s.free } = s ∧
      latches t (List.range 396) label 2) ∧
    (∀ v : BitVec 64, ∃ t : State, exec (.replreq v) s = .next t ∧ { t with mgmt := s.mgmt } = host ∧
      { t.mgmt with replreq := s.mgmt.replreq } = s.mgmt ∧
      ∀ k, t.mgmt.replreq.testBit k = (s.mgmt.replreq.testBit k && !v.toNat.testBit k)) ∧
    (∀ v : BitVec 64,
      exec (.registerWrite 0x10 v) s = exec (.bootdb v) s ∧ exec (.registerWrite 0x20 v) s = exec (.replreq v) s ∧
      exec (.registerWrite 0x28 v) s = exec (.snaptrig v) s ∧
      exec (.registerWrite 0x30 v) s = .next { host with mgmt := { s.mgmt with snapmask := v.toNat } } ∧
      (s.mgmt.busy = true ∨ s.firmware = false → exec (.registerWrite 0x200 v) s = .next host) ∧
      (s.mgmt.busy = false → s.firmware = true → exec (.registerWrite 0x200 v) s =
        .next { host with mgmt := { s.mgmt with busy := true, pending := some v.toNat } }) ∧
      (∀ w < 32, exec (.registerWrite (0x100 + 8 * w) v) s =
        .next { host with mgmt := { s.mgmt with mbox := s.mgmt.mbox.set w v.toNat } }) ∧
      (∀ off ∈ [0x00, 0x08, 0x18, 0x38, 0x40, 0x208], exec (.registerWrite off v) s = .next host)) ∧
    (∃ t : State, exec .reset s = .next t ∧ t.mem = s.mem ∧ t.poison = s.poison ∧ t.images = s.images ∧ t.launches = [] ∧
      t.tenants = [] ∧ t.regions = [] ∧ t.cmds = [] ∧ t.issue = none ∧ t.gates = [] ∧ t.clock = 0 ∧ t.boot.fuses = s.boot.fuses ∧
      t.boot.status = 1 ∧ t.boot.running = none ∧ t.failedEngines = s.failedEngines ∧ t.moduleId = s.moduleId ∧
      t.owners = s.mgmt.retired.map (fun g => (g, 0)) ∧ t.mgmt.retired = s.mgmt.retired ∧
      (s.failedEngines ≠ [] → t.mgmt.replreq.testBit 1 = true) ∧
      ∀ k ∈ t.cores, k.banks = List.replicate 48 .reg ∧ k.contexts = [] ∧
        (k.failed = true ↔ ∃ x ∈ s.cores, x.num = k.num ∧ x.failed = true))


/-- The mailbox (R389, R390, R393, R395, R416, R417): a command runs once the firmware has its code; a word of MBOX that is no
argument must be 0; the end writes results, then the status, and clears busy. REGISTER_EXPORT_ENTRY and REGISTER_IMPORT_ENTRY put an
entry in, or take it out where its valid bit is 0; JOIN_POD_GROUP makes the group of a box, and REMOVE_POD_MEMBER takes a module out,
or this one out of the group; an unknown code has no effect (model's choices: logs 33, 35 and 36). -/
def Obligations.ExportAndPodCommands : Prop :=
  ∀ s : State,
    (∀ c, 1 ≤ c → c ≤ 10 →
      (s.mgmt.pending ≠ some c → s.mgmt.begun = none → exec (mboxEvent c) s = .next s) ∧
      (s.mgmt.pending = some c → s.mgmt.begun = none → (∃ w < 32, w ∉ mboxArgs c ∧ s.word w ≠ 0) → exec (mboxEvent c) s = .next (s.mboxEnds 0x02 []))) ∧
    (∀ c, (c = 0 ∨ 10 < c) →
      (s.mgmt.pending = some c → exec (.mailboxUnknownCommand c) s = .next (s.mboxEnds 0x01 [])) ∧
      (s.mgmt.pending ≠ some c → exec (.mailboxUnknownCommand c) s = .next s)) ∧
    (s.mboxRuns 1 →
      let n := s.words 0 4
      let e := exportOf n
      let adds (w : Nat) : State := { s with exports := s.exports ++ [{ e with window := w }] }
      (n % 2 = 0 → e.window ≠ 0 → exec .registerExportEntry s =
        .next ({ s with exports := s.exports.filter fun x => x.window != e.window }.mboxEnds 0 [e.window])) ∧
      (n % 2 = 0 → e.window = 0 → exec .registerExportEntry s = .next (s.mboxEnds 0x02 [])) ∧
      (n % 2 = 1 → s.exportOk n = false → exec .registerExportEntry s = .next (s.mboxEnds 0x02 [])) ∧
      (n % 2 = 1 → s.exportOk n = true → e.window ≠ 0 → (∀ x ∈ s.exports, x.window ≠ e.window) → s.exports.length < 4096 →
        exec .registerExportEntry s = .next ((adds e.window).mboxEnds 0 [e.window])) ∧
      (∀ w, n % 2 = 1 → s.exportOk n = true → e.window = 0 → 1 ≤ w → w ≤ 65535 → (∀ x ∈ s.exports, x.window ≠ w) →
        (∀ v, 1 ≤ v → v < w → ∃ x ∈ s.exports, x.window = v) → s.exports.length < 4096 →
        exec .registerExportEntry s = .next ((adds w).mboxEnds 0 [w]))) ∧
    (s.mboxRuns 2 →
      let n := s.words 0 2
      let e : Import := { objid := s.word 2 % 65536, len := bitsOf n 103 64, module := bitsOf n 43 32, window := bitsOf n 31 16 }
      let rest := s.imports.filter fun x => x.objid != e.objid
      (e.objid = 0 → exec .registerImportEntry s = .next (s.mboxEnds 0x02 [])) ∧
      (e.objid ≠ 0 → n % 2 = 0 → exec .registerImportEntry s = .next ({ s with imports := rest }.mboxEnds 0 [])) ∧
      (e.objid ≠ 0 → n % 2 = 1 → bitsOf n 127 104 = 0 → bitsOf n 63 44 = 0 → bitsOf n 15 1 = 0 → e.len ≠ 0 →
        e.module ≠ 0xFFF → e.window ≠ 0 → rest.length < 4096 →
        exec .registerImportEntry s = .next ({ s with imports := rest ++ [e] }.mboxEnds 0 []))) ∧
    (s.mboxRuns 3 →
      let low (i : Nat) : Nat := s.word 1 / 16 ^ i % 16
      let high (i : Nat) : Nat := s.word 1 / 16 ^ (i + 3) % 16
      let ext (i : Nat) : Nat := s.word 2 / 16 ^ i % 16 + 1
      let ms := (List.range 4096).filter fun m =>
        (List.range 3).all fun i => decide (low i ≤ m / 16 ^ i % 16 ∧ m / 16 ^ i % 16 ≤ high i)
      let fits : Prop := (∀ i < 3, low i ≤ high i ∧ high i < ext i) ∧ ext 0 * ext 1 * ext 2 ≤ 2048 ∧
        2 ≤ ms.length ∧ ms.length ≤ 2048 ∧ s.moduleId ∈ ms
      let group : Pod := { tag := s.word 0 % 2 ^ 32, members := ms, count := 0 }
      (fits → s.pod = none → exec .joinPodGroup s =
        .next ({ s with pod := some group, torus := (ext 0, ext 1, ext 2) }.mboxEnds 0 [ms.length])) ∧
      (fits → s.pod.isSome = true → exec .joinPodGroup s = .next (s.mboxEnds FaultCode.fabric.num [])) ∧
      (¬ fits → exec .joinPodGroup s = .next (s.mboxEnds 0x02 []))) ∧
    (s.mboxRuns 4 →
      let id := s.word 0 % 4096
      ((∀ p, s.pod = some p → id ∉ p.members) → exec .removePodMember s = .next (s.mboxEnds 0x02 [])) ∧
      (∀ p, s.pod = some p → id ∈ p.members →
        let rest := p.members.filter fun m => m != id
        (id ≠ s.moduleId → exec .removePodMember s =
          .next ({ s with pod := some { p with members := rest } }.mboxEnds 0 [rest.length])) ∧
        (id = s.moduleId → exec .removePodMember s = .next ({ s with pod := none }.mboxEnds 0 [rest.length]))))

/-- The mailbox (R315, R351, R365, R366, R396, R397, R417): ATTACH_DEBUGGER and DETACH_DEBUGGER of a region, SET_PARTITION_LAYOUT,
TENANT_SAVE, TENANT_RESTORE and WRITE_RANGE_DESCRIPTOR: what each does where its checks pass, or a refusal that changes nothing but the
mailbox. A save that is accepted quiesces the partition first and ends once nothing of the tenant is on a core; the removal of a range
ends once no access of before is on its way to it (R300) (model's choices: logs 12, 30, 31, 34 and 37). -/
def Obligations.LayoutAndTenantCommands : Prop :=
  ∀ s : State,
    (∀ l, s.mboxRuns 5 → s.launch? (s.word 1 % 2 ^ 32) = some l → ∀ r, s.word 0 < 2 ^ 48 →
      s.region? (rkey l.tenant (s.word 0)) = some r → l.ended = false →
      let waits := l.waitsOn (l.tenant, s.eff r.rcb 7 Region.hslice, s.eff r.rcb 7 Region.hgate)
      (l.sup = false → exec .attachDebugger s = .next (s.mboxEnds FaultCode.privilege.num [])) ∧
      (l.sup = true → waits = false → exec .attachDebugger s = .next (s.mboxEnds FaultCode.engineHazard.num [])) ∧
      (l.sup = true → waits = true → exec .attachDebugger s =
        .next ((s.modRegion r.rcb fun x => { x with dbg := some { launch := l.id } }).mboxEnds 0 []))) ∧
    (s.mboxRuns 5 → s.launch? (s.word 1 % 2 ^ 32) = none → exec .attachDebugger s = .next (s.mboxEnds 0x02 [])) ∧
    (s.mboxRuns 6 →
      (∀ r, s.regions.find? (fun r => r.addr == s.word 0 && r.dbg.isSome) = some r →
        exec .detachDebugger s = .next ((s.modRegion r.rcb fun x => { x with dbg := none }).mboxEnds 0 [])) ∧
      ((∀ r ∈ s.regions, r.addr = s.word 0 → r.dbg = none) → exec .detachDebugger s = .next (s.mboxEnds 0x02 []))) ∧
    (s.mboxRuns 7 → let y : Layout := { slices := nibbles (s.word 0) 12, groups := nibbles (s.word 1) 12 }
      (y.ok = false → exec .setPartitionLayout s = .next (s.mboxEnds 0x02 [])) ∧
      (y.ok = true → (∃ t ∈ s.tenants, (t.first, t.slices) ∉ y.runs) →
        exec .setPartitionLayout s = .next (s.mboxEnds FaultCode.engineHazard.num [])) ∧
      (y.ok = true → (∀ t ∈ s.tenants, (t.first, t.slices) ∈ y.runs) → ∃ t, exec .setPartitionLayout s = .next t ∧
        t.layout = y ∧ t.mgmt.status = 0 ∧ t.mgmt.busy = false ∧ t.mem = s.mem ∧ t.launches = s.launches)) ∧
    (s.mboxRuns 8 → s.mgmt.begun = none → (∀ t ∈ s.tenants, t.num ≠ s.word 0 % 4096) ∨ s.areaOk (s.word 1) (s.word 2) = false →
      exec .tenantSave s = .next (s.mboxEnds 0x02 [])) ∧
    (∀ t, s.mboxRuns 8 → s.mgmt.begun = none → s.tenant? (s.word 0 % 4096) = some t → s.areaOk (s.word 1) (s.word 2) = true →
      let extra := Config.freeChoice s.free
      ∃ u, exec .tenantSave s = .next u ∧ u.tenants = s.tenants ∧ u.images = s.images ∧
        if s.word 2 < (s.granulesOf t.num).length * unit + extra then
          u.mgmt.busy = false ∧ u.mgmt.status = FaultCode.indexExhausted.num ∧ u.mgmt.begun = none
        else u.mgmt = { s.mgmt with begun := some (.save t.num (s.word 1) (s.word 2) extra) }) ∧
    (∀ n pa len extra, s.mgmt.begun = some (.save n pa len extra) →
      let size := (s.granulesOf n).length * unit + extra
      (s.onCores n = true → exec .tenantSave s = .next s) ∧
      (s.onCores n = false → ∀ t, s.tenant? n = some t → ∃ u, exec .tenantSave s = .next u ∧
        u.mgmt.busy = false ∧ u.mgmt.begun = none ∧
        if len < size then u.mgmt.status = FaultCode.indexExhausted.num ∧ u.tenants = s.tenants ∧ u.images = s.images
        else u.mgmt.status = 0 ∧ (∀ x ∈ u.tenants, x.num ≠ n) ∧ (∀ x ∈ u.launches, x.tenant ≠ n) ∧
          u.images.length = s.images.length + 1)) ∧
    (s.mboxRuns 9 → (∀ i ∈ s.images, i.digest ≠ sha256 (s.mem.bytes (s.word 1) (s.word 2))) →
      exec .tenantRestore s = .next (s.mboxEnds FaultCode.format.num [3])) ∧
    (∀ i run, s.mboxRuns 9 → s.images.find? (fun i => i.digest == sha256 (s.mem.bytes (s.word 1) (s.word 2))) = some i →
      i.version = Config.imageVersion (s.boot.running.getD []) →
      s.layout.runs.find? (fun x => x.1 == s.word 0 % 16) = some run → run.2 = i.tenant.slices →
      (∀ t ∈ s.tenants, t.num ≠ i.tenant.num ∧ t.first ≠ s.word 0 % 16) →
      (∀ x, s.allot i.tenant.num (s.word 0 % 16) run.2 ((runsOf i.whole i.granules).foldr insertRun []) = some x → exec .tenantRestore s =
        .next ((x.1.putImage i (s.word 0 % 16) x.2).mboxEnds 0 [0, i.tenant.num])) ∧
      (s.allot i.tenant.num (s.word 0 % 16) run.2 ((runsOf i.whole i.granules).foldr insertRun []) = none → exec .tenantRestore s =
        .next (s.mboxEnds FaultCode.indexExhausted.num [2]))) ∧
    (∀ n since lo len count, s.mgmt.begun = some (.range n since lo len count) →
      (s.onItsWay n since [(lo, len)] = true → exec .writeRangeDescriptor s = .next s) ∧
      (s.onItsWay n since [(lo, len)] = false →
        exec .writeRangeDescriptor s = .next ({ s with mgmt := { s.mgmt with begun := none } }.mboxEnds 0 [count]))) ∧
    (∀ t, s.mboxRuns 10 → s.mgmt.begun = none → s.tenant? (s.word 0 % 4096) = some t →
      let d := s.words 1 4
      let e := entryOf d
      let all := (s.dirList t).map entryOf
      let rest := all.filter fun x => x.vbase != e.vbase
      (s.word 5 % 2 = 1 →
        ((∀ x ∈ all, x.vbase ≠ e.vbase) → exec .writeRangeDescriptor s = .next (s.mboxEnds FaultCode.rangeMiss.num [])) ∧
        ((∃ x ∈ all, x.vbase = e.vbase) → s.moveInFlight t.num e.vbase = true →
          exec .writeRangeDescriptor s = .next (s.mboxEnds FaultCode.engineHazard.num [])) ∧
        (∀ x, all.find? (fun x => x.vbase == e.vbase) = some x → s.moveInFlight t.num e.vbase = false →
          let v := s.setDir t rest [e.vbase]
          let lo := x.vbase * unit
          let len := x.units * unit
          (v.onItsWay t.num s.clock [(lo, len)] = false → exec .writeRangeDescriptor s = .next (v.mboxEnds 0 [rest.length])) ∧
          (v.onItsWay t.num s.clock [(lo, len)] = true → exec .writeRangeDescriptor s =
            .next { v with mgmt := { v.mgmt with begun := some (.range t.num s.clock lo len rest.length) } }))) ∧
      (s.word 5 % 2 = 0 →
        (descBad t.num d = true ∨ (∃ x ∈ all, e.vbase < x.limit ∧ x.vbase < e.limit) →
          exec .writeRangeDescriptor s = .next (s.mboxEnds FaultCode.format.num [])) ∧
        (descBad t.num d = false → (∀ x ∈ all, ¬ (e.vbase < x.limit ∧ x.vbase < e.limit)) →
          (min t.cap 65535 ≤ t.ndir → exec .writeRangeDescriptor s = .next (s.mboxEnds FaultCode.indexExhausted.num [])) ∧
          (t.ndir < min t.cap 65535 → s.ownsRun t.num (e.pbase * unit) (e.units * unit) = false →
            exec .writeRangeDescriptor s = .next (s.mboxEnds FaultCode.ownership.num [])) ∧
          (t.ndir < min t.cap 65535 → s.ownsRun t.num (e.pbase * unit) (e.units * unit) = true →
            exec .writeRangeDescriptor s =
              .next ((s.setDir t (insertRange e all) []).mboxEnds 0 [(insertRange e all).length])))))

/-- R410: the endpoint answers each request of its table, with SPDM 1.2, RSASSA-PSS 3072 and SHA-384; any other request, and a measurement index that is not listed, is answered
as unsupported; a request is host traffic and changes nothing else (model's choices: logs 29 and 32). -/
def Obligations.Attestation : Prop :=
  ∀ s : State,
    let answers (m : SpdmMsg) : Out := .next { s.hostAccess with spdmOut := s.spdmOut ++ [m] }
    exec .getVersion s = answers (.version 1 2) ∧ exec .getCapabilities s = answers .capabilities ∧
    exec .negotiateAlgorithms s = answers (.algorithms .rsassaPss3072 .sha384) ∧ exec .getDigests s = answers .digests ∧
    exec .getCertificate s = answers .certificate ∧ exec .challenge s = answers .challengeAuth ∧
    exec (.getMeasurements 1) s = answers (.measurements 1 Config.romDigest true true) ∧
    exec (.getMeasurements 2) s = answers (.measurements 2 (Config.imageDigest (s.boot.running.getD [])) true true) ∧
    exec (.getMeasurements 3) s = answers (.measurements 3 s.boot.fuses true true) ∧
    exec (.getMeasurements 4) s = answers (.measurements 4 s.layout.num true true) ∧
    (∀ k, k = 0 ∨ 4 < k → exec (.getMeasurements k) s = answers .unsupported) ∧
    (∀ k, exec (.unsupportedRequest k) s = answers .unsupported)
end

