-- ==== Sys2Proof/Laws/Memory.lean ====
section
/-! SUPPORT. Memory: every operation keeps the canonical form, and a read after a write. -/

namespace Sys2Proof.Machine

theorem cellsFrom_le {lo k : Nat} : ∀ {m : Memory}, k ≤ lo → cellsFrom lo m = true → cellsFrom k m = true
  | [], _, _ => rfl
  | (a, b) :: m, hk, h => by
    simp only [cellsFrom, Bool.and_eq_true, decide_eq_true_eq] at h ⊢
    exact ⟨⟨by omega, h.1.2⟩, h.2⟩

/-- Below every listed address a byte reads as unlisted. -/
theorem get_below {lo x : Nat} : ∀ {m : Memory}, cellsFrom lo m = true → x < lo → m.get x = unlisted
  | [], _, _ => rfl
  | (a, b) :: m, h, hx => by
    simp only [cellsFrom, Bool.and_eq_true, decide_eq_true_eq] at h
    unfold Memory.get
    rw [if_neg (by omega), if_pos (by omega)]

theorem cellsFrom_set {lo x : Nat} {v : Byte} (hx : lo ≤ x) :
    ∀ {m : Memory}, cellsFrom lo m = true → cellsFrom lo (m.set x v) = true
  | [], _ => by
    unfold Memory.set
    split
    · rfl
    · rename_i hv
      simp [cellsFrom, hx, hv]
  | (a, b) :: m, h => by
    simp only [cellsFrom, Bool.and_eq_true, decide_eq_true_eq] at h
    obtain ⟨⟨ha, hb⟩, hm⟩ := h
    unfold Memory.set
    split
    · rename_i hxa
      split
      · simp [cellsFrom, ha, hb, hm]
      · rename_i hv
        have : x + 1 ≤ a := by omega
        simp [cellsFrom, hx, hv, this, hb, hm]
    · split
      · rename_i hxa
        subst hxa
        split
        · exact cellsFrom_le (by omega) hm
        · rename_i hv
          simp [cellsFrom, hx, hv, hm]
      · rename_i h1 h2
        simp only [cellsFrom, Bool.and_eq_true, decide_eq_true_eq]
        exact ⟨⟨ha, hb⟩, cellsFrom_set (by omega) hm⟩

theorem get_set_from {lo x y : Nat} {v : Byte} :
    ∀ {m : Memory}, cellsFrom lo m = true → (m.set x v).get y = if y = x then v else m.get y
  | [], _ => by
    unfold Memory.set
    by_cases hv : v = unlisted
    · subst hv
      simp [Memory.get]
    · simp only [hv, if_false, Memory.get, ite_self]
  | (a, b) :: m, h => by
    simp only [cellsFrom, Bool.and_eq_true, decide_eq_true_eq] at h
    obtain ⟨⟨ha, hb⟩, hm⟩ := h
    have hbelow : ∀ z, z ≤ a → Memory.get m z = unlisted := fun z hz => get_below hm (by omega)
    unfold Memory.set
    by_cases h1 : x < a
    · rw [if_pos h1]
      by_cases hv : v = unlisted
      · rw [if_pos hv]
        by_cases hy : y = x
        · subst hy
          rw [if_pos rfl, hv]
          unfold Memory.get
          rw [if_neg (by omega), if_pos h1]
        · rw [if_neg hy]
      · rw [if_neg hv]
        by_cases hy : y = x
        · subst hy
          simp [Memory.get]
        · rw [if_neg hy]
          conv => lhs; unfold Memory.get
          rw [if_neg hy]
          by_cases hyx : y < x
          · rw [if_pos hyx]
            unfold Memory.get
            rw [if_neg (by omega), if_pos (by omega)]
          · rw [if_neg hyx]
    · rw [if_neg h1]
      by_cases h2 : x = a
      · subst h2
        rw [if_pos rfl]
        by_cases hv : v = unlisted
        · rw [if_pos hv]
          by_cases hy : y = x
          · subst hy
            rw [if_pos rfl, hbelow _ (Nat.le_refl _), hv]
          · rw [if_neg hy]
            conv => rhs; unfold Memory.get
            rw [if_neg hy]
            by_cases hyx : y < x
            · rw [if_pos hyx, hbelow _ (by omega)]
            · rw [if_neg hyx]
        · rw [if_neg hv]
          by_cases hy : y = x
          · subst hy
            simp [Memory.get]
          · rw [if_neg hy]
            unfold Memory.get
            rw [if_neg hy, if_neg hy]
      · rw [if_neg h2]
        conv => lhs; unfold Memory.get
        rw [get_set_from hm]
        by_cases hya : y = a
        · subst hya
          rw [if_pos rfl, if_neg (by omega)]
          simp [Memory.get]
        · rw [if_neg hya]
          by_cases hyl : y < a
          · rw [if_pos hyl, if_neg (by omega)]
            unfold Memory.get
            rw [if_neg hya, if_pos hyl]
          · rw [if_neg hyl]
            by_cases hy : y = x
            · rw [if_pos hy, if_pos hy]
            · rw [if_neg hy, if_neg hy]
              conv => rhs; unfold Memory.get
              rw [if_neg hya, if_neg hyl]

/-- A write of one byte keeps the canonical form. -/
theorem wf_set {m : Memory} (h : m.wf = true) (x : Nat) (v : Byte) : (m.set x v).wf = true :=
  cellsFrom_set (Nat.zero_le _) h

/-- A read after a write of one byte. -/
theorem get_set {m : Memory} (h : m.wf = true) (x y : Nat) (v : Byte) : (m.set x v).get y = if y = x then v else m.get y :=
  get_set_from h

theorem wf_setBytes : ∀ (bs : List Byte) {m : Memory} (_ : m.wf = true) (x : Nat), (m.setBytes x bs).wf = true
  | [], _, h, _ => h
  | b :: bs, _, h, x => wf_setBytes bs (wf_set h x b) (x + 1)

theorem get_setBytes : ∀ (bs : List Byte) {m : Memory} (_ : m.wf = true) (x y : Nat),
    (m.setBytes x bs).get y = if x ≤ y ∧ y < x + bs.length then bs.getD (y - x) unlisted else m.get y
  | [], _, _, x, y => by
    rw [if_neg (by simp only [List.length_nil]; omega)]
    rfl
  | b :: bs, m, h, x, y => by
    show ((m.set x b).setBytes (x + 1) bs).get y = _
    rw [get_setBytes bs (wf_set h x b), get_set h]
    simp only [List.length_cons]
    by_cases h1 : y = x
    · subst h1
      rw [if_neg (by omega), if_pos rfl, if_pos (by omega)]
      simp
    · rw [if_neg h1]
      by_cases h2 : x + 1 ≤ y ∧ y < x + 1 + bs.length
      · rw [if_pos h2, if_pos (by omega)]
        have : y - x = (y - (x + 1)) + 1 := by omega
        rw [this]
        simp
      · rw [if_neg h2, if_neg (by omega)]

theorem wf_setMasked : ∀ (bs : List (Option Byte)) {m : Memory} (_ : m.wf = true) (x : Nat), (m.setMasked x bs).wf = true
  | [], _, h, _ => h
  | none :: bs, _, h, x => wf_setMasked bs h (x + 1)
  | some b :: bs, _, h, x => wf_setMasked bs (wf_set h x b) (x + 1)

theorem get_setMasked : ∀ (bs : List (Option Byte)) {m : Memory} (_ : m.wf = true) (x y : Nat),
    (m.setMasked x bs).get y = if x ≤ y ∧ y < x + bs.length then ((bs.getD (y - x) none).getD (m.get y)) else m.get y
  | [], _, _, x, y => by
    rw [if_neg (by simp only [List.length_nil]; omega)]
    rfl
  | o :: bs, m, h, x, y => by
    have step : ∀ k : Memory, k.wf = true → (∀ z, z ≠ x → k.get z = m.get z) → k.get x = o.getD (m.get x) →
        (k.setMasked (x + 1) bs).get y = if x ≤ y ∧ y < x + (o :: bs).length
          then (((o :: bs).getD (y - x) none).getD (m.get y)) else m.get y := by
      intro k hk hz hx
      rw [get_setMasked bs hk]
      simp only [List.length_cons]
      by_cases h1 : y = x
      · subst h1
        rw [if_neg (by omega), if_pos (by omega), hx]
        simp
      · rw [hz y h1]
        by_cases h2 : x + 1 ≤ y ∧ y < x + 1 + bs.length
        · rw [if_pos h2, if_pos (by omega)]
          have : y - x = (y - (x + 1)) + 1 := by omega
          rw [this]
          simp
        · rw [if_neg h2, if_neg (by omega)]
    cases o with
    | none => exact step m h (fun _ _ => rfl) rfl
    | some b =>
      refine step (m.set x b) (wf_set h x b) (fun z hz => ?_) ?_
      · rw [get_set h, if_neg hz]
      · rw [get_set h, if_pos rfl]
        rfl

theorem wf_putBytes : ∀ (ps : List (Nat × Byte)) {m : Memory} (_ : m.wf = true), (m.putBytes ps).wf = true
  | [], _, h => h
  | p :: ps, _, h => wf_putBytes ps (wf_set h p.1 p.2)

theorem wf_putCells (f : Nat → Nat) : ∀ (cs : List Host.Cell) {m : Memory} (_ : m.wf = true), (m.putCells f cs).wf = true
  | [], _, h => h
  | c :: cs, _, h => wf_putCells f cs (wf_set h (f c.1) c.2)

theorem wf_copyRun (src dst : Nat) : ∀ (k : Nat) (m : Memory) (_ : m.wf = true), (copyRun m src dst k).wf = true
  | 0, m, h => by
    unfold copyRun
    exact h
  | k + 1, m, h => by
    unfold copyRun
    exact wf_copyRun src dst k _ (wf_setBytes _ h _)

theorem cellsFrom_filter (p : Host.Cell → Bool) : ∀ {m : Memory} {lo : Nat}, cellsFrom lo m = true →
    cellsFrom lo (m.filter p) = true
  | [], _, _ => rfl
  | (a, b) :: m, lo, h => by
    simp only [cellsFrom, Bool.and_eq_true, decide_eq_true_eq] at h
    rw [List.filter_cons]
    split
    · simp only [cellsFrom, Bool.and_eq_true, decide_eq_true_eq]
      exact ⟨h.1, cellsFrom_filter p h.2⟩
    · exact cellsFrom_filter p (cellsFrom_le (by omega) h.2)

theorem wf_clear {m : Memory} (h : m.wf = true) (gs : List Nat) : (m.clear gs).wf = true := cellsFrom_filter _ h

/-- A read of several bytes is the reads of each. -/
theorem bytes_getD (m : Memory) : ∀ (n x i : Nat), i < n → (m.bytes x n).getD i unlisted = m.get (x + i)
  | 0, _, _, h => by omega
  | n + 1, x, i, h => by
    unfold Memory.bytes
    cases i with
    | zero => simp
    | succ i =>
      simp only [List.getD_cons_succ]
      rw [bytes_getD m n (x + 1) i (by omega)]
      congr 1
      omega

end Sys2Proof.Machine
end

