-- ==== Sys2Proof/Machine/KzText.lean ====
section
/-! DEFINITION. The source text of the `kzas` assembler: options, lines, tokens, macros and expressions
(05_kzas_assembler.md R99, R101, R103, R105, R110, R111, R116). -/

namespace Sys2Proof.Kzas

/-! ## Diagnostics (R100, R116) -/

/-- The check levels (R100). -/
inductive Level where
  | strict
  | normal
  | off
  deriving DecidableEq, Repr, Inhabited

/-- The letter of a diagnostic's code. -/
inductive Sort' where
  | e
  | w
  deriving DecidableEq, Repr, Inhabited

/-- A diagnostic: position in the source as written, letter and number of its code (R116). -/
structure Diag where
  file : String
  line : Nat
  col  : Nat
  kind : Sort'
  code : Nat
  deriving DecidableEq, Repr, Inhabited

/-- What the check level makes of a diagnostic (R100): under `strict` a warning is an error, under `off` E5xx, W4xx and W6xx
are not checked. -/
def Level.sees (lv : Level) (d : Diag) : Option Diag :=
  match lv with
  | .strict => some { d with kind := .e }
  | .normal => some d
  | .off => if d.kind = .w ∨ 500 ≤ d.code then none else some d

/-- The meaning of a code (R116). -/
def meanings : List (Nat × String) :=
  [(101, "unknown name or a name not in lowercase"), (102, "operand count or malformed operand"), (103, "suffix"),
   (104, "undefined symbol"), (105, "separator outside parentheses in a default-mode line"), (106, "defined twice"),
   (107, "unbalanced directives or a kernel directive outside a kernel"), (108, "macro arguments or nesting"),
   (109, "include file"), (201, "value out of range"), (202, "register at or above the window"),
   (203, "odd register or a run past the last register")] ++
  [(204, "reserved code"), (205, "permutation, lane or extra operand not allowed"), (206, "supervisor only"),
   (207, "out of reach"), (208, "gate index or constant block"), (301, "more than three words"),
   (302, "modifier without target"), (303, "two words on one pipe"), (304, "two control words"),
   (305, "written twice in a chain"), (306, "no code label, or data in code"), (307, "stall outside 0 to 3")] ++
  [(401, "stall too short"), (402, "stall floor has no effect"), (403, "loop that ends no step"),
   (404, "literal overflows to infinity"), (501, "journal full"), (502, "pending result"), (503, "pending spawn"),
   (504, "block and spawns above 65536"), (601, "store through a range of cp"), (602, "load through a range of cp"),
   (603, "quad written since it was a capability")]

/-- The line of a diagnostic: `file:line:column: code: text` (R116). The spec fixes no wording of the text (log 51). -/
def Diag.show (d : Diag) : String :=
  d.file ++ ":" ++ toString d.line ++ ":" ++ toString d.col ++ ": " ++ (if d.kind = .e then "E" else "W") ++ toString d.code ++
    ": " ++ (meanings.lookup d.code).getD ""

/-! ## Options (R99) -/

/-- What the command line asks for. -/
structure Options where
  /-- definitions, the last of a name first -/
  defs    : List (String × List Char)
  dirs    : List String
  level   : Level
  manual  : Bool
  listing : Bool
  input   : Option String
  output  : Option String
  deriving DecidableEq, Repr, Inhabited

/-- No option given. -/
def Options.none : Options :=
  { defs := [], dirs := [], level := .normal, manual := false, listing := false, input := .none, output := .none }

/-- Split at the first element that satisfies `p`; it is dropped. -/
def splitAt {α : Type} (p : α → Bool) : List α → List α × Option (List α)
  | [] => ([], none)
  | c :: cs => if p c then ([], some cs) else let r := splitAt p cs; (c :: r.1, r.2)

/-- A definition `name` or `name=expr` of `-D`; the value is 1 when none is given. -/
def defOf (s : String) : String × List Char :=
  let r := splitAt (· == '=') s.toList
  (String.ofList r.1, r.2.getD ['1'])

/-- The options of a command line; none stands for exit status 2 (an unknown option, a missing input or a refused value). R99 does
not name a command line without `-o` or with a second input; both are exit status 2 here (DESIGN CHOICE, log 51). -/
def options : List String → Options → Option Options
  | [], o => if o.input.isSome && o.output.isSome then some o else none
  | "-D" :: d :: rest, o => options rest { o with defs := defOf d :: o.defs }
  | "-I" :: d :: rest, o => options rest { o with dirs := o.dirs ++ [d] }
  | "--shape" :: "VS1" :: rest, o => options rest o
  | "--check=strict" :: rest, o => options rest { o with level := .strict }
  | "--check=normal" :: rest, o => options rest { o with level := .normal }
  | "--check=off" :: rest, o => options rest { o with level := .off }
  | "--manual" :: rest, o => options rest { o with manual := true }
  | "--listing" :: rest, o => options rest { o with listing := true }
  | "-o" :: f :: rest, o => options rest { o with output := some f }
  | f :: rest, o => if f.toList.head? == some '-' || o.input.isSome then none else options rest { o with input := some f }

/-! ## Tokens -/

/-- A token of a source line. -/
inductive Tok where
  /-- a name with its dots: a mnemonic with suffixes, a register, a directive, a label -/
  | name (s : String)
  /-- a number as written -/
  | num (cs : List Char)
  | str (s : String)
  | sym (c : Char)
  /-- `<<` or `>>` -/
  | shift (left : Bool)
  deriving DecidableEq, Repr, Inhabited

/-- A token with its column, counted from 1. -/
structure Tk where
  tok : Tok
  col : Nat
  deriving DecidableEq, Repr, Inhabited

/-- Characters that begin a name. -/
def nameStart (c : Char) : Bool := c.isAlpha || c == '_' || c == '.'
/-- Characters that go on with a name or a number. -/
def nameChar (c : Char) : Bool := nameStart c || c.isDigit

/-- What the lexer is in the middle of. -/
inductive Lex where
  | out
  | inName (cs : List Char) (col : Nat)
  | inNum (cs : List Char) (col : Nat)
  | inStr (cs : List Char) (col : Nat)
  deriving DecidableEq, Repr, Inhabited

/-- A finished token. -/
def Lex.flush : Lex → List Tk
  | .out => []
  | .inName cs col => [{ tok := .name (String.ofList cs.reverse), col := col }]
  | .inNum cs col => [{ tok := .num cs.reverse, col := col }]
  | .inStr cs col => [{ tok := .str (String.ofList cs.reverse), col := col }]

/-- A sign goes on with a number when it follows the exponent letter of a float: `p` of a hexadecimal significand, or `e` of a
decimal number. `cs` is the number so far, last character first. -/
def signGoes (cs : List Char) : Bool :=
  match cs with
  | 'p' :: _ => true
  | 'e' :: rest => !rest.contains 'x'
  | _ => false

/-- The tokens of a line up to its comment (R101); `col` is the column of the next character. -/
def lex : Lex → Nat → List Char → List Tk
  | st, _, [] => st.flush
  | .inStr cs c0, col, c :: rest =>
    if c = '"' then Lex.flush (.inStr cs c0) ++ lex .out (col + 1) rest else lex (.inStr (c :: cs) c0) (col + 1) rest
  | .inNum cs c0, col, c :: rest =>
    if nameChar c || ((c == '+' || c == '-') && signGoes cs) then lex (.inNum (c :: cs) c0) (col + 1) rest
    else
      Lex.flush (.inNum cs c0) ++
        (if c = ';' then [] else if c = '/' ∧ rest.head? = some '/' then []
         else if c = ' ' ∨ c = '\t' then lex .out (col + 1) rest
         else if (c = '<' ∨ c = '>') ∧ rest.head? = some c then
           match rest with
           | _ :: more => { tok := .shift (c == '<'), col := col } :: lex .out (col + 2) more
           | [] => []
         else { tok := .sym c, col := col } :: lex .out (col + 1) rest)
  | .inName cs c0, col, c :: rest =>
    if nameChar c then lex (.inName (c :: cs) c0) (col + 1) rest
    else
      Lex.flush (.inName cs c0) ++
        (if c = ';' then [] else if c = '/' ∧ rest.head? = some '/' then []
         else if c = ' ' ∨ c = '\t' then lex .out (col + 1) rest
         else if (c = '<' ∨ c = '>') ∧ rest.head? = some c then
           match rest with
           | _ :: more => { tok := .shift (c == '<'), col := col } :: lex .out (col + 2) more
           | [] => []
         else { tok := .sym c, col := col } :: lex .out (col + 1) rest)
  | .out, col, c :: rest =>
    if c = ';' then [] else if c = '/' ∧ rest.head? = some '/' then []
    else if c = ' ' ∨ c = '\t' then lex .out (col + 1) rest
    else if c = '"' then lex (.inStr [] col) (col + 1) rest
    else if c.isDigit then lex (.inNum [c] col) (col + 1) rest
    else if nameStart c then lex (.inName [c] col) (col + 1) rest
    else if (c = '<' ∨ c = '>') ∧ rest.head? = some c then
      match rest with
      | _ :: more => { tok := .shift (c == '<'), col := col } :: lex .out (col + 2) more
      | [] => []
    else { tok := .sym c, col := col } :: lex .out (col + 1) rest

/-- A line's tokens. -/
def tokens (cs : List Char) : List Tk := lex .out 1 cs

/-! ## Numbers -/

/-- A digit's value in a base. -/
def digit (base : Nat) (c : Char) : Option Nat :=
  let n := if c.isDigit then c.toNat - '0'.toNat
    else if 'a' ≤ c ∧ c ≤ 'f' then c.toNat - 'a'.toNat + 10
    else if 'A' ≤ c ∧ c ≤ 'F' then c.toNat - 'A'.toNat + 10 else 16
  if n < base then some n else none

/-- Digits, with underscores between them, on top of `acc`. -/
def digits (base : Nat) : List Char → Nat → Option Nat
  | [], acc => some acc
  | '_' :: cs, acc => if cs.isEmpty || cs.head? == some '_' then none else digits base cs acc
  | c :: cs, acc => (digit base c).bind fun d => digits base cs (acc * base + d)

/-- A constant: decimal, `0x` or `0b` (R105). -/
def constant (cs : List Char) : Option Nat :=
  match cs with
  | '0' :: 'x' :: rest => if rest.isEmpty || rest.head? == some '_' then none else digits 16 rest 0
  | '0' :: 'b' :: rest => if rest.isEmpty || rest.head? == some '_' then none else digits 2 rest 0
  | _ => if cs.isEmpty then none else digits 10 cs 0

/-- A signed decimal exponent. -/
def expo (cs : List Char) : Option Int :=
  match cs with
  | '-' :: rest => if rest.isEmpty then none else (digits 10 rest 0).map fun n => -(n : Int)
  | '+' :: rest => if rest.isEmpty then none else (digits 10 rest 0).map fun n => (n : Int)
  | _ => if cs.isEmpty then none else (digits 10 cs 0).map fun n => (n : Int)

/-- A magnitude as a fraction num/den: significand digits of a base with a point, times scale^exponent. -/
def fraction (base scale : Nat) (sig : List Char) (e : Int) : Option (Nat × Nat) :=
  let r := splitAt (· == '.') sig
  let frac := r.2.getD []
  if r.1.isEmpty && frac.isEmpty then none
  else
    match digits base (if r.1.isEmpty then ['0'] else r.1) 0 with
    | none => none
    | some i =>
      match (if frac.isEmpty then some 0 else digits base frac 0) with
      | none => none
      | some f =>
        let k := (frac.filter (· != '_')).length
        let n := i * base ^ k + f
        if 0 ≤ e then some (n * scale ^ e.toNat, base ^ k) else some (n, base ^ k * scale ^ (-e).toNat)

/-- A float literal's magnitude (R110): decimal, or with a hexadecimal significand and a power of two. -/
def floatMag (cs : List Char) : Option (Nat × Nat) :=
  match cs with
  | '0' :: 'x' :: rest =>
    let r := splitAt (· == 'p') rest
    match r.2 with
    | none => fraction 16 2 r.1 0
    | some x => (expo x).bind (fraction 16 2 r.1)
  | _ =>
    let r := splitAt (· == 'e') cs
    match r.2 with
    | none => fraction 10 10 r.1 0
    | some x => (expo x).bind (fraction 10 10 r.1)

/-- num/den rounded to the nearest even, subnormals kept, ±∞ past the largest finite (R110, R158). -/
def roundFraction (f : Machine.Fmt) (neg : Bool) (num den : Nat) : Nat :=
  if num = 0 then f.signed neg 0
  else
    let k := f.width + 2 + Nat.log2 den
    let q := num * 2 ^ k / den
    f.roundSticky neg q (-(k : Int)) (decide (num * 2 ^ k % den ≠ 0))

/-! ## Expressions (R105) -/

/-- The operators. -/
inductive BinOp where
  | add | sub | mul | div | mod | shl | shr | and | xor | or
  deriving DecidableEq, Repr, Inhabited

/-- An expression. -/
inductive Ex where
  | num (n : Int)
  /-- a name and its column -/
  | name (s : String) (col : Nat)
  | neg (e : Ex)
  | not (e : Ex)
  | bin (op : BinOp) (a b : Ex)
  | lo17 (e : Ex)
  | hi15 (e : Ex)
  deriving DecidableEq, Repr, Inhabited

/-- Precedence of a binary operator as in C: the higher binds closer. -/
def BinOp.prec : BinOp → Nat
  | .mul | .div | .mod => 6
  | .add | .sub => 5
  | .shl | .shr => 4
  | .and => 3
  | .xor => 2
  | .or => 1

/-- The operator a token stands for. `|` and `&` are operators inside parentheses alone. -/
def binOf (inside : Bool) : Tok → Option BinOp
  | .sym '+' => some .add
  | .sym '-' => some .sub
  | .sym '*' => some .mul
  | .sym '/' => some .div
  | .sym '%' => some .mod
  | .sym '^' => some .xor
  | .sym '&' => if inside then some .and else none
  | .sym '|' => if inside then some .or else none
  | .shift l => some (if l then .shl else .shr)
  | _ => none

mutual
/-- A unary expression at the head of the tokens, with the rest. -/
def parseUnary : Nat → Bool → List Tk → Option (Ex × List Tk)
  | 0, _, _ => none
  | n + 1, inside, ts =>
    match ts with
    | [] => none
    | t :: rest =>
      match t.tok with
      | .sym '-' => (parseUnary n inside rest).map fun r => (.neg r.1, r.2)
      | .sym '~' => (parseUnary n inside rest).map fun r => (.not r.1, r.2)
      | .sym '+' => parseUnary n inside rest
      | .sym '(' =>
        match parseBin n 1 true rest with
        | some (e, c :: more) => if c.tok = .sym ')' then some (e, more) else none
        | _ => none
      | .num cs => (constant cs).map fun k => (.num k, rest)
      | .name s =>
        match rest with
        | c :: more =>
          if c.tok = .sym '(' ∧ (s = "lo17" ∨ s = "hi15") then
            match parseBin n 1 true more with
            | some (e, d :: tail) => if d.tok = .sym ')' then some (if s = "lo17" then .lo17 e else .hi15 e, tail) else none
            | _ => none
          else some (.name s t.col, rest)
        | [] => some (.name s t.col, [])
      | _ => none
/-- An expression whose operators bind at least as close as `p`. -/
def parseBin : Nat → Nat → Bool → List Tk → Option (Ex × List Tk)
  | 0, _, _, _ => none
  | n + 1, p, inside, ts =>
    match parseUnary n inside ts with
    | none => none
    | some (e, rest) => parseRest n p inside e rest
/-- What follows a left operand. -/
def parseRest : Nat → Nat → Bool → Ex → List Tk → Option (Ex × List Tk)
  | 0, _, _, _, _ => none
  | n + 1, p, inside, e, ts =>
    match ts with
    | [] => some (e, [])
    | t :: rest =>
      match binOf inside t.tok with
      | none => some (e, ts)
      | some op =>
        if op.prec < p then some (e, ts)
        else
          match parseBin n (op.prec + 1) inside rest with
          | none => none
          | some (b, more) => parseRest n p inside (.bin op e b) more
end

/-- The expression at the head of the tokens, outside parentheses. -/
def parseEx (ts : List Tk) : Option (Ex × List Tk) := parseBin (4 * ts.length + 4) 1 false ts

/-- 64-bit two's complement. -/
def wrap64 (n : Int) : Int := signedOf 64 (n % 2 ^ 64).toNat

/-- Where a label stands: the number of its section and its offset there. -/
structure Place where
  sect : Nat
  off  : Nat
  deriving DecidableEq, Repr, Inhabited

/-- A symbol in a value: its key, and its place when this object defines it. -/
structure Label where
  key   : String
  place : Option Place
  deriving DecidableEq, Repr, Inhabited

/-- A value: a constant, or a symbol plus a constant, perhaps narrowed by `lo17` or `hi15`. -/
inductive Val where
  | int (n : Int)
  | sym (l : Label) (add : Int)
  | low (l : Label) (add : Int)
  | high (l : Label) (add : Int)
  deriving DecidableEq, Repr, Inhabited

/-- What a name stands for: a constant expression of `.equ`, wherever it stands in the source (log 51), with a depth that is
enough for it and every constant it uses; a label or an external symbol. -/
inductive Meaning where
  | const (e : Ex) (depth : Nat)
  | label (l : Label)
  deriving DecidableEq, Repr, Inhabited

/-- Bits [16:0] read as a signed 17-bit value. -/
def lo17Of (n : Int) : Int := signedOf 17 (n % 2 ^ 17).toNat
/-- Bits [31:17]. -/
def hi15Of (n : Int) : Int := n % 2 ^ 64 / 2 ^ 17 % 2 ^ 15

/-- Why an expression has no value: an undefined name, or operands an operator does not take. -/
inductive ExErr where
  /-- the name at this column is not defined -/
  | undefined (col : Nat)
  | malformed
  deriving DecidableEq, Repr, Inhabited

/-- A binary operator on constants; division truncates toward zero. R105 does not say how `>>` fills from the left, nor what a
count outside 0 to 63 does: here `>>` is arithmetic, and such a count is a malformed operand (DESIGN CHOICE, log 51). -/
def BinOp.eval (op : BinOp) (a b : Int) : Except ExErr Int :=
  let ua := (a % 2 ^ 64).toNat
  let ub := (b % 2 ^ 64).toNat
  match op with
  | .add => .ok (wrap64 (a + b))
  | .sub => .ok (wrap64 (a - b))
  | .mul => .ok (wrap64 (a * b))
  | .div => if b = 0 then .error .malformed else .ok (wrap64 (Int.tdiv a b))
  | .mod => if b = 0 then .error .malformed else .ok (wrap64 (Int.tmod a b))
  | .shl => if 0 ≤ b ∧ b < 64 then .ok (wrap64 (a * 2 ^ b.toNat)) else .error .malformed
  | .shr => if 0 ≤ b ∧ b < 64 then .ok (a / 2 ^ b.toNat) else .error .malformed
  | .and => .ok (wrap64 (Nat.land ua ub))
  | .xor => .ok (wrap64 (Nat.xor ua ub))
  | .or => .ok (wrap64 (Nat.lor ua ub))

/-- The value of an expression; `look` gives the meaning of a name. A label takes an added or subtracted constant, and the
difference of two labels of one section is a constant. -/
def Ex.eval (look : String → Option Meaning) : Nat → Ex → Except ExErr Val
  | 0, _ => .error .malformed
  | n + 1, e =>
    match e with
    | .num k => .ok (.int (wrap64 k))
    | .name s col =>
      match look s with
      | none => .error (.undefined col)
      | some (.label l) => .ok (.sym l 0)
      | some (.const x _) =>
        match x.eval look n with
        | .error (.undefined _) => .error (.undefined col)
        | r => r
    | .neg x =>
      match x.eval look n with
      | .ok (.int k) => .ok (.int (wrap64 (-k)))
      | .ok _ => .error .malformed
      | .error r => .error r
    | .not x =>
      match x.eval look n with
      | .ok (.int k) => .ok (.int (-k - 1))
      | .ok _ => .error .malformed
      | .error r => .error r
    | .lo17 x =>
      match x.eval look n with
      | .ok (.int k) => .ok (.int (lo17Of k))
      | .ok (.sym s k) => .ok (.low s k)
      | .ok _ => .error .malformed
      | .error r => .error r
    | .hi15 x =>
      match x.eval look n with
      | .ok (.int k) => .ok (.int (hi15Of k))
      | .ok (.sym s k) => .ok (.high s k)
      | .ok _ => .error .malformed
      | .error r => .error r
    | .bin op a b =>
      match a.eval look n, b.eval look n with
      | .error r, _ => .error r
      | _, .error r => .error r
      | .ok (.int x), .ok (.int y) => (op.eval x y).map .int
      | .ok (.sym s x), .ok (.int y) =>
        match op with
        | .add => .ok (.sym s (wrap64 (x + y)))
        | .sub => .ok (.sym s (wrap64 (x - y)))
        | _ => .error .malformed
      | .ok (.int x), .ok (.sym s y) => if op = .add then .ok (.sym s (wrap64 (x + y))) else .error .malformed
      | .ok (.sym s x), .ok (.sym t y) =>
        if op ≠ .sub then .error .malformed
        else if s.key = t.key then .ok (.int (wrap64 (x - y)))
        else
          match s.place, t.place with
          | some p, some q =>
            if p.sect = q.sect then .ok (.int (wrap64 (p.off + x - q.off - y))) else .error .malformed
          | _, _ => .error .malformed
      | _, _ => .error .malformed

/-- Depth of an expression: enough fuel for it when a name takes what `names` says. -/
def Ex.depth (names : String → Nat) : Ex → Nat
  | .num _ => 1
  | .name s _ => names s + 1
  | .neg e | .not e | .lo17 e | .hi15 e => e.depth names + 1
  | .bin _ a b => max (a.depth names) (b.depth names) + 1

/-- The depth of a name that is no constant is 1. -/
def depthOf (look : String → Option Meaning) (s : String) : Nat :=
  match look s with
  | some (.const _ n) => n
  | _ => 0

/-! ## Macros and included files (R108, R111) -/

/-- A place in the source as written (R116). -/
structure Spot' where
  file : String
  line : Nat
  col  : Nat
  deriving DecidableEq, Repr, Inhabited

/-- A source line: the file and number it stands at, and its characters. A line that a macro made gives, character by character,
the place where each was written (R116): in the macro's body or in the argument. Of another line `spots` is empty. -/
structure Src where
  file  : String
  line  : Nat
  spots : List Spot'
  text  : List Char
  deriving DecidableEq, Repr, Inhabited

/-- Where the character of a column was written; past the end, the last one. -/
def Src.spot (s : Src) (col : Nat) : Spot' :=
  match s.spots[col - 1]?, s.spots.getLast? with
  | some p, _ => p
  | none, some p => p
  | none, none => { file := s.file, line := s.line, col := col }

/-- A diagnostic at a column of a line (R116). -/
def Src.diag (s : Src) (kind : Sort') (col code : Nat) : Diag :=
  let p := s.spot col
  { file := p.file, line := p.line, col := p.col, kind := kind, code := code }

/-- A character with the place where it was written. -/
abbrev Ch := Char × Spot'

/-- The characters of a line with their places. -/
def Src.chars (s : Src) : List Ch := s.text.zipIdx.map fun c => (c.1, s.spot (c.2 + 1))

/-- A line of these characters, which stands where the line `s` stands. -/
def Src.of (s : Src) (cs : List Ch) : Src := { s with spots := cs.map Prod.snd, text := cs.map Prod.fst }

/-- The first `n` characters of a line, as a line. -/
def Src.take (s : Src) (n : Nat) : Src := { s with spots := s.spots.take n, text := s.text.take n }

/-- The lines of a file's characters. -/
def linesOf (file : String) : Nat → List Char → List Char → List Src
  | n, acc, [] => if acc.isEmpty then [] else [{ file := file, line := n, spots := [], text := acc.reverse }]
  | n, acc, '\n' :: cs => { file := file, line := n, spots := [], text := acc.reverse } :: linesOf file (n + 1) [] cs
  | n, acc, '\r' :: cs => linesOf file n acc cs
  | n, acc, c :: cs => linesOf file n (c :: acc) cs

/-- A macro: name, parameters, body. -/
structure Macro where
  name   : String
  params : List String
  body   : List Src
  deriving DecidableEq, Repr, Inhabited

/-- A space or a tab. -/
def isBlank (c : Ch) : Bool := c.1 == ' ' || c.1 == '\t'

/-- Remove spaces at both ends. -/
def trim (cs : List Ch) : List Ch := ((cs.dropWhile isBlank).reverse.dropWhile isBlank).reverse

/-- The characters of a line before its comment. -/
def uncomment : Bool → List Ch → List Ch
  | _, [] => []
  | inStr, c :: cs =>
    if c.1 = '"' then c :: uncomment (!inStr) cs
    else if !inStr && (c.1 == ';' || (c.1 == '/' && (cs.head?).map Prod.fst == some '/')) then []
    else c :: uncomment inStr cs

/-- Argument texts: split at commas outside parentheses and strings. -/
def argTexts : Nat → Bool → List Ch → List Ch → List (List Ch)
  | _, _, acc, [] => [trim acc.reverse]
  | depth, inStr, acc, c :: cs =>
    if c.1 = '"' then argTexts depth (!inStr) (c :: acc) cs
    else if c.1 = ',' ∧ depth = 0 ∧ inStr = false then trim acc.reverse :: argTexts 0 false [] cs
    else if c.1 = '(' ∧ inStr = false then argTexts (depth + 1) inStr (c :: acc) cs
    else if c.1 = ')' ∧ inStr = false then argTexts (depth - 1) inStr (c :: acc) cs
    else argTexts depth inStr (c :: acc) cs

/-- The text of a parameter that ends here; the characters after a backslash, last first, when it names none. -/
def paramText (env : List (String × List Ch)) (acc : List Ch) : List Ch :=
  let name := acc.reverse.drop 1
  (env.lookup (String.ofList (name.map Prod.fst))).getD acc.reverse

/-- Replace `\name` by its text; the accumulator holds a name being read, its backslash included. -/
def subst (env : List (String × List Ch)) : List Ch → List Ch → List Ch
  | [], [] => []
  | a :: acc, [] => paramText env (a :: acc)
  | [], c :: cs => if c.1 = '\\' then subst env [c] cs else c :: subst env [] cs
  | a :: acc, c :: cs =>
    if nameChar c.1 && c.1 != '.' then subst env (c :: a :: acc) cs
    else paramText env (a :: acc) ++ (if c.1 = '\\' then subst env [c] cs else c :: subst env [] cs)

/-- The text of `\seq`, which stands where the use of the macro stands. -/
def seqText (p : Spot') (n : Nat) : List Ch := (toString n).toList.map fun c => (c, p)

/-- A line's leading label as text, and the rest. -/
def splitLabel (cs : List Char) : List Char × List Char :=
  match tokens cs with
  | a :: b :: _ =>
    match a.tok with
    | .name _ => if b.tok = .sym ':' then (cs.take b.col, cs.drop b.col) else ([], cs)
    | _ => ([], cs)
  | _ => ([], cs)

/-- The line of a line's label alone; none where it has no label. -/
def Src.labelLine (s : Src) : List Src :=
  let n := (splitLabel s.text).1.length
  if n = 0 then [] else [s.take n]

/-- A line's tokens after its label. -/
def Src.toks (s : Src) : List Tk :=
  let sp := splitLabel s.text
  (tokens sp.2).map fun t => { t with col := t.col + sp.1.length }

/-- Take the lines of a macro's body, up to its `.endm`, and the labels that stand before that; none without one. -/
def takeBody : List Src → Option (List Src × List Src × List Src)
  | [] => none
  | s :: rest =>
    if (s.toks.head?).map Tk.tok = some (.name ".endm") then some ([], s.labelLine, rest)
    else (takeBody rest).map fun r => (s :: r.1, r.2)

/-- Split a packet line at `|` and `&` outside parentheses; true for `&`. -/
def splitWords : Nat → List Tk → List Tk → List (List Tk × Option (Bool × Nat))
  | _, acc, [] => [(acc.reverse, none)]
  | depth, acc, t :: ts =>
    if (t.tok = .sym '|' ∨ t.tok = .sym '&') ∧ depth = 0 then
      (acc.reverse, some (t.tok = .sym '&', t.col)) :: splitWords 0 [] ts
    else if t.tok = .sym '(' then splitWords (depth + 1) (t :: acc) ts
    else if t.tok = .sym ')' then splitWords (depth - 1) (t :: acc) ts
    else splitWords depth (t :: acc) ts

/-- The column of a line's first `|` or `&` outside parentheses. -/
def outerBar (ts : List Tk) : Option Nat := ((splitWords 0 [] ts).head?.bind Prod.snd).map Prod.snd

/-- The token that stands as a word's mnemonic: the first after its guard. -/
def mnemonicOf (ts : List Tk) : Option Tk :=
  match ts with
  | q :: p :: rest =>
    if q.tok ≠ .sym '?' then some q
    else if p.tok = .sym '!' then rest[1]? else rest.head?
  | _ => ts.head?

/-- The macro that a word names, with the column after its name. -/
def macroOf (ms : List Macro) (ts : List Tk) : Option (Macro × Tk × Nat) :=
  match mnemonicOf ts with
  | some t =>
    match t.tok with
    | .name n => (ms.find? fun m => m.name == n).map fun m => (m, t, t.col + n.toList.length)
    | _ => none
  | none => none

/-- What expansion has done: lines, diagnostics, macros and the number of expansions. -/
structure Exp where
  out    : List Src
  diags  : List Diag
  macros : List Macro
  seq    : Nat
  deriving DecidableEq, Repr, Inhabited

/-- Report at a column of a line. -/
def Exp.bad (x : Exp) (s : Src) (col code : Nat) : Exp := { x with diags := x.diags ++ [s.diag .e col code] }

/-- Join lines in one line: the last line so far goes on with the first of the next. -/
def joinLines (s : Src) (a b : List Src) : List Src :=
  match a.getLast?, b with
  | some x, y :: ys => a.dropLast ++ s.of (uncomment false x.chars ++ uncomment false y.chars) :: ys
  | none, _ => b
  | some _, [] => a

/-- Lines without the blank ones at both ends. -/
def dropBlank (ls : List Src) : List Src :=
  let blank (s : Src) : Bool := (tokens s.text).isEmpty
  ((ls.dropWhile blank).reverse.dropWhile blank).reverse

/-- The directory of a file name, with its last slash. -/
def dirOf (f : String) : List Char := (f.toList.reverse.dropWhile (· != '/')).reverse

/-- Find an included file: beside the including one, then in each `-I` directory (R99). -/
def findFile (files : List (String × List Char)) (dirs : List String) (from' name : String) : Option (String × List Char) :=
  let tries := String.ofList (dirOf from' ++ name.toList) :: dirs.map fun d => d ++ "/" ++ name
  tries.findSome? fun f => files.find? fun p => p.1 == f

/-- What the command line gives to the expansion. -/
structure Reading where
  files  : List (String × List Char)
  dirs   : List String
  manual : Bool
  deriving DecidableEq, Repr, Inhabited

/-- A macro's definition from its `.macro` line: name and parameters. -/
def macroHead (s : Src) (t : Tk) : Option (String × List String) :=
  let head := argTexts 0 false [] (trim ((uncomment false s.chars).drop (t.col + 5)))
  let names := (head.filter fun h => !h.isEmpty).map fun h => String.ofList (h.map Prod.fst)
  match names with
  | [] => none
  | m :: ps => if names.all fun n => n.toList.all nameChar then some (m, ps) else none

/-- Included files and macros expanded (R108, R111): `inc` and `mac` are the nesting still allowed, `fuel` bounds the lines. A
macro is expanded where its name stands as a mnemonic: at the head of a word, after its label and its guard. What stands before
the name joins the first line of the expansion, and what stands after the word joins its last (log 51). R111 does not speak of a
macro defined twice or used before its definition: the last definition read so far counts, without a diagnostic, and a name that no
definition precedes is not expanded, which the assembler reports as E101 (DESIGN CHOICE, log 51). -/
def expand (r : Reading) : Nat → Nat → Nat → Exp → List Src → Exp
  | 0, _, _, x, _ => x
  | _ + 1, _, _, x, [] => x
  | fuel + 1, inc, mac, x, s :: rest =>
    let labelled : Exp := { x with out := x.out ++ s.labelLine }
    match s.toks with
    | [] => expand r fuel inc mac { x with out := x.out ++ [s] } rest
    | t :: ts =>
      let isDir : Bool := match t.tok with
        | .name n => n.toList.head? == some '.'
        | _ => false
      let words := if r.manual && !isDir then splitWords 0 [] (t :: ts) else [(t :: ts, none)]
      let plain : Bool := !isDir && words.all fun w => (macroOf x.macros w.1).isNone
      match (if r.manual || plain then none else outerBar (t :: ts)) with
      | some col => expand r fuel inc mac (labelled.bad s col 105) rest
      | none =>
        match t.tok, ts with
        | .name ".include", [f] =>
          match f.tok with
          | .str name =>
            match (if inc = 0 then none else findFile r.files r.dirs s.file name) with
            | none => expand r fuel inc mac (labelled.bad s t.col 109) rest
            | some p => expand r fuel inc mac (expand r fuel (inc - 1) mac labelled (linesOf p.1 1 [] p.2)) rest
          | _ => expand r fuel inc mac (labelled.bad s t.col 102) rest
        | .name ".include", _ => expand r fuel inc mac (labelled.bad s t.col 102) rest
        | .name ".macro", _ =>
          match takeBody rest with
          | none => labelled.bad s t.col 107
          | some (body, labels, more) =>
            let y : Exp := { labelled with out := labelled.out ++ labels }
            match macroHead s t with
            | none => expand r fuel inc mac (y.bad s t.col 102) more
            | some (m, ps) =>
              expand r fuel inc mac { y with macros := { name := m, params := ps, body := body } :: y.macros } more
        | .name ".endm", _ => expand r fuel inc mac (labelled.bad s t.col 107) rest
        | _, _ =>
          if plain then expand r fuel inc mac { x with out := x.out ++ [s] } rest
          else
            let done := words.foldl (fun (a : Exp × Option (List Src) × Nat) w =>
              let next := match w.2 with
                | some (_, col) => col + 1
                | none => s.text.length + 1
              let part (i j : Nat) : List Src := [s.of ((s.chars.take (j - 1)).drop (i - 1))]
              match macroOf a.1.macros w.1 with
              | none => (a.1, a.2.1.map fun ls => joinLines s ls (part a.2.2 next), next)
              | some (m, k, after) =>
                let stop := match w.2 with
                  | some (_, col) => col
                  | none => next
                let text := trim (uncomment false ((s.chars.take (stop - 1)).drop (after - 1)))
                let args := if text.isEmpty then [] else argTexts 0 false [] text
                if args.length ≠ m.params.length ∨ mac = 0 then (a.1.bad s k.col 108, none, next)
                else
                  let env := ("seq", seqText (s.spot k.col) a.1.seq) :: m.params.zip args
                  let y := expand r fuel inc (mac - 1) { a.1 with seq := a.1.seq + 1, out := [] }
                    (m.body.map fun b => b.of (subst env [] b.chars))
                  let glue (ls : List Src) : List Src :=
                    let lines := joinLines s (joinLines s ls (part a.2.2 k.col)) (dropBlank y.out)
                    if stop < next then joinLines s lines (part stop next) else lines
                  ({ y with out := a.1.out }, a.2.1.map glue, next))
              (labelled, some [], t.col)
            expand r fuel inc mac { done.1 with out := done.1.out ++ done.2.1.getD [] } rest

end Sys2Proof.Kzas
end

