-- ==== Sys2Proof/Machine/KzWord.lean ====
section
/-! DEFINITION. The words of a packet line of the `kzas` assembler: guards, suffixes, operands and the forms of every
instruction (05_kzas_assembler.md R103, R104, R116; the assembly forms of 06, 09, 10, 14, 17 and 22; R83 to R94). -/

namespace Sys2Proof.Kzas

/-! ## Operands -/

/-- An operand as it is written. -/
inductive Arg where
  /-- a vector register with the permutation code of R85 and its lane -/
  | vreg (n perm lane : Nat)
  /-- an index register with an offset -/
  | index (n : Nat) (e : Ex)
  | preg (n : Nat)
  | cap (n : Nat)
  | breg (n : Nat)
  | gate (n : Nat)
  | ex (e : Ex)
  deriving DecidableEq, Repr, Inhabited

/-- The number in a register's name: the prefix and a decimal number without leading zeros. -/
def numbered (pre : List Char) (s : String) : Option Nat :=
  let cs := s.toList
  let ds := cs.drop pre.length
  if cs.take pre.length = pre ∧ ds ≠ [] ∧ ds.all Char.isDigit ∧ (ds.length = 1 ∨ ds.head? ≠ some '0') then digits 10 ds 0
  else none

/-- A permutation suffix: its code and lane (R85, R104), or the error: E101 for another case (R101), else E103. -/
def permOf (s : String) : Except Nat (Nat × Nat) :=
  let fixed : List (String × Nat) :=
    [("bf1", 1), ("bf2", 2), ("bf4", 3), ("bf8", 4), ("bf16", 5), ("bf32", 6), ("rot1", 7), ("rot2", 8), ("rot3", 9),
     ("rot4", 10), ("rot5", 11), ("rot6", 12), ("rot7", 13), ("rev8", 14), ("rev64", 15)]
  match fixed.lookup s with
  | some c => .ok (c, 0)
  | none =>
    match numbered ['b', 'c'] s with
    | some l => if l < 64 then .ok (16, l) else .error 205
    | none => .error (if s.toList.any Char.isUpper then 101 else 103)

/-- A register operand: its kind by its name, within the registers there are (R87, E101, E203, E208). -/
def regOf (s : String) : Option (Except Nat Arg) :=
  match numbered ['v'] s with
  | some n => some (if n < 64 then .ok (.vreg n 0 0) else .error 101)
  | none =>
    match numbered ['q'] s with
    | some n => some (if n < 16 then .ok (.preg n) else .error 101)
    | none =>
      match numbered ['c', 'a', 'p'] s with
      | some n => some (if n < 16 then .ok (.cap n) else .error 203)
      | none =>
        match numbered ['b'] s with
        | some n => some (if n < 32 then .ok (.breg n) else .error 101)
        | none =>
          match numbered ['g'] s with
          | some n => some (if n < 64 then .ok (.gate n) else .error 208)
          | none => none

/-- An error at a column. -/
structure Err where
  col  : Nat
  code : Nat
  deriving DecidableEq, Repr, Inhabited

/-- Read one operand. -/
def parseArg (col : Nat) (ts : List Tk) : Except Err Arg :=
  let whole : Except Err Arg :=
    match parseEx ts with
    | some (e, []) => .ok (.ex e)
    | _ => .error { col := col, code := 102 }
  match ts with
  | [] => .error { col := col, code := 102 }
  | t :: rest =>
    match t.tok with
    | .name s =>
      match regOf s with
      | none =>
        if (rest.head?).map Tk.tok = some (.sym ':') then .error { col := t.col, code := 101 } else whole
      | some (.error c) => .error { col := t.col, code := c }
      | some (.ok (.vreg n p l)) =>
        match rest with
        | [] => .ok (.vreg n p l)
        | c :: more =>
          if c.tok = .sym ':' then
            match more with
            | [x] =>
              match x.tok with
              | .name q =>
                match permOf q with
                | .ok (p, l) => .ok (.vreg n p l)
                | .error e => .error { col := x.col, code := e }
              | _ => .error { col := x.col, code := 102 }
            | _ => .error { col := c.col, code := 102 }
          else if c.tok = .sym '+' then
            match parseEx more with
            | some (e, []) => .ok (.index n e)
            | _ => .error { col := c.col, code := 102 }
          else .error { col := c.col, code := 102 }
      | some (.ok a) => if rest.isEmpty then .ok a else .error { col := col, code := 102 }
    | _ => whole

/-- Split tokens at commas outside parentheses. -/
def splitArgs : Nat → List Tk → List Tk → List (List Tk)
  | _, acc, [] => [acc.reverse]
  | depth, acc, t :: ts =>
    if t.tok = .sym ',' ∧ depth = 0 then acc.reverse :: splitArgs 0 [] ts
    else if t.tok = .sym '(' then splitArgs (depth + 1) (t :: acc) ts
    else if t.tok = .sym ')' then splitArgs (depth - 1) (t :: acc) ts
    else splitArgs depth (t :: acc) ts

/-- The operands of a line, each with its column. -/
def argsOf (col : Nat) (ts : List Tk) : List (Nat × List Tk) :=
  if ts.isEmpty then [] else (splitArgs 0 [] ts).map fun a => (((a.head?).map Tk.col).getD col, a)

/-! ## Forms -/

/-- What an operand position takes. -/
inductive Kind where
  /-- a vector register that takes no permutation -/
  | reg
  /-- source a of R85 -/
  | srcA
  /-- source b of R85 -/
  | srcB
  /-- the third source of R86 -/
  | third
  /-- the gate operand of R260 -/
  | gateReg
  /-- vX or vX+E of R104 -/
  | index
  | preg
  | cap
  | breg
  | gate
  /-- a number of the range, stored in so many bits -/
  | imm (lo hi : Int) (width : Nat)
  /-- the immediate of `movi`, or `lo17` of a label -/
  | immLo
  /-- the immediate of `movhi`, or `hi15` of a label -/
  | immHi
  /-- a branch destination under the relocation type of R114 -/
  | dest (type : Nat)
  /-- one of these names, by its number -/
  | word (names : List (String × Nat)) (code : Nat)
  deriving DecidableEq, Repr, Inhabited

/-- A suffix position: its names with their codes; 0 stands for an optional suffix that is absent. -/
structure Slot where
  need  : Bool
  names : List (String × Nat)
  deriving DecidableEq, Repr, Inhabited

/-- The assembly form of a mnemonic: its suffixes in order, the operand lists it takes, and the instruction made of the suffix
codes and the operand values. -/
structure Form where
  slots : List Slot
  ops   : List (List Kind)
  make  : List Nat → List Nat → Option Instr

/-- Fields. -/
def f4 (n : Nat) : BitVec 4 := BitVec.ofNat 4 n
def f6 (n : Nat) : BitVec 6 := BitVec.ofNat 6 n

/-- `mnem` -/
def form0 (i : Instr) : Form := { slots := [], ops := [[]], make := fun _ _ => some i }
/-- `mnem vD, vA` -/
def form2 (k : BitVec 6 → BitVec 6 → Instr) : Form :=
  { slots := [], ops := [[.reg, .srcA]], make := fun _ v => match v with
    | [d, a] => some (k (f6 d) (f6 a))
    | _ => none }
/-- `mnem vD, vA, vB` -/
def form3 (k : BitVec 6 → BitVec 6 → BitVec 6 → Instr) : Form :=
  { slots := [], ops := [[.reg, .srcA, .srcB]], make := fun _ v => match v with
    | [d, a, b] => some (k (f6 d) (f6 a) (f6 b))
    | _ => none }
/-- `mnem vD, vA, vB, vC` -/
def form4 (k : BitVec 6 → BitVec 6 → BitVec 6 → Instr) : Form :=
  { form3 k with ops := [[.reg, .srcA, .srcB, .third]] }
/-- `mnem vD, vA, imm` with a signed imm11 -/
def formI (k : BitVec 6 → BitVec 6 → BitVec 11 → Instr) : Form :=
  { slots := [], ops := [[.reg, .srcA, .imm (-1024) 1023 11]], make := fun _ v => match v with
    | [d, a, n] => some (k (f6 d) (f6 a) (BitVec.ofNat 11 n))
    | _ => none }
/-- `mnem vD, vA, n` with a shift amount -/
def formS (k : BitVec 6 → BitVec 6 → BitVec 5 → Instr) : Form :=
  { slots := [], ops := [[.reg, .srcA, .imm 0 31 5]], make := fun _ v => match v with
    | [d, a, n] => some (k (f6 d) (f6 a) (BitVec.ofNat 5 n))
    | _ => none }

/-- `.and` and `.or` (R88). -/
def combine : Slot := { need := false, names := [("and", 1), ("or", 2)] }
/-- A predicate spec of a predicate and a combine (R88). -/
def specOf (q comb : Nat) : BitVec 6 := f6 (16 * comb + q)

/-- The integer conditions (R78, R140). -/
def intConds : Slot :=
  { need := true, names := [("eq", 0), ("ne", 1), ("lt", 2), ("le", 3), ("gt", 4), ("ge", 5), ("ltn", 6), ("len", 7), ("gtn", 8),
    ("gen", 9)] }
/-- The float conditions (R183). -/
def floatConds : Slot :=
  { need := true, names := [("eq", 0), ("ne", 1), ("lt", 2), ("le", 3), ("gt", 4), ("ge", 5), ("ord", 6), ("unord", 7)] }

/-- `mnem.cond[.and|.or] qN, vA, vB` with integer conditions -/
def formC (k : BitVec 6 → BitVec 6 → BitVec 6 → BitVec 4 → Instr) : Form :=
  { slots := [intConds, combine], ops := [[.preg, .srcA, .srcB]], make := fun x v => match x, v with
    | [c, m], [q, a, b] => some (k (specOf q m) (f6 a) (f6 b) (f4 c))
    | _, _ => none }
/-- `mnem.cond[.and|.or] qN, vA, vB` with float conditions -/
def formF (k : BitVec 6 → BitVec 6 → BitVec 6 → BitVec 3 → Instr) : Form :=
  { slots := [floatConds, combine], ops := [[.preg, .srcA, .srcB]], make := fun x v => match x, v with
    | [c, m], [q, a, b] => some (k (specOf q m) (f6 a) (f6 b) (BitVec.ofNat 3 c))
    | _, _ => none }
/-- `mnem[.and|.or] qD, qA, qB` -/
def formP (k : BitVec 6 → BitVec 4 → BitVec 4 → Instr) : Form :=
  { slots := [combine], ops := [[.preg, .preg, .preg]], make := fun x v => match x, v with
    | [m], [q, a, b] => some (k (specOf q m) (f4 a) (f4 b))
    | _, _ => none }
/-- `mnem[.and|.or] qD, qA` -/
def formQ (k : BitVec 6 → BitVec 4 → Instr) : Form :=
  { slots := [combine], ops := [[.preg, .preg]], make := fun x v => match x, v with
    | [m], [q, a] => some (k (specOf q m) (f4 a))
    | _, _ => none }
/-- `mnem[.and|.or] qD, vA` -/
def formV (k : BitVec 6 → BitVec 6 → Instr) : Form :=
  { slots := [combine], ops := [[.preg, .srcA]], make := fun x v => match x, v with
    | [m], [q, a] => some (k (specOf q m) (f6 a))
    | _, _ => none }
/-- `mnem vD, capA, vB` -/
def formK (k : BitVec 6 → BitVec 4 → BitVec 6 → Instr) : Form :=
  { slots := [], ops := [[.reg, .cap, .reg]], make := fun _ v => match v with
    | [d, a, b] => some (k (f6 d) (f4 a) (f6 b))
    | _ => none }
/-- `mnem vD, capA, vB[, vG]` -/
def formG (k : BitVec 6 → BitVec 4 → BitVec 6 → Instr) : Form :=
  { formK k with ops := [[.reg, .cap, .reg], [.reg, .cap, .reg, .gateReg]] }

/-- The size suffixes (R90). -/
def sizes : Slot :=
  { need := true, names := [("x4", 0), ("x8", 1), ("x16", 2), ("x32", 3), ("x64", 4), ("x128", 5)] }
/-- The rule suffixes (R46). -/
def rules : Slot :=
  { need := true, names := [("low", 0), ("any", 1), ("sum", 2), ("acc", 3), ("max", 4), ("min", 5), ("fault", 6)] }
/-- `.f` (R49). -/
def floatBit : Slot := { need := false, names := [("f", 1)] }
/-- The rounding suffixes (R91). -/
def rounding : Slot := { need := false, names := [("rne", 0), ("rtz", 1), ("rup", 2), ("rdn", 3), ("rto", 4)] }
/-- The types of a conversion (R89). -/
def types : Slot :=
  { need := true, names := [("s8", 0), ("n8", 1), ("s16", 2), ("n16", 3), ("s32", 4), ("n32", 5), ("s64", 6), ("n64", 7),
    ("f16", 8), ("bf16", 9), ("f32", 10), ("f64", 11)] }

/-- The special registers (R93). -/
def specials : List (String × Nat) :=
  [("fibre", 0), ("block", 1), ("blockdim", 2), ("launchdim", 3), ("lane", 4), ("cohort", 5), ("step", 6), ("round", 7),
   ("core", 8), ("cluster", 9), ("slice", 10), ("shape", 11), ("clock", 12)] ++
  [("clockh", 13), ("prio", 14), ("region", 15), ("launch", 16), ("trapmode", 17), ("epc", 18), ("ecause", 19),
   ("einfo0", 20), ("einfo1", 21), ("tenant", 22), ("ltol", 23), ("spawnleft", 24)]

/-- Control, synchronisation and spawn (R122, R129, R135). -/
def controlForms : List (String × Form) :=
  [("nop", form0 .nop), ("yield", form0 .yield), ("brk", form0 .brk), ("tret", form0 .tret), ("exit", form0 .exit),
   ("stop", form0 .stop),
   ("trap", { slots := [], ops := [[.imm 0 4095 12]], make := fun _ v => match v with
     | [c] => some (.trap (BitVec.ofNat 12 c))
     | _ => none }),
   ("rstop", { slots := [], ops := [[], [.gate]], make := fun _ v => match v with
     | [] => some .rstop
     | [g] => some (.rstopGated (f6 g))
     | _ => none }),
   ("gadd", { slots := [], ops := [[.gate, .srcB]], make := fun _ v => match v with
     | [g, b] => some (.gadd (f6 g) (f6 b))
     | _ => none }),
   ("gread", { slots := [], ops := [[.reg, .gate]], make := fun _ v => match v with
     | [d, g] => some (.gread (f6 d) (f6 g))
     | _ => none })] ++
  [("br", { slots := [], ops := [[.dest 1]], make := fun _ _ => some (.br 0 0) }),
   ("call", { slots := [], ops := [[.reg, .dest 2]], make := fun _ v => match v with
     | [a] => some (.call (f6 a) 0 0)
     | _ => none }),
   ("spawn", { slots := [], ops := [[.reg, .dest 2]], make := fun _ v => match v with
     | [a] => some (.spawn (f6 a) 0 0)
     | _ => none }),
   ("brx", { slots := [], ops := [[.srcA]], make := fun _ v => match v with
     | [a] => some (.brx (f6 a))
     | _ => none }),
   ("ret", { slots := [], ops := [[.srcA]], make := fun _ v => match v with
     | [a] => some (.ret (f6 a))
     | _ => none }),
   ("callx", form2 .callx)]

/-- Integer arithmetic (R136, R137). -/
def intForms : List (String × Form) :=
  [("iadd", form3 .iadd), ("isub", form3 .isub), ("imul", form3 .imul), ("imulhi", form3 .imulhi),
   ("imulhin", form3 .imulhin), ("imad", form4 .imad), ("imin", form3 .imin), ("imax", form3 .imax),
   ("iminn", form3 .iminn), ("imaxn", form3 .imaxn), ("iabs", form2 .iabs), ("ineg", form2 .ineg),
   ("iadds", form3 .iadds), ("isubs", form3 .isubs), ("iaddsn", form3 .iaddsn), ("isubsn", form3 .isubsn)] ++
  [("ladd", form3 .ladd), ("lsub", form3 .lsub), ("lmul", form3 .lmul), ("lmad", form4 .lmad), ("lmin", form3 .lmin),
   ("lmax", form3 .lmax), ("lminn", form3 .lminn), ("lmaxn", form3 .lmaxn), ("lshl", form3 .lshl), ("lshr", form3 .lshr),
   ("lsra", form3 .lsra), ("lneg", form2 .lneg), ("labs", form2 .labs)]

/-- Logic, bit fields, compares, immediates and moves (R138 to R145). -/
def logicForms : List (String × Form) :=
  [("and", form3 .and), ("or", form3 .or), ("xor", form3 .xor), ("andn", form3 .andn), ("orn", form3 .orn),
   ("xnor", form3 .xnor), ("not", form2 .not), ("shl", form3 .shl), ("shr", form3 .shr), ("sra", form3 .sra),
   ("rotl", form3 .rotl), ("rotr", form3 .rotr), ("popc", form2 .popc), ("clz", form2 .clz), ("ctz", form2 .ctz),
   ("brev", form2 .brev), ("bfe", form3 .bfe), ("bfes", form3 .bfes), ("bfi", form4 .bfi), ("bswap", form2 .bswap)] ++
  [("icmp", formC .icmp), ("lcmp", formC .lcmp),
   ("icmpi", { slots := [intConds, combine], ops := [[.preg, .srcA, .imm (-64) 63 7]], make := fun x v => match x, v with
     | [c, m], [q, a, n] => some (.icmpi (specOf q m) (f6 a) (f4 c) (BitVec.ofNat 7 n))
     | _, _ => none }),
   ("iaddi", formI .iaddi), ("andi", formI .andi), ("ori", formI .ori), ("xori", formI .xori), ("shli", formS .shli),
   ("shri", formS .shri), ("srai", formS .srai),
   ("movi", { slots := [], ops := [[.reg, .immLo]], make := fun _ v => match v with
     | [d, n] => some (.movi (f6 d) (BitVec.ofNat 17 n))
     | _ => none }),
   ("movhi", { slots := [], ops := [[.reg, .immHi]], make := fun _ v => match v with
     | [d, n] => some (.movhi (f6 d) (BitVec.ofNat 15 n))
     | _ => none })] ++
  [("mov", form2 .mov), ("isel", form4 .isel),
   ("movs", { slots := [], ops := [[.reg, .word specials 101]], make := fun _ v => match v with
     | [d, r] => some (.movs (f6 d) (f6 r))
     | _ => none }),
   ("movsw", { slots := [], ops := [[.word specials 101, .srcB]], make := fun _ v => match v with
     | [r, b] => some (.movsw (f6 r) (f6 b))
     | _ => none })]

/-- Predicates, lanes and bitmaps (R146 to R148). -/
def laneForms : List (String × Form) :=
  [("pand", formP .pand), ("por", formP .por), ("pxor", formP .pxor), ("pandn", formP .pandn), ("pnot", formQ .pnot),
   ("pmov", formQ .pmov),
   ("pword", { slots := [], ops := [[.reg]], make := fun _ v => match v with
     | [d] => some (.pword (f6 d))
     | _ => none }),
   ("psetw", { slots := [], ops := [[.srcA, .srcB]], make := fun _ v => match v with
     | [a, b] => some (.psetw (f6 a) (f6 b))
     | _ => none }),
   ("lshfl", form3 .lshfl), ("lvoteany", formV .lvoteany), ("lvoteall", formV .lvoteall), ("lballot", form2 .lballot),
   ("lrank", form2 .lrank), ("lfirst", form2 .lfirst), ("bxpos", form3 .bxpos), ("bxcnt", form3 .bxcnt),
   ("bmerge", form3 .bmerge), ("bmpre", form3 .bmpre)]

/-- Floating point, conversion and fixed point (R179 to R190). -/
def floatForms : List (String × Form) :=
  [("fadd", form3 .fadd), ("fsub", form3 .fsub), ("fmul", form3 .fmul), ("ffma", form4 .ffma), ("ffms", form4 .ffms),
   ("fnfma", form4 .fnfma), ("fmin", form3 .fmin), ("fmax", form3 .fmax), ("fabs", form2 .fabs), ("fneg", form2 .fneg),
   ("fdiv", form3 .fdiv), ("fsqrt", form2 .fsqrt), ("frcp", form2 .frcp), ("frsq", form2 .frsq), ("fexp2", form2 .fexp2),
   ("flog2", form2 .flog2), ("fsinpi", form2 .fsinpi), ("fcospi", form2 .fcospi), ("fkey", form2 .fkey),
   ("fkeyinv", form2 .fkeyinv)] ++
  [("fcmp", formF .fcmp), ("dcmp", formF .dcmp), ("dadd", form3 .dadd), ("dsub", form3 .dsub), ("dmul", form3 .dmul),
   ("dfma", form4 .dfma), ("dmin", form3 .dmin), ("dmax", form3 .dmax), ("dabs", form2 .dabs), ("dneg", form2 .dneg),
   ("ddiv", form3 .ddiv), ("dsqrt", form2 .dsqrt), ("dkey", form2 .dkey)] ++
  [("hadd2", form3 .hadd2), ("hsub2", form3 .hsub2), ("hmul2", form3 .hmul2), ("hfma2", form4 .hfma2),
   ("hmin2", form3 .hmin2), ("hmax2", form3 .hmax2), ("hkey2", form2 .hkey2), ("badd2", form3 .badd2),
   ("bsub2", form3 .bsub2), ("bmul2", form3 .bmul2), ("bfma2", form4 .bfma2), ("bmin2", form3 .bmin2),
   ("bmax2", form3 .bmax2),
   ("cvt", { slots := [types, types, rounding], ops := [[.reg, .srcA]], make := fun x v => match x, v with
     | [t, s, r], [d, a] => some (.cvt (f6 d) (f6 a) (f4 t) (f4 s) (BitVec.ofNat 3 r))
     | _, _ => none }),
   ("fix", { slots := [rounding], ops := [[.reg, .srcA, .imm (-64) 63 7]], make := fun x v => match x, v with
     | [r], [d, a, n] => some (.fix (f6 d) (f6 a) (BitVec.ofNat 3 r) (BitVec.ofNat 7 n))
     | _, _ => none }),
   ("unfix", { slots := [rounding], ops := [[.reg, .srcA, .imm (-64) 63 7]], make := fun x v => match x, v with
     | [r], [d, a, n] => some (.unfix (f6 d) (f6 a) (BitVec.ofNat 3 r) (BitVec.ofNat 7 n))
     | _, _ => none })]

/-- Memory, block registers, capabilities and sparse regions (R201 to R211, R304, R309). -/
def memForms : List (String × Form) :=
  [("ld", { slots := [sizes, { need := false, names := [("stream", 1), ("keep", 2)] }, { need := false, names := [("s", 1)] }],
            ops := [[.reg, .cap, .index]], make := fun x v => match x, v with
     | [z, h, s], [d, c, i] => some (.ld (f6 d) (f4 c) (f6 i) (BitVec.ofNat 3 z) (BitVec.ofNat 3 h) (BitVec.ofNat 1 s))
     | _, _ => none }),
   ("st", { slots := [sizes, rules, floatBit], ops := [[.cap, .index, .reg]], make := fun x v => match x, v with
     | [z, r, f], [c, i, d] => some (.st (f6 d) (f4 c) (f6 i) (BitVec.ofNat 3 z) (BitVec.ofNat 3 r) (BitVec.ofNat 1 f))
     | _, _ => none }),
   ("fadr", { slots := [sizes, floatBit], ops := [[.reg, .cap, .index]], make := fun x v => match x, v with
     | [z, f], [d, c, i] => some (.fadr (f6 d) (f4 c) (f6 i) (BitVec.ofNat 3 z) (BitVec.ofNat 1 f))
     | _, _ => none }),
   ("movb", { slots := [], ops := [[.reg, .breg]], make := fun _ v => match v with
     | [d, b] => some (.movb (f6 d) (BitVec.ofNat 5 b))
     | _ => none }),
   ("stb", { slots := [rules, floatBit], ops := [[.breg, .reg]], make := fun x v => match x, v with
     | [r, f], [b, d] => some (.stb (f6 d) (BitVec.ofNat 5 b) (BitVec.ofNat 3 r) (BitVec.ofNat 1 f))
     | _, _ => none })] ++
  [("capsub", { slots := [], ops := [[.cap, .cap, .reg]], make := fun _ v => match v with
     | [d, a, b] => some (.capsub (f4 d) (f4 a) (f6 b))
     | _ => none }),
   ("capperm", { slots := [], ops := [[.cap, .cap, .reg]], make := fun _ v => match v with
     | [d, a, b] => some (.capperm (f4 d) (f4 a) (f6 b))
     | _ => none }),
   ("capget", { slots := [],
                ops := [[.reg, .cap, .word [("baselo", 0), ("basehi", 1), ("lenlo", 2), ("lenhi", 3), ("attr", 4), ("tag", 5)] 102],
                        [.cap, .word [("private", 16), ("window", 17)] 102]], make := fun _ v => match v with
     | [d, a, s] => some (.capget (f6 d) (f4 a) (f6 s))
     | [d, s] => some (.capget (f6 d) 0 (f6 s))
     | _ => none }),
   ("captag", { slots := [combine], ops := [[.preg, .cap]], make := fun x v => match x, v with
     | [m], [q, a] => some (.captag (specOf q m) (f4 a))
     | _, _ => none }),
   ("capmint", { slots := [], ops := [[.cap, .reg]], make := fun _ v => match v with
     | [d, a] => some (.capmint (f4 d) (f6 a))
     | _ => none })] ++
  [("tld", { slots := [], ops := [[.reg, .cap, .reg]], make := fun _ v => match v with
     | [d, c, i] => some (.tld (f6 d) (f4 c) (f6 i))
     | _ => none }),
   ("tst", { slots := [rules, floatBit], ops := [[.cap, .reg, .reg]], make := fun x v => match x, v with
     | [r, f], [c, i, d] => some (.tst (f6 d) (f4 c) (f6 i) (BitVec.ofNat 3 r) (BitVec.ofNat 1 f))
     | _, _ => none }),
   ("tnext", { slots := [], ops := [[.reg, .cap, .srcA]], make := fun _ v => match v with
     | [d, c, a] => some (.tnext (f6 d) (f6 a) (f4 c))
     | _ => none }),
   ("tcount", { slots := [], ops := [[.reg, .cap]], make := fun _ v => match v with
     | [d, c] => some (.tcount (f6 d) (f4 c))
     | _ => none }),
   ("cp", { slots := [{ need := true, names := [("x32", 0), ("x64", 1), ("x128", 2)] }], ops := [[.reg, .cap, .cap, .reg]],
            make := fun x v => match x, v with
     | [z], [d, t, s, i] => some (.cp (f6 d) (f4 t) (f4 s) (f6 i) (BitVec.ofNat 2 z))
     | _, _ => none })]

/-- Engine and supervisor words, and `launch` (R258, R310, R368, R381). -/
def onceForms : List (String × Form) :=
  [("cpt", formG .cpt), ("cpd", formG .cpd), ("cps", formG .cps), ("gath", formG .gath), ("scat", formG .scat),
   ("mmb", formG .mmb), ("mma", formG .mma), ("mmd", formG .mmd), ("mmz", formG .mmz), ("lease", formG .lease),
   ("unlease", formG .unlease), ("digest", formG .digest), ("rcp", formG .rcp)] ++
  [("rsplit", formK .rsplit), ("rmerge", formK .rmerge), ("rinval", formK .rinval), ("rres", formK .rres),
   ("rmove", formK .rmove), ("bankmode", formK .bankmode), ("rgkill", formK .rgkill), ("rgreset", formK .rgreset),
   ("rgresume", formK .rgresume), ("rgpri", formK .rgpri), ("rgbud", formK .rgbud), ("fret", formK .fret),
   ("snap", formK .snap), ("wdarm", formK .wdarm), ("snew", formK .snew), ("sgrow", formK .sgrow), ("gcfg", formK .gcfg),
   ("launch", formK .launch)]

/-- Every mnemonic. -/
def forms : List (String × Form) :=
  controlForms ++ intForms ++ logicForms ++ laneForms ++ floatForms ++ memForms ++ onceForms

/-! ## Suffixes -/

/-- Split a name at its dots. -/
def dotted : List Char → List Char → List String
  | acc, [] => [String.ofList acc.reverse]
  | acc, c :: cs => if c = '.' then String.ofList acc.reverse :: dotted [] cs else dotted (c :: acc) cs

/-- The codes of the suffixes, each in its position (R104); an optional one may be left out. -/
def suffixes : List Slot → List String → Option (List Nat)
  | [], [] => some []
  | [], _ :: _ => none
  | s :: ss, xs =>
    match xs with
    | [] => if s.need then none else (suffixes ss []).map (0 :: ·)
    | x :: more =>
      match s.names.lookup x with
      | some c => (suffixes ss more).map (c :: ·)
      | none => if s.need then none else (suffixes ss xs).map (0 :: ·)

/-! ## Operand values -/

/-- A site that the linker completes (R114). -/
structure Ref where
  type : Nat
  sym  : Label
  add  : Int
  /-- the column of the operand -/
  col  : Nat
  deriving DecidableEq, Repr, Inhabited

/-- What the operands come to: values in order, modifier, reference. -/
structure Taken where
  vals : List Nat
  mods : Mods
  ref  : Option Ref
  deriving DecidableEq, Repr, Inhabited

/-- The value of an expression with its error code: an undefined name is E104. -/
def valueOf (look : String → Option Meaning) (col : Nat) (e : Ex) : Except Err Val :=
  match e.eval look (e.depth (depthOf look) + 1) with
  | .ok v => .ok v
  | .error (.undefined c) => .error { col := c, code := 104 }
  | .error .malformed => .error { col := col, code := 102 }

/-- A constant of a range (E201). -/
def rangeOf (look : String → Option Meaning) (col : Nat) (e : Ex) (lo hi : Int) : Except Err Int :=
  match valueOf look col e with
  | .error r => .error r
  | .ok (.int n) => if lo ≤ n ∧ n ≤ hi then .ok n else .error { col := col, code := 201 }
  | .ok _ => .error { col := col, code := 102 }

/-- A number as a field. -/
def fieldOf (width : Nat) (n : Int) : Nat := (n % 2 ^ width).toNat

/-- Set the permutation of source a or b; a lane that both name is one lane (R85, R104). -/
def Taken.permute (k : Taken) (b : Bool) (perm lane : Nat) : Option Taken :=
  if perm = 0 then some k
  else
    let other := if b then k.mods.pa else k.mods.pb
    if perm = 16 ∧ other = 16 ∧ k.mods.c ≠ f6 lane then none
    else
      let m := if b then { k.mods with pb := BitVec.ofNat 5 perm } else { k.mods with pa := BitVec.ofNat 5 perm }
      some { k with mods := if perm = 16 then { m with c := f6 lane } else m }

/-- Use c for an offset or an extra source; not beside a lane (R86). -/
def Taken.useC (k : Taken) (kind c : Nat) : Option Taken :=
  if k.mods.pa = 16 ∨ k.mods.pb = 16 then none
  else some { k with mods := { k.mods with kind := BitVec.ofNat 2 kind, c := f6 c } }

/-- The name that begins an expression, with its column. -/
def Ex.head : Ex → Option Nat
  | .name _ col => some col
  | .bin _ a _ => a.head
  | _ => none

/-- A register's place was taken by something else: an expression that begins with a name (`V2+4`) names an unknown register, which
is E101; all else is E102 (log 51). -/
def notReg (col : Nat) : Arg → Err
  | .ex e => match e.head with
    | some c => { col := c, code := 101 }
    | none => { col := col, code := 102 }
  | _ => { col := col, code := 102 }

/-- Take one operand. -/
def take (look : String → Option Meaning) (k : Taken) (kind : Kind) (col : Nat) (a : Arg) : Except Err Taken :=
  let err (code : Nat) : Except Err Taken := .error { col := col, code := code }
  let put (n : Nat) : Except Err Taken := .ok { k with vals := k.vals ++ [n] }
  let orBad : Option Taken → Except Err Taken
    | some t => .ok t
    | none => err 205
  match kind, a with
  | .reg, .vreg n p _ => if p = 0 then put n else err 205
  | .srcA, .vreg n p l => orBad (({ k with vals := k.vals ++ [n] } : Taken).permute false p l)
  | .srcB, .vreg n p l => orBad (({ k with vals := k.vals ++ [n] } : Taken).permute true p l)
  | .third, .vreg n p _ =>
    if p ≠ 0 then err 205 else if k.vals.head? = some n then .ok k else orBad (k.useC 2 n)
  | .gateReg, .vreg n p _ => if p ≠ 0 then err 205 else orBad (k.useC 2 n)
  | .index, .vreg n p _ => if p = 0 then put n else err 205
  | .index, .index n e =>
    match rangeOf look col e 0 63 with
    | .error r => .error r
    | .ok c => orBad (({ k with vals := k.vals ++ [n] } : Taken).useC 1 c.toNat)
  | .preg, .preg n => put n
  | .cap, .cap n => put n
  | .breg, .breg n => put n
  | .gate, .gate n => put n
  | .imm lo hi w, .ex e =>
    match rangeOf look col e lo hi with
    | .error r => .error r
    | .ok n => put (fieldOf w n)
  | .immLo, .ex e =>
    match valueOf look col e with
    | .error r => .error r
    | .ok (.int n) => if -65536 ≤ n ∧ n ≤ 65535 then put (fieldOf 17 n) else err 201
    | .ok (.low s x) => .ok { k with vals := k.vals ++ [0], ref := some { type := 3, sym := s, add := x, col := col } }
    | .ok _ => err 102
  | .immHi, .ex e =>
    match valueOf look col e with
    | .error r => .error r
    | .ok (.int n) => if 0 ≤ n ∧ n ≤ 32767 then put n.toNat else err 201
    | .ok (.high s x) => .ok { k with vals := k.vals ++ [0], ref := some { type := 4, sym := s, add := x, col := col } }
    | .ok _ => err 102
  | .dest t, .ex e =>
    match valueOf look col e with
    | .error r => .error r
    | .ok (.sym s x) => .ok { k with ref := some { type := t, sym := s, add := x, col := col } }
    | .ok _ => err 102
  | .word ns c, .ex (.name s _) =>
    match ns.lookup s with
    | some n => put n
    | none => err c
  | .imm _ _ _, _ => err 102
  | .immLo, _ => err 102
  | .immHi, _ => err 102
  | .dest _, _ => err 102
  | .word _ _, _ => err 102
  | _, x => .error (notReg col x)

/-- Take all operands in order. -/
def takeAll (look : String → Option Meaning) : List Kind → List (Nat × Arg) → Taken → Except Err Taken
  | kd :: ks, a :: as, k =>
    match take look k kd a.1 a.2 with
    | .error e => .error e
    | .ok t => takeAll look ks as t
  | _, _, k => .ok k

/-! ## Words -/

/-- A kernel's settings (R108). -/
structure Settings where
  sup     : Bool
  block   : Nat
  regs    : Nat
  scratch : Nat
  spawns  : Nat
  priv    : Nat
  gates   : Nat
  det     : Bool
  deriving DecidableEq, Repr, Inhabited

/-- The defaults (R108). -/
def Settings.default (sup : Bool) : Settings :=
  { sup := sup, block := 64, regs := 32, scratch := 0, spawns := 0, priv := 0, gates := 0, det := false }

/-- A word of a packet with its modifier: `stall` is the n of `!n`, `chain` the C bit that `&` sets, `bad` an error of the
word on its own, `col` the mnemonic's column. -/
structure AsmWord where
  mods  : Mods
  instr : Instr
  stall : Option Nat
  chain : Bool
  ref   : Option Ref
  bad   : Option Err
  col   : Nat
  deriving DecidableEq, Repr, Inhabited

/-- The words an assembled word takes: one, or two with its modifier (R102, R104). -/
def AsmWord.size (w : AsmWord) : Nat := if w.mods = Mods.none then 1 else 2

/-- The encodings of a word under a stall count. -/
def AsmWord.encode (w : AsmWord) (stall : Nat) : List Nat :=
  let i := encodeWord w.chain (BitVec.ofNat 2 stall) w.instr
  if w.mods = Mods.none then [i] else [encodeMods w.mods, i]

/-- A field code that is reserved, or a combination that R49 or R201 forbids (E204). R116 names no code for a `movsw` of a special
register that cannot be written; it is E204 here (DESIGN CHOICE, log 51). -/
def reserved : Instr → Bool
  | .ld _ _ _ size _ f => f.toNat == 1 && 3 ≤ size.toNat
  | .st _ _ _ size rule f => !rule49 rule.toNat size.toNat f.toNat
  | .fadr _ _ _ size f => !(size.toNat == 3 || (size.toNat == 4 && f.toNat == 0))
  | .stb _ _ rule f => !rule49 rule.toNat 3 f.toNat
  | .tst _ _ _ rule f => f.toNat == 1 && (rule.toNat ≤ 1 || rule.toNat == 6)
  | .movsw sr _ => !((18 ≤ sr.toNat && sr.toNat ≤ 21) || sr.toNat == 23)
  | _ => false

/-- The gate a word names. -/
def gateIndex : Instr → Option Nat
  | .rstopGated g => some g.toNat
  | .gadd g _ => some g.toNat
  | .gread _ g => some g.toNat
  | _ => none

/-- What is wrong with a word (E2xx): in every kernel, and under the settings of its own; a function outside every kernel
has no window, gates or mode to check against (log 51). -/
def wordError (k : Option Settings) (i : Instr) (m : Mods) : Option Nat :=
  if reserved i then some 204
  else if !i.wf || (i.thirdPair && m.kind == 2 && m.c.toNat % 2 == 1) then some 203
  else if !i.modOk m then some 205
  else
    match k with
    | none => none
    | some x =>
      if (i.reads m ++ i.writes).any fun r => x.regs ≤ r && r < 64 then some 202
      else if privWord (encodeBody i) && !x.sup then some 206
      else
        match gateIndex i with
        | some g => if x.gates ≤ g then some 208 else none
        | none => none

/-- An operand with register 0 in place of its register. -/
def Arg.blank : Arg → Arg
  | .vreg _ _ _ => .vreg 0 0 0
  | .index _ e => .index 0 e
  | .cap _ => .cap 0
  | a => a

/-- The operand that a word's error belongs to (R116): the first one that, with the later registers blanked, has the word's error; the
gate of E208 and the special register of `movs` and `movsw` are operands of their own. An error that no operand brings stands at the
mnemonic. `error` gives the word's error under other operands. -/
def offender (error : List (Nat × Arg) → Option Nat) (i : Instr) (mnemonic code : Nat) (args : List (Nat × Arg)) : Nat :=
  let blanked (k : Nat) : List (Nat × Arg) := args.take k ++ (args.drop k).map fun a => (a.1, a.2.blank)
  let at' (p : Arg → Bool) : Nat := ((args.find? fun a => p a.2).map Prod.fst).getD mnemonic
  let isGate : Arg → Bool
    | .gate _ => true
    | _ => false
  let isName : Arg → Bool
    | .ex _ => true
    | _ => false
  if code = 208 then at' isGate
  else
    match i with
    | .movsw _ _ => if code = 202 then at' (fun a => !isName a) else at' isName
    | .movs _ _ => if code = 202 then at' (fun a => !isName a) else at' isName
    | _ =>
      if error (blanked 0) = some code then mnemonic
      else
        match (List.range args.length).find? fun k => error (blanked (k + 1)) = some code with
        | some k => ((args[k]?).map Prod.fst).getD mnemonic
        | none => mnemonic

/-- A guard at the head of the tokens (R104): its negation and predicate. -/
def guardOf (ts : List Tk) : Except Err (Bool × Nat × List Tk) :=
  match ts with
  | q :: rest =>
    if q.tok ≠ .sym '?' then .ok (false, 0, ts)
    else
      let neg := (rest.head?).map Tk.tok == some (.sym '!')
      match (if neg then rest.drop 1 else rest) with
      | p :: more =>
        match p.tok with
        | .name s =>
          match regOf s with
          | some (.ok (.preg n)) => .ok (neg, n, more)
          | _ => .error { col := p.col, code := 101 }
        | _ => .error { col := p.col, code := 102 }
      | [] => .error { col := q.col, code := 102 }
  | [] => .ok (false, 0, [])

/-- The stall suffix `!n` at the end of the tokens (R103); an n that is not one of 0 to 3 is E307. -/
def stallOf (ts : List Tk) : Except Err (Option Nat × List Tk) :=
  let r := splitAt (fun t => t.tok == .sym '!') ts
  match r.2 with
  | none => .ok (none, ts)
  | some [] => .error { col := ((ts.getLast?).map Tk.col).getD 1, code := 102 }
  | some (n :: more) =>
    match n.tok, more with
    | .num cs, [] =>
      match constant cs with
      | some k => if k ≤ 3 then .ok (some k, r.1) else .error { col := n.col, code := 307 }
      | none => .error { col := n.col, code := 102 }
    | _, _ => .error { col := n.col, code := 307 }

/-- An operand count that a form takes, with the first operand deciding between forms of one length. -/
def pickOps (ops : List (List Kind)) (n : Nat) : Option (List Kind) := ops.find? fun o => o.length == n

/-- Assemble one word of a line. -/
def asmWord (look : String → Option Meaning) (k : Option Settings) (col0 : Nat) (chain : Bool) (ts : List Tk) :
    Except Err AsmWord :=
  match guardOf ts with
  | .error e => .error e
  | .ok (neg, q, afterGuard) =>
    match stallOf afterGuard with
    | .error e => .error e
    | .ok (stall, body) =>
      match body with
      | [] => .error { col := ((ts.head?).map Tk.col).getD col0, code := if ts.isEmpty then 102 else 302 }
      | t :: rest =>
        match t.tok with
        | .name s =>
          match dotted [] s.toList with
          | [] => .error { col := t.col, code := 101 }
          | mn :: sx =>
            match forms.lookup mn with
            | none => .error { col := t.col, code := 101 }
            | some f =>
              match suffixes f.slots sx with
              | none => .error { col := t.col, code := if sx.any fun x => x.toList.any Char.isUpper then 101 else 103 }
              | some codes =>
                let args := argsOf t.col rest
                match pickOps f.ops args.length with
                | none => .error { col := t.col, code := 102 }
                | some kinds =>
                  match args.mapM fun a => (parseArg a.1 a.2).map fun x => (a.1, x) with
                  | .error e => .error e
                  | .ok parsed =>
                    let start : Taken :=
                      { vals := [], mods := { Mods.none with gn := neg, gq := f4 q }, ref := none }
                    match takeAll look kinds parsed start with
                    | .error e => .error e
                    | .ok got =>
                      match f.make codes got.vals with
                      | none => .error { col := t.col, code := 102 }
                      | some i =>
                        let error (as : List (Nat × Arg)) : Option Nat :=
                          match takeAll look kinds as start with
                          | .error _ => none
                          | .ok g => (f.make codes g.vals).bind fun j => wordError k j g.mods
                        .ok { mods := got.mods, instr := i, stall := stall, chain := chain, ref := got.ref,
                              bad := (wordError k i got.mods).map fun c => { col := offender error i t.col c parsed, code := c },
                              col := t.col }
        | _ => .error { col := t.col, code := 102 }

end Sys2Proof.Kzas
end

