-- ==== Sys2Proof/Machine/KzCheck.lean ====
section
/-! DEFINITION. The packets of a section, their stall counts and the static checks of `kzas` (05_kzas_assembler.md R103, R106,
R116, R117; the packet rules of R72 to R75). -/

namespace Sys2Proof.Kzas

/-- A packet: its number in the section (ten to a line), the function it stands in, its line of the source and its words. -/
structure Pk where
  slot  : Nat
  seg   : Nat
  src   : Src
  words : List AsmWord
  deriving DecidableEq, Repr, Inhabited

/-- Offset of a packet in `.text` (R66). -/
def slotOff (n : Nat) : Nat := n / 10 * 128 + 8 + 12 * (n % 10)

/-- Number of the packet at an offset (R66). -/
def offSlot (off : Nat) : Option Nat :=
  let r := off % 128
  if 8 ≤ r ∧ (r - 8) % 12 = 0 then some (off / 128 * 10 + (r - 8) / 12) else none

/-- The chains of a packet's words (R71). -/
def chainsOf : List AsmWord → List (List AsmWord)
  | [] => []
  | w :: ws =>
    match w.chain, chainsOf ws with
    | true, c :: cs => (w :: c) :: cs
    | _, cs => [w] :: cs

/-- The packet rules of R72 to R74 on a chain's words: E303 and E305. -/
def chainErrors (p : Pk) : List Pipe → List Nat → List AsmWord → List Diag
  | _, _, [] => []
  | pipes, ws, w :: rest =>
    (if pipes.contains w.instr.pipe then [p.src.diag .e w.col 303] else []) ++
    (if w.instr.writes.any ws.contains then [p.src.diag .e w.col 305] else []) ++
    chainErrors p (w.instr.pipe :: pipes) (w.instr.writes ++ ws) rest

/-- The errors of a packet's words and of the packet (E2xx, E301, E303, E304, E305). -/
def Pk.errors (p : Pk) : List Diag :=
  let size := (p.words.map AsmWord.size).foldl (· + ·) 0
  (p.words.filterMap fun w => w.bad.map fun c => p.src.diag .e c.col c.code) ++
  (if 3 < size then [p.src.diag .e ((p.words.head?.map AsmWord.col).getD 1) 301] else []) ++
  ((chainsOf p.words).flatMap fun c => chainErrors p [] [] c) ++
  ((p.words.filter fun w => w.instr.isControl).drop 1).map fun w => p.src.diag .e w.col 304

/-- The control word of a packet (R74). -/
def Pk.control (p : Pk) : Option AsmWord := p.words.find? fun w => w.instr.isControl

/-- `stop` or `rstop`. -/
def isStop : Instr → Bool
  | .stop => true
  | .rstop => true
  | .rstopGated _ => true
  | _ => false

/-! ## Stall counts (R106) -/

/-- Where a stall count belongs: packet and chain. -/
structure Spot where
  slot  : Nat
  chain : Nat
  deriving DecidableEq, Repr, Inhabited

/-- The chains of a function as R106 takes them: `next` is the earliest cycle of the next chain, `ready` when each four-cycle
result can be read, `last` the chain before with its stall count, `done` the counts of the chains before that. -/
structure Pace where
  next  : Nat
  ready : List (Nat × Nat)
  last  : Option (Spot × Nat)
  done  : List (Spot × Nat)
  diags : List Diag
  deriving DecidableEq, Repr, Inhabited

/-- A function begins: every result is ready. -/
def Pace.start : Pace := { next := 0, ready := [], last := none, done := [], diags := [] }

/-- What a word reads or writes of four-cycle results, its guard included; q0 is constant, and a permuted or lane source is
read at its step-start value (R119, R147) (log 52). -/
def AsmWord.touches (w : AsmWord) : List Nat :=
  ((64 + w.mods.gq.toNat) :: (w.instr.newestReads w.mods ++ w.instr.writes)).filter (· != 64)

/-- The cycle from which all these can be touched. -/
def Pace.need (x : Pace) (rs : List Nat) : Nat :=
  x.ready.foldl (fun m p => if rs.contains p.1 then max m p.2 else m) 0

/-- Raise the stall count of the chain before until the given cycle. -/
def Pace.raise (x : Pace) (need : Nat) : Pace :=
  if need ≤ x.next then x
  else
    match x.last with
    | none => x
    | some (s, n) => { x with next := need, last := some (s, n + (need - x.next)) }

/-- The results of a chain that issues at a cycle. -/
def Pace.issue (x : Pace) (t : Nat) (c : List AsmWord) : Pace :=
  let new := c.flatMap fun w => if w.instr.fourCycle then (w.instr.writes.filter (· != 64)).map fun r => (r, t + 4) else []
  { x with ready := new ++ x.ready.filter fun p => !(new.any fun q => q.1 == p.1) }

/-- One chain: the chain before is given the stall it lacks, or W401 says so in manual mode. -/
def Pace.chain (manual : Bool) (p : Pk) (k : Nat) (x : Pace) (c : List AsmWord) : Pace :=
  let late := c.find? fun w => x.next < x.need w.touches
  let y :=
    if manual then
      match late with
      | some w => { x with diags := x.diags ++ [p.src.diag .w w.col 401] }
      | none => x
    else x.raise (x.need (c.flatMap AsmWord.touches))
  let s0 := c.foldl (fun m w => max m (w.stall.getD 0)) 0
  let done := match y.last with
    | some d => y.done ++ [d]
    | none => y.done
  let z : Pace := { y with last := some ({ slot := p.slot, chain := k }, s0), done := done }
  if c.all fun w => w.instr == .nop && w.size == 1 then { z with next := y.next + s0 }
  else (({ z with next := y.next + 1 + s0 } : Pace).issue y.next c)

/-- One packet: its chains, then what its control word asks of every result so far (log 52). -/
def Pace.packet (manual : Bool) (x : Pace) (p : Pk) : Pace :=
  let y := (chainsOf p.words).zipIdx.foldl (fun a c => a.chain manual p c.2 c.1) x
  match p.control with
  | none => y
  | some w =>
    if isStop w.instr then { y with ready := [] }
    else if w.instr = .exit then y
    else
      let need := y.ready.foldl (fun m q => max m q.2) 0
      if manual then (if y.next < need then { y with diags := y.diags ++ [p.src.diag .w w.col 401] } else y)
      else y.raise need

/-- The stall counts of a function's packets in source order, and what W401 finds. -/
def paced (manual : Bool) (ps : List Pk) : List (Spot × Nat) × List Diag :=
  let x := ps.foldl (Pace.packet manual) Pace.start
  (x.done ++ x.last.toList, x.diags)

/-- The S of a word: its own in manual mode; else the chain's, on the chain's last word. -/
def stallOfWord (manual : Bool) (counts : List (Spot × Nat)) (p : Pk) (w : AsmWord) : Nat :=
  if manual then w.stall.getD 0 else (counts.lookup { slot := p.slot, chain := 0 }).getD 0

/-- W402: a `!n` below the count. -/
def lowFloors (counts : List (Spot × Nat)) (ps : List Pk) : List Diag :=
  ps.flatMap fun p => p.words.filterMap fun w =>
    match w.stall with
    | some n => if n < (counts.lookup { slot := p.slot, chain := 0 }).getD 0 then some (p.src.diag .w w.col 402) else none
    | none => none

/-! ## Paths -/

/-- Whether a word acts: always, never, or as its guard says (R84). -/
inductive When where
  | always
  | never
  | maybe
  deriving DecidableEq, Repr, Inhabited

/-- When a word acts. -/
def AsmWord.when (w : AsmWord) : When :=
  if w.mods.gq = 0 then (if w.mods.gn then .never else .always) else .maybe

/-- The packets that may follow one within its function: `dest` gives the packet that a `br` names; a call is passed over
(R117) (log 53). -/
def Pk.follows (dest : Pk → Option Nat) (p : Pk) : List Nat :=
  match p.control with
  | none => [p.slot + 1]
  | some w =>
    let taken : List Nat :=
      match w.instr with
      | .br _ _ => (dest p).toList
      | .brx _ => []
      | .ret _ => []
      | .tret => []
      | .exit => []
      | _ => [p.slot + 1]
    match w.when with
    | .always => taken
    | .never => [p.slot + 1]
    | .maybe => if taken.contains (p.slot + 1) then taken else taken ++ [p.slot + 1]

/-- The words after one chain of a packet. -/
def Pk.after (p : Pk) (chain : Nat) : List AsmWord := ((chainsOf p.words).drop (chain + 1)).flatten

/-- What a word does to a watch over a path: the code it earns, and whether the watch ends there. -/
structure Watch where
  code : AsmWord → Option (Sort' × Nat)
  ends : AsmWord → Bool

/-- Watch the words of a packet: diagnostics, and whether the watch goes on. A word that ends the watch under a guard lets it go
on, since the guard may be false; R117 does not say (DESIGN CHOICE, log 53). -/
def Watch.words (x : Watch) (p : Pk) : List AsmWord → List Diag × Bool
  | [] => ([], true)
  | w :: ws =>
    let here := match w.when, x.code w with
      | .never, _ => []
      | _, some c => [p.src.diag c.1 w.col c.2]
      | _, none => []
    if w.when = .always ∧ x.ends w then (here, false)
    else
      let r := x.words p ws
      (here ++ r.1, r.2)

/-- Watch every path from the packets given; each packet is visited once. -/
def Watch.paths (x : Watch) (ps : List Pk) (dest : Pk → Option Nat) : Nat → List Nat → List Nat → List Diag
  | 0, _, _ => []
  | _ + 1, _, [] => []
  | n + 1, seen, s :: rest =>
    if seen.contains s then x.paths ps dest n seen rest
    else
      match ps.find? fun p => p.slot == s with
      | none => x.paths ps dest n (s :: seen) rest
      | some p =>
        let r := x.words p p.words
        r.1 ++ x.paths ps dest n (s :: seen) (if r.2 then p.follows dest ++ rest else rest)

/-- Watch every path that begins after a chain of a packet. A packet adds at most two others to the list. -/
def Watch.from (x : Watch) (ps : List Pk) (dest : Pk → Option Nat) (p : Pk) (chain : Nat) : List Diag :=
  let r := x.words p (p.after chain)
  r.1 ++ (if r.2 then x.paths ps dest (3 * ps.length + 3) [] (p.follows dest) else [])

/-- The words of a packet with their chains. -/
def Pk.numbered (p : Pk) : List (Nat × AsmWord) :=
  (chainsOf p.words).zipIdx.flatMap fun c => c.1.map fun w => (c.2, w)

/-- Diagnostics without repeats. -/
def once (ds : List Diag) : List Diag := ds.foldl (fun a d => if a.contains d then a else a ++ [d]) []

/-- Every watch that some word of a function begins. -/
def watched (start : AsmWord → List Watch) (ps : List Pk) (dest : Pk → Option Nat) : List Diag :=
  once (ps.flatMap fun p => p.numbered.flatMap fun c =>
    if c.2.when = .never then [] else (start c.2).flatMap fun x => x.from ps dest p c.1)

/-- What a word reads or writes now: R55, R36. -/
def AsmWord.uses (w : AsmWord) : List Nat :=
  (64 + w.mods.gq.toNat) :: (w.instr.newestReads w.mods ++ w.instr.writesNow)

/-! ## Pending results (E502, E503) -/

/-- The destination of `fadr` (R55) and q15 after `spawn` (R36), up to the next `stop` or `rstop`. -/
def pendingWatch (w : AsmWord) : List Watch :=
  let up (regs : List Nat) (code : Nat) : Watch :=
    { code := fun x => if x.uses.any regs.contains then some (.e, code) else none, ends := fun x => isStop x.instr }
  match w.instr with
  | .fadr d _ _ size _ => [up (sizedRegs d size) 502]
  | .spawn _ _ _ => [up [79] 503]
  | _ => []

/-! ## Engine hazards (W601, W602) -/

/-- The quad through which a word loads or stores. -/
def loadQuad : Instr → Option Nat
  | .ld _ c _ _ _ _ => some c.toNat
  | .fadr _ c _ _ _ => some c.toNat
  | _ => none
/-- The quad through which a word stores. -/
def storeQuad : Instr → Option Nat
  | .st _ c _ _ _ _ => some c.toNat
  | .fadr _ c _ _ _ => some c.toNat
  | _ => none

/-- The quads of a `cp` until its token is read; a quad that is written no longer names the range (log 53). -/
def engineWatch (w : AsmWord) : List Watch :=
  match w.instr with
  | .cp d dst src _ _ =>
    let reads (x : AsmWord) : Bool := (x.instr.newestReads x.mods).contains d.toNat
    let loses (q : BitVec 4) (x : AsmWord) : Bool := reads x || x.instr.writes.any (qd q).contains
    let mark (load : Bool) (q : BitVec 4) (code : Nat) : Watch :=
      { code := fun x =>
          if !reads x && (if load then loadQuad x.instr else storeQuad x.instr) == some q.toNat then some (.w, code) else none,
        ends := loses q }
    [mark false dst 601, mark false src 601, mark true dst 602]
  | _ => []

/-! ## Spoiled capabilities (W603) -/

/-- CAP instructions (R206). -/
def isCap : Instr → Bool
  | .capsub _ _ _ => true
  | .capperm _ _ _ => true
  | .capget _ _ _ => true
  | .captag _ _ => true
  | .capmint _ _ => true
  | _ => false

/-- Writes whole quads with their tags: CAP instructions and `.x128` loads (R194). -/
def setsQuad (i : Instr) (q : Nat) : Bool :=
  match i with
  | .ld d _ _ size _ _ => size.toNat == 5 && d.toNat == 4 * q
  | .capsub d _ _ => d.toNat == q
  | .capperm d _ _ => d.toNat == q
  | .capmint d _ => d.toNat == q
  | .capget d _ sel => 16 ≤ sel.toNat && d.toNat == q
  | _ => false

/-- The quads that a word uses as capabilities; `captag` and `capget` take untagged ones too (R209, R210). -/
def capUses (i : Instr) : List Nat :=
  match i with
  | .ld _ c _ _ _ _ => [c.toNat]
  | .st _ c _ _ _ _ => [c.toNat]
  | .fadr _ c _ _ _ => [c.toNat]
  | .capsub _ a _ => [a.toNat]
  | .capperm _ a _ => [a.toNat]
  | .tld _ c _ => [c.toNat]
  | .tst _ c _ _ _ => [c.toNat]
  | .tnext _ _ c => [c.toNat]
  | .tcount _ c => [c.toNat]
  | .cp _ t s _ _ => [t.toNat, s.toNat]
  | .launch _ a _ => [a.toNat]
  | .cpt _ a _ => [a.toNat]
  | .cpd _ a _ => [a.toNat]
  | .cps _ a _ => [a.toNat]
  | .gath _ a _ => [a.toNat]
  | .scat _ a _ => [a.toNat]
  | .mmb _ a _ => [a.toNat]
  | .mma _ a _ => [a.toNat]
  | .mmd _ a _ => [a.toNat]
  | .mmz _ a _ => [a.toNat]
  | .lease _ a _ => [a.toNat]
  | .unlease _ a _ => [a.toNat]
  | .digest _ a _ => [a.toNat]
  | .rcp _ a _ => [a.toNat]
  | i => if bitsOf (encodeBody i) 28 23 = 0x38 then [bitsOf (encodeBody i) 16 11] else []

/-- The quads that a word spoils. -/
def spoils (i : Instr) : List Nat :=
  if isCap i then []
  else
    let qs := (i.writes.filter (· < 64)).map (· / 4)
    (List.range 16).filter fun q => qs.contains q && !setsQuad i q

/-- A spoiled quad until it is set again. -/
def capWatch (w : AsmWord) : List Watch :=
  (spoils w.instr).map fun q =>
    { code := fun x => if (capUses x.instr).contains q then some (.w, 603) else none, ends := fun x => setsQuad x.instr q }

/-! ## Loops (W403) -/

/-- A packet that ends a step, ends the fibre or calls (W403). -/
def breaksLoop (p : Pk) : Bool :=
  match p.control with
  | some w => isStop w.instr || w.instr == .exit ||
      match w.instr with
      | .call _ _ _ => true
      | .callx _ _ => true
      | _ => false
  | none => false

/-- Whether a path leads from the packets given to the goal without a packet that breaks it. -/
def reaches (ps : List Pk) (dest : Pk → Option Nat) (goal : Nat) : Nat → List Nat → List Nat → Bool
  | 0, _, _ => false
  | _ + 1, _, [] => false
  | n + 1, seen, s :: rest =>
    if s = goal then true
    else if seen.contains s then reaches ps dest goal n seen rest
    else
      match ps.find? fun p => p.slot == s with
      | none => reaches ps dest goal n (s :: seen) rest
      | some p => reaches ps dest goal n (s :: seen) (if breaksLoop p then rest else p.follows dest ++ rest)

/-- Backward branches with a loop that never ends its step (R44). -/
def loops (ps : List Pk) (dest : Pk → Option Nat) : List Diag :=
  ps.filterMap fun p =>
    match p.control, dest p with
    | some w, some t =>
      if w.when ≠ .never ∧ t ≤ p.slot ∧ (ps.any fun x => x.slot == t)
          ∧ reaches ps dest p.slot (3 * ps.length + 3) [] [t] = true then
        some (p.src.diag .w w.col 403)
      else none
    | _, _ => none

/-! ## The journal (E501) -/

/-- The journal entries of a word as bits: one for each register, and bit 64 for the predicate word (R30), which `spawn` enters too:
it writes q15 (R120). -/
def entryBits (i : Instr) : Nat :=
  let now := match i with
    | .spawn _ _ _ => [79]
    | _ => i.writesNow
  now.foldl (fun m r => if r = 64 then m else Nat.lor m (2 ^ min r 64)) 0

/-- Run a packet's words on a set of entries: the new set, or the diagnostics of a 25th entry. -/
def journalWords (p : Pk) : List AsmWord → Nat → Except Diag Nat
  | [], m => .ok m
  | w :: ws, m =>
    if w.when = .never then journalWords p ws m
    else
      let m' := Nat.lor m (entryBits w.instr)
      if 24 < popCount 65 m' then .error (p.src.diag .e w.col 501) else journalWords p ws m'

/-- Follow every path with its entries. A visit whose entries an earlier visit of the packet had is dropped: it can find
nothing new. -/
def journalPaths (ps : List Pk) (dest : Pk → Option Nat) : Nat → List (Nat × Nat) → List (Nat × Nat) → List Diag
  | 0, _, _ => []
  | _ + 1, _, [] => []
  | n + 1, seen, (s, m) :: rest =>
    if seen.any fun x => x.1 == s && Nat.lor x.2 m == x.2 then journalPaths ps dest n seen rest
    else
      match ps.find? fun p => p.slot == s with
      | none => journalPaths ps dest n seen rest
      | some p =>
        match journalWords p p.words m with
        | .error d => d :: journalPaths ps dest n ((s, m) :: seen) rest
        | .ok m' =>
          let ended := match p.control with
            | some w => if isStop w.instr then w.when else .never
            | none => .never
          let sets := match ended with
            | .always => [0]
            | .never => [m']
            | .maybe => [0, m']
          let more := (p.follows dest).flatMap fun t => sets.map fun x => (t, x)
          journalPaths ps dest n ((s, m) :: seen) (more ++ rest)

/-- E501 from a function's first packet and every packet that a transfer may enter, but not from the packets `traps` that only a
trap enters: R117 counts no trap-routine writes (log 53). -/
def journal (ps : List Pk) (dest : Pk → Option Nat) (entered traps : List Nat) : List Diag :=
  let starts := ((ps.take 1).map Pk.slot ++ entered).filter fun s => !traps.contains s
  once (journalPaths ps dest (4096 * (ps.length + 1)) [] (starts.map fun s => (s, 0)))

/-- The static checks of one function (R117). -/
def staticChecks (ps : List Pk) (dest : Pk → Option Nat) (entered traps : List Nat) : List Diag :=
  journal ps dest entered traps ++ watched pendingWatch ps dest ++ loops ps dest ++ watched engineWatch ps dest ++
    watched capWatch ps dest

end Sys2Proof.Kzas
end

