-- ==== Sys2Proof/Machine/KzAsm.lean ====
section
/-! DEFINITION. The `kzas` assembler: directives, sections, layout in lines, symbols, relocations, the kernel table and the
object (05_kzas_assembler.md R99 to R116; the line header of R67). -/

namespace Sys2Proof.Kzas

/-! ## The object (R113, R114) -/

/-- A section's contents. -/
structure Section where
  name  : String
  flags : String
  align : Nat
  bytes : List Byte
  deriving DecidableEq, Repr, Inhabited

/-- A symbol: its place, or none when another object defines it. -/
structure Symbol where
  name  : String
  place : Option Place
  glob  : Bool
  deriving DecidableEq, Repr, Inhabited

/-- A relocation entry (R114); the addend is the signed 32-bit field. -/
structure Reloc where
  addend : BitVec 32
  symbol : Nat
  type   : Nat
  sect   : Nat
  off    : Nat
  deriving DecidableEq, Repr, Inhabited

/-- The 16 bytes of a relocation entry (R114). -/
def Reloc.bytes (r : Reloc) : List Byte :=
  leBytes 6 r.off ++ leBytes 1 r.sect ++ leBytes 1 r.type ++ leBytes 4 r.symbol ++ leBytes 4 r.addend.toNat

/-- A kernel-table entry (R113). -/
structure Kernel where
  name    : String
  entry   : Nat
  set     : Settings
  trapvec : Option Nat
  check   : Bool
  deriving DecidableEq, Repr, Inhabited

/-- A LIF object: the magic, the shape code and the object version of its header, and its tables (R113); the spec gives no
byte layout but that of a relocation entry (log 50). -/
structure Object where
  magic    : String
  shape    : Nat
  version  : Nat
  sections : List Section
  symbols  : List Symbol
  relocs   : List Reloc
  kernels  : List Kernel
  deriving DecidableEq, Repr, Inhabited

/-! ## Names -/

/-- A name's key: a name beginning `.L` belongs to its kernel or function (R112). -/
def keyOf (scope s : String) : String := if s.toList.take 2 = ['.', 'L'] then scope ++ " " ++ s else s

/-- What the names of an object mean. -/
structure Names where
  consts  : List (String × Ex)
  labels  : List (String × Place)
  externs : List String
  deriving DecidableEq, Repr, Inhabited

/-- Look a name up from within a scope (R112). -/
def Names.look (n : Names) (scope s : String) : Option Meaning :=
  let k := keyOf scope s
  match n.consts.lookup k with
  | some e => some (.const e ((n.consts.map fun c => c.2.depth fun _ => 0).foldl (· + ·) 0))
  | none =>
    match n.labels.lookup k with
    | some p => some (.label { key := k, place := some p })
    | none => if n.externs.contains k then some (.label { key := k, place := none }) else none

/-! ## Lines in layout -/

/-- What stands in a section. -/
inductive Content where
  /-- the packet of a number in `.text` -/
  | packet (slot : Nat)
  /-- data of a directive at an offset -/
  | data (dir : String) (off : Nat)
  deriving DecidableEq, Repr, Inhabited

/-- A packet or data of a source line. -/
structure Item where
  sect   : Nat
  what   : Content
  src    : Src
  toks   : List Tk
  scope  : String
  seg    : Nat
  kernel : Option Nat
  deriving DecidableEq, Repr, Inhabited

/-- A section while it is laid out; of `.text` the length counts packets. -/
structure Sect where
  name  : String
  flags : String
  align : Nat
  len   : Nat
  deriving DecidableEq, Repr, Inhabited

/-- A kernel while it is read: where its directive and its trap vector stand. -/
structure KernelDef where
  name : String
  set  : Settings
  trap : Option (String × Src × Nat)
  src  : Src
  col  : Nat
  deriving DecidableEq, Repr, Inhabited

/-- The layout so far. `kernel` is the open kernel's number, `fresh` asks for a new line, `waiting` are labels that wait for
what follows them. -/
structure Lay where
  sects   : List Sect
  cur     : Nat
  kernels : List KernelDef
  kernel  : Option Nat
  scope   : String
  seg     : Nat
  fresh   : Bool
  names   : Names
  /-- the names that the layout before this one found -/
  prior   : Option Names
  /-- the expressions of `.equ`, each with its scope and its place -/
  equs    : List (Src × Nat × String × Ex)
  known   : List String
  waiting : List String
  /-- kernels and functions that wait for the code they begin at -/
  opening : List String
  entries : List String
  globals : List (String × Src × Nat)
  traps   : List String
  items   : List Item
  diags   : List Diag
  deriving DecidableEq, Repr, Inhabited

/-- Report. -/
def Lay.err (l : Lay) (s : Src) (col code : Nat) : Lay := { l with diags := l.diags ++ [s.diag .e col code] }

/-- Define a name once in its scope (E106). -/
def Lay.define (l : Lay) (s : Src) (col : Nat) (key : String) : Lay :=
  if l.known.contains key then l.err s col 106 else { l with known := key :: l.known }

/-- The labels that wait name this place. -/
def Lay.settle (l : Lay) (p : Place) : Lay :=
  { l with names := { l.names with labels := l.names.labels ++ l.waiting.map fun k => (k, p) }, waiting := [] }

/-- The kernels and functions that wait begin at this offset of `.text` (R108). -/
def Lay.open (l : Lay) (off : Nat) : Lay :=
  { l with names := { l.names with labels := l.names.labels ++ l.opening.map fun k => (k, { sect := 0, off := off }) }, opening := [] }

/-- Change the current section. -/
def Lay.modSect (l : Lay) (f : Sect → Sect) : Lay :=
  { l with sects := l.sects.zipIdx.map fun x => if x.2 = l.cur then f x.1 else x.1 }

/-- The current section's length. -/
def Lay.len (l : Lay) : Nat := ((l.sects[l.cur]?).map Sect.len).getD 0

/-- The next number at the start of a line. -/
def lineUp (n : Nat) : Nat := (n + 9) / 10 * 10

/-- Place a packet; a label of a trap vector begins a line (R107). -/
def Lay.packet (l : Lay) (s : Src) (ts : List Tk) : Lay :=
  if l.cur ≠ 0 then l.err s (((ts.head?).map Tk.col).getD 1) 306
  else
    let n := if l.fresh || (l.waiting ++ l.opening).any l.traps.contains then lineUp l.len else l.len
    let m := (l.settle { sect := 0, off := slotOff n }).open (slotOff n)
    { (m.modSect fun x => { x with len := n + 1 }) with
      fresh := false,
      items := m.items ++ [{ sect := 0, what := .packet n, src := s, toks := ts, scope := m.scope, seg := m.seg, kernel := m.kernel }] }

/-- Place data of so many bytes. -/
def Lay.data (l : Lay) (s : Src) (dir : String) (ts : List Tk) (size : Nat) : Lay :=
  let m := l.settle { sect := l.cur, off := l.len }
  { (m.modSect fun x => { x with len := x.len + size }) with
    items := m.items ++ [{ sect := m.cur, what := .data dir l.len, src := s, toks := ts, scope := m.scope, seg := m.seg, kernel := m.kernel }] }

/-- Change to a section, which ends a function (R108). R108 does not say whether a directive that names the current section is a
section change; it is one here: it ends the function, its scope of `.L` names and its stall counts (DESIGN CHOICE, log 51). -/
def Lay.enter (l : Lay) (n : Nat) : Lay :=
  let scope := match l.kernel.bind fun k => l.kernels[k]? with
    | some k => k.name
    | none => ""
  { l with cur := n, seg := l.seg + 1, scope := scope }

/-- Change the open kernel. -/
def Lay.modKernel (l : Lay) (f : KernelDef → KernelDef) : Lay :=
  { l with kernels := l.kernels.zipIdx.map fun x => if some x.2 = l.kernel then f x.1 else x.1 }

/-! ## Directives (R108) -/

/-- A plain name. -/
def nameOf (ts : List Tk) : Option String :=
  match ts with
  | [t] => match t.tok with
    | .name s => some s
    | _ => none
  | _ => none

/-- A constant operand within a range; its labels may stand later in the source, where the layout before found them. -/
def Lay.number (l : Lay) (col : Nat) (ts : List Tk) (lo hi : Int) : Except Err Nat :=
  match parseEx ts with
  | some (e, []) => (rangeOf ((l.prior.getD l.names).look l.scope) col e lo hi).map Int.toNat
  | _ => .error { col := col, code := 102 }

/-- Sizes of the integer directives. -/
def intDirs : List (String × Nat) := [(".byte", 1), (".half", 2), (".word", 4), (".dword", 8)]
/-- Formats of the float directives (R110). -/
def floatDirs : List (String × Machine.Fmt) :=
  [(".f16", Machine.f16), (".bf16", Machine.bf16), (".f32", Machine.f32), (".f64", Machine.f64)]
/-- Element widths of the PSB directives (R109). -/
def psbDirs : List (String × Nat) := [(".psb4", 4), (".psb8", 8), (".psb16", 16)]

/-- Bytes that a data directive makes of so many operands; none for other directives. -/
def dirSize (dir : String) (args : Nat) : Option Nat :=
  match intDirs.lookup dir with
  | some n => some (n * args)
  | none =>
    match floatDirs.lookup dir with
    | some f => some (f.width / 8 * args)
    | none => (psbDirs.lookup dir).map fun k => 4 * k + 2

/-- The kernel directives with a number: their range and step. -/
def kernelDirs : List (String × Nat × Nat × Nat) :=
  [(".regs", 16, 64, 8), (".scratch", 0, 8388608, 1), (".block", 1, 65536, 1), (".spawns", 0, 65535, 1),
   (".private", 0, 65536, 16), (".gates", 0, 64, 1)]

/-- Set a kernel's number. -/
def Settings.put (x : Settings) (dir : String) (n : Nat) : Settings :=
  match dir with
  | ".regs" => { x with regs := n }
  | ".scratch" => { x with scratch := n }
  | ".block" => { x with block := n }
  | ".spawns" => { x with spawns := n }
  | ".private" => { x with priv := n }
  | ".gates" => { x with gates := n }
  | _ => x

/-- Begin a function or a kernel: a symbol at a new line. -/
def Lay.entry (l : Lay) (s : Src) (col : Nat) (name : String) : Lay :=
  let m := l.define s col name
  { m with opening := m.opening ++ [name], entries := name :: m.entries, fresh := true, scope := name, seg := m.seg + 1 }

/-- The kernel's last directive. -/
def Lay.closeKernel (l : Lay) : Lay :=
  match l.kernel.bind fun k => l.kernels[k]? with
  | none => l
  | some k =>
    let m : Lay := { l with kernel := none, scope := "", seg := l.seg + 1 }
    if 65536 < k.set.block + k.set.spawns then m.err k.src k.col 504 else m

/-- A directive that names its kernel. -/
def Lay.kernelDir (l : Lay) (s : Src) (col : Nat) (dir : String) (args : List (Nat × List Tk)) : Lay :=
  if l.kernel.isNone then l.err s col 107
  else
    match dir, args with
    | ".kend", [] => l.closeKernel
    | ".det", [] => l.modKernel fun k => { k with set := { k.set with det := true } }
    | ".trapvec", [a] =>
      match nameOf a.2 with
      | some n => l.modKernel fun k => { k with trap := some (keyOf l.scope n, s, a.1) }
      | none => l.err s a.1 102
    | d, [a] =>
      match kernelDirs.lookup d with
      | none => l.err s col 102
      | some (lo, hi, by') =>
        match l.number a.1 a.2 lo hi with
        | .error e => l.err s e.col e.code
        | .ok n => if n % by' = 0 then l.modKernel fun k => { k with set := k.set.put d n } else l.err s a.1 201
    | _, _ => l.err s col 102

/-- The section of a name, made if it is new. R108 does not say what other flags on a section that is there already do: the first
flags stay, and nothing is reported (DESIGN CHOICE, log 51). -/
def Lay.section (l : Lay) (name flags : String) : Lay :=
  match l.sects.findIdx? fun x => x.name == name with
  | some n => l.enter n
  | none =>
    ({ l with sects := l.sects ++ [{ name := name, flags := flags, align := 1, len := 0 }] } : Lay).enter l.sects.length

/-- Export or declare the names of a list. -/
def Lay.nameList (l : Lay) (s : Src) (glob : Bool) (args : List (Nat × List Tk)) : Lay :=
  args.foldl (fun (m : Lay) a =>
    match nameOf a.2 with
    | none => m.err s a.1 102
    | some n =>
      if glob then { m with globals := m.globals ++ [(keyOf m.scope n, s, a.1)] }
      else { m with names := { m.names with externs := n :: m.names.externs } }) l

/-- A directive's line (R108). `.equ` was read before, and is checked here against other definitions. R116 names no code for a
kernel or a function in a data section; it is E306 here, as an instruction is (DESIGN CHOICE, log 51). -/
def Lay.directive (l : Lay) (s : Src) (t : Tk) (dir : String) (rest : List Tk) : Lay :=
  let args := argsOf t.col rest
  let bad : Lay := l.err s t.col 102
  if dir = ".kernel" then
    if l.cur ≠ 0 then l.err s t.col 306
    else if l.kernel.isSome then l.err s t.col 107
    else
      match args.map fun a => nameOf a.2 with
      | some n :: more =>
        if more = [] ∨ more = [some "sup"] then
          let m := l.entry s ((args.head?.map Prod.fst).getD t.col) n
          { m with
            kernel := some m.kernels.length,
            kernels := m.kernels ++ [{ name := n, set := Settings.default (more ≠ []), trap := none, src := s, col := t.col }] }
        else bad
      | _ => bad
  else if dir = ".func" then
    if l.cur ≠ 0 then l.err s t.col 306
    else
      match args with
      | [a] => match nameOf a.2 with
        | some n => l.entry s a.1 n
        | none => bad
      | _ => bad
  else if dir = ".text" then (if args = [] then l.enter 0 else bad)
  else if dir = ".const" then (if args = [] then l.enter 1 else bad)
  else if dir = ".data" then (if args = [] then l.enter 2 else bad)
  else if dir = ".section" then
    match args with
    | a :: fs =>
      match nameOf a.2, fs.mapM fun f => nameOf f.2 with
      | some n, some gs =>
        let flags := String.join gs
        if gs ≠ [] ∧ (flags.toList.all fun c => c == 'R' || c == 'W' || c == 'C') ∧ n ≠ ".text" then l.section n flags else bad
      | _, _ => bad
    | [] => bad
  else if dir = ".global" then (if args = [] then bad else l.nameList s true args)
  else if dir = ".extern" then (if args = [] then bad else l.nameList s false args)
  else if dir = ".equ" then
    match args with
    | [a, b] =>
      match nameOf a.2, parseEx b.2 with
      | some n, some (e, []) =>
        let m := l.define s a.1 (keyOf l.scope n)
        { m with equs := m.equs ++ [(s, b.1, l.scope, e)] }
      | _, _ => bad
    | _ => bad
  else if dir = ".align" then
    match args with
    | [a] =>
      match l.number a.1 a.2 1 4096 with
      | .error e => l.err s e.col e.code
      | .ok n =>
        if l.cur = 0 then (if n = 128 then { l with fresh := true } else l.err s a.1 201)
        else if 2 ^ Nat.log2 n ≠ n then l.err s a.1 201
        else l.modSect fun x => { x with align := max x.align n, len := (x.len + n - 1) / n * n }
    | _ => bad
  else if dir = ".space" then
    if l.cur = 0 then l.err s t.col 306
    else
      match args with
      | a :: more =>
        match l.number a.1 a.2 0 (2 ^ 48) with
        | .error e => l.err s e.col e.code
        | .ok n => if more.length ≤ 1 then l.data s dir rest n else bad
      | [] => bad
  else
    match dirSize dir args.length with
    | some n =>
      if l.cur = 0 then l.err s t.col 306
      else if args = [] then bad
      else l.data s dir rest n
    | none =>
      if dir = ".kend" || dir = ".det" || dir = ".trapvec" || (kernelDirs.lookup dir).isSome then l.kernelDir s t.col dir args
      else l.err s t.col 101

/-- A line: its label, then its packet or directive (R101). -/
def Lay.line (l : Lay) (s : Src) : Lay :=
  let m := match tokens (splitLabel s.text).1 with
    | t :: _ =>
      match t.tok with
      | .name n =>
        let d := l.define s t.col (keyOf l.scope n)
        { d with waiting := d.waiting ++ [keyOf l.scope n] }
      | _ => l
    | [] => l
  match s.toks with
  | [] => m
  | t :: rest =>
    match t.tok with
    | .name n => if n.toList.head? = some '.' then m.directive s t n rest else m.packet s (t :: rest)
    | _ => m.packet s (t :: rest)

/-! ## What must be known before -/

/-- Scan: the constants of `.equ` and the labels of `.trapvec`, each in its scope. -/
structure Scan where
  kernel : String
  scope  : String
  consts : List (String × Ex)
  traps  : List String
  deriving DecidableEq, Repr, Inhabited

/-- One line of the scan. -/
def Scan.line (x : Scan) (s : Src) : Scan :=
  match s.toks with
  | t :: rest =>
    match t.tok with
    | .name d =>
      match d, (argsOf t.col rest).map Prod.snd with
      | ".kernel", a :: _ => match nameOf a with
        | some n => { x with kernel := n, scope := n }
        | none => x
      | ".func", [a] => match nameOf a with
        | some n => { x with scope := n }
        | none => x
      | ".kend", _ => { x with kernel := "", scope := "" }
      | ".text", _ => { x with scope := x.kernel }
      | ".const", _ => { x with scope := x.kernel }
      | ".data", _ => { x with scope := x.kernel }
      | ".section", _ => { x with scope := x.kernel }
      | ".trapvec", [a] => match nameOf a with
        | some n => { x with traps := keyOf x.scope n :: x.traps }
        | none => x
      | ".equ", [a, b] => match nameOf a, parseEx b with
        | some n, some (e, []) => { x with consts := x.consts ++ [(keyOf x.scope n, e)] }
        | _, _ => x
      | _, _ => x
    | _ => x
  | [] => x

/-! ## Data (R108 to R110) -/

/-- Bytes with the relocations and warnings they bring. -/
structure Made where
  bytes  : List Byte
  relocs : List (Nat × Ref)
  warns  : List (Nat × Nat)
  deriving DecidableEq, Repr, Inhabited

/-- An addend fits its field of a relocation entry (R114); one that does not is E201 (R105). -/
def addendFits (x : Int) : Bool := -(2 ^ 31) ≤ x && x < 2 ^ 31

/-- One integer operand. -/
def intData (look : String → Option Meaning) (n col : Nat) (ts : List Tk) : Except Err Made :=
  match parseEx ts with
  | some (e, []) =>
    match valueOf look col e with
    | .error r => .error r
    | .ok (.int k) =>
      if n = 8 ∨ (-(2 ^ (8 * n - 1)) ≤ k ∧ k < 2 ^ (8 * n)) then
        .ok { bytes := leBytes n (k % 2 ^ (8 * n)).toNat, relocs := [], warns := [] }
      else .error { col := col, code := 201 }
    | .ok (.sym l x) =>
      if n ≠ 4 ∧ n ≠ 8 then .error { col := col, code := 102 }
      else if !addendFits x then .error { col := col, code := 201 }
      else
        .ok { bytes := leBytes n 0, relocs := [(0, { type := if n = 4 then 5 else 6, sym := l, add := x, col := col })], warns := [] }
    | .ok _ => .error { col := col, code := 102 }
  | _ => .error { col := col, code := 102 }

/-- One float literal (R110). -/
def floatData (f : Machine.Fmt) (col : Nat) (ts : List Tk) : Except Err Made :=
  let neg := (ts.head?).map Tk.tok == some (.sym '-')
  let out (b : Nat) (w : List (Nat × Nat)) : Except Err Made := .ok { bytes := leBytes (f.width / 8) b, relocs := [], warns := w }
  match if neg then ts.drop 1 else ts with
  | [t] =>
    match t.tok with
    | .name "inf" => out (f.signed neg f.infBits) []
    | .name "nan" => if neg then .error { col := col, code := 102 } else out f.nan []
    | .num cs =>
      match floatMag cs with
      | some (a, b) =>
        let r := roundFraction f neg a b
        out r (if r % f.signBit = f.infBits then [(t.col, 404)] else [])
      | none => .error { col := col, code := 102 }
    | _ => .error { col := col, code := 102 }
  | _ => .error { col := col, code := 102 }

/-- One PSB element as its pattern (R109): `m` or `m*e1`. R109 does not say which values are a written `-0`: here a zero whose
expression begins with `-` (DESIGN CHOICE, log 51). -/
def psbElement (look : String → Option Meaning) (k col : Nat) (ts : List Tk) : Except Err Nat :=
  let sel : Bool := match ts.reverse with
    | a :: b :: _ => a.tok == .name "e1" && b.tok == .sym '*'
    | _ => false
  let body := if sel then ts.take (ts.length - 2) else ts
  match parseEx body with
  | some (e, []) =>
    match rangeOf look col e (1 - 2 ^ (k - 2)) (2 ^ (k - 2) - 1) with
    | .error r => .error r
    | .ok m =>
      let neg := m < 0 || (m == 0 && (body.head?).map Tk.tok == some (.sym '-'))
      .ok ((if sel then 2 ^ (k - 1) else 0) + (if neg then 2 ^ (k - 2) else 0) + m.natAbs)
  | _ => .error { col := col, code := 102 }

/-- One PSB block (R109): elements from the least significant bits on, then E0 and E1. -/
def psbData (look : String → Option Meaning) (k col : Nat) (args : List (Nat × List Tk)) : Except Err Made :=
  let byteOf (a : Nat × List Tk) : Except Err Int :=
    match parseEx a.2 with
    | some (e, []) => rangeOf look a.1 e 0 255
    | _ => .error { col := a.1, code := 102 }
  match args with
  | a :: b :: es =>
    if 32 < es.length then .error { col := col, code := 102 }
    else
      match byteOf a, byteOf b, es.mapM fun x => psbElement look k x.1 x.2 with
      | .ok x, .ok y, .ok ps =>
        let n := ps.zipIdx.foldl (fun m p => m + p.1 * 2 ^ (k * p.2)) 0
        .ok { bytes := leBytes (4 * k) n ++ leBytes 1 x.toNat ++ leBytes 1 y.toNat, relocs := [], warns := [] }
      | .error r, _, _ => .error r
      | _, .error r, _ => .error r
      | _, _, .error r => .error r
  | _ => .error { col := col, code := 102 }

/-- Operand after operand; the sites of relocations count from the directive's first byte. -/
def joinData (f : Nat × List Tk → Except Err Made) : List (Nat × List Tk) → Nat → Except Err Made
  | [], _ => .ok { bytes := [], relocs := [], warns := [] }
  | a :: as, off =>
    match f a with
    | .error e => .error e
    | .ok x =>
      match joinData f as (off + x.bytes.length) with
      | .error e => .error e
      | .ok y =>
        .ok { bytes := x.bytes ++ y.bytes, relocs := (x.relocs.map fun r => (off + r.1, r.2)) ++ y.relocs,
              warns := x.warns ++ y.warns }

/-- The bytes of a data directive. -/
def dataBytes (look : String → Option Meaning) (dir : String) (col : Nat) (ts : List Tk) : Except Err Made :=
  let args := argsOf col ts
  match intDirs.lookup dir with
  | some n => joinData (fun a => intData look n a.1 a.2) args 0
  | none =>
    match floatDirs.lookup dir with
    | some f => joinData (fun a => floatData f a.1 a.2) args 0
    | none =>
      match psbDirs.lookup dir with
      | some k => psbData look k col args
      | none =>
        match args.mapM fun a => match parseEx a.2 with
          | some (e, []) => rangeOf look a.1 e (-(2 ^ 63)) (2 ^ 63)
          | _ => .error { col := a.1, code := 102 } with
        | .error e => .error e
        | .ok [n] => .ok { bytes := List.replicate n.toNat 0, relocs := [], warns := [] }
        | .ok [n, v] =>
          if -128 ≤ v ∧ v ≤ 255 then
            .ok { bytes := List.replicate n.toNat (BitVec.ofInt 8 v), relocs := [], warns := [] }
          else .error { col := ((args[1]?).map Prod.fst).getD col, code := 201 }
        | .ok _ => .error { col := col, code := 102 }

/-! ## Packets (R102, R103) -/

/-- The words of a packet line. -/
def packetOf (manual : Bool) (look : String → Option Meaning) (k : Option Settings) (ts : List Tk) : Except Err (List AsmWord) :=
  let parts := splitWords 0 [] ts
  match (parts.head?).bind Prod.snd, manual with
  | some (_, col), false => .error { col := col, code := 105 }
  | _, _ => parts.mapM fun p =>
    let col := match p.2 with
      | some (_, c) => c
      | none => ((ts.getLast?).map Tk.col).getD 1
    asmWord look k col (match p.2 with
      | some (c, _) => c
      | none => false) p.1

/-- A word with its destination (R79): the line delta and the slot, or E207 at the label. -/
def aim (w : AsmWord) (col slot dest : Nat) : Except Err AsmWord :=
  let delta : Int := (dest / 10 : Nat) - (slot / 10 : Nat)
  let reach : Int := match w.instr with
    | .br _ _ => 2 ^ 18
    | _ => 2 ^ 12
  if -reach ≤ delta ∧ delta < reach then
    let f := f4 (dest % 10)
    let i : Instr := match w.instr with
      | .br _ _ => .br (BitVec.ofInt 19 delta) f
      | .call a _ _ => .call a (BitVec.ofInt 13 delta) f
      | .spawn a _ _ => .spawn a (BitVec.ofInt 13 delta) f
      | i => i
    .ok { w with instr := i, ref := none }
  else .error { col := col, code := 207 }

/-- The packet that a transfer's reference names in this object. -/
def destOf (r : Ref) : Option Nat :=
  match r.sym.place with
  | some p => if p.sect = 0 then offSlot (p.off + r.add).toNat else none
  | none => none

/-- Complete a transfer to a label of this object (E306); other references stay for the linker (log 54). -/
def complete (slot : Nat) (w : AsmWord) : Except Err AsmWord :=
  let keep (r : Ref) : Except Err AsmWord := if addendFits r.add then .ok w else .error { col := r.col, code := 201 }
  match w.ref with
  | none => .ok w
  | some r =>
    if 2 < r.type then keep r
    else
      match r.sym.place with
      | none => keep r
      | some p =>
        if p.sect ≠ 0 then .error { col := r.col, code := 306 }
        else
          match offSlot (p.off + r.add).toNat with
          | none => .error { col := r.col, code := 102 }
          | some d => aim w r.col slot d

/-! ## The second pass -/

/-- What the second pass has made. `dests` are the packets that `br` words name, `targets` those that transfers name. -/
structure Built where
  packets : List Pk
  dests   : List (Nat × Nat)
  targets : List Nat
  data    : List (Nat × Nat × List Byte)
  refs    : List (Nat × Nat × Ref)
  diags   : List Diag
  deriving DecidableEq, Repr, Inhabited

/-- Offset of a word's own encoding within its packet, after the words before it and its modifier. -/
def wordOff : List AsmWord → Nat → List (AsmWord × Nat)
  | [], _ => []
  | w :: ws, n => (w, n + 4 * (w.size - 1)) :: wordOff ws (n + 4 * w.size)

/-- One item. -/
def Built.item (manual : Bool) (l : Lay) (b : Built) (i : Item) : Built :=
  let look := l.names.look i.scope
  let err (e : Err) : Built := { b with diags := b.diags ++ [i.src.diag .e e.col e.code] }
  match i.what with
  | .data dir off =>
    match dataBytes look dir (((i.toks.head?).map Tk.col).getD 1) i.toks with
    | .error e => err e
    | .ok m =>
      { b with data := b.data ++ [(i.sect, off, m.bytes)],
               refs := b.refs ++ m.relocs.map fun r => (i.sect, off + r.1, r.2),
               diags := b.diags ++ m.warns.map fun w => i.src.diag .w w.1 w.2 }
  | .packet slot =>
    let k := (i.kernel.bind fun n => l.kernels[n]?).map KernelDef.set
    match packetOf manual look k i.toks with
    | .error e => err e
    | .ok ws =>
      match ws.mapM (complete slot) with
      | .error e => err e
      | .ok done =>
        let named := ws.filterMap fun w => w.ref.bind fun r => if r.type ≤ 2 then destOf r else none
        let br := ws.filterMap fun w => w.ref.bind fun r => if r.type = 1 then destOf r else none
        let p : Pk := { slot := slot, seg := i.seg, src := i.src, words := done }
        { b with packets := b.packets ++ [p], targets := b.targets ++ named,
                 dests := b.dests ++ br.map fun d => (slot, d),
                 refs := b.refs ++ ((wordOff done 0).filterMap fun x => x.1.ref.map fun r => (0, slotOff slot + x.2, r)),
                 diags := b.diags ++ p.errors }

/-- The functions of the object: packets of one segment. -/
def functions (ps : List Pk) : List (List Pk) :=
  ((ps.map Pk.seg).eraseDups).map fun n => ps.filter fun p => p.seg == n

/-! ## Lines (R107) -/

/-- The three words of a packet under its stall counts. -/
def Pk.encode (manual : Bool) (counts : List (Spot × Nat)) (p : Pk) : List Nat :=
  let ws := p.words.flatMap fun w => w.encode (stallOfWord manual counts p w)
  ws ++ List.replicate (3 - ws.length) 0

/-- The packets after calls: targets when they hold code. -/
def afterCalls (ps : List Pk) : List Nat :=
  ps.filterMap fun p =>
    match p.control.map AsmWord.instr with
    | some (.call _ _ _) => some (p.slot + 1)
    | some (.callx _ _) => some (p.slot + 1)
    | _ => none

/-- One line: its header (R67), then its packets. -/
def lineBytes (code : List (Nat × List Nat)) (targets : List Nat) (line : Nat) : List Byte :=
  let slots := (List.range 10).map fun i => (i, code.lookup (10 * line + i))
  let bit (base : Nat) (f : Nat → List Nat → Bool) : Nat :=
    slots.foldl (fun m s => match s.2 with
      | some ws => if f s.1 ws then m + 2 ^ (base + s.1) else m
      | none => m) 0
  let isStopWord (w : Nat) : Bool := bitsOf w 28 23 == 2 && bitsOf w 4 0 ≤ 1
  let header := bit 20 (fun _ _ => true) + bit 10 (fun _ ws => ws.any isStopWord) + bit 0 (fun i _ => targets.contains (10 * line + i))
  leBytes 8 header ++ slots.flatMap fun s => (s.2.getD [0xFFFFFFFF, 0xFFFFFFFF, 0xFFFFFFFF]).flatMap (leBytes 4)

/-- Hexadecimal digits of a number, most significant first. -/
def hex : Nat → Nat → List Char
  | 0, _ => []
  | n + 1, x => hex n (x / 16) ++ [("0123456789ABCDEF".toList[x % 16]?).getD '0']

/-- The listing's line of a packet (R107): line address, packet index, words, source text (log 50). -/
def listLine (code : List (Nat × List Nat)) (p : Pk) : String :=
  let ws := (code.lookup p.slot).getD []
  String.ofList (hex 8 (p.slot / 10 * 128)) ++ " " ++ toString (p.slot % 10) ++
    String.join (ws.map fun w => " " ++ String.ofList (hex 8 w)) ++ " " ++ String.ofList p.src.text

/-- Put bytes at an offset behind what is there, zeros between. -/
def padTo (bs : List Byte) (off : Nat) : List Byte := bs ++ List.replicate (off - bs.length) 0

/-! ## The whole -/

/-- What an assembly comes to. -/
structure Result where
  status  : Nat
  object  : Option Object
  lines   : List String
  listing : Option (List String)
  deriving DecidableEq, Repr, Inhabited

/-- An empty layout under the constants of `-D`. -/
def Lay.begin (consts : List (String × Ex)) (defs : List String) (traps : List String) : Lay :=
  { sects := [{ name := ".text", flags := "", align := 128, len := 0 }, { name := ".const", flags := "", align := 1, len := 0 },
      { name := ".data", flags := "", align := 1, len := 0 }],
    cur := 0, kernels := [], kernel := none, scope := "", seg := 0, fresh := false,
    names := { consts := consts, labels := [], externs := [] }, prior := none, equs := [], known := defs, waiting := [], opening := [], entries := [], globals := [],
    traps := traps, items := [], diags := [] }

/-- Labels at the end name the section's end; a kernel left open is E107. -/
def Lay.finish (l : Lay) : Lay :=
  let code := ((l.sects[0]?).map Sect.len).getD 0
  let last := slotOff (if l.fresh then lineUp code else code)
  let m := (l.settle { sect := l.cur, off := if l.cur = 0 then last else l.len }).open last
  match m.kernel.bind fun k => m.kernels[k]? with
  | some k => m.err k.src k.col 107
  | none => m

/-- Exported names that nothing defines (E104). -/
def Lay.undefinedGlobals (l : Lay) : List Diag :=
  l.globals.filterMap fun g =>
    if (l.names.labels.lookup g.1).isSome || l.names.externs.contains g.1 then none else some (g.2.1.diag .e g.2.2 104)

/-- Constants of `.equ` without a value: a name that nothing defines (E104), whether the constant is used or not. -/
def Lay.badEqus (l : Lay) : List Diag :=
  l.equs.filterMap fun q => match valueOf (l.names.look q.2.2.1) q.2.1 q.2.2.2 with
    | .error e => some (q.1.diag .e e.col e.code)
    | .ok _ => none

/-- A kernel's trap vector (R108). R112 calls a name undefined that is neither defined nor declared `.extern`, and R114 has no
relocation for a trap vector: one that names an `.extern` symbol is E104 here (DESIGN CHOICE, log 51). -/
def trapOf (l : Lay) (k : KernelDef) : Except Diag (Option Nat) :=
  match k.trap with
  | none => .ok none
  | some (key, s, col) =>
    match l.names.labels.lookup key with
    | some p => if p.sect = 0 then .ok (some p.off) else .error (s.diag .e col 306)
    | none => .error (s.diag .e col 104)

/-- The packet numbers of names in `.text`. -/
def slotsOf (l : Lay) (keys : List String) : List Nat :=
  keys.filterMap fun k => (l.names.labels.lookup k).bind fun p => if p.sect = 0 then offSlot p.off else none

/-- The constants that `-D` gives; none stands for a refused option value (R99). -/
def givenConsts (o : Options) : Option (List (String × Ex)) :=
  o.defs.mapM fun d => match tokens d.1.toList, parseEx (tokens d.2) with
    | [t], some (e, []) => if t.tok = .name d.1 then some (d.1, e) else none
    | _, _ => none

/-- Layouts until the labels stand still, each under the names of the one before; none when they never do (log 51). -/
def settled (lay : Option Names → Lay) : Nat → Names → Option Lay
  | 0, _ => none
  | n + 1, ns =>
    let l := lay (some ns)
    if l.names = ns then some l else settled lay n l.names

/-- The layout of lines: a second one is needed when a directive's number misses a name. -/
def layout (lay : Option Names → Lay) (tries : Nat) : Lay :=
  let l := lay none
  if l.diags.any fun d => d.code == 104 then (settled lay tries l.names).getD l else l

/-- The first pass over a source: included files and macros expanded, then the layout. -/
def firstPass (files : List (String × List Char)) (o : Options) (given : List (String × Ex)) (input : String) (text : List Char) :
    Lay :=
  let lines := linesOf input 1 [] text
  let fuel := 40 * ((files.map fun f => (linesOf f.1 1 [] f.2).length).foldl (· + ·) lines.length + 2)
  let x := expand { files := files, dirs := o.dirs, manual := o.manual } fuel 16 16 { out := [], diags := [], macros := [], seq := 0 } lines
  let scan := x.out.foldl Scan.line { kernel := "", scope := "", consts := given, traps := [] }
  let start := Lay.begin scan.consts (given.map Prod.fst) scan.traps
  let l := layout (fun ns => (x.out.foldl Lay.line { start with prior := ns }).finish) (x.out.length + 1)
  { l with diags := x.diags ++ l.diags }

/-- The second pass: words, data and references. -/
def secondPass (manual : Bool) (l : Lay) : Built :=
  l.items.foldl (Built.item manual l) { packets := [], dests := [], targets := [], data := [], refs := [], diags := [] }

/-- The packets whose target bit is set (R107). -/
def targetsOf (l : Lay) (b : Built) : List Nat :=
  let traps := l.kernels.filterMap fun k => k.trap.map fun t => t.1
  (b.targets ++ slotsOf l (l.entries ++ (l.globals.map fun g => g.1) ++ traps) ++ afterCalls b.packets).filter
    (b.packets.map Pk.slot).contains

/-- The stall counts of every function (R106). -/
def countsOf (manual : Bool) (b : Built) : List (Spot × Nat) := (functions b.packets).flatMap fun f => (paced manual f).1

/-- The words of every packet. -/
def codeOf (manual : Bool) (b : Built) : List (Nat × List Nat) :=
  let counts := countsOf manual b
  b.packets.map fun p => (p.slot, p.encode manual counts)

/-- Constants that `-D` gives and that have no value, as `.equ` reports them (R99). The command line is no place in a source; they
are reported at the start of the input (DESIGN CHOICE, log 51). -/
def badGiven (input : String) (l : Lay) (given : List (String × Ex)) : List Diag :=
  ((given.map Prod.fst).eraseDups).filterMap fun n => (given.lookup n).bind fun e =>
    match valueOf (l.names.look "") 1 e with
    | .error x => some { file := input, line := 1, col := 1, kind := .e, code := x.code }
    | .ok _ => none

/-- The packets that begin a `.trapvec` routine and that nothing else of the object enters: no transfer, no call's return, no
launch. -/
def trapStarts (l : Lay) (b : Built) : List Nat :=
  let entered := b.targets ++ afterCalls b.packets ++ slotsOf l (l.kernels.map KernelDef.name)
  (slotsOf l (l.kernels.filterMap fun k => k.trap.map fun t => t.1)).filter fun n => !entered.contains n

/-- Every diagnostic, before the check level. -/
def diagsOf (manual : Bool) (input : String) (given : List (String × Ex)) (l : Lay) (b : Built) : List Diag :=
  let fns := functions b.packets
  let targets := targetsOf l b
  let dest (p : Pk) : Option Nat := b.dests.lookup p.slot
  let trapDiags := l.kernels.filterMap fun k => match trapOf l k with
    | .error d => some d
    | .ok _ => none
  l.diags ++ l.badEqus ++ l.undefinedGlobals ++ trapDiags ++ badGiven input l given ++ b.diags ++ (fns.flatMap fun f => (paced manual f).2)
    ++ (if manual then [] else lowFloors (countsOf manual b) b.packets)
    ++ fns.flatMap fun f => staticChecks f dest (targets.filter fun t => f.any fun p => p.slot == t) (trapStarts l b)

/-- The symbols: every label, and the external names that a reference uses. -/
def symbolsOf (l : Lay) (b : Built) : List Symbol :=
  (l.names.labels.map fun s =>
    { name := s.1, place := some s.2,
      glob := (l.globals.any fun g => g.1 == s.1) || l.kernels.any fun k => k.name == s.1 }) ++
  (l.names.externs.filter fun e => b.refs.any fun r => r.2.2.sym.key == e && r.2.2.sym.place.isNone).map fun e =>
    { name := e, place := none, glob := false }

/-- A section's bytes: lines of code in `.text`, else data with zeros between. -/
def sectionBytes (manual : Bool) (l : Lay) (b : Built) (n : Nat) (s : Sect) : List Byte :=
  if n = 0 then (List.range ((s.len + 9) / 10)).flatMap (lineBytes (codeOf manual b) (targetsOf l b))
  else padTo ((b.data.filter fun d => d.1 == n).foldl (fun bs d => padTo bs d.2.1 ++ d.2.2) []) s.len

/-- The object (R113). -/
def objectOf (o : Options) (l : Lay) (b : Built) : Object :=
  let symbols := symbolsOf l b
  { magic := "LIF1", shape := 1, version := 1,
    sections := l.sects.zipIdx.map fun s =>
      { name := s.1.name, flags := s.1.flags, align := s.1.align, bytes := sectionBytes o.manual l b s.2 s.1 },
    symbols := symbols,
    relocs := b.refs.map fun r =>
      { addend := BitVec.ofInt 32 r.2.2.add, symbol := (symbols.findIdx? fun s => s.name == r.2.2.sym.key).getD 0, type := r.2.2.type,
        sect := r.1, off := r.2.1 },
    kernels := l.kernels.map fun k =>
      { name := k.name, entry := ((l.names.labels.lookup k.name).map Place.off).getD 0, set := k.set,
        trapvec := match trapOf l k with
          | .ok t => t
          | .error _ => none,
        check := o.level = .strict } }

/-- What a run writes: with an error, diagnostics alone (R99, R100). -/
def Result.make (level : Level) (ds : List Diag) (object : Object) (listing : Option (List String)) : Result :=
  let seen := ds.filterMap level.sees
  if seen.any fun d => d.kind == .e then { status := 1, object := none, lines := seen.map Diag.show, listing := none }
  else { status := 0, object := some object, lines := seen.map Diag.show, listing := listing }

/-- Assemble a source under the options (R99 to R117). -/
def assemble (files : List (String × List Char)) (o : Options) (given : List (String × Ex)) (input : String) (text : List Char) :
    Result :=
  let l := firstPass files o given input text
  let b := secondPass o.manual l
  Result.make o.level (diagsOf o.manual input given l b) (objectOf o l b)
    (if o.listing then some (b.packets.map (listLine (codeOf o.manual b))) else none)

/-- A run of `kzas`: the files there are, and the words of its command line (R99). -/
def kzas (files : List (String × List Char)) (args : List String) : Result :=
  let refuse : Result := { status := 2, object := none, lines := [], listing := none }
  match options args Options.none with
  | none => refuse
  | some o =>
    match givenConsts o, o.input with
    | some given, some f =>
      match files.lookup f with
      | none => refuse
      | some text => assemble files o given f text
    | _, _ => refuse

end Sys2Proof.Kzas
end

