-- ==== Sys2Proof/Machine/Kzld.lean ====
section
/-! DEFINITION. The `kzld` linker and what becomes of its image: sections joined, symbols resolved, relocations applied, the
bytes a loader places and the launch record a kernel's entry gives (05_kzas_assembler.md R113 to R115; 01 R10; 19 R324). -/

namespace Sys2Proof.Kzas

/-! ## Joining sections -/

/-- Where each section of each object went: the joined section and the offset of its first byte there. -/
structure Spread where
  sections : List Section
  places   : List (List (Nat × Nat))
  deriving DecidableEq, Repr, Inhabited

/-- Round up to a multiple. -/
def upTo (n k : Nat) : Nat := if k = 0 then n else (n + k - 1) / k * k

/-- Append a section to the joined sections, by its name and at its alignment (log 54). -/
def addSection (ss : List Section) (s : Section) : List Section × (Nat × Nat) :=
  match ss.findIdx? fun x => x.name == s.name with
  | none => (ss ++ [s], (ss.length, 0))
  | some n =>
    let off := upTo (((ss[n]?).map fun x => x.bytes.length).getD 0) s.align
    (ss.zipIdx.map fun x =>
      if x.2 = n then { x.1 with align := max x.1.align s.align, bytes := padTo x.1.bytes off ++ s.bytes } else x.1, (n, off))

/-- Join the sections of all objects in order. -/
def spread (os : List Object) : Spread :=
  os.foldl (fun x o =>
    let r := o.sections.foldl (fun (a : List Section × List (Nat × Nat)) s =>
      let y := addSection a.1 s
      (y.1, a.2 ++ [y.2])) (x.sections, [])
    { sections := r.1, places := x.places ++ [r.2] }) { sections := [], places := [] }

/-- A place of an object in the joined sections. -/
def Spread.place (x : Spread) (obj : Nat) (p : Place) : Option Place :=
  match (x.places[obj]?).bind fun l => l[p.sect]? with
  | some (n, off) => some { sect := n, off := off + p.off }
  | none => none

/-! ## Symbols (R115) -/

/-- Every exported symbol with its place. -/
def exported (x : Spread) (os : List Object) : List (String × Place) :=
  os.zipIdx.flatMap fun o => o.1.symbols.filterMap fun s =>
    if s.glob then (s.place.bind (x.place o.2)).map fun p => (s.name, p) else none

/-- Names exported twice (E106). -/
def twice : List (String × Place) → List String
  | [] => []
  | s :: ss => (if ss.any fun t => t.1 == s.1 then [s.1] else []) ++ twice ss

/-- The place of an object's symbol. -/
def resolve (x : Spread) (os : List Object) (obj : Nat) (s : Symbol) : Option Place :=
  match s.place with
  | some p => x.place obj p
  | none => (exported x os).lookup s.name

/-! ## Relocations (R114) -/

/-- What applying a relocation comes to. -/
inductive Applied where
  /-- the bytes at the site -/
  | bytes (bs : List Byte)
  /-- kept for the loader -/
  | kept
  /-- E207 -/
  | far
  /-- a type outside the table -/
  | unknown
  deriving DecidableEq, Repr, Inhabited

/-- Replace bits of a 32-bit word. -/
def setBits (w hi lo v : Nat) : Nat := w - bitsOf w hi lo * 2 ^ lo + v % 2 ^ (hi + 1 - lo) * 2 ^ lo

/-- Apply a relocation type to a site: `w` is the word there, `site` its offset, `same` says that site and symbol share a
section, `v` is the symbol's offset with the addend. R114 and R115 name no code for a transfer whose symbol lies in another section
or is no packet's address; it is E207 here (DESIGN CHOICE, log 54). -/
def applied (type w site : Nat) (same : Bool) (v : Int) : Applied :=
  let delta : Int := v / 128 - (site / 128 : Nat)
  let transfer (hi : Nat) (reach : Int) : Applied :=
    if !same || v < 0 then .far
    else
      match offSlot v.toNat with
      | none => .far
      | some n =>
        if -reach ≤ delta ∧ delta < reach then
          .bytes (leBytes 4 (setBits (setBits w hi 4 (delta % 2 ^ 32).toNat) 3 0 (n % 10)))
        else .far
  match type with
  | 1 => transfer 22 (2 ^ 18)
  | 2 => transfer 16 (2 ^ 12)
  | 3 => .bytes (leBytes 4 (setBits w 16 0 (v % 2 ^ 17).toNat))
  | 4 => if 0 ≤ v ∧ v < 2 ^ 32 then .bytes (leBytes 4 (setBits w 14 0 (hi15Of v).toNat)) else .far
  | 5 => if 0 ≤ v ∧ v < 2 ^ 32 then .bytes (leBytes 4 v.toNat) else .far
  | 6 => .kept
  | _ => .unknown

/-- Bytes in place of those at an offset. -/
def overwrite (bs : List Byte) (off : Nat) (new : List Byte) : List Byte :=
  bs.take off ++ new ++ bs.drop (off + new.length)

/-- A relocation that the loader applies: a 64-bit field at a place takes a section's address plus an offset, which the addend may
make negative (R114 type 6). -/
structure Loaded where
  site : Place
  sect : Nat
  off  : Int
  deriving DecidableEq, Repr, Inhabited

/-- A linked image: sections, the relocations kept, and the kernels. -/
structure Image where
  sections : List Section
  kept     : List Loaded
  kernels  : List Kernel
  deriving DecidableEq, Repr, Inhabited

/-- Why a link is refused: a code of R115 with the symbol or section, or a relocation type outside R114's table. -/
inductive Refused where
  | code (n : Nat) (name : String)
  | badType (n : Nat)
  deriving DecidableEq, Repr, Inhabited

/-- Apply one relocation of an object. -/
def relocate (x : Spread) (os : List Object) (obj : Nat) (o : Object) (a : Image × List Refused) (r : Reloc) :
    Image × List Refused :=
  match o.symbols[r.symbol]? with
  | none => (a.1, a.2 ++ [.code 104 ""])
  | some s =>
    match resolve x os obj s, x.place obj { sect := r.sect, off := r.off } with
    | some p, some site =>
      let bs := ((a.1.sections[site.sect]?).map Section.bytes).getD []
      match applied r.type (ofLe ((bs.drop site.off).take 4)) site.off (p.sect == site.sect) (p.off + r.addend.toInt) with
      | .bytes new =>
        ({ a.1 with sections := a.1.sections.zipIdx.map fun y =>
            if y.2 = site.sect then { y.1 with bytes := overwrite y.1.bytes site.off new } else y.1 }, a.2)
      | .kept =>
        ({ a.1 with kept := a.1.kept ++ [{ site := site, sect := p.sect, off := p.off + r.addend.toInt }] }, a.2)
      | .far => (a.1, a.2 ++ [.code 207 s.name])
      | .unknown => (a.1, a.2 ++ [.badType r.type])
    | _, _ => (a.1, a.2 ++ [.code 104 s.name])

/-- A kernel of an object in the image. -/
def Spread.kernel (x : Spread) (obj : Nat) (k : Kernel) : Kernel :=
  let base := match x.place obj { sect := 0, off := 0 } with
    | some p => p.off
    | none => 0
  { k with entry := base + k.entry, trapvec := k.trapvec.map (base + ·) }

/-- What a link comes to. -/
structure Linked where
  status  : Nat
  image   : Option Image
  reasons : List Refused
  deriving DecidableEq, Repr, Inhabited

/-- Link objects (R115). Any reason to refuse leaves no image. -/
def kzld (os : List Object) : Linked :=
  let x := spread os
  let start : Image :=
    { sections := x.sections, kept := [], kernels := os.zipIdx.flatMap fun o => o.1.kernels.map (x.kernel o.2) }
  let unresolved := os.zipIdx.flatMap fun o => o.1.symbols.filterMap fun s =>
    if (resolve x os o.2 s).isNone then some (Refused.code 104 s.name) else none
  let doubled := (twice (exported x os)).map (Refused.code 106)
  let big := x.sections.filterMap fun s => if s.name == ".const" && decide (1024 < s.bytes.length) then some (Refused.code 208 s.name) else none
  let done := os.zipIdx.foldl (fun a o => o.1.relocs.foldl (relocate x os o.2 o.1) a) (start, [])
  let all := unresolved ++ doubled ++ big ++ done.2
  if all = [] then { status := 0, image := some done.1, reasons := [] } else { status := 1, image := none, reasons := all }

/-! ## What the runtime makes of an image -/

/-- A section's bytes. -/
def Image.bytes (m : Image) (name : String) : List Byte :=
  ((m.sections.find? fun s => s.name == name).map Section.bytes).getD []

/-- The constant block: `.const` from byte 0, then zeros (R10). -/
def Image.constBlock (m : Image) : List Byte := padTo (m.bytes ".const") 1024

/-- The bytes a loader places when section n goes to the virtual address `bases n`: each kept field takes its 48-bit address,
zero-extended (R114). -/
def Image.load (m : Image) (bases : Nat → Nat) : List (Nat × List Byte) :=
  let ss := m.kept.foldl (fun (ss : List Section) k =>
    ss.zipIdx.map fun y =>
      if y.2 = k.site.sect then
        { y.1 with bytes := overwrite y.1.bytes k.site.off (leBytes 8 ((bases k.sect + k.off) % 2 ^ 48).toNat) }
      else y.1) m.sections
  ss.zipIdx.map fun y => (bases y.2, y.1.bytes)

/-- What the runtime chooses for a launch (R324), beside the address that each section is loaded to. -/
structure Chosen where
  blocks    : Nat
  constbase : Nat
  gatebase  : Nat
  gateslice : Nat
  spillbase : Nat
  spilllen  : Nat
  rcb       : Nat
  sparse    : Nat
  deriving DecidableEq, Repr, Inhabited

/-- The flags of a launch record (R324). -/
def Kernel.flags (k : Kernel) : Nat :=
  (if k.set.det then 1 else 0) + (if k.set.sup then 2 else 0) + (if k.check then 4 else 0)

/-- The number of a section. -/
def Image.index (m : Image) (name : String) : Nat := m.sections.findIdx fun s => s.name == name

/-- The launch record that the runtime builds from a kernel-table entry (R113, R324), when section n is loaded to the virtual
address `bases n` (`Image.load`). The data range is the copy of `.data`, and is none without one (R149). -/
def Image.record (m : Image) (k : Kernel) (bases : Nat → Nat) (c : Chosen) : List Byte :=
  let datalen := (m.bytes ".data").length
  let database := if datalen = 0 then 0 else bases (m.index ".data")
  leBytes 8 (bases (m.index ".text")) ++ leBytes 4 k.entry ++ leBytes 4 (k.trapvec.getD 0xFFFFFFFF) ++ leBytes 4 c.blocks ++
    leBytes 4 k.set.block ++ leBytes 2 k.set.spawns ++ leBytes 1 k.set.regs ++ leBytes 1 k.set.gates ++
    leBytes 4 k.set.scratch ++ leBytes 4 k.set.priv ++ leBytes 2 c.gatebase ++ leBytes 1 c.gateslice ++ leBytes 1 k.flags ++
    leBytes 8 c.constbase ++ leBytes 8 database ++ leBytes 8 datalen ++ leBytes 8 c.spillbase ++ leBytes 8 c.spilllen ++
    leBytes 8 c.rcb ++ leBytes 2 c.sparse ++ leBytes 2 0 ++ leBytes 4 (m.bytes ".text").length ++ List.replicate 32 0

end Sys2Proof.Kzas
end

