-- ==== Sys2Proof/Laws/Kzas.lean ====
section
/-! SUPPORT. What the assembler and the linker write, and when (R99, R114, R115). -/

namespace Sys2Proof.Kzas

/-- A run's result holds an object exactly when its status is 0 (R99). -/
theorem result_writes_iff (level : Level) (ds : List Diag) (o : Object) (ls : Option (List String)) :
    (Result.make level ds o ls).object.isSome = true ↔ (Result.make level ds o ls).status = 0 := by
  simp only [Result.make]
  split <;> simp

/-- `kzas` writes an object exactly when it exits with 0 (R99). -/
theorem kzas_writes_iff (files : List (String × List Char)) (args : List String) :
    (kzas files args).object.isSome = true ↔ (kzas files args).status = 0 := by
  unfold kzas
  split
  · simp
  · split
    · split
      · simp
      · exact result_writes_iff ..
    · simp

/-- `kzld` writes an image exactly when nothing refuses the link (R115). -/
theorem kzld_writes_iff (os : List Object) : (kzld os).image.isSome = true ↔ (kzld os).reasons = [] := by
  simp only [kzld]
  split
  · simp
  · next h => simpa using h

/-- So many bytes. -/
theorem leBytes_length (k n : Nat) : (leBytes k n).length = k := by
  induction k generalizing n with
  | zero => rfl
  | succ k ih => simp [leBytes, ih]

/-- A relocation entry has 16 bytes (R114). -/
theorem reloc_bytes_length (r : Reloc) : r.bytes.length = 16 := by
  simp [Reloc.bytes, leBytes_length]

end Sys2Proof.Kzas
end

