-- ==== Sys2Proof/Laws/State.lean ====
section
/-! SUPPORT. Small lemmas about the updates of the state's parts. -/

namespace Sys2Proof.Machine

/-! ## Finding after an update -/

theorem find_map_keep {α β : Type} [BEq β] [LawfulBEq β] (k : α → β) (f : α → α) (hk : ∀ a, k (f a) = k a) (x : β)
    (l : List α) : (l.map f).find? (fun a => k a == x) = (l.find? fun a => k a == x).map f := by
  induction l with
  | nil => rfl
  | cons a l ih =>
    simp only [List.map_cons, List.find?_cons, hk]
    cases k a == x <;> simp [ih]

theorem find_key {α β : Type} [BEq β] [LawfulBEq β] {k : α → β} {x : β} {l : List α} {a : α}
    (h : l.find? (fun a => k a == x) = some a) : k a = x := by simpa using List.find?_some h

theorem launch_key {s : State} {n : Nat} {l : Launch} (h : s.launch? n = some l) : l.id = n := find_key h
theorem block_key {l : Launch} {n : Nat} {b : Block} (h : l.block? n = some b) : b.index = n := find_key h
theorem fibre_key {b : Block} {n : Nat} {f : Fibre} (h : b.fibre? n = some f) : f.id = n := find_key h

/-- The update at a key, when the part keeps its key. -/
theorem find_mod {α : Type} (k : α → Nat) (f : α → α) (n m : Nat) (hk : ∀ a, k (f a) = k a) (l : List α) :
    (l.map fun a => if k a = n then f a else a).find? (fun a => k a == m) =
      (l.find? fun a => k a == m).map fun a => if m = n then f a else a := by
  rw [find_map_keep (β := Nat) k (fun a => if k a = n then f a else a) (by intro a; split <;> simp [hk])]
  cases h : l.find? fun a => k a == m with
  | none => rfl
  | some a => simp [find_key h]

theorem launch_modLaunch {s : State} (n m : Nat) {f : Launch → Launch} (hf : ∀ l, (f l).id = l.id) :
    (s.modLaunch n f).launch? m = (s.launch? m).map fun l => if m = n then f l else l := find_mod Launch.id f n m hf _

theorem block_modBlock {l : Launch} (n m : Nat) {f : Block → Block} (hf : ∀ b, (f b).index = b.index) :
    (l.modBlock n f).block? m = (l.block? m).map fun b => if m = n then f b else b := find_mod Block.index f n m hf _

theorem launch_modBlock (s : State) (l n m : Nat) (f : Block → Block) :
    (s.modBlock l n f).launch? m = (s.launch? m).map fun x => if m = l then x.modBlock n f else x :=
  find_mod Launch.id (fun x => x.modBlock n f) l m (fun _ => rfl) _

theorem fibre_map {b : Block} {f : Fibre → Fibre} (hf : ∀ x, (f x).id = x.id) (n : Nat) :
    (b.fibres.map f).find? (fun x => x.id == n) = (b.fibre? n).map f := find_map_keep (β := Nat) Fibre.id f hf n _

theorem filterMap_same {α β : Type} {f g : α → Option β} : ∀ {l : List α}, (∀ a ∈ l, f a = g a) → l.filterMap f = l.filterMap g
  | [], _ => rfl
  | a :: l, h => by
    rw [List.filterMap_cons, List.filterMap_cons, h a (by simp), filterMap_same fun b hb => h b (List.mem_cons_of_mem a hb)]

/-! ## Composition of updates -/

theorem map_mod_mod {α : Type} (k : α → Nat) (f g : α → α) (n : Nat) (hg : ∀ a, k (g a) = k a) (l : List α) :
    ((l.map fun a => if k a = n then g a else a).map fun a => if k a = n then f a else a)
      = l.map fun a => if k a = n then f (g a) else a := by
  rw [List.map_map]
  apply List.map_congr_left
  intro a _
  by_cases h : k a = n <;> simp [h, hg]

theorem modLaunch_modLaunch (s : State) (n : Nat) (f g : Launch → Launch) (hg : ∀ l, (g l).id = l.id) :
    (s.modLaunch n g).modLaunch n f = s.modLaunch n fun l => f (g l) := by
  simp only [State.modLaunch, map_mod_mod Launch.id f g n hg]

theorem Launch.modBlock_modBlock (l : Launch) (n : Nat) (f g : Block → Block) (hg : ∀ b, (g b).index = b.index) :
    (l.modBlock n g).modBlock n f = l.modBlock n fun b => f (g b) := by
  simp only [Launch.modBlock, map_mod_mod Block.index f g n hg]

theorem modBlock_modBlock (s : State) (l n : Nat) (f g : Block → Block) (hg : ∀ b, (g b).index = b.index) :
    (s.modBlock l n g).modBlock l n f = s.modBlock l n fun b => f (g b) := by
  simp only [State.modBlock]
  rw [modLaunch_modLaunch s l (fun x => x.modBlock n f) (fun x => x.modBlock n g) (fun _ => rfl)]
  congr 1
  funext x
  exact Launch.modBlock_modBlock x n f g hg

theorem modLaunch_id (s : State) (n : Nat) : (s.modLaunch n fun l => l) = s := by
  simp only [State.modLaunch, ite_self, List.map_id']

theorem modBlock_congr {s : State} {l n : Nat} {f g : Block → Block} (h : ∀ b, f b = g b) : s.modBlock l n f = s.modBlock l n g := by
  rw [funext h]

theorem modBlock_id (s : State) (l n : Nat) {f : Block → Block} (h : ∀ b, f b = b) : s.modBlock l n f = s := by
  rw [modBlock_congr h]
  simp only [State.modBlock, Launch.modBlock, ite_self, List.map_id']
  exact modLaunch_id s l

/-! ## Fields that an update leaves -/

@[simp] theorem modLaunch_clock (s : State) (n : Nat) (f : Launch → Launch) : (s.modLaunch n f).clock = s.clock := rfl
@[simp] theorem modLaunch_inputs (s : State) (n : Nat) (f : Launch → Launch) : (s.modLaunch n f).inputs = s.inputs := rfl
@[simp] theorem modLaunch_issue (s : State) (n : Nat) (f : Launch → Launch) : (s.modLaunch n f).issue = s.issue := rfl
@[simp] theorem modLaunch_pick (s : State) (n : Nat) (f : Launch → Launch) : (s.modLaunch n f).pick = s.pick := rfl
@[simp] theorem modLaunch_free (s : State) (n : Nat) (f : Launch → Launch) : (s.modLaunch n f).free = s.free := rfl
@[simp] theorem modLaunch_wait (s : State) (n : Nat) (f : Launch → Launch) : (s.modLaunch n f).wait = s.wait := rfl
@[simp] theorem modLaunch_run (s : State) (n : Nat) (f : Launch → Launch) : (s.modLaunch n f).run = s.run := rfl
@[simp] theorem modLaunch_mem (s : State) (n : Nat) (f : Launch → Launch) : (s.modLaunch n f).mem = s.mem := rfl
@[simp] theorem modLaunch_poison (s : State) (n : Nat) (f : Launch → Launch) : (s.modLaunch n f).poison = s.poison := rfl
@[simp] theorem modLaunch_owners (s : State) (n : Nat) (f : Launch → Launch) : (s.modLaunch n f).owners = s.owners := rfl
@[simp] theorem modLaunch_tenants (s : State) (n : Nat) (f : Launch → Launch) : (s.modLaunch n f).tenants = s.tenants := rfl
@[simp] theorem modLaunch_nextLaunch (s : State) (n : Nat) (f : Launch → Launch) : (s.modLaunch n f).nextLaunch = s.nextLaunch := rfl
@[simp] theorem modLaunch_cmds (s : State) (n : Nat) (f : Launch → Launch) : (s.modLaunch n f).cmds = s.cmds := rfl
@[simp] theorem modLaunch_nextCmd (s : State) (n : Nat) (f : Launch → Launch) : (s.modLaunch n f).nextCmd = s.nextCmd := rfl
@[simp] theorem modLaunch_regions (s : State) (n : Nat) (f : Launch → Launch) : (s.modLaunch n f).regions = s.regions := rfl
@[simp] theorem modLaunch_sparse (s : State) (n : Nat) (f : Launch → Launch) : (s.modLaunch n f).sparse = s.sparse := rfl
@[simp] theorem modLaunch_gates (s : State) (n : Nat) (f : Launch → Launch) : (s.modLaunch n f).gates = s.gates := rfl
@[simp] theorem modLaunch_ports (s : State) (n : Nat) (f : Launch → Launch) : (s.modLaunch n f).ports = s.ports := rfl
@[simp] theorem modLaunch_cores (s : State) (n : Nat) (f : Launch → Launch) : (s.modLaunch n f).cores = s.cores := rfl
@[simp] theorem modLaunch_slices (s : State) (n : Nat) (f : Launch → Launch) : (s.modLaunch n f).slices = s.slices := rfl
@[simp] theorem modLaunch_exports (s : State) (n : Nat) (f : Launch → Launch) : (s.modLaunch n f).exports = s.exports := rfl
@[simp] theorem modLaunch_imports (s : State) (n : Nat) (f : Launch → Launch) : (s.modLaunch n f).imports = s.imports := rfl
@[simp] theorem modLaunch_moduleId (s : State) (n : Nat) (f : Launch → Launch) : (s.modLaunch n f).moduleId = s.moduleId := rfl
@[simp] theorem modLaunch_torus (s : State) (n : Nat) (f : Launch → Launch) : (s.modLaunch n f).torus = s.torus := rfl
@[simp] theorem modLaunch_pod (s : State) (n : Nat) (f : Launch → Launch) : (s.modLaunch n f).pod = s.pod := rfl
@[simp] theorem modLaunch_staging (s : State) (n : Nat) (f : Launch → Launch) : (s.modLaunch n f).staging = s.staging := rfl
@[simp] theorem modLaunch_fabricOut (s : State) (n : Nat) (f : Launch → Launch) : (s.modLaunch n f).fabricOut = s.fabricOut := rfl
@[simp] theorem modLaunch_guyPorts (s : State) (n : Nat) (f : Launch → Launch) : (s.modLaunch n f).guyPorts = s.guyPorts := rfl
@[simp] theorem modLaunch_snaps (s : State) (n : Nat) (f : Launch → Launch) : (s.modLaunch n f).snaps = s.snaps := rfl
@[simp] theorem modLaunch_snapLog (s : State) (n : Nat) (f : Launch → Launch) : (s.modLaunch n f).snapLog = s.snapLog := rfl
@[simp] theorem modLaunch_boot (s : State) (n : Nat) (f : Launch → Launch) : (s.modLaunch n f).boot = s.boot := rfl
@[simp] theorem modLaunch_mgmt (s : State) (n : Nat) (f : Launch → Launch) : (s.modLaunch n f).mgmt = s.mgmt := rfl
@[simp] theorem modLaunch_layout (s : State) (n : Nat) (f : Launch → Launch) : (s.modLaunch n f).layout = s.layout := rfl
@[simp] theorem modLaunch_images (s : State) (n : Nat) (f : Launch → Launch) : (s.modLaunch n f).images = s.images := rfl
@[simp] theorem modLaunch_power (s : State) (n : Nat) (f : Launch → Launch) : (s.modLaunch n f).power = s.power := rfl
@[simp] theorem modLaunch_hostReads (s : State) (n : Nat) (f : Launch → Launch) : (s.modLaunch n f).hostReads = s.hostReads := rfl
@[simp] theorem modLaunch_spdmOut (s : State) (n : Nat) (f : Launch → Launch) : (s.modLaunch n f).spdmOut = s.spdmOut := rfl
@[simp] theorem modLaunch_msix (s : State) (n : Nat) (f : Launch → Launch) : (s.modLaunch n f).msix = s.msix := rfl
@[simp] theorem modLaunch_barMap (s : State) (n : Nat) (f : Launch → Launch) : (s.modLaunch n f).barMap = s.barMap := rfl
@[simp] theorem modLaunch_failedEngines (s : State) (n : Nat) (f : Launch → Launch) : (s.modLaunch n f).failedEngines = s.failedEngines := rfl
@[simp] theorem modLaunch_strays (s : State) (n : Nat) (f : Launch → Launch) : (s.modLaunch n f).strays = s.strays := rfl
@[simp] theorem modLaunch_jobs (s : State) (n : Nat) (f : Launch → Launch) : (s.modLaunch n f).jobs = s.jobs := rfl
@[simp] theorem modLaunch_scratchPoison (s : State) (n : Nat) (f : Launch → Launch) : (s.modLaunch n f).scratchPoison = s.scratchPoison := rfl
@[simp] theorem modBlock_clock (s : State) (l n : Nat) (f : Block → Block) : (s.modBlock l n f).clock = s.clock := rfl
@[simp] theorem modBlock_inputs (s : State) (l n : Nat) (f : Block → Block) : (s.modBlock l n f).inputs = s.inputs := rfl
@[simp] theorem modBlock_issue (s : State) (l n : Nat) (f : Block → Block) : (s.modBlock l n f).issue = s.issue := rfl
@[simp] theorem modBlock_pick (s : State) (l n : Nat) (f : Block → Block) : (s.modBlock l n f).pick = s.pick := rfl
@[simp] theorem modBlock_free (s : State) (l n : Nat) (f : Block → Block) : (s.modBlock l n f).free = s.free := rfl
@[simp] theorem modBlock_wait (s : State) (l n : Nat) (f : Block → Block) : (s.modBlock l n f).wait = s.wait := rfl
@[simp] theorem modBlock_run (s : State) (l n : Nat) (f : Block → Block) : (s.modBlock l n f).run = s.run := rfl
@[simp] theorem modBlock_mem (s : State) (l n : Nat) (f : Block → Block) : (s.modBlock l n f).mem = s.mem := rfl
@[simp] theorem modBlock_poison (s : State) (l n : Nat) (f : Block → Block) : (s.modBlock l n f).poison = s.poison := rfl
@[simp] theorem modBlock_owners (s : State) (l n : Nat) (f : Block → Block) : (s.modBlock l n f).owners = s.owners := rfl
@[simp] theorem modBlock_tenants (s : State) (l n : Nat) (f : Block → Block) : (s.modBlock l n f).tenants = s.tenants := rfl
@[simp] theorem modBlock_nextLaunch (s : State) (l n : Nat) (f : Block → Block) : (s.modBlock l n f).nextLaunch = s.nextLaunch := rfl
@[simp] theorem modBlock_cmds (s : State) (l n : Nat) (f : Block → Block) : (s.modBlock l n f).cmds = s.cmds := rfl
@[simp] theorem modBlock_nextCmd (s : State) (l n : Nat) (f : Block → Block) : (s.modBlock l n f).nextCmd = s.nextCmd := rfl
@[simp] theorem modBlock_regions (s : State) (l n : Nat) (f : Block → Block) : (s.modBlock l n f).regions = s.regions := rfl
@[simp] theorem modBlock_sparse (s : State) (l n : Nat) (f : Block → Block) : (s.modBlock l n f).sparse = s.sparse := rfl
@[simp] theorem modBlock_gates (s : State) (l n : Nat) (f : Block → Block) : (s.modBlock l n f).gates = s.gates := rfl
@[simp] theorem modBlock_ports (s : State) (l n : Nat) (f : Block → Block) : (s.modBlock l n f).ports = s.ports := rfl
@[simp] theorem modBlock_cores (s : State) (l n : Nat) (f : Block → Block) : (s.modBlock l n f).cores = s.cores := rfl
@[simp] theorem modBlock_slices (s : State) (l n : Nat) (f : Block → Block) : (s.modBlock l n f).slices = s.slices := rfl
@[simp] theorem modBlock_exports (s : State) (l n : Nat) (f : Block → Block) : (s.modBlock l n f).exports = s.exports := rfl
@[simp] theorem modBlock_imports (s : State) (l n : Nat) (f : Block → Block) : (s.modBlock l n f).imports = s.imports := rfl
@[simp] theorem modBlock_moduleId (s : State) (l n : Nat) (f : Block → Block) : (s.modBlock l n f).moduleId = s.moduleId := rfl
@[simp] theorem modBlock_torus (s : State) (l n : Nat) (f : Block → Block) : (s.modBlock l n f).torus = s.torus := rfl
@[simp] theorem modBlock_pod (s : State) (l n : Nat) (f : Block → Block) : (s.modBlock l n f).pod = s.pod := rfl
@[simp] theorem modBlock_staging (s : State) (l n : Nat) (f : Block → Block) : (s.modBlock l n f).staging = s.staging := rfl
@[simp] theorem modBlock_fabricOut (s : State) (l n : Nat) (f : Block → Block) : (s.modBlock l n f).fabricOut = s.fabricOut := rfl
@[simp] theorem modBlock_guyPorts (s : State) (l n : Nat) (f : Block → Block) : (s.modBlock l n f).guyPorts = s.guyPorts := rfl
@[simp] theorem modBlock_snaps (s : State) (l n : Nat) (f : Block → Block) : (s.modBlock l n f).snaps = s.snaps := rfl
@[simp] theorem modBlock_snapLog (s : State) (l n : Nat) (f : Block → Block) : (s.modBlock l n f).snapLog = s.snapLog := rfl
@[simp] theorem modBlock_boot (s : State) (l n : Nat) (f : Block → Block) : (s.modBlock l n f).boot = s.boot := rfl
@[simp] theorem modBlock_mgmt (s : State) (l n : Nat) (f : Block → Block) : (s.modBlock l n f).mgmt = s.mgmt := rfl
@[simp] theorem modBlock_layout (s : State) (l n : Nat) (f : Block → Block) : (s.modBlock l n f).layout = s.layout := rfl
@[simp] theorem modBlock_images (s : State) (l n : Nat) (f : Block → Block) : (s.modBlock l n f).images = s.images := rfl
@[simp] theorem modBlock_power (s : State) (l n : Nat) (f : Block → Block) : (s.modBlock l n f).power = s.power := rfl
@[simp] theorem modBlock_hostReads (s : State) (l n : Nat) (f : Block → Block) : (s.modBlock l n f).hostReads = s.hostReads := rfl
@[simp] theorem modBlock_spdmOut (s : State) (l n : Nat) (f : Block → Block) : (s.modBlock l n f).spdmOut = s.spdmOut := rfl
@[simp] theorem modBlock_msix (s : State) (l n : Nat) (f : Block → Block) : (s.modBlock l n f).msix = s.msix := rfl
@[simp] theorem modBlock_barMap (s : State) (l n : Nat) (f : Block → Block) : (s.modBlock l n f).barMap = s.barMap := rfl
@[simp] theorem modBlock_failedEngines (s : State) (l n : Nat) (f : Block → Block) : (s.modBlock l n f).failedEngines = s.failedEngines := rfl
@[simp] theorem modBlock_strays (s : State) (l n : Nat) (f : Block → Block) : (s.modBlock l n f).strays = s.strays := rfl
@[simp] theorem modBlock_jobs (s : State) (l n : Nat) (f : Block → Block) : (s.modBlock l n f).jobs = s.jobs := rfl
@[simp] theorem modBlock_scratchPoison (s : State) (l n : Nat) (f : Block → Block) : (s.modBlock l n f).scratchPoison = s.scratchPoison := rfl
@[simp] theorem modFibre_clock (s : State) (l n i : Nat) (f : Fibre → Fibre) : (s.modFibre l n i f).clock = s.clock := rfl
@[simp] theorem modFibre_inputs (s : State) (l n i : Nat) (f : Fibre → Fibre) : (s.modFibre l n i f).inputs = s.inputs := rfl
@[simp] theorem modFibre_issue (s : State) (l n i : Nat) (f : Fibre → Fibre) : (s.modFibre l n i f).issue = s.issue := rfl
@[simp] theorem modFibre_pick (s : State) (l n i : Nat) (f : Fibre → Fibre) : (s.modFibre l n i f).pick = s.pick := rfl
@[simp] theorem modFibre_free (s : State) (l n i : Nat) (f : Fibre → Fibre) : (s.modFibre l n i f).free = s.free := rfl
@[simp] theorem modFibre_wait (s : State) (l n i : Nat) (f : Fibre → Fibre) : (s.modFibre l n i f).wait = s.wait := rfl
@[simp] theorem modFibre_run (s : State) (l n i : Nat) (f : Fibre → Fibre) : (s.modFibre l n i f).run = s.run := rfl
@[simp] theorem modFibre_mem (s : State) (l n i : Nat) (f : Fibre → Fibre) : (s.modFibre l n i f).mem = s.mem := rfl
@[simp] theorem modFibre_poison (s : State) (l n i : Nat) (f : Fibre → Fibre) : (s.modFibre l n i f).poison = s.poison := rfl
@[simp] theorem modFibre_owners (s : State) (l n i : Nat) (f : Fibre → Fibre) : (s.modFibre l n i f).owners = s.owners := rfl
@[simp] theorem modFibre_tenants (s : State) (l n i : Nat) (f : Fibre → Fibre) : (s.modFibre l n i f).tenants = s.tenants := rfl
@[simp] theorem modFibre_nextLaunch (s : State) (l n i : Nat) (f : Fibre → Fibre) : (s.modFibre l n i f).nextLaunch = s.nextLaunch := rfl
@[simp] theorem modFibre_cmds (s : State) (l n i : Nat) (f : Fibre → Fibre) : (s.modFibre l n i f).cmds = s.cmds := rfl
@[simp] theorem modFibre_nextCmd (s : State) (l n i : Nat) (f : Fibre → Fibre) : (s.modFibre l n i f).nextCmd = s.nextCmd := rfl
@[simp] theorem modFibre_regions (s : State) (l n i : Nat) (f : Fibre → Fibre) : (s.modFibre l n i f).regions = s.regions := rfl
@[simp] theorem modFibre_sparse (s : State) (l n i : Nat) (f : Fibre → Fibre) : (s.modFibre l n i f).sparse = s.sparse := rfl
@[simp] theorem modFibre_gates (s : State) (l n i : Nat) (f : Fibre → Fibre) : (s.modFibre l n i f).gates = s.gates := rfl
@[simp] theorem modFibre_ports (s : State) (l n i : Nat) (f : Fibre → Fibre) : (s.modFibre l n i f).ports = s.ports := rfl
@[simp] theorem modFibre_cores (s : State) (l n i : Nat) (f : Fibre → Fibre) : (s.modFibre l n i f).cores = s.cores := rfl
@[simp] theorem modFibre_slices (s : State) (l n i : Nat) (f : Fibre → Fibre) : (s.modFibre l n i f).slices = s.slices := rfl
@[simp] theorem modFibre_exports (s : State) (l n i : Nat) (f : Fibre → Fibre) : (s.modFibre l n i f).exports = s.exports := rfl
@[simp] theorem modFibre_imports (s : State) (l n i : Nat) (f : Fibre → Fibre) : (s.modFibre l n i f).imports = s.imports := rfl
@[simp] theorem modFibre_moduleId (s : State) (l n i : Nat) (f : Fibre → Fibre) : (s.modFibre l n i f).moduleId = s.moduleId := rfl
@[simp] theorem modFibre_torus (s : State) (l n i : Nat) (f : Fibre → Fibre) : (s.modFibre l n i f).torus = s.torus := rfl
@[simp] theorem modFibre_pod (s : State) (l n i : Nat) (f : Fibre → Fibre) : (s.modFibre l n i f).pod = s.pod := rfl
@[simp] theorem modFibre_staging (s : State) (l n i : Nat) (f : Fibre → Fibre) : (s.modFibre l n i f).staging = s.staging := rfl
@[simp] theorem modFibre_fabricOut (s : State) (l n i : Nat) (f : Fibre → Fibre) : (s.modFibre l n i f).fabricOut = s.fabricOut := rfl
@[simp] theorem modFibre_guyPorts (s : State) (l n i : Nat) (f : Fibre → Fibre) : (s.modFibre l n i f).guyPorts = s.guyPorts := rfl
@[simp] theorem modFibre_snaps (s : State) (l n i : Nat) (f : Fibre → Fibre) : (s.modFibre l n i f).snaps = s.snaps := rfl
@[simp] theorem modFibre_snapLog (s : State) (l n i : Nat) (f : Fibre → Fibre) : (s.modFibre l n i f).snapLog = s.snapLog := rfl
@[simp] theorem modFibre_boot (s : State) (l n i : Nat) (f : Fibre → Fibre) : (s.modFibre l n i f).boot = s.boot := rfl
@[simp] theorem modFibre_mgmt (s : State) (l n i : Nat) (f : Fibre → Fibre) : (s.modFibre l n i f).mgmt = s.mgmt := rfl
@[simp] theorem modFibre_layout (s : State) (l n i : Nat) (f : Fibre → Fibre) : (s.modFibre l n i f).layout = s.layout := rfl
@[simp] theorem modFibre_images (s : State) (l n i : Nat) (f : Fibre → Fibre) : (s.modFibre l n i f).images = s.images := rfl
@[simp] theorem modFibre_power (s : State) (l n i : Nat) (f : Fibre → Fibre) : (s.modFibre l n i f).power = s.power := rfl
@[simp] theorem modFibre_hostReads (s : State) (l n i : Nat) (f : Fibre → Fibre) : (s.modFibre l n i f).hostReads = s.hostReads := rfl
@[simp] theorem modFibre_spdmOut (s : State) (l n i : Nat) (f : Fibre → Fibre) : (s.modFibre l n i f).spdmOut = s.spdmOut := rfl
@[simp] theorem modFibre_msix (s : State) (l n i : Nat) (f : Fibre → Fibre) : (s.modFibre l n i f).msix = s.msix := rfl
@[simp] theorem modFibre_barMap (s : State) (l n i : Nat) (f : Fibre → Fibre) : (s.modFibre l n i f).barMap = s.barMap := rfl
@[simp] theorem modFibre_failedEngines (s : State) (l n i : Nat) (f : Fibre → Fibre) : (s.modFibre l n i f).failedEngines = s.failedEngines := rfl
@[simp] theorem modFibre_strays (s : State) (l n i : Nat) (f : Fibre → Fibre) : (s.modFibre l n i f).strays = s.strays := rfl
@[simp] theorem modFibre_jobs (s : State) (l n i : Nat) (f : Fibre → Fibre) : (s.modFibre l n i f).jobs = s.jobs := rfl
@[simp] theorem modFibre_scratchPoison (s : State) (l n i : Nat) (f : Fibre → Fibre) : (s.modFibre l n i f).scratchPoison = s.scratchPoison := rfl
@[simp] theorem modCore_clock (s : State) (n : Nat) (f : Core → Core) : (s.modCore n f).clock = s.clock := rfl
@[simp] theorem modCore_inputs (s : State) (n : Nat) (f : Core → Core) : (s.modCore n f).inputs = s.inputs := rfl
@[simp] theorem modCore_issue (s : State) (n : Nat) (f : Core → Core) : (s.modCore n f).issue = s.issue := rfl
@[simp] theorem modCore_pick (s : State) (n : Nat) (f : Core → Core) : (s.modCore n f).pick = s.pick := rfl
@[simp] theorem modCore_free (s : State) (n : Nat) (f : Core → Core) : (s.modCore n f).free = s.free := rfl
@[simp] theorem modCore_wait (s : State) (n : Nat) (f : Core → Core) : (s.modCore n f).wait = s.wait := rfl
@[simp] theorem modCore_run (s : State) (n : Nat) (f : Core → Core) : (s.modCore n f).run = s.run := rfl
@[simp] theorem modCore_mem (s : State) (n : Nat) (f : Core → Core) : (s.modCore n f).mem = s.mem := rfl
@[simp] theorem modCore_poison (s : State) (n : Nat) (f : Core → Core) : (s.modCore n f).poison = s.poison := rfl
@[simp] theorem modCore_owners (s : State) (n : Nat) (f : Core → Core) : (s.modCore n f).owners = s.owners := rfl
@[simp] theorem modCore_tenants (s : State) (n : Nat) (f : Core → Core) : (s.modCore n f).tenants = s.tenants := rfl
@[simp] theorem modCore_launches (s : State) (n : Nat) (f : Core → Core) : (s.modCore n f).launches = s.launches := rfl
@[simp] theorem modCore_nextLaunch (s : State) (n : Nat) (f : Core → Core) : (s.modCore n f).nextLaunch = s.nextLaunch := rfl
@[simp] theorem modCore_cmds (s : State) (n : Nat) (f : Core → Core) : (s.modCore n f).cmds = s.cmds := rfl
@[simp] theorem modCore_nextCmd (s : State) (n : Nat) (f : Core → Core) : (s.modCore n f).nextCmd = s.nextCmd := rfl
@[simp] theorem modCore_regions (s : State) (n : Nat) (f : Core → Core) : (s.modCore n f).regions = s.regions := rfl
@[simp] theorem modCore_sparse (s : State) (n : Nat) (f : Core → Core) : (s.modCore n f).sparse = s.sparse := rfl
@[simp] theorem modCore_gates (s : State) (n : Nat) (f : Core → Core) : (s.modCore n f).gates = s.gates := rfl
@[simp] theorem modCore_ports (s : State) (n : Nat) (f : Core → Core) : (s.modCore n f).ports = s.ports := rfl
@[simp] theorem modCore_slices (s : State) (n : Nat) (f : Core → Core) : (s.modCore n f).slices = s.slices := rfl
@[simp] theorem modCore_exports (s : State) (n : Nat) (f : Core → Core) : (s.modCore n f).exports = s.exports := rfl
@[simp] theorem modCore_imports (s : State) (n : Nat) (f : Core → Core) : (s.modCore n f).imports = s.imports := rfl
@[simp] theorem modCore_moduleId (s : State) (n : Nat) (f : Core → Core) : (s.modCore n f).moduleId = s.moduleId := rfl
@[simp] theorem modCore_torus (s : State) (n : Nat) (f : Core → Core) : (s.modCore n f).torus = s.torus := rfl
@[simp] theorem modCore_pod (s : State) (n : Nat) (f : Core → Core) : (s.modCore n f).pod = s.pod := rfl
@[simp] theorem modCore_staging (s : State) (n : Nat) (f : Core → Core) : (s.modCore n f).staging = s.staging := rfl
@[simp] theorem modCore_fabricOut (s : State) (n : Nat) (f : Core → Core) : (s.modCore n f).fabricOut = s.fabricOut := rfl
@[simp] theorem modCore_guyPorts (s : State) (n : Nat) (f : Core → Core) : (s.modCore n f).guyPorts = s.guyPorts := rfl
@[simp] theorem modCore_snaps (s : State) (n : Nat) (f : Core → Core) : (s.modCore n f).snaps = s.snaps := rfl
@[simp] theorem modCore_snapLog (s : State) (n : Nat) (f : Core → Core) : (s.modCore n f).snapLog = s.snapLog := rfl
@[simp] theorem modCore_boot (s : State) (n : Nat) (f : Core → Core) : (s.modCore n f).boot = s.boot := rfl
@[simp] theorem modCore_mgmt (s : State) (n : Nat) (f : Core → Core) : (s.modCore n f).mgmt = s.mgmt := rfl
@[simp] theorem modCore_layout (s : State) (n : Nat) (f : Core → Core) : (s.modCore n f).layout = s.layout := rfl
@[simp] theorem modCore_images (s : State) (n : Nat) (f : Core → Core) : (s.modCore n f).images = s.images := rfl
@[simp] theorem modCore_power (s : State) (n : Nat) (f : Core → Core) : (s.modCore n f).power = s.power := rfl
@[simp] theorem modCore_hostReads (s : State) (n : Nat) (f : Core → Core) : (s.modCore n f).hostReads = s.hostReads := rfl
@[simp] theorem modCore_spdmOut (s : State) (n : Nat) (f : Core → Core) : (s.modCore n f).spdmOut = s.spdmOut := rfl
@[simp] theorem modCore_msix (s : State) (n : Nat) (f : Core → Core) : (s.modCore n f).msix = s.msix := rfl
@[simp] theorem modCore_barMap (s : State) (n : Nat) (f : Core → Core) : (s.modCore n f).barMap = s.barMap := rfl
@[simp] theorem modCore_failedEngines (s : State) (n : Nat) (f : Core → Core) : (s.modCore n f).failedEngines = s.failedEngines := rfl
@[simp] theorem modCore_strays (s : State) (n : Nat) (f : Core → Core) : (s.modCore n f).strays = s.strays := rfl
@[simp] theorem modCore_jobs (s : State) (n : Nat) (f : Core → Core) : (s.modCore n f).jobs = s.jobs := rfl
@[simp] theorem modCore_scratchPoison (s : State) (n : Nat) (f : Core → Core) : (s.modCore n f).scratchPoison = s.scratchPoison := rfl
@[simp] theorem modRegion_clock (s : State) (n : Nat) (f : Region → Region) : (s.modRegion n f).clock = s.clock := rfl
@[simp] theorem modRegion_inputs (s : State) (n : Nat) (f : Region → Region) : (s.modRegion n f).inputs = s.inputs := rfl
@[simp] theorem modRegion_issue (s : State) (n : Nat) (f : Region → Region) : (s.modRegion n f).issue = s.issue := rfl
@[simp] theorem modRegion_pick (s : State) (n : Nat) (f : Region → Region) : (s.modRegion n f).pick = s.pick := rfl
@[simp] theorem modRegion_free (s : State) (n : Nat) (f : Region → Region) : (s.modRegion n f).free = s.free := rfl
@[simp] theorem modRegion_wait (s : State) (n : Nat) (f : Region → Region) : (s.modRegion n f).wait = s.wait := rfl
@[simp] theorem modRegion_run (s : State) (n : Nat) (f : Region → Region) : (s.modRegion n f).run = s.run := rfl
@[simp] theorem modRegion_mem (s : State) (n : Nat) (f : Region → Region) : (s.modRegion n f).mem = s.mem := rfl
@[simp] theorem modRegion_poison (s : State) (n : Nat) (f : Region → Region) : (s.modRegion n f).poison = s.poison := rfl
@[simp] theorem modRegion_owners (s : State) (n : Nat) (f : Region → Region) : (s.modRegion n f).owners = s.owners := rfl
@[simp] theorem modRegion_tenants (s : State) (n : Nat) (f : Region → Region) : (s.modRegion n f).tenants = s.tenants := rfl
@[simp] theorem modRegion_launches (s : State) (n : Nat) (f : Region → Region) : (s.modRegion n f).launches = s.launches := rfl
@[simp] theorem modRegion_nextLaunch (s : State) (n : Nat) (f : Region → Region) : (s.modRegion n f).nextLaunch = s.nextLaunch := rfl
@[simp] theorem modRegion_cmds (s : State) (n : Nat) (f : Region → Region) : (s.modRegion n f).cmds = s.cmds := rfl
@[simp] theorem modRegion_nextCmd (s : State) (n : Nat) (f : Region → Region) : (s.modRegion n f).nextCmd = s.nextCmd := rfl
@[simp] theorem modRegion_sparse (s : State) (n : Nat) (f : Region → Region) : (s.modRegion n f).sparse = s.sparse := rfl
@[simp] theorem modRegion_gates (s : State) (n : Nat) (f : Region → Region) : (s.modRegion n f).gates = s.gates := rfl
@[simp] theorem modRegion_ports (s : State) (n : Nat) (f : Region → Region) : (s.modRegion n f).ports = s.ports := rfl
@[simp] theorem modRegion_cores (s : State) (n : Nat) (f : Region → Region) : (s.modRegion n f).cores = s.cores := rfl
@[simp] theorem modRegion_slices (s : State) (n : Nat) (f : Region → Region) : (s.modRegion n f).slices = s.slices := rfl
@[simp] theorem modRegion_exports (s : State) (n : Nat) (f : Region → Region) : (s.modRegion n f).exports = s.exports := rfl
@[simp] theorem modRegion_imports (s : State) (n : Nat) (f : Region → Region) : (s.modRegion n f).imports = s.imports := rfl
@[simp] theorem modRegion_moduleId (s : State) (n : Nat) (f : Region → Region) : (s.modRegion n f).moduleId = s.moduleId := rfl
@[simp] theorem modRegion_torus (s : State) (n : Nat) (f : Region → Region) : (s.modRegion n f).torus = s.torus := rfl
@[simp] theorem modRegion_pod (s : State) (n : Nat) (f : Region → Region) : (s.modRegion n f).pod = s.pod := rfl
@[simp] theorem modRegion_staging (s : State) (n : Nat) (f : Region → Region) : (s.modRegion n f).staging = s.staging := rfl
@[simp] theorem modRegion_fabricOut (s : State) (n : Nat) (f : Region → Region) : (s.modRegion n f).fabricOut = s.fabricOut := rfl
@[simp] theorem modRegion_guyPorts (s : State) (n : Nat) (f : Region → Region) : (s.modRegion n f).guyPorts = s.guyPorts := rfl
@[simp] theorem modRegion_snaps (s : State) (n : Nat) (f : Region → Region) : (s.modRegion n f).snaps = s.snaps := rfl
@[simp] theorem modRegion_snapLog (s : State) (n : Nat) (f : Region → Region) : (s.modRegion n f).snapLog = s.snapLog := rfl
@[simp] theorem modRegion_boot (s : State) (n : Nat) (f : Region → Region) : (s.modRegion n f).boot = s.boot := rfl
@[simp] theorem modRegion_mgmt (s : State) (n : Nat) (f : Region → Region) : (s.modRegion n f).mgmt = s.mgmt := rfl
@[simp] theorem modRegion_layout (s : State) (n : Nat) (f : Region → Region) : (s.modRegion n f).layout = s.layout := rfl
@[simp] theorem modRegion_images (s : State) (n : Nat) (f : Region → Region) : (s.modRegion n f).images = s.images := rfl
@[simp] theorem modRegion_power (s : State) (n : Nat) (f : Region → Region) : (s.modRegion n f).power = s.power := rfl
@[simp] theorem modRegion_hostReads (s : State) (n : Nat) (f : Region → Region) : (s.modRegion n f).hostReads = s.hostReads := rfl
@[simp] theorem modRegion_spdmOut (s : State) (n : Nat) (f : Region → Region) : (s.modRegion n f).spdmOut = s.spdmOut := rfl
@[simp] theorem modRegion_msix (s : State) (n : Nat) (f : Region → Region) : (s.modRegion n f).msix = s.msix := rfl
@[simp] theorem modRegion_barMap (s : State) (n : Nat) (f : Region → Region) : (s.modRegion n f).barMap = s.barMap := rfl
@[simp] theorem modRegion_failedEngines (s : State) (n : Nat) (f : Region → Region) : (s.modRegion n f).failedEngines = s.failedEngines := rfl
@[simp] theorem modRegion_strays (s : State) (n : Nat) (f : Region → Region) : (s.modRegion n f).strays = s.strays := rfl
@[simp] theorem modRegion_jobs (s : State) (n : Nat) (f : Region → Region) : (s.modRegion n f).jobs = s.jobs := rfl
@[simp] theorem modRegion_scratchPoison (s : State) (n : Nat) (f : Region → Region) : (s.modRegion n f).scratchPoison = s.scratchPoison := rfl
@[simp] theorem modCmd_clock (s : State) (n : Nat) (f : Cmd → Cmd) : (s.modCmd n f).clock = s.clock := rfl
@[simp] theorem modCmd_inputs (s : State) (n : Nat) (f : Cmd → Cmd) : (s.modCmd n f).inputs = s.inputs := rfl
@[simp] theorem modCmd_issue (s : State) (n : Nat) (f : Cmd → Cmd) : (s.modCmd n f).issue = s.issue := rfl
@[simp] theorem modCmd_pick (s : State) (n : Nat) (f : Cmd → Cmd) : (s.modCmd n f).pick = s.pick := rfl
@[simp] theorem modCmd_free (s : State) (n : Nat) (f : Cmd → Cmd) : (s.modCmd n f).free = s.free := rfl
@[simp] theorem modCmd_wait (s : State) (n : Nat) (f : Cmd → Cmd) : (s.modCmd n f).wait = s.wait := rfl
@[simp] theorem modCmd_run (s : State) (n : Nat) (f : Cmd → Cmd) : (s.modCmd n f).run = s.run := rfl
@[simp] theorem modCmd_mem (s : State) (n : Nat) (f : Cmd → Cmd) : (s.modCmd n f).mem = s.mem := rfl
@[simp] theorem modCmd_poison (s : State) (n : Nat) (f : Cmd → Cmd) : (s.modCmd n f).poison = s.poison := rfl
@[simp] theorem modCmd_owners (s : State) (n : Nat) (f : Cmd → Cmd) : (s.modCmd n f).owners = s.owners := rfl
@[simp] theorem modCmd_tenants (s : State) (n : Nat) (f : Cmd → Cmd) : (s.modCmd n f).tenants = s.tenants := rfl
@[simp] theorem modCmd_launches (s : State) (n : Nat) (f : Cmd → Cmd) : (s.modCmd n f).launches = s.launches := rfl
@[simp] theorem modCmd_nextLaunch (s : State) (n : Nat) (f : Cmd → Cmd) : (s.modCmd n f).nextLaunch = s.nextLaunch := rfl
@[simp] theorem modCmd_nextCmd (s : State) (n : Nat) (f : Cmd → Cmd) : (s.modCmd n f).nextCmd = s.nextCmd := rfl
@[simp] theorem modCmd_regions (s : State) (n : Nat) (f : Cmd → Cmd) : (s.modCmd n f).regions = s.regions := rfl
@[simp] theorem modCmd_sparse (s : State) (n : Nat) (f : Cmd → Cmd) : (s.modCmd n f).sparse = s.sparse := rfl
@[simp] theorem modCmd_gates (s : State) (n : Nat) (f : Cmd → Cmd) : (s.modCmd n f).gates = s.gates := rfl
@[simp] theorem modCmd_ports (s : State) (n : Nat) (f : Cmd → Cmd) : (s.modCmd n f).ports = s.ports := rfl
@[simp] theorem modCmd_cores (s : State) (n : Nat) (f : Cmd → Cmd) : (s.modCmd n f).cores = s.cores := rfl
@[simp] theorem modCmd_slices (s : State) (n : Nat) (f : Cmd → Cmd) : (s.modCmd n f).slices = s.slices := rfl
@[simp] theorem modCmd_exports (s : State) (n : Nat) (f : Cmd → Cmd) : (s.modCmd n f).exports = s.exports := rfl
@[simp] theorem modCmd_imports (s : State) (n : Nat) (f : Cmd → Cmd) : (s.modCmd n f).imports = s.imports := rfl
@[simp] theorem modCmd_moduleId (s : State) (n : Nat) (f : Cmd → Cmd) : (s.modCmd n f).moduleId = s.moduleId := rfl
@[simp] theorem modCmd_torus (s : State) (n : Nat) (f : Cmd → Cmd) : (s.modCmd n f).torus = s.torus := rfl
@[simp] theorem modCmd_pod (s : State) (n : Nat) (f : Cmd → Cmd) : (s.modCmd n f).pod = s.pod := rfl
@[simp] theorem modCmd_staging (s : State) (n : Nat) (f : Cmd → Cmd) : (s.modCmd n f).staging = s.staging := rfl
@[simp] theorem modCmd_fabricOut (s : State) (n : Nat) (f : Cmd → Cmd) : (s.modCmd n f).fabricOut = s.fabricOut := rfl
@[simp] theorem modCmd_guyPorts (s : State) (n : Nat) (f : Cmd → Cmd) : (s.modCmd n f).guyPorts = s.guyPorts := rfl
@[simp] theorem modCmd_snaps (s : State) (n : Nat) (f : Cmd → Cmd) : (s.modCmd n f).snaps = s.snaps := rfl
@[simp] theorem modCmd_snapLog (s : State) (n : Nat) (f : Cmd → Cmd) : (s.modCmd n f).snapLog = s.snapLog := rfl
@[simp] theorem modCmd_boot (s : State) (n : Nat) (f : Cmd → Cmd) : (s.modCmd n f).boot = s.boot := rfl
@[simp] theorem modCmd_mgmt (s : State) (n : Nat) (f : Cmd → Cmd) : (s.modCmd n f).mgmt = s.mgmt := rfl
@[simp] theorem modCmd_layout (s : State) (n : Nat) (f : Cmd → Cmd) : (s.modCmd n f).layout = s.layout := rfl
@[simp] theorem modCmd_images (s : State) (n : Nat) (f : Cmd → Cmd) : (s.modCmd n f).images = s.images := rfl
@[simp] theorem modCmd_power (s : State) (n : Nat) (f : Cmd → Cmd) : (s.modCmd n f).power = s.power := rfl
@[simp] theorem modCmd_hostReads (s : State) (n : Nat) (f : Cmd → Cmd) : (s.modCmd n f).hostReads = s.hostReads := rfl
@[simp] theorem modCmd_spdmOut (s : State) (n : Nat) (f : Cmd → Cmd) : (s.modCmd n f).spdmOut = s.spdmOut := rfl
@[simp] theorem modCmd_msix (s : State) (n : Nat) (f : Cmd → Cmd) : (s.modCmd n f).msix = s.msix := rfl
@[simp] theorem modCmd_barMap (s : State) (n : Nat) (f : Cmd → Cmd) : (s.modCmd n f).barMap = s.barMap := rfl
@[simp] theorem modCmd_failedEngines (s : State) (n : Nat) (f : Cmd → Cmd) : (s.modCmd n f).failedEngines = s.failedEngines := rfl
@[simp] theorem modCmd_strays (s : State) (n : Nat) (f : Cmd → Cmd) : (s.modCmd n f).strays = s.strays := rfl
@[simp] theorem modCmd_jobs (s : State) (n : Nat) (f : Cmd → Cmd) : (s.modCmd n f).jobs = s.jobs := rfl
@[simp] theorem modCmd_scratchPoison (s : State) (n : Nat) (f : Cmd → Cmd) : (s.modCmd n f).scratchPoison = s.scratchPoison := rfl
@[simp] theorem modPort_clock (s : State) (n : Nat) (f : Port → Port) : (s.modPort n f).clock = s.clock := rfl
@[simp] theorem modPort_inputs (s : State) (n : Nat) (f : Port → Port) : (s.modPort n f).inputs = s.inputs := rfl
@[simp] theorem modPort_issue (s : State) (n : Nat) (f : Port → Port) : (s.modPort n f).issue = s.issue := rfl
@[simp] theorem modPort_pick (s : State) (n : Nat) (f : Port → Port) : (s.modPort n f).pick = s.pick := rfl
@[simp] theorem modPort_free (s : State) (n : Nat) (f : Port → Port) : (s.modPort n f).free = s.free := rfl
@[simp] theorem modPort_wait (s : State) (n : Nat) (f : Port → Port) : (s.modPort n f).wait = s.wait := rfl
@[simp] theorem modPort_run (s : State) (n : Nat) (f : Port → Port) : (s.modPort n f).run = s.run := rfl
@[simp] theorem modPort_mem (s : State) (n : Nat) (f : Port → Port) : (s.modPort n f).mem = s.mem := rfl
@[simp] theorem modPort_poison (s : State) (n : Nat) (f : Port → Port) : (s.modPort n f).poison = s.poison := rfl
@[simp] theorem modPort_owners (s : State) (n : Nat) (f : Port → Port) : (s.modPort n f).owners = s.owners := rfl
@[simp] theorem modPort_tenants (s : State) (n : Nat) (f : Port → Port) : (s.modPort n f).tenants = s.tenants := rfl
@[simp] theorem modPort_launches (s : State) (n : Nat) (f : Port → Port) : (s.modPort n f).launches = s.launches := rfl
@[simp] theorem modPort_nextLaunch (s : State) (n : Nat) (f : Port → Port) : (s.modPort n f).nextLaunch = s.nextLaunch := rfl
@[simp] theorem modPort_cmds (s : State) (n : Nat) (f : Port → Port) : (s.modPort n f).cmds = s.cmds := rfl
@[simp] theorem modPort_nextCmd (s : State) (n : Nat) (f : Port → Port) : (s.modPort n f).nextCmd = s.nextCmd := rfl
@[simp] theorem modPort_regions (s : State) (n : Nat) (f : Port → Port) : (s.modPort n f).regions = s.regions := rfl
@[simp] theorem modPort_sparse (s : State) (n : Nat) (f : Port → Port) : (s.modPort n f).sparse = s.sparse := rfl
@[simp] theorem modPort_gates (s : State) (n : Nat) (f : Port → Port) : (s.modPort n f).gates = s.gates := rfl
@[simp] theorem modPort_cores (s : State) (n : Nat) (f : Port → Port) : (s.modPort n f).cores = s.cores := rfl
@[simp] theorem modPort_slices (s : State) (n : Nat) (f : Port → Port) : (s.modPort n f).slices = s.slices := rfl
@[simp] theorem modPort_exports (s : State) (n : Nat) (f : Port → Port) : (s.modPort n f).exports = s.exports := rfl
@[simp] theorem modPort_imports (s : State) (n : Nat) (f : Port → Port) : (s.modPort n f).imports = s.imports := rfl
@[simp] theorem modPort_moduleId (s : State) (n : Nat) (f : Port → Port) : (s.modPort n f).moduleId = s.moduleId := rfl
@[simp] theorem modPort_torus (s : State) (n : Nat) (f : Port → Port) : (s.modPort n f).torus = s.torus := rfl
@[simp] theorem modPort_pod (s : State) (n : Nat) (f : Port → Port) : (s.modPort n f).pod = s.pod := rfl
@[simp] theorem modPort_staging (s : State) (n : Nat) (f : Port → Port) : (s.modPort n f).staging = s.staging := rfl
@[simp] theorem modPort_fabricOut (s : State) (n : Nat) (f : Port → Port) : (s.modPort n f).fabricOut = s.fabricOut := rfl
@[simp] theorem modPort_guyPorts (s : State) (n : Nat) (f : Port → Port) : (s.modPort n f).guyPorts = s.guyPorts := rfl
@[simp] theorem modPort_snaps (s : State) (n : Nat) (f : Port → Port) : (s.modPort n f).snaps = s.snaps := rfl
@[simp] theorem modPort_snapLog (s : State) (n : Nat) (f : Port → Port) : (s.modPort n f).snapLog = s.snapLog := rfl
@[simp] theorem modPort_boot (s : State) (n : Nat) (f : Port → Port) : (s.modPort n f).boot = s.boot := rfl
@[simp] theorem modPort_mgmt (s : State) (n : Nat) (f : Port → Port) : (s.modPort n f).mgmt = s.mgmt := rfl
@[simp] theorem modPort_layout (s : State) (n : Nat) (f : Port → Port) : (s.modPort n f).layout = s.layout := rfl
@[simp] theorem modPort_images (s : State) (n : Nat) (f : Port → Port) : (s.modPort n f).images = s.images := rfl
@[simp] theorem modPort_power (s : State) (n : Nat) (f : Port → Port) : (s.modPort n f).power = s.power := rfl
@[simp] theorem modPort_hostReads (s : State) (n : Nat) (f : Port → Port) : (s.modPort n f).hostReads = s.hostReads := rfl
@[simp] theorem modPort_spdmOut (s : State) (n : Nat) (f : Port → Port) : (s.modPort n f).spdmOut = s.spdmOut := rfl
@[simp] theorem modPort_msix (s : State) (n : Nat) (f : Port → Port) : (s.modPort n f).msix = s.msix := rfl
@[simp] theorem modPort_barMap (s : State) (n : Nat) (f : Port → Port) : (s.modPort n f).barMap = s.barMap := rfl
@[simp] theorem modPort_failedEngines (s : State) (n : Nat) (f : Port → Port) : (s.modPort n f).failedEngines = s.failedEngines := rfl
@[simp] theorem modPort_strays (s : State) (n : Nat) (f : Port → Port) : (s.modPort n f).strays = s.strays := rfl
@[simp] theorem modPort_jobs (s : State) (n : Nat) (f : Port → Port) : (s.modPort n f).jobs = s.jobs := rfl
@[simp] theorem modPort_scratchPoison (s : State) (n : Nat) (f : Port → Port) : (s.modPort n f).scratchPoison = s.scratchPoison := rfl
@[simp] theorem modGate_clock (s : State) (k : Nat × Nat × Nat) (f : Gate → Gate) : (s.modGate k f).clock = s.clock := rfl
@[simp] theorem modGate_inputs (s : State) (k : Nat × Nat × Nat) (f : Gate → Gate) : (s.modGate k f).inputs = s.inputs := rfl
@[simp] theorem modGate_issue (s : State) (k : Nat × Nat × Nat) (f : Gate → Gate) : (s.modGate k f).issue = s.issue := rfl
@[simp] theorem modGate_pick (s : State) (k : Nat × Nat × Nat) (f : Gate → Gate) : (s.modGate k f).pick = s.pick := rfl
@[simp] theorem modGate_free (s : State) (k : Nat × Nat × Nat) (f : Gate → Gate) : (s.modGate k f).free = s.free := rfl
@[simp] theorem modGate_wait (s : State) (k : Nat × Nat × Nat) (f : Gate → Gate) : (s.modGate k f).wait = s.wait := rfl
@[simp] theorem modGate_run (s : State) (k : Nat × Nat × Nat) (f : Gate → Gate) : (s.modGate k f).run = s.run := rfl
@[simp] theorem modGate_mem (s : State) (k : Nat × Nat × Nat) (f : Gate → Gate) : (s.modGate k f).mem = s.mem := rfl
@[simp] theorem modGate_poison (s : State) (k : Nat × Nat × Nat) (f : Gate → Gate) : (s.modGate k f).poison = s.poison := rfl
@[simp] theorem modGate_owners (s : State) (k : Nat × Nat × Nat) (f : Gate → Gate) : (s.modGate k f).owners = s.owners := rfl
@[simp] theorem modGate_tenants (s : State) (k : Nat × Nat × Nat) (f : Gate → Gate) : (s.modGate k f).tenants = s.tenants := rfl
@[simp] theorem modGate_launches (s : State) (k : Nat × Nat × Nat) (f : Gate → Gate) : (s.modGate k f).launches = s.launches := rfl
@[simp] theorem modGate_nextLaunch (s : State) (k : Nat × Nat × Nat) (f : Gate → Gate) : (s.modGate k f).nextLaunch = s.nextLaunch := rfl
@[simp] theorem modGate_cmds (s : State) (k : Nat × Nat × Nat) (f : Gate → Gate) : (s.modGate k f).cmds = s.cmds := rfl
@[simp] theorem modGate_nextCmd (s : State) (k : Nat × Nat × Nat) (f : Gate → Gate) : (s.modGate k f).nextCmd = s.nextCmd := rfl
@[simp] theorem modGate_regions (s : State) (k : Nat × Nat × Nat) (f : Gate → Gate) : (s.modGate k f).regions = s.regions := rfl
@[simp] theorem modGate_sparse (s : State) (k : Nat × Nat × Nat) (f : Gate → Gate) : (s.modGate k f).sparse = s.sparse := rfl
@[simp] theorem modGate_ports (s : State) (k : Nat × Nat × Nat) (f : Gate → Gate) : (s.modGate k f).ports = s.ports := rfl
@[simp] theorem modGate_cores (s : State) (k : Nat × Nat × Nat) (f : Gate → Gate) : (s.modGate k f).cores = s.cores := rfl
@[simp] theorem modGate_slices (s : State) (k : Nat × Nat × Nat) (f : Gate → Gate) : (s.modGate k f).slices = s.slices := rfl
@[simp] theorem modGate_exports (s : State) (k : Nat × Nat × Nat) (f : Gate → Gate) : (s.modGate k f).exports = s.exports := rfl
@[simp] theorem modGate_imports (s : State) (k : Nat × Nat × Nat) (f : Gate → Gate) : (s.modGate k f).imports = s.imports := rfl
@[simp] theorem modGate_moduleId (s : State) (k : Nat × Nat × Nat) (f : Gate → Gate) : (s.modGate k f).moduleId = s.moduleId := rfl
@[simp] theorem modGate_torus (s : State) (k : Nat × Nat × Nat) (f : Gate → Gate) : (s.modGate k f).torus = s.torus := rfl
@[simp] theorem modGate_pod (s : State) (k : Nat × Nat × Nat) (f : Gate → Gate) : (s.modGate k f).pod = s.pod := rfl
@[simp] theorem modGate_staging (s : State) (k : Nat × Nat × Nat) (f : Gate → Gate) : (s.modGate k f).staging = s.staging := rfl
@[simp] theorem modGate_fabricOut (s : State) (k : Nat × Nat × Nat) (f : Gate → Gate) : (s.modGate k f).fabricOut = s.fabricOut := rfl
@[simp] theorem modGate_guyPorts (s : State) (k : Nat × Nat × Nat) (f : Gate → Gate) : (s.modGate k f).guyPorts = s.guyPorts := rfl
@[simp] theorem modGate_snaps (s : State) (k : Nat × Nat × Nat) (f : Gate → Gate) : (s.modGate k f).snaps = s.snaps := rfl
@[simp] theorem modGate_snapLog (s : State) (k : Nat × Nat × Nat) (f : Gate → Gate) : (s.modGate k f).snapLog = s.snapLog := rfl
@[simp] theorem modGate_boot (s : State) (k : Nat × Nat × Nat) (f : Gate → Gate) : (s.modGate k f).boot = s.boot := rfl
@[simp] theorem modGate_mgmt (s : State) (k : Nat × Nat × Nat) (f : Gate → Gate) : (s.modGate k f).mgmt = s.mgmt := rfl
@[simp] theorem modGate_layout (s : State) (k : Nat × Nat × Nat) (f : Gate → Gate) : (s.modGate k f).layout = s.layout := rfl
@[simp] theorem modGate_images (s : State) (k : Nat × Nat × Nat) (f : Gate → Gate) : (s.modGate k f).images = s.images := rfl
@[simp] theorem modGate_power (s : State) (k : Nat × Nat × Nat) (f : Gate → Gate) : (s.modGate k f).power = s.power := rfl
@[simp] theorem modGate_hostReads (s : State) (k : Nat × Nat × Nat) (f : Gate → Gate) : (s.modGate k f).hostReads = s.hostReads := rfl
@[simp] theorem modGate_spdmOut (s : State) (k : Nat × Nat × Nat) (f : Gate → Gate) : (s.modGate k f).spdmOut = s.spdmOut := rfl
@[simp] theorem modGate_msix (s : State) (k : Nat × Nat × Nat) (f : Gate → Gate) : (s.modGate k f).msix = s.msix := rfl
@[simp] theorem modGate_barMap (s : State) (k : Nat × Nat × Nat) (f : Gate → Gate) : (s.modGate k f).barMap = s.barMap := rfl
@[simp] theorem modGate_failedEngines (s : State) (k : Nat × Nat × Nat) (f : Gate → Gate) : (s.modGate k f).failedEngines = s.failedEngines := rfl
@[simp] theorem modGate_strays (s : State) (k : Nat × Nat × Nat) (f : Gate → Gate) : (s.modGate k f).strays = s.strays := rfl
@[simp] theorem modGate_jobs (s : State) (k : Nat × Nat × Nat) (f : Gate → Gate) : (s.modGate k f).jobs = s.jobs := rfl
@[simp] theorem modGate_scratchPoison (s : State) (k : Nat × Nat × Nat) (f : Gate → Gate) : (s.modGate k f).scratchPoison = s.scratchPoison := rfl
@[simp] theorem modSparse_clock (s : State) (n : Nat) (f : Sparse → Sparse) : (s.modSparse n f).clock = s.clock := rfl
@[simp] theorem modSparse_inputs (s : State) (n : Nat) (f : Sparse → Sparse) : (s.modSparse n f).inputs = s.inputs := rfl
@[simp] theorem modSparse_issue (s : State) (n : Nat) (f : Sparse → Sparse) : (s.modSparse n f).issue = s.issue := rfl
@[simp] theorem modSparse_pick (s : State) (n : Nat) (f : Sparse → Sparse) : (s.modSparse n f).pick = s.pick := rfl
@[simp] theorem modSparse_free (s : State) (n : Nat) (f : Sparse → Sparse) : (s.modSparse n f).free = s.free := rfl
@[simp] theorem modSparse_wait (s : State) (n : Nat) (f : Sparse → Sparse) : (s.modSparse n f).wait = s.wait := rfl
@[simp] theorem modSparse_run (s : State) (n : Nat) (f : Sparse → Sparse) : (s.modSparse n f).run = s.run := rfl
@[simp] theorem modSparse_mem (s : State) (n : Nat) (f : Sparse → Sparse) : (s.modSparse n f).mem = s.mem := rfl
@[simp] theorem modSparse_poison (s : State) (n : Nat) (f : Sparse → Sparse) : (s.modSparse n f).poison = s.poison := rfl
@[simp] theorem modSparse_owners (s : State) (n : Nat) (f : Sparse → Sparse) : (s.modSparse n f).owners = s.owners := rfl
@[simp] theorem modSparse_tenants (s : State) (n : Nat) (f : Sparse → Sparse) : (s.modSparse n f).tenants = s.tenants := rfl
@[simp] theorem modSparse_launches (s : State) (n : Nat) (f : Sparse → Sparse) : (s.modSparse n f).launches = s.launches := rfl
@[simp] theorem modSparse_nextLaunch (s : State) (n : Nat) (f : Sparse → Sparse) : (s.modSparse n f).nextLaunch = s.nextLaunch := rfl
@[simp] theorem modSparse_cmds (s : State) (n : Nat) (f : Sparse → Sparse) : (s.modSparse n f).cmds = s.cmds := rfl
@[simp] theorem modSparse_nextCmd (s : State) (n : Nat) (f : Sparse → Sparse) : (s.modSparse n f).nextCmd = s.nextCmd := rfl
@[simp] theorem modSparse_regions (s : State) (n : Nat) (f : Sparse → Sparse) : (s.modSparse n f).regions = s.regions := rfl
@[simp] theorem modSparse_gates (s : State) (n : Nat) (f : Sparse → Sparse) : (s.modSparse n f).gates = s.gates := rfl
@[simp] theorem modSparse_ports (s : State) (n : Nat) (f : Sparse → Sparse) : (s.modSparse n f).ports = s.ports := rfl
@[simp] theorem modSparse_cores (s : State) (n : Nat) (f : Sparse → Sparse) : (s.modSparse n f).cores = s.cores := rfl
@[simp] theorem modSparse_slices (s : State) (n : Nat) (f : Sparse → Sparse) : (s.modSparse n f).slices = s.slices := rfl
@[simp] theorem modSparse_exports (s : State) (n : Nat) (f : Sparse → Sparse) : (s.modSparse n f).exports = s.exports := rfl
@[simp] theorem modSparse_imports (s : State) (n : Nat) (f : Sparse → Sparse) : (s.modSparse n f).imports = s.imports := rfl
@[simp] theorem modSparse_moduleId (s : State) (n : Nat) (f : Sparse → Sparse) : (s.modSparse n f).moduleId = s.moduleId := rfl
@[simp] theorem modSparse_torus (s : State) (n : Nat) (f : Sparse → Sparse) : (s.modSparse n f).torus = s.torus := rfl
@[simp] theorem modSparse_pod (s : State) (n : Nat) (f : Sparse → Sparse) : (s.modSparse n f).pod = s.pod := rfl
@[simp] theorem modSparse_staging (s : State) (n : Nat) (f : Sparse → Sparse) : (s.modSparse n f).staging = s.staging := rfl
@[simp] theorem modSparse_fabricOut (s : State) (n : Nat) (f : Sparse → Sparse) : (s.modSparse n f).fabricOut = s.fabricOut := rfl
@[simp] theorem modSparse_guyPorts (s : State) (n : Nat) (f : Sparse → Sparse) : (s.modSparse n f).guyPorts = s.guyPorts := rfl
@[simp] theorem modSparse_snaps (s : State) (n : Nat) (f : Sparse → Sparse) : (s.modSparse n f).snaps = s.snaps := rfl
@[simp] theorem modSparse_snapLog (s : State) (n : Nat) (f : Sparse → Sparse) : (s.modSparse n f).snapLog = s.snapLog := rfl
@[simp] theorem modSparse_boot (s : State) (n : Nat) (f : Sparse → Sparse) : (s.modSparse n f).boot = s.boot := rfl
@[simp] theorem modSparse_mgmt (s : State) (n : Nat) (f : Sparse → Sparse) : (s.modSparse n f).mgmt = s.mgmt := rfl
@[simp] theorem modSparse_layout (s : State) (n : Nat) (f : Sparse → Sparse) : (s.modSparse n f).layout = s.layout := rfl
@[simp] theorem modSparse_images (s : State) (n : Nat) (f : Sparse → Sparse) : (s.modSparse n f).images = s.images := rfl
@[simp] theorem modSparse_power (s : State) (n : Nat) (f : Sparse → Sparse) : (s.modSparse n f).power = s.power := rfl
@[simp] theorem modSparse_hostReads (s : State) (n : Nat) (f : Sparse → Sparse) : (s.modSparse n f).hostReads = s.hostReads := rfl
@[simp] theorem modSparse_spdmOut (s : State) (n : Nat) (f : Sparse → Sparse) : (s.modSparse n f).spdmOut = s.spdmOut := rfl
@[simp] theorem modSparse_msix (s : State) (n : Nat) (f : Sparse → Sparse) : (s.modSparse n f).msix = s.msix := rfl
@[simp] theorem modSparse_barMap (s : State) (n : Nat) (f : Sparse → Sparse) : (s.modSparse n f).barMap = s.barMap := rfl
@[simp] theorem modSparse_failedEngines (s : State) (n : Nat) (f : Sparse → Sparse) : (s.modSparse n f).failedEngines = s.failedEngines := rfl
@[simp] theorem modSparse_strays (s : State) (n : Nat) (f : Sparse → Sparse) : (s.modSparse n f).strays = s.strays := rfl
@[simp] theorem modSparse_jobs (s : State) (n : Nat) (f : Sparse → Sparse) : (s.modSparse n f).jobs = s.jobs := rfl
@[simp] theorem modSparse_scratchPoison (s : State) (n : Nat) (f : Sparse → Sparse) : (s.modSparse n f).scratchPoison = s.scratchPoison := rfl
@[simp] theorem modSlice_clock (s : State) (n : Nat) (f : Slice → Slice) : (s.modSlice n f).clock = s.clock := rfl
@[simp] theorem modSlice_inputs (s : State) (n : Nat) (f : Slice → Slice) : (s.modSlice n f).inputs = s.inputs := rfl
@[simp] theorem modSlice_issue (s : State) (n : Nat) (f : Slice → Slice) : (s.modSlice n f).issue = s.issue := rfl
@[simp] theorem modSlice_pick (s : State) (n : Nat) (f : Slice → Slice) : (s.modSlice n f).pick = s.pick := rfl
@[simp] theorem modSlice_free (s : State) (n : Nat) (f : Slice → Slice) : (s.modSlice n f).free = s.free := rfl
@[simp] theorem modSlice_wait (s : State) (n : Nat) (f : Slice → Slice) : (s.modSlice n f).wait = s.wait := rfl
@[simp] theorem modSlice_run (s : State) (n : Nat) (f : Slice → Slice) : (s.modSlice n f).run = s.run := rfl
@[simp] theorem modSlice_mem (s : State) (n : Nat) (f : Slice → Slice) : (s.modSlice n f).mem = s.mem := rfl
@[simp] theorem modSlice_poison (s : State) (n : Nat) (f : Slice → Slice) : (s.modSlice n f).poison = s.poison := rfl
@[simp] theorem modSlice_owners (s : State) (n : Nat) (f : Slice → Slice) : (s.modSlice n f).owners = s.owners := rfl
@[simp] theorem modSlice_tenants (s : State) (n : Nat) (f : Slice → Slice) : (s.modSlice n f).tenants = s.tenants := rfl
@[simp] theorem modSlice_launches (s : State) (n : Nat) (f : Slice → Slice) : (s.modSlice n f).launches = s.launches := rfl
@[simp] theorem modSlice_nextLaunch (s : State) (n : Nat) (f : Slice → Slice) : (s.modSlice n f).nextLaunch = s.nextLaunch := rfl
@[simp] theorem modSlice_cmds (s : State) (n : Nat) (f : Slice → Slice) : (s.modSlice n f).cmds = s.cmds := rfl
@[simp] theorem modSlice_nextCmd (s : State) (n : Nat) (f : Slice → Slice) : (s.modSlice n f).nextCmd = s.nextCmd := rfl
@[simp] theorem modSlice_regions (s : State) (n : Nat) (f : Slice → Slice) : (s.modSlice n f).regions = s.regions := rfl
@[simp] theorem modSlice_sparse (s : State) (n : Nat) (f : Slice → Slice) : (s.modSlice n f).sparse = s.sparse := rfl
@[simp] theorem modSlice_gates (s : State) (n : Nat) (f : Slice → Slice) : (s.modSlice n f).gates = s.gates := rfl
@[simp] theorem modSlice_ports (s : State) (n : Nat) (f : Slice → Slice) : (s.modSlice n f).ports = s.ports := rfl
@[simp] theorem modSlice_cores (s : State) (n : Nat) (f : Slice → Slice) : (s.modSlice n f).cores = s.cores := rfl
@[simp] theorem modSlice_exports (s : State) (n : Nat) (f : Slice → Slice) : (s.modSlice n f).exports = s.exports := rfl
@[simp] theorem modSlice_imports (s : State) (n : Nat) (f : Slice → Slice) : (s.modSlice n f).imports = s.imports := rfl
@[simp] theorem modSlice_moduleId (s : State) (n : Nat) (f : Slice → Slice) : (s.modSlice n f).moduleId = s.moduleId := rfl
@[simp] theorem modSlice_torus (s : State) (n : Nat) (f : Slice → Slice) : (s.modSlice n f).torus = s.torus := rfl
@[simp] theorem modSlice_pod (s : State) (n : Nat) (f : Slice → Slice) : (s.modSlice n f).pod = s.pod := rfl
@[simp] theorem modSlice_staging (s : State) (n : Nat) (f : Slice → Slice) : (s.modSlice n f).staging = s.staging := rfl
@[simp] theorem modSlice_fabricOut (s : State) (n : Nat) (f : Slice → Slice) : (s.modSlice n f).fabricOut = s.fabricOut := rfl
@[simp] theorem modSlice_guyPorts (s : State) (n : Nat) (f : Slice → Slice) : (s.modSlice n f).guyPorts = s.guyPorts := rfl
@[simp] theorem modSlice_snaps (s : State) (n : Nat) (f : Slice → Slice) : (s.modSlice n f).snaps = s.snaps := rfl
@[simp] theorem modSlice_snapLog (s : State) (n : Nat) (f : Slice → Slice) : (s.modSlice n f).snapLog = s.snapLog := rfl
@[simp] theorem modSlice_boot (s : State) (n : Nat) (f : Slice → Slice) : (s.modSlice n f).boot = s.boot := rfl
@[simp] theorem modSlice_mgmt (s : State) (n : Nat) (f : Slice → Slice) : (s.modSlice n f).mgmt = s.mgmt := rfl
@[simp] theorem modSlice_layout (s : State) (n : Nat) (f : Slice → Slice) : (s.modSlice n f).layout = s.layout := rfl
@[simp] theorem modSlice_images (s : State) (n : Nat) (f : Slice → Slice) : (s.modSlice n f).images = s.images := rfl
@[simp] theorem modSlice_power (s : State) (n : Nat) (f : Slice → Slice) : (s.modSlice n f).power = s.power := rfl
@[simp] theorem modSlice_hostReads (s : State) (n : Nat) (f : Slice → Slice) : (s.modSlice n f).hostReads = s.hostReads := rfl
@[simp] theorem modSlice_spdmOut (s : State) (n : Nat) (f : Slice → Slice) : (s.modSlice n f).spdmOut = s.spdmOut := rfl
@[simp] theorem modSlice_msix (s : State) (n : Nat) (f : Slice → Slice) : (s.modSlice n f).msix = s.msix := rfl
@[simp] theorem modSlice_barMap (s : State) (n : Nat) (f : Slice → Slice) : (s.modSlice n f).barMap = s.barMap := rfl
@[simp] theorem modSlice_failedEngines (s : State) (n : Nat) (f : Slice → Slice) : (s.modSlice n f).failedEngines = s.failedEngines := rfl
@[simp] theorem modSlice_strays (s : State) (n : Nat) (f : Slice → Slice) : (s.modSlice n f).strays = s.strays := rfl
@[simp] theorem modSlice_jobs (s : State) (n : Nat) (f : Slice → Slice) : (s.modSlice n f).jobs = s.jobs := rfl
@[simp] theorem modSlice_scratchPoison (s : State) (n : Nat) (f : Slice → Slice) : (s.modSlice n f).scratchPoison = s.scratchPoison := rfl
@[simp] theorem launch_modBlock_id (l : Launch) (n : Nat) (f : Block → Block) : (l.modBlock n f).id = l.id := rfl
@[simp] theorem launch_modBlock_tenant (l : Launch) (n : Nat) (f : Block → Block) : (l.modBlock n f).tenant = l.tenant := rfl
@[simp] theorem launch_modBlock_rcb (l : Launch) (n : Nat) (f : Block → Block) : (l.modBlock n f).rcb = l.rcb := rfl
@[simp] theorem launch_modBlock_codebase (l : Launch) (n : Nat) (f : Block → Block) : (l.modBlock n f).codebase = l.codebase := rfl
@[simp] theorem launch_modBlock_codelen (l : Launch) (n : Nat) (f : Block → Block) : (l.modBlock n f).codelen = l.codelen := rfl
@[simp] theorem launch_modBlock_entry (l : Launch) (n : Nat) (f : Block → Block) : (l.modBlock n f).entry = l.entry := rfl
@[simp] theorem launch_modBlock_trapvec (l : Launch) (n : Nat) (f : Block → Block) : (l.modBlock n f).trapvec = l.trapvec := rfl
@[simp] theorem launch_modBlock_nblocks (l : Launch) (n : Nat) (f : Block → Block) : (l.modBlock n f).nblocks = l.nblocks := rfl
@[simp] theorem launch_modBlock_blockdim (l : Launch) (n : Nat) (f : Block → Block) : (l.modBlock n f).blockdim = l.blockdim := rfl
@[simp] theorem launch_modBlock_spawns (l : Launch) (n : Nat) (f : Block → Block) : (l.modBlock n f).spawns = l.spawns := rfl
@[simp] theorem launch_modBlock_window (l : Launch) (n : Nat) (f : Block → Block) : (l.modBlock n f).window = l.window := rfl
@[simp] theorem launch_modBlock_gates (l : Launch) (n : Nat) (f : Block → Block) : (l.modBlock n f).gates = l.gates := rfl
@[simp] theorem launch_modBlock_scratchSize (l : Launch) (n : Nat) (f : Block → Block) : (l.modBlock n f).scratchSize = l.scratchSize := rfl
@[simp] theorem launch_modBlock_privSize (l : Launch) (n : Nat) (f : Block → Block) : (l.modBlock n f).privSize = l.privSize := rfl
@[simp] theorem launch_modBlock_gatebase (l : Launch) (n : Nat) (f : Block → Block) : (l.modBlock n f).gatebase = l.gatebase := rfl
@[simp] theorem launch_modBlock_gateslice (l : Launch) (n : Nat) (f : Block → Block) : (l.modBlock n f).gateslice = l.gateslice := rfl
@[simp] theorem launch_modBlock_det (l : Launch) (n : Nat) (f : Block → Block) : (l.modBlock n f).det = l.det := rfl
@[simp] theorem launch_modBlock_sup (l : Launch) (n : Nat) (f : Block → Block) : (l.modBlock n f).sup = l.sup := rfl
@[simp] theorem launch_modBlock_check (l : Launch) (n : Nat) (f : Block → Block) : (l.modBlock n f).check = l.check := rfl
@[simp] theorem launch_modBlock_constbase (l : Launch) (n : Nat) (f : Block → Block) : (l.modBlock n f).constbase = l.constbase := rfl
@[simp] theorem launch_modBlock_database (l : Launch) (n : Nat) (f : Block → Block) : (l.modBlock n f).database = l.database := rfl
@[simp] theorem launch_modBlock_datalen (l : Launch) (n : Nat) (f : Block → Block) : (l.modBlock n f).datalen = l.datalen := rfl
@[simp] theorem launch_modBlock_spillbase (l : Launch) (n : Nat) (f : Block → Block) : (l.modBlock n f).spillbase = l.spillbase := rfl
@[simp] theorem launch_modBlock_spilllen (l : Launch) (n : Nat) (f : Block → Block) : (l.modBlock n f).spilllen = l.spilllen := rfl
@[simp] theorem launch_modBlock_sparse (l : Launch) (n : Nat) (f : Block → Block) : (l.modBlock n f).sparse = l.sparse := rfl
@[simp] theorem launch_modBlock_round (l : Launch) (n : Nat) (f : Block → Block) : (l.modBlock n f).round = l.round := rfl
@[simp] theorem launch_modBlock_roundLog (l : Launch) (n : Nat) (f : Block → Block) : (l.modBlock n f).roundLog = l.roundLog := rfl
@[simp] theorem launch_modBlock_heldLog (l : Launch) (n : Nat) (f : Block → Block) : (l.modBlock n f).heldLog = l.heldLog := rfl
@[simp] theorem launch_modBlock_landing (l : Launch) (n : Nat) (f : Block → Block) : (l.modBlock n f).landing = l.landing := rfl
@[simp] theorem launch_modBlock_landAt (l : Launch) (n : Nat) (f : Block → Block) : (l.modBlock n f).landAt = l.landAt := rfl
@[simp] theorem launch_modBlock_consts (l : Launch) (n : Nat) (f : Block → Block) : (l.modBlock n f).consts = l.consts := rfl
@[simp] theorem launch_modBlock_spillExt (l : Launch) (n : Nat) (f : Block → Block) : (l.modBlock n f).spillExt = l.spillExt := rfl
@[simp] theorem launch_modBlock_woBytes (l : Launch) (n : Nat) (f : Block → Block) : (l.modBlock n f).woBytes = l.woBytes := rfl
@[simp] theorem launch_modBlock_woSecond (l : Launch) (n : Nat) (f : Block → Block) : (l.modBlock n f).woSecond = l.woSecond := rfl
@[simp] theorem launch_modBlock_named (l : Launch) (n : Nat) (f : Block → Block) : (l.modBlock n f).named = l.named := rfl
@[simp] theorem launch_modBlock_stale (l : Launch) (n : Nat) (f : Block → Block) : (l.modBlock n f).stale = l.stale := rfl
@[simp] theorem launch_modBlock_logPoison (l : Launch) (n : Nat) (f : Block → Block) : (l.modBlock n f).logPoison = l.logPoison := rfl
@[simp] theorem launch_modBlock_sparsePoison (l : Launch) (n : Nat) (f : Block → Block) : (l.modBlock n f).sparsePoison = l.sparsePoison := rfl
@[simp] theorem launch_modBlock_hold (l : Launch) (n : Nat) (f : Block → Block) : (l.modBlock n f).hold = l.hold := rfl
@[simp] theorem launch_modBlock_notes (l : Launch) (n : Nat) (f : Block → Block) : (l.modBlock n f).notes = l.notes := rfl
@[simp] theorem launch_modBlock_dying (l : Launch) (n : Nat) (f : Block → Block) : (l.modBlock n f).dying = l.dying := rfl
@[simp] theorem launch_modBlock_faults (l : Launch) (n : Nat) (f : Block → Block) : (l.modBlock n f).faults = l.faults := rfl
@[simp] theorem launch_modBlock_grown (l : Launch) (n : Nat) (f : Block → Block) : (l.modBlock n f).grown = l.grown := rfl
@[simp] theorem launch_modBlock_suspended (l : Launch) (n : Nat) (f : Block → Block) : (l.modBlock n f).suspended = l.suspended := rfl
@[simp] theorem launch_modBlock_ended (l : Launch) (n : Nat) (f : Block → Block) : (l.modBlock n f).ended = l.ended := rfl
@[simp] theorem launch_modBlock_latched (l : Launch) (n : Nat) (f : Block → Block) : (l.modBlock n f).latched = l.latched := rfl
@[simp] theorem launch_modBlock_leases (l : Launch) (n : Nat) (f : Block → Block) : (l.modBlock n f).leases = l.leases := rfl
@[simp] theorem launch_modBlock_parent (l : Launch) (n : Nat) (f : Block → Block) : (l.modBlock n f).parent = l.parent := rfl
@[simp] theorem block_modFibre_index (b : Block) (n : Nat) (f : Fibre → Fibre) : (b.modFibre n f).index = b.index := rfl
@[simp] theorem block_modFibre_step (b : Block) (n : Nat) (f : Fibre → Fibre) : (b.modFibre n f).step = b.step := rfl
@[simp] theorem block_modFibre_groups (b : Block) (n : Nat) (f : Fibre → Fibre) : (b.modFibre n f).groups = b.groups := rfl
@[simp] theorem block_modFibre_bregs (b : Block) (n : Nat) (f : Fibre → Fibre) : (b.modFibre n f).bregs = b.bregs := rfl
@[simp] theorem block_modFibre_scratch (b : Block) (n : Nat) (f : Fibre → Fibre) : (b.modFibre n f).scratch = b.scratch := rfl
@[simp] theorem block_modFibre_scratchTags (b : Block) (n : Nat) (f : Fibre → Fibre) : (b.modFibre n f).scratchTags = b.scratchTags := rfl
@[simp] theorem block_modFibre_spawnLeft (b : Block) (n : Nat) (f : Fibre → Fibre) : (b.modFibre n f).spawnLeft = b.spawnLeft := rfl
@[simp] theorem block_modFibre_contribs (b : Block) (n : Nat) (f : Fibre → Fibre) : (b.modFibre n f).contribs = b.contribs := rfl
@[simp] theorem block_modFibre_gadds (b : Block) (n : Nat) (f : Fibre → Fibre) : (b.modFibre n f).gadds = b.gadds := rfl
@[simp] theorem block_modFibre_spawns (b : Block) (n : Nat) (f : Fibre → Fibre) : (b.modFibre n f).spawns = b.spawns := rfl
@[simp] theorem block_modFibre_reqs (b : Block) (n : Nat) (f : Fibre → Fibre) : (b.modFibre n f).reqs = b.reqs := rfl
@[simp] theorem block_modFibre_gateSeen (b : Block) (n : Nat) (f : Fibre → Fibre) : (b.modFibre n f).gateSeen = b.gateSeen := rfl
@[simp] theorem block_modFibre_ltols (b : Block) (n : Nat) (f : Fibre → Fibre) : (b.modFibre n f).ltols = b.ltols := rfl
@[simp] theorem block_modFibre_named (b : Block) (n : Nat) (f : Fibre → Fibre) : (b.modFibre n f).named = b.named := rfl
@[simp] theorem block_modFibre_heldScat (b : Block) (n : Nat) (f : Fibre → Fibre) : (b.modFibre n f).heldScat = b.heldScat := rfl
@[simp] theorem block_modFibre_heldLines (b : Block) (n : Nat) (f : Fibre → Fibre) : (b.modFibre n f).heldLines = b.heldLines := rfl
@[simp] theorem block_modFibre_status (b : Block) (n : Nat) (f : Fibre → Fibre) : (b.modFibre n f).status = b.status := rfl
@[simp] theorem block_modFibre_waitStart (b : Block) (n : Nat) (f : Fibre → Fibre) : (b.modFibre n f).waitStart = b.waitStart := rfl
@[simp] theorem block_modFibre_bindOrder (b : Block) (n : Nat) (f : Fibre → Fibre) : (b.modFibre n f).bindOrder = b.bindOrder := rfl
@[simp] theorem block_modFibre_lastCommit (b : Block) (n : Nat) (f : Fibre → Fibre) : (b.modFibre n f).lastCommit = b.lastCommit := rfl
@[simp] theorem block_modFibre_graceEnd (b : Block) (n : Nat) (f : Fibre → Fibre) : (b.modFibre n f).graceEnd = b.graceEnd := rfl
@[simp] theorem block_modFibre_core (b : Block) (n : Nat) (f : Fibre → Fibre) : (b.modFibre n f).core = b.core := rfl
@[simp] theorem block_modFibre_cores (b : Block) (n : Nat) (f : Fibre → Fibre) : (b.modFibre n f).cores = b.cores := rfl
@[simp] theorem block_modFibre_area (b : Block) (n : Nat) (f : Fibre → Fibre) : (b.modFibre n f).area = b.area := rfl
@[simp] theorem block_modFibre_bufPoison (b : Block) (n : Nat) (f : Fibre → Fibre) : (b.modFibre n f).bufPoison = b.bufPoison := rfl
@[simp] theorem block_modGroup_index (b : Block) (n : Nat) (f : Group → Group) : (b.modGroup n f).index = b.index := rfl
@[simp] theorem block_modGroup_step (b : Block) (n : Nat) (f : Group → Group) : (b.modGroup n f).step = b.step := rfl
@[simp] theorem block_modGroup_fibres (b : Block) (n : Nat) (f : Group → Group) : (b.modGroup n f).fibres = b.fibres := rfl
@[simp] theorem block_modGroup_bregs (b : Block) (n : Nat) (f : Group → Group) : (b.modGroup n f).bregs = b.bregs := rfl
@[simp] theorem block_modGroup_scratch (b : Block) (n : Nat) (f : Group → Group) : (b.modGroup n f).scratch = b.scratch := rfl
@[simp] theorem block_modGroup_scratchTags (b : Block) (n : Nat) (f : Group → Group) : (b.modGroup n f).scratchTags = b.scratchTags := rfl
@[simp] theorem block_modGroup_spawnLeft (b : Block) (n : Nat) (f : Group → Group) : (b.modGroup n f).spawnLeft = b.spawnLeft := rfl
@[simp] theorem block_modGroup_contribs (b : Block) (n : Nat) (f : Group → Group) : (b.modGroup n f).contribs = b.contribs := rfl
@[simp] theorem block_modGroup_gadds (b : Block) (n : Nat) (f : Group → Group) : (b.modGroup n f).gadds = b.gadds := rfl
@[simp] theorem block_modGroup_spawns (b : Block) (n : Nat) (f : Group → Group) : (b.modGroup n f).spawns = b.spawns := rfl
@[simp] theorem block_modGroup_reqs (b : Block) (n : Nat) (f : Group → Group) : (b.modGroup n f).reqs = b.reqs := rfl
@[simp] theorem block_modGroup_gateSeen (b : Block) (n : Nat) (f : Group → Group) : (b.modGroup n f).gateSeen = b.gateSeen := rfl
@[simp] theorem block_modGroup_ltols (b : Block) (n : Nat) (f : Group → Group) : (b.modGroup n f).ltols = b.ltols := rfl
@[simp] theorem block_modGroup_named (b : Block) (n : Nat) (f : Group → Group) : (b.modGroup n f).named = b.named := rfl
@[simp] theorem block_modGroup_heldScat (b : Block) (n : Nat) (f : Group → Group) : (b.modGroup n f).heldScat = b.heldScat := rfl
@[simp] theorem block_modGroup_heldLines (b : Block) (n : Nat) (f : Group → Group) : (b.modGroup n f).heldLines = b.heldLines := rfl
@[simp] theorem block_modGroup_status (b : Block) (n : Nat) (f : Group → Group) : (b.modGroup n f).status = b.status := rfl
@[simp] theorem block_modGroup_waitStart (b : Block) (n : Nat) (f : Group → Group) : (b.modGroup n f).waitStart = b.waitStart := rfl
@[simp] theorem block_modGroup_bindOrder (b : Block) (n : Nat) (f : Group → Group) : (b.modGroup n f).bindOrder = b.bindOrder := rfl
@[simp] theorem block_modGroup_lastCommit (b : Block) (n : Nat) (f : Group → Group) : (b.modGroup n f).lastCommit = b.lastCommit := rfl
@[simp] theorem block_modGroup_graceEnd (b : Block) (n : Nat) (f : Group → Group) : (b.modGroup n f).graceEnd = b.graceEnd := rfl
@[simp] theorem block_modGroup_core (b : Block) (n : Nat) (f : Group → Group) : (b.modGroup n f).core = b.core := rfl
@[simp] theorem block_modGroup_cores (b : Block) (n : Nat) (f : Group → Group) : (b.modGroup n f).cores = b.cores := rfl
@[simp] theorem block_modGroup_area (b : Block) (n : Nat) (f : Group → Group) : (b.modGroup n f).area = b.area := rfl
@[simp] theorem block_modGroup_bufPoison (b : Block) (n : Nat) (f : Group → Group) : (b.modGroup n f).bufPoison = b.bufPoison := rfl

/-! ## The environment of the word being issued -/

theorem env_eq {s : State} {e : Env} (h : s.env? = some e) :
    s.issue = some e.is ∧ e.s = s ∧ s.launch? e.is.launch = some e.l ∧
      ∃ b, e.l.block? e.is.block = some b ∧ e.b = { b with fibres := e.is.view } := by
  simp only [State.env?] at h
  split at h
  · cases h
  · rename_i is his
    split at h
    · cases h
    · rename_i l hl
      split at h
      · cases h
      · rename_i b hb
        cases h
        exact ⟨his, rfl, hl, b, hb, rfl⟩

theorem env_of {s : State} {is : Issue} {l : Launch} {b : Block} (hi : s.issue = some is) (hl : s.launch? is.launch = some l)
    (hb : l.block? is.block = some b) : s.env? = some { s := s, l := l, b := { b with fibres := is.view }, is := is } := by
  simp [State.env?, hi, hl, hb]

end Sys2Proof.Machine
end

