-- ==== Sys2Proof/Laws/Words.lean ====
section
/-! SUPPORT. What a word that acts for each fibre of its fragment does when every fibre can take it: one lemma for all of
them, and the writes of registers and predicates. -/

namespace Sys2Proof.Machine

/-! ## Early and pending registers -/

theorem settled_early {f : Fibre} {now n : Nat} (h : f.settled now n = true) : f.early now n = none := by
  simp [Fibre.settled] at h
  exact h.1

theorem settled_pending {f : Fibre} {now n : Nat} (h : f.settled now n = true) : f.pendingRound n = none := by
  simp [Fibre.settled] at h
  exact h.2

theorem regCheck_settled {now : Nat} {f : Fibre} {ns : List Nat} (h : ns.all (f.settled now) = true) :
    regCheck f ns = none := by
  unfold regCheck
  induction ns with
  | nil => rfl
  | cons n ns ih =>
    simp only [List.all_cons, Bool.and_eq_true] at h
    simp [Fibre.pendingAny, settled_pending h.1, ih h.2]

theorem earlyView_settled {now k : Nat} {f : Fibre} {ns : List Nat} (h : ns.all (f.settled now) = true) :
    f.earlyView now k ns = (f, k) := by
  induction ns with
  | nil => rfl
  | cons n ns ih =>
    simp only [List.all_cons, Bool.and_eq_true] at h
    simp [Fibre.earlyView, settled_early h.1, ih h.2]

theorem earlyWrites_settled {now k : Nat} {f g : Fibre} {ns : List Nat} (h : ns.all (f.settled now) = true) :
    f.earlyWrites g now k ns = (g, k) := by
  induction ns with
  | nil => rfl
  | cons n ns ih =>
    simp only [List.all_cons, Bool.and_eq_true] at h
    simp [Fibre.earlyWrites, settled_early h.1, ih h.2]

/-! ## One fibre -/

/-- An environment whose state, launch and block have gone on as words of per-fibre effects let them. -/
def Env.moved (e : Env) (ls : List Launch) (bl : List Block) (cs : List Contrib) (ga : List (Nat × Nat × Nat × Nat))
    (sp : List SpawnReq) (lt : List (Nat × Nat × Nat)) : Env :=
  { e with s := { e.s with launches := ls }, l := { e.l with blockList := bl },
           b := { e.b with contribs := cs, gadds := ga, spawns := sp, ltols := lt } }

theorem Env.moved_self (e : Env) : e = e.moved e.s.launches e.l.blockList e.b.contribs e.b.gadds e.b.spawns e.b.ltols := rfl

/-- The fibre after a word's effect, with the marks of when its results can be read (R76, R338). -/
def Env.marked (e : Env) (i : Instr) (c g : Fibre) : Fibre :=
  if i.fourCycle then c.markFresh g e.is.cycle i.writesNow else g.markBusy e.is.cycle (boardCycles i) (boardWrites i)

@[simp] theorem markBusy_id (f : Fibre) (now n : Nat) (rs : List Nat) : (f.markBusy now n rs).id = f.id := by
  unfold Fibre.markBusy; split <;> rfl

@[simp] theorem marked_id (e : Env) (i : Instr) (c g : Fibre) : (e.marked i c g).id = g.id := by
  unfold Env.marked; split <;> simp [Fibre.markFresh]

/-- The block after one fibre's effect. -/
def Eff.onto (x : Eff) (g : Fibre) (b : Block) : Block :=
  { b.modFibre g.id (fun _ => g) with
    contribs := b.contribs ++ x.contribs, gadds := b.gadds ++ x.gadds, spawns := b.spawns ++ x.spawns,
    ltols := b.ltols ++ x.ltols }

theorem putEff_local (s : State) (is : Issue) (core tenant : Nat) (x : Eff) (g : Fibre) (ht : x.touch = []) (hs : x.seen = [])
    (hu : x.used = 0) : s.putEff is core tenant x g = s.modBlock is.launch is.block (x.onto g) := by
  simp only [State.putEff, ht, hs, hu, State.touchAll, State.noteSeen, List.foldl_nil, List.isEmpty_nil, ite_true, Nat.add_zero]
  rfl

/-- A word on one fibre that can take it (R17, R72, R118). -/
theorem runFibre_local {s : State} {e : Env} {i : Instr} {eff : Env → Fibre → Fibre → Except Trap Eff} {id : Nat}
    {v c : Fibre} (he : s.env? = some e) (hv : e.b.fibre? id = some v) (hc : e.cur? id = some c)
    (ha : e.allows i v c = true) (x : Eff) (hx : e.active v = true → eff e v c = .ok x)
    (ht : x.touch = []) (hs : x.seen = []) (hu : x.used = 0) :
    State.runFibre i eff id s =
      if e.active v = true then s.modBlock e.is.launch e.is.block (x.onto (e.marked i c x.fibre)) else s := by
  obtain ⟨his, hes, hl, b, hb, hbe⟩ := env_eq he
  have hc' : ((s.launch? e.is.launch).bind (·.block? e.is.block)).bind (·.fibre? id) = some c := by
    rw [← hes]; exact hc
  unfold State.runFibre
  simp only [he, hv]
  simp only [hc']
  simp only [Env.allows, Bool.and_eq_true, Bool.or_eq_true, Bool.not_eq_true'] at ha
  obtain ⟨hg, hn⟩ := ha
  have hgl : (if e.is.mods.gq = 0 then ([] : List Nat) else [64 + e.is.mods.gq.toNat]).all (v.settled e.is.cycle) = true := by
    split
    · rfl
    · rename_i h0
      rcases hg with hg | hg
      · simp at hg; exact absurd hg h0
      · simp [hg]
  have hgr : (if e.is.mods.gq = 0 then none else regCheck v [64 + e.is.mods.gq.toNat]) = none := by
    split
    · rfl
    · rename_i h0
      rw [if_neg h0] at hgl
      exact regCheck_settled hgl
  rw [hgr]
  simp only []
  rw [earlyView_settled hgl]
  simp only []
  by_cases hact : e.active v = true
  · have hne : (v.pred e.is.mods.gq.toNat == e.is.mods.gn) = false := by
      simp only [Env.active] at hact
      simpa using hact
    simp only [hne, hact, if_true, Bool.false_eq_true, if_false]
    rcases hn with hn | hn
    · rw [hact] at hn; cases hn
    obtain ⟨hn, hk⟩ := hn
    rw [regCheck_settled hn]
    simp only []
    have hn2 := hn
    rw [List.all_append, Bool.and_eq_true] at hn2
    rw [earlyView_settled hn2.1]
    have hse : ({ e with s := ({ s with free := s.free } : State) } : Env) = e := by
      rw [← hes]
    simp only []
    rw [hse, hx hact]
    simp only []
    rw [earlyWrites_settled hn2.2]
    simp only [hu, Nat.add_zero]
    rw [putEff_local _ _ _ _ _ _ ht hs hu]
    rfl
  · have hne : (v.pred e.is.mods.gq.toNat == e.is.mods.gn) = true := by
      simp only [Env.active] at hact
      simpa using hact
    simp [hne, hact]

/-! ## The fragment -/

/-- The fibre that a word leaves of each fibre, `F` its effect. -/
def Env.updOn (e : Env) (i : Instr) (F : Fibre → Fibre → Eff) (ids : List Nat) (f : Fibre) : Fibre :=
  if f.id ∈ ids then
    match e.b.fibre? f.id, e.cur? f.id with
    | some v, some c => if e.active v then e.marked i c (F v c).fibre else f
    | _, _ => f
  else f

/-- The effects of the fibres that act, in key order. -/
def Env.effsOn (e : Env) (F : Fibre → Fibre → Eff) (ids : List Nat) : List Eff :=
  ids.filterMap fun id =>
    match e.b.fibre? id, e.cur? id with
    | some v, some c => if e.active v then some (F v c) else none
    | _, _ => none

/-- The block after all of them. -/
def Env.after (e : Env) (i : Instr) (F : Fibre → Fibre → Eff) (ids : List Nat) (b : Block) : Block :=
  { b with
    fibres := b.fibres.map (e.updOn i F ids),
    contribs := b.contribs ++ ((e.effsOn F ids).map Eff.contribs).flatten,
    gadds := b.gadds ++ ((e.effsOn F ids).map Eff.gadds).flatten,
    spawns := b.spawns ++ ((e.effsOn F ids).map Eff.spawns).flatten,
    ltols := b.ltols ++ ((e.effsOn F ids).map Eff.ltols).flatten }

/-- `F` is what a word does, whatever fibres before have done. -/
def Env.local (e : Env) (eff : Env → Fibre → Fibre → Except Trap Eff) (F : Fibre → Fibre → Eff) (ids : List Nat) : Prop :=
  ∀ ls bl cs ga sp lt, ∀ id ∈ ids, ∀ v c, e.b.fibre? id = some v → e.cur? id = some c → e.active v = true →
    eff (e.moved ls bl cs ga sp lt) v c = .ok (F v c) ∧ (F v c).touch = [] ∧ (F v c).seen = [] ∧ (F v c).used = 0
      ∧ (F v c).fibre.id = c.id

theorem onto_index (x : Eff) (g : Fibre) (b : Block) : (x.onto g b).index = b.index := rfl

theorem env_onto {s : State} {e : Env} (he : s.env? = some e) (x : Eff) (g : Fibre) :
    ∃ ls bl cs ga sp lt, (s.modBlock e.is.launch e.is.block (x.onto g)).env? = some (e.moved ls bl cs ga sp lt)
      ∧ (e.moved ls bl cs ga sp lt).s = s.modBlock e.is.launch e.is.block (x.onto g) := by
  obtain ⟨his, hes, hl, b, hb, hbe⟩ := env_eq he
  have h1 : (s.modBlock e.is.launch e.is.block (x.onto g)).launch? e.is.launch =
      some (e.l.modBlock e.is.block (x.onto g)) := by
    rw [launch_modBlock, hl]
    simp
  have h2 : (e.l.modBlock e.is.block (x.onto g)).block? e.is.block = some (x.onto g b) := by
    rw [block_modBlock _ _ (onto_index x g), hb]
    simp
  refine ⟨(s.modBlock e.is.launch e.is.block (x.onto g)).launches, (e.l.modBlock e.is.block (x.onto g)).blockList,
    (x.onto g b).contribs, (x.onto g b).gadds, (x.onto g b).spawns, (x.onto g b).ltols, ?_, ?_⟩
  · rw [env_of (by simpa using his) h1 h2]
    simp only [Env.moved, hbe]
    congr 1
    cases e
    simp only at *
    subst hes
    rfl
  · simp only [Env.moved]
    rw [hes]
    rfl

theorem cur_onto {s : State} {e e1 : Env} (he : s.env? = some e) (x : Eff) (g : Fibre)
    (h1 : e1.s = s.modBlock e.is.launch e.is.block (x.onto g)) (hi : e1.is = e.is) {id : Nat} (hne : id ≠ g.id) :
    e1.cur? id = e.cur? id := by
  obtain ⟨his, hes, hl, b, hb, hbe⟩ := env_eq he
  unfold Env.cur?
  rw [hi, h1, hes]
  have e1 : (s.modBlock e.is.launch e.is.block (x.onto g)).launch? e.is.launch =
      some (e.l.modBlock e.is.block (x.onto g)) := by
    rw [launch_modBlock, hl]
    simp
  rw [e1, hl]
  simp only [Option.bind_some]
  rw [block_modBlock _ _ (onto_index x g), hb]
  simp only [Option.map_some, if_true, Option.bind_some]
  unfold Block.fibre? Eff.onto Block.modFibre
  simp only
  induction b.fibres with
  | nil => rfl
  | cons f fs ih =>
    simp only [List.map_cons, List.find?_cons]
    by_cases hf : f.id = g.id
    · have h3 : (g.id == id) = false := by simpa using fun h => hne h.symm
      simp [hf, h3, ih]
    · simp only [hf, if_false]
      cases f.id == id <;> simp [ih]

theorem eachFibre_local (i : Instr) (eff : Env → Fibre → Fibre → Except Trap Eff) (F : Fibre → Fibre → Eff) :
    ∀ (ids : List Nat) (s : State) (e : Env), s.env? = some e → ids.Nodup →
      (∀ id ∈ ids, ∃ v c, e.b.fibre? id = some v ∧ e.cur? id = some c ∧ e.allows i v c = true) → e.local eff F ids →
      State.eachFibre i eff ids s = s.modBlock e.is.launch e.is.block (e.after i F ids)
  | [], s, e, _, _, _, _ => by
    have h : ∀ b, e.after i F [] b = b := by
      intro b
      have hu : e.updOn i F [] = id := by
        funext f
        simp [Env.updOn]
      simp [Env.after, Env.effsOn, hu]
    rw [modBlock_id s _ _ h]
    rfl
  | id :: ids, s, e, he, hnd, hok, hloc => by
    obtain ⟨v, c, hv, hc, ha⟩ := hok id (by simp)
    obtain ⟨hnot, hnd'⟩ := List.nodup_cons.mp hnd
    have hcid : c.id = id := by
      simp only [Env.cur?, Option.bind_eq_some_iff] at hc
      obtain ⟨_, _, hc⟩ := hc
      exact fibre_key hc
    unfold State.eachFibre
    by_cases hact : e.active v = true
    · obtain ⟨hx, ht, hs, hu, hid⟩ := hloc e.s.launches e.l.blockList e.b.contribs e.b.gadds e.b.spawns e.b.ltols id (by simp) v c hv hc hact
      rw [← e.moved_self] at hx
      rw [runFibre_local he hv hc ha (F v c) (fun _ => hx) ht hs hu, if_pos hact]
      have hgid : (e.marked i c (F v c).fibre).id = id := by rw [marked_id, hid, hcid]
      obtain ⟨ls, bl, cs, ga, sp, lt, he1, hs1⟩ := env_onto he (F v c) (e.marked i c (F v c).fibre)
      have hcur : ∀ k ∈ ids, (e.moved ls bl cs ga sp lt).cur? k = e.cur? k := fun k hk =>
        cur_onto he _ _ hs1 rfl (by rw [hgid]; intro h; subst h; exact hnot hk)
      rw [eachFibre_local i eff F ids _ _ he1 hnd' ?_ ?_]
      · have hi : (e.moved ls bl cs ga sp lt).is = e.is := rfl
        rw [hi, modBlock_modBlock _ _ _ _ _ (onto_index _ _)]
        apply modBlock_congr
        intro b
        have heff : (e.moved ls bl cs ga sp lt).effsOn F ids = e.effsOn F ids := by
          unfold Env.effsOn
          apply filterMap_same
          intro k hk
          rw [hcur k hk]
          rfl
        have heff2 : e.effsOn F (id :: ids) = F v c :: e.effsOn F ids := by
          simp [Env.effsOn, hv, hc, hact]
        have hupd : (e.updOn i F (id :: ids)) = fun f =>
            (e.moved ls bl cs ga sp lt).updOn i F ids (if f.id = id then e.marked i c (F v c).fibre else f) := by
          funext f
          by_cases hf : f.id = id
          · simp only [hf, if_true]
            unfold Env.updOn
            rw [hgid]
            simp [hf, hnot, hv, hc, hact]
          · simp only [hf, if_false]
            unfold Env.updOn
            by_cases hm : f.id ∈ ids
            · have hm2 : f.id ∈ id :: ids := List.mem_cons_of_mem _ hm
              rw [if_pos hm, if_pos hm2, hcur _ hm]
              rfl
            · have hm2 : f.id ∉ id :: ids := by simp [hf, hm]
              rw [if_neg hm, if_neg hm2]
        unfold Env.after
        rw [heff, heff2]
        simp only [Eff.onto, Block.modFibre, List.map_map, List.map_cons, List.flatten_cons, List.append_assoc, hgid, hupd]
        rfl
      · intro k hk
        obtain ⟨v', c', h1, h2, h3⟩ := hok k (List.mem_cons_of_mem _ hk)
        exact ⟨v', c', h1, by rw [hcur k hk]; exact h2, h3⟩
      · intro ls' bl' cs' ga' sp' lt' k hk v' c' h1 h2 h3
        rw [hcur k hk] at h2
        exact hloc ls' bl' cs' ga' sp' lt' k (List.mem_cons_of_mem _ hk) v' c' h1 h2 h3
    · have hloc' : e.local eff F ids := fun ls bl cs ga sp lt k hk => hloc ls bl cs ga sp lt k (List.mem_cons_of_mem _ hk)
      have hrun : State.runFibre i eff id s = s := by
        rw [runFibre_local he hv hc ha { fibre := c } (fun h => absurd h hact) rfl rfl rfl, if_neg hact]
      rw [hrun, eachFibre_local i eff F ids s e he hnd' (fun k hk => hok k (List.mem_cons_of_mem _ hk)) hloc']
      apply modBlock_congr
      intro b
      have heff2 : e.effsOn F (id :: ids) = e.effsOn F ids := by
        simp [Env.effsOn, hv, hc, hact]
      have hupd : e.updOn i F (id :: ids) = e.updOn i F ids := by
        funext f
        unfold Env.updOn
        by_cases hf : f.id = id
        · simp [hf, hnot, hv, hc, hact]
        · simp [hf]
      unfold Env.after
      rw [heff2, hupd]

/-- A word that acts for each fibre, when every fibre can take it. -/
theorem actEach_local {s : State} {e : Env} {i : Instr} {eff : Env → Fibre → Fibre → Except Trap Eff}
    (F : Fibre → Fibre → Eff) (he : s.env? = some e) (hr : e.ready i = true) (hloc : e.local eff F e.is.live) :
    s.actEach i eff = s.modBlock e.is.launch e.is.block (e.after i F e.is.live) := by
  obtain ⟨his, _⟩ := env_eq he
  unfold State.actEach
  rw [his]
  simp only [Env.ready, Bool.and_eq_true, decide_eq_true_eq, List.all_eq_true] at hr
  refine eachFibre_local i eff F e.is.live s e he hr.1.2 ?_ hloc
  intro id hid
  have h := hr.2 id hid
  split at h
  · rename_i v c hv hc
    exact ⟨v, c, hv, hc, h⟩
  · cases h

end Sys2Proof.Machine
end

