-- ==== Sys2Proof/Laws/Writes.lean ====
section
/-! SUPPORT. What writing registers and predicates leaves (R29 to R32, R55, R88, R120). -/

namespace Sys2Proof.Machine

/-! ## The journal -/

/-- A journal has an entry for a register. -/
def Fibre.saved (f : Fibre) (n : Nat) : Bool := f.journal.any fun x => x.1 == n

theorem saveReg_spec {f : Fibre} {n : Nat} (h : f.journalUsed + (if f.saved n then 0 else 1) ≤ 24) :
    ∃ g, f.saveReg n = .ok g ∧ g = { f with journal := g.journal } ∧ g.saved n = true ∧
      (∀ m, f.saved m = true → g.saved m = true) ∧ (∀ m, m ≠ n → g.saved m = f.saved m) ∧
      g.journalUsed = f.journalUsed + (if f.saved n then 0 else 1) ∧ ∀ m, g.startReg m = f.startReg m := by
  unfold Fibre.saveReg
  by_cases hs : f.saved n = true
  · refine ⟨f, ?_, rfl, hs, fun _ h => h, fun _ _ => rfl, by simp [hs], fun _ => rfl⟩
    unfold Fibre.saved at hs
    simp [hs]
  · have hs' : f.saved n = false := by simpa using hs
    have hs2 := hs'
    unfold Fibre.saved at hs2
    simp only [hs', Bool.false_eq_true, if_false] at h
    have h24 : ¬ 24 ≤ f.journalUsed := by omega
    refine ⟨{ f with journal := f.journal ++ [(n, f.reg n)] }, by simp [hs2, h24], rfl, by simp [Fibre.saved],
      fun m hm => by unfold Fibre.saved at *; simp [hm], fun m hm => ?_, ?_, fun m => ?_⟩
    · unfold Fibre.saved
      have : (n == m) = false := by simpa using fun h => hm h.symm
      simp [this]
    · simp only [hs', Bool.false_eq_true, if_false, Fibre.journalUsed, List.length_append, List.length_cons, List.length_nil]
      omega
    · unfold Fibre.startReg
      simp only [List.find?_append]
      cases f.late.find? fun x => x.1 == m with
      | some x => rfl
      | none =>
        simp only
        cases hj : f.journal.find? fun x => x.1 == m with
        | some x => rfl
        | none =>
          by_cases hm : n = m
          · subst hm; simp
          · have : (n == m) = false := by simpa using hm
            simp [this, Fibre.reg]

theorem saveRegs_spec : ∀ (ns : List Nat) (f : Fibre),
    f.journalUsed + (ns.filter fun n => !f.saved n).length ≤ 24 →
    ∃ g, f.saveRegs ns = .ok g ∧ g = { f with journal := g.journal } ∧ (∀ n ∈ ns, g.saved n = true) ∧
      (∀ m, f.saved m = true → g.saved m = true) ∧ ∀ m, g.startReg m = f.startReg m
  | [], f, _ => ⟨f, rfl, rfl, by simp, fun _ h => h, fun _ => rfl⟩
  | n :: ns, f, h => by
    have h1 : f.journalUsed + (if f.saved n then 0 else 1) ≤ 24 := by
      by_cases hs : f.saved n = true
      · simp only [hs, if_true]; omega
      · simp only [hs, Bool.false_eq_true, if_false]
        rw [List.filter_cons] at h
        simp only [hs, Bool.not_false, if_true, List.length_cons] at h
        omega
    obtain ⟨g, hg, hgf, hgs, hmono, hother, hused, hstart⟩ := saveReg_spec h1
    have h2 : g.journalUsed + (ns.filter fun m => !g.saved m).length ≤ 24 := by
      have hle : (ns.filter fun m => !g.saved m).length ≤ (ns.filter fun m => !f.saved m).length := by
        apply List.Sublist.length_le
        have : (ns.filter fun m => !g.saved m) = (ns.filter fun m => !f.saved m).filter fun m => !g.saved m := by
          rw [List.filter_filter]
          apply List.filter_congr
          intro m _
          by_cases hm : f.saved m = true
          · simp [hm, hmono m hm]
          · simp [hm]
        rw [this]
        exact List.filter_sublist
      rw [List.filter_cons] at h
      by_cases hs : f.saved n = true
      · simp only [hs, Bool.not_true, Bool.false_eq_true, if_false, if_true] at h hused
        omega
      · simp only [hs, Bool.not_false, if_true, List.length_cons, Bool.false_eq_true, if_false] at h hused
        omega
    obtain ⟨k, hk, hkg, hks, hkmono, hkstart⟩ := saveRegs_spec ns g h2
    refine ⟨k, ?_, ?_, ?_, fun m hm => hkmono m (hmono m hm), fun m => by rw [hkstart, hstart]⟩
    · simp only [Fibre.saveRegs, hg, hk]
    · rw [hkg, hgf]
    · intro m hm
      rcases List.mem_cons.mp hm with rfl | hm
      · exact hkmono _ hgs
      · exact hks m hm

/-! ## Registers and tags -/

theorem getLsbD_setBit16 (w : BitVec 16) (i j : Nat) (v : Bool) :
    (setBit16 w i v).getLsbD j = if i = j ∧ j < 16 then v else w.getLsbD j := by
  unfold setBit16
  by_cases hj : j < 16
  · by_cases hij : i = j
    · subst hij
      cases v <;> simp [hj]
    · have h1 : ¬ (i = j ∧ j < 16) := fun h => hij h.1
      rw [if_neg h1]
      have h2 : ((1#16 <<< i).getLsbD j) = false := by
        by_cases hlt : j < i
        · simp [hlt]
        · have : j - i ≠ 0 := by omega
          simp [BitVec.getLsbD_one, this]
      cases v
      · simp only [Bool.false_eq_true, if_false, BitVec.getLsbD_and, BitVec.getLsbD_not, hj, h2]
        simp
      · simp only [if_true, BitVec.getLsbD_or, h2, Bool.or_false]
  · have hw : w.getLsbD j = false := BitVec.getLsbD_of_ge w j (by omega)
    cases v <;> simp [hj, hw]

theorem reg_putReg {f : Fibre} {n : Nat} {v : Word} (h : n < f.regs.length) (m : Nat) :
    (f.putReg n v).reg m = if n = m then v else f.reg m := by
  unfold Fibre.reg Fibre.putReg
  simp only [List.getD_eq_getElem?_getD, List.getElem?_set]
  by_cases hm : n = m
  · subst hm; simp [h]
  · simp [hm]

theorem putRegs_spec : ∀ (ws : List (Nat × Word)) (f : Fibre), (∀ w ∈ ws, w.1 < f.regs.length ∧ w.1 < 64) →
    (∀ n, (f.putRegs ws).reg n = written ws n (f.reg n)) ∧
    (∀ q, (f.putRegs ws).tag q = (f.tag q && !ws.any fun w => w.1 / 4 == q)) ∧
    (∀ n, (∀ w ∈ ws, w.1 ≠ n) ∨ f.saved n = true → (f.putRegs ws).startReg n = f.startReg n) ∧
    f.putRegs ws = { f with regs := (f.putRegs ws).regs, tags := (f.putRegs ws).tags, fresh := (f.putRegs ws).fresh }
  | [], f, _ => ⟨fun _ => rfl, fun q => by simp [Fibre.putRegs], fun _ _ => rfl, rfl⟩
  | w :: ws, f, h => by
    have hw := h w (by simp)
    have hlen : (f.putReg w.1 w.2).regs.length = f.regs.length := by simp [Fibre.putReg]
    obtain ⟨h1, h2, h3, h4⟩ := putRegs_spec ws (f.putReg w.1 w.2) (fun x hx => by
      rw [hlen]; exact h x (List.mem_cons_of_mem _ hx))
    have e : f.putRegs (w :: ws) = (f.putReg w.1 w.2).putRegs ws := rfl
    refine ⟨fun n => ?_, fun q => ?_, fun n hn => ?_, ?_⟩
    · rw [e, h1, reg_putReg hw.1]
      rfl
    · rw [e, h2]
      unfold Fibre.tag Fibre.putReg
      simp only [getLsbD_setBit16, List.any_cons]
      by_cases hq : w.1 / 4 = q
      · have : q < 16 := by omega
        simp [hq, this]
      · have hq' : (w.1 / 4 == q) = false := by simpa using hq
        simp [hq, hq']
    · rw [e, h3 n (by
        rcases hn with hn | hn
        · exact Or.inl fun x hx => hn x (List.mem_cons_of_mem _ hx)
        · exact Or.inr hn)]
      unfold Fibre.startReg
      have hl : (f.putReg w.1 w.2).late = f.late := rfl
      have hj : (f.putReg w.1 w.2).journal = f.journal := rfl
      rw [hl, hj]
      cases f.late.find? fun x => x.1 == n with
      | some x => rfl
      | none =>
        simp only
        cases hjn : f.journal.find? fun x => x.1 == n with
        | some x => rfl
        | none =>
          rcases hn with hn | hn
          · simp only
            rw [reg_putReg hw.1, if_neg (hn w (by simp))]
          · simp only [Fibre.saved, List.any_eq_true] at hn
            obtain ⟨x, hx, hxn⟩ := hn
            have := List.find?_eq_none.mp hjn x hx
            exact absurd hxn this
    · rw [e, h4]
      rfl

/-! ## Writes -/

theorem pendingAny_none {f : Fibre} : ∀ {ns : List Nat}, (∀ n ∈ ns, f.pendingRound n = none) → f.pendingAny ns = none
  | [], _ => rfl
  | n :: ns, h => by
    simp only [Fibre.pendingAny, h n (by simp)]
    exact pendingAny_none fun m hm => h m (List.mem_cons_of_mem _ hm)

theorem takes_regs {f : Fibre} {ns : List Nat} (h : f.takes ns = true) (hlt : ∀ n ∈ ns, n < 64) :
    (∀ n ∈ ns, f.pendingRound n = none ∧ n < f.regs.length) ∧
      f.journalUsed + (ns.filter fun n => !f.saved n).length ≤ 24 := by
  simp only [Fibre.takes, Bool.and_eq_true, List.all_eq_true, Bool.or_eq_true, decide_eq_true_eq] at h
  refine ⟨fun n hn => ⟨by simpa using (h.1 n hn).1, ?_⟩, ?_⟩
  · have h1 := (h.1 n hn).2
    have h2 := hlt n hn
    omega
  · have hany : (ns.any (64 < ·)) = false := by
      rw [List.any_eq_false]
      intro n hn
      have := hlt n hn
      simp; omega
    have hf : ns.filter (· < 64) = ns := by
      rw [List.filter_eq_self]
      intro n hn
      simpa using hlt n hn
    have h2 := h.2
    unfold Fibre.entries at h2
    rw [hany, hf] at h2
    simp only [Bool.false_and, Bool.false_eq_true, if_false, Nat.add_zero] at h2
    exact h2

/-- A register write that a fibre can take (R30, R31, R55, R120). -/
theorem write_ok {f : Fibre} {ws : List (Nat × Word)} (h : f.takes (ws.map Prod.fst) = true) (hlt : ∀ w ∈ ws, w.1 < 64) :
    ∃ g, f.write ws = .ok g ∧ f.wrote g ws ∧ g.id = f.id := by
  have hlt' : ∀ n ∈ ws.map Prod.fst, n < 64 := by
    intro n hn
    obtain ⟨w, hw, rfl⟩ := List.mem_map.mp hn
    exact hlt w hw
  obtain ⟨h1, h2⟩ := takes_regs h hlt'
  obtain ⟨g, hg, hgf, hgs, -, hst⟩ := saveRegs_spec (ws.map Prod.fst) f h2
  have hregs : g.regs = f.regs := by rw [hgf]
  have htags : g.tags = f.tags := by rw [hgf]
  obtain ⟨p1, p2, p3, p4⟩ := putRegs_spec ws g (fun w hw => by
    rw [hregs]
    exact ⟨(h1 w.1 (List.mem_map_of_mem hw)).2, hlt w hw⟩)
  refine ⟨g.putRegs ws, ?_, ⟨fun n => ?_, fun q => ?_, fun n => ?_, ?_⟩, ?_⟩
  · unfold Fibre.write
    rw [pendingAny_none fun n hn => (h1 n hn).1]
    simp only [hg]
  · rw [p1]
    unfold Fibre.reg
    rw [hregs]
  · rw [p2]
    unfold Fibre.tag
    rw [htags]
  · rw [p3 n, hst]
    by_cases hn : ∃ w ∈ ws, w.1 = n
    · obtain ⟨w, hw, rfl⟩ := hn
      exact Or.inr (hgs _ (List.mem_map_of_mem hw))
    · exact Or.inl fun w hw he => hn ⟨w, hw, he⟩
  · rw [p4, hgf]
  · rw [p4, hgf]

/-- The marks of when results can be read change nothing that `wrote` speaks of. -/
theorem wrote_marked {f g c : Fibre} {ws : List (Nat × Word)} (e : Env) (i : Instr) (h : f.wrote g ws) :
    f.wrote (e.marked i c g) ws := by
  unfold Env.marked Fibre.markBusy
  split
  · exact ⟨h.1, h.2.1, h.2.2.1, h.2.2.2⟩
  · split
    · exact h
    · exact ⟨h.1, h.2.1, h.2.2.1, h.2.2.2⟩

theorem predded_marked {f g c : Fibre} {p : Nat → Bool} (e : Env) (i : Instr) (h : f.predded g p) :
    f.predded (e.marked i c g) p := by
  unfold Env.marked Fibre.markBusy
  split
  · exact ⟨h.1, h.2.1, h.2.2⟩
  · split
    · exact h
    · exact ⟨h.1, h.2.1, h.2.2⟩

/-! ## Predicates -/

theorem takes_pred {f : Fibre} {q : Nat} (h : f.takes [64 + q] = true) (h0 : q ≠ 0) :
    f.pendingRound (64 + q) = none ∧ (f.jpreds.isSome = true ∨ f.journalUsed < 24) := by
  simp only [Fibre.takes, List.all_cons, List.all_nil, Bool.and_true, Bool.and_eq_true, Bool.or_eq_true, decide_eq_true_eq] at h
  refine ⟨by simpa using h.1.1, ?_⟩
  have h2 := h.2
  unfold Fibre.entries at h2
  have : 64 < 64 + q := by omega
  have h3 : ¬ (64 + q < 64) := by omega
  simp only [List.filter_cons, h3, decide_false, Bool.false_eq_true, if_false, List.filter_nil, List.length_nil, List.any_cons,
    this, decide_true, List.any_nil, Bool.or_false, Bool.true_and] at h2
  cases hj : f.jpreds with
  | some x => simp
  | none => simp [hj] at h2; right; omega

theorem savePreds_ok {f : Fibre} (h : f.jpreds.isSome = true ∨ f.journalUsed < 24) :
    ∃ g, f.savePreds = .ok g ∧ g = { f with jpreds := g.jpreds } ∧ g.jpreds = some (f.jpreds.getD f.preds) := by
  unfold Fibre.savePreds
  cases hj : f.jpreds with
  | some x => exact ⟨f, by simp, rfl, by simp [hj]⟩
  | none =>
    have hu : ¬ 24 ≤ f.journalUsed := by
      rcases h with h | h
      · simp [hj] at h
      · omega
    exact ⟨{ f with jpreds := some f.preds }, by simp [hu], rfl, by simp⟩

/-- A predicate write that a fibre can take (R14, R30, R36). -/
theorem writePred_ok {f : Fibre} {q : Nat} {x : Bool} (h : f.takes [64 + q] = true) :
    ∃ g, f.writePred q x = .ok g ∧ f.predded g (fun r => if r = q then x else f.pred r) ∧ g.id = f.id := by
  unfold Fibre.writePred
  by_cases h0 : q = 0
  · subst h0
    refine ⟨f, by simp, ⟨fun r hr _ => ?_, rfl, rfl⟩, rfl⟩
    have : r ≠ 0 := by omega
    simp [this]
  · obtain ⟨hp, hj⟩ := takes_pred h h0
    obtain ⟨g, hg, hgf, hgj⟩ := savePreds_ok hj
    have hpre : g.preds = f.preds := by rw [hgf]
    refine ⟨{ g with preds := setBit16 g.preds q x, fresh := g.fresh.filter fun y => y.reg != 64 + q }, ?_, ⟨fun r hr h16 => ?_, ?_, ?_⟩, ?_⟩
    · simp [h0, hp, hg]
    · unfold Fibre.pred
      simp only [getLsbD_setBit16, hpre]
      have hr0 : (r == 0) = false := by simp; omega
      by_cases hrq : r = q
      · subst hrq; simp [hr0, h16]
      · have : ¬ (q = r ∧ r < 16) := fun h => hrq h.1.symm
        simp [hr0, this, hrq]
    · simp [hgj]
    · rw [hgf]
    · rw [hgf]

theorem setPred_ok {f v : Fibre} {spec : BitVec 6} {x : Bool} (h : f.takes [64 + spec.toNat % 16] = true) :
    ∃ g, f.setPred v spec x = .ok g ∧ f.predded g (specTo v f spec x) ∧ g.id = f.id := by
  unfold Fibre.setPred
  have key : ∀ y : Bool, (∀ r, (if r = spec.toNat % 16 then y else f.pred r) = specTo v f spec x r) →
      ∃ g, f.writePred (spec.toNat % 16) y = .ok g ∧ f.predded g (specTo v f spec x) ∧ g.id = f.id := by
    intro y hy
    obtain ⟨g, h1, h2, h3⟩ := writePred_ok (x := y) h
    refine ⟨g, h1, ⟨fun r hr h16 => ?_, h2.2.1, h2.2.2⟩, h3⟩
    exact (h2.1 r hr h16).trans (hy r)
  simp only
  split
  · rename_i h0
    apply key; intro r; unfold specTo
    by_cases hr : r = spec.toNat % 16 <;> simp [hr, h0]
  · rename_i h1
    apply key; intro r; unfold specTo
    by_cases hr : r = spec.toNat % 16 <;> simp [hr, h1]
  · rename_i h0 h1
    apply key; intro r; unfold specTo
    by_cases hr : r = spec.toNat % 16
    · have h0' : ¬ spec.toNat / 16 = 0 := h0
      have h1' : ¬ spec.toNat / 16 = 1 := h1
      simp [hr, h0', h1']
    · simp [hr]

end Sys2Proof.Machine
end

