-- ==== Sys2Proof/Laws/Ops.lean ====
section
/-! SUPPORT. Everything that the shared operations for words with one result can do, when every fibre of the fragment can
take the word. -/

namespace Sys2Proof.Machine

theorem cur_id {e : Env} {id : Nat} {c : Fibre} (h : e.cur? id = some c) : c.id = id := by
  simp only [Env.cur?, Option.bind_eq_some_iff] at h
  obtain ⟨_, _, h⟩ := h
  exact fibre_key h

/-- From what a word does for each fibre to `acts`: `F` changes the fibre alone, and gives what `P` says. -/
theorem acts_of_local {s : State} {e : Env} {i : Instr} {eff : Env → Fibre → Fibre → Except Trap Eff}
    {P : Fibre → Fibre → Fibre → Prop} (F : Fibre → Fibre → Eff) (he : s.env? = some e) (hr : e.ready i = true)
    (hloc : e.local eff F e.is.live)
    (hpure : ∀ id ∈ e.is.live, ∀ v c, e.b.fibre? id = some v → e.cur? id = some c → e.active v = true →
      (F v c).contribs = [] ∧ (F v c).gadds = [] ∧ (F v c).spawns = [] ∧ (F v c).ltols = [] ∧ P v c (e.marked i c (F v c).fibre)) :
    e.acts s (s.actEach i eff) P := by
  have hready := hr
  simp only [Env.ready, Bool.and_eq_true, decide_eq_true_eq, List.all_eq_true] at hready
  have hfib : ∀ id ∈ e.is.live, ∃ v c, e.b.fibre? id = some v ∧ e.cur? id = some c := by
    intro id hid
    have h := hready.2 id hid
    split at h
    · rename_i v c hv hc
      exact ⟨v, c, hv, hc⟩
    · cases h
  have heff : ∀ x ∈ e.effsOn F e.is.live, x.contribs = [] ∧ x.gadds = [] ∧ x.spawns = [] ∧ x.ltols = [] := by
    intro x hx
    simp only [Env.effsOn, List.mem_filterMap] at hx
    obtain ⟨id, hid, hx⟩ := hx
    obtain ⟨v, c, hv, hc⟩ := hfib id hid
    rw [hv, hc] at hx
    simp only at hx
    split at hx
    · rename_i hact
      cases hx
      obtain ⟨h1, h2, h3, h4, _⟩ := hpure id hid v c hv hc hact
      exact ⟨h1, h2, h3, h4⟩
    · cases hx
  have hflat : ∀ {α : Type} (p : Eff → List α), (∀ x ∈ e.effsOn F e.is.live, p x = []) →
      ((e.effsOn F e.is.live).map p).flatten = [] := by
    intro α p hp
    rw [List.flatten_eq_nil_iff]
    intro l hl
    obtain ⟨x, hx, rfl⟩ := List.mem_map.mp hl
    exact hp x hx
  refine ⟨e.updOn i F e.is.live, ?_, ?_, ?_⟩
  · rw [actEach_local F he hr hloc]
    apply modBlock_congr
    intro b
    unfold Env.after
    rw [hflat Eff.contribs fun x hx => (heff x hx).1, hflat Eff.gadds fun x hx => (heff x hx).2.1,
      hflat Eff.spawns fun x hx => (heff x hx).2.2.1, hflat Eff.ltols fun x hx => (heff x hx).2.2.2]
    simp
  · intro f hf
    unfold Env.updOn
    rw [if_neg hf]
  · intro id hid v c hv hc
    have hcid := cur_id hc
    unfold Env.updOn
    rw [hcid, if_pos hid, hv, hc]
    simp only
    split
    · rename_i hact
      exact (hpure id hid v c hv hc hact).2.2.2.2
    · rfl

/-- What a fibre that acts can take. -/
theorem ready_takes {e : Env} {i : Instr} (hr : e.ready i = true) {id : Nat} (hid : id ∈ e.is.live) {v c : Fibre}
    (hv : e.b.fibre? id = some v) (hc : e.cur? id = some c) (ha : e.active v = true) : c.takes i.writesNow = true := by
  simp only [Env.ready, Bool.and_eq_true, decide_eq_true_eq, List.all_eq_true] at hr
  have h := hr.2 id hid
  rw [hv, hc] at h
  simp only [Env.allows, Bool.and_eq_true, Bool.or_eq_true, ha] at h
  simp at h
  exact h.2.2

/-- The effect of a write, as a function. -/
def effOf (r : Except Trap Fibre) : Eff :=
  match r with
  | .ok g => { fibre := g }
  | .error _ => { fibre := default }

theorem own_ok {r : Except Trap Fibre} {g : Fibre} (h : r = .ok g) : own r = .ok (effOf r) := by
  subst h; rfl

/-- A word that writes registers of each fibre and nothing else. -/
theorem writes_give {s : State} {e : Env} {i : Instr} {eff : Env → Fibre → Fibre → Except Trap Eff}
    {ws : Fibre → List (Nat × Word)} (he : s.env? = some e) (hr : e.ready i = true)
    (heff : ∀ ls bl cs ga sp lt v c, eff (e.moved ls bl cs ga sp lt) v c = own (c.write (ws v)))
    (hw : ∀ v, (ws v).map Prod.fst = i.writesNow) (hlt : ∀ v, ∀ w ∈ ws v, w.1 < 64) :
    e.acts s (s.actEach i eff) fun v c g => c.wrote g (ws v) := by
  have key : ∀ id ∈ e.is.live, ∀ v c, e.b.fibre? id = some v → e.cur? id = some c → e.active v = true →
      ∃ g, c.write (ws v) = .ok g ∧ c.wrote g (ws v) ∧ g.id = c.id := by
    intro id hid v c hv hc ha
    exact write_ok (by rw [hw v]; exact ready_takes hr hid hv hc ha) (hlt v)
  refine acts_of_local (fun v c => effOf (c.write (ws v))) he hr ?_ ?_
  · intro ls bl cs ga sp lt id hid v c hv hc ha
    obtain ⟨g, hg, _, hgid⟩ := key id hid v c hv hc ha
    rw [heff]
    simp only [hg, own, effOf, true_and]
    exact hgid
  · intro id hid v c hv hc ha
    obtain ⟨g, hg, hgw, _⟩ := key id hid v c hv hc ha
    simp only [hg, effOf, true_and]
    exact wrote_marked e i hgw

/-- A word with one 32-bit result. -/
theorem setReg_gives {s : State} {e : Env} {i : Instr} {d : BitVec 6} {v : Env → Fibre → Word} (he : s.env? = some e)
    (hr : e.ready i = true) (hw : i.writesNow = [d.toNat])
    (hv : ∀ ls bl cs ga sp lt f, v (e.moved ls bl cs ga sp lt) f = v e f) :
    ∃ t, s.setReg i d v = .next t ∧ e.acts s t fun f c g => c.wrote g [(d.toNat, v e f)] := by
  refine ⟨_, rfl, writes_give he hr (fun ls bl cs ga sp lt f c => ?_) (fun _ => hw.symm) (fun _ w hm => ?_)⟩
  · rw [hv]
  · simp only [List.mem_singleton] at hm
    subst hm
    exact d.isLt

/-- A word with one 64-bit result. -/
theorem setPair_gives {s : State} {e : Env} {i : Instr} {d : BitVec 6} {v : Env → Fibre → DWord} (he : s.env? = some e)
    (hr : e.ready i = true) (hw : i.writesNow = [d.toNat, d.toNat + 1]) (hd : d.toNat + 1 < 64)
    (hv : ∀ ls bl cs ga sp lt f, v (e.moved ls bl cs ga sp lt) f = v e f) :
    ∃ t, s.setPair i d v = .next t ∧
      e.acts s t fun f c g => c.wrote g [(d.toNat, loOf (v e f)), (d.toNat + 1, hiOf (v e f))] := by
  refine ⟨_, rfl, writes_give he hr (fun ls bl cs ga sp lt f c => ?_) (fun _ => hw.symm) (fun _ w hm => ?_)⟩
  · rw [hv]
    rfl
  · simp only [List.mem_cons, List.not_mem_nil, or_false] at hm
    rcases hm with rfl | rfl
    · exact d.isLt
    · exact hd

/-- A word that applies a truth value to a predicate spec. -/
theorem setSpec_gives {s : State} {e : Env} {i : Instr} {p : BitVec 6} {x : Env → Fibre → Bool} (he : s.env? = some e)
    (hr : e.ready i = true) (hw : i.writesNow = [64 + p.toNat % 16])
    (hx : ∀ ls bl cs ga sp lt f, x (e.moved ls bl cs ga sp lt) f = x e f) :
    ∃ t, s.setSpec i p x = .next t ∧ e.acts s t fun f c g => c.predded g (specTo f c p (x e f)) := by
  have key : ∀ id ∈ e.is.live, ∀ v c, e.b.fibre? id = some v → e.cur? id = some c → e.active v = true →
      ∃ g, c.setPred v p (x e v) = .ok g ∧ c.predded g (specTo v c p (x e v)) ∧ g.id = c.id := by
    intro id hid v c hv hc ha
    exact setPred_ok (by rw [← hw]; exact ready_takes hr hid hv hc ha)
  refine ⟨_, rfl, acts_of_local (fun v c => effOf (c.setPred v p (x e v))) he hr ?_ ?_⟩
  · intro ls bl cs ga sp lt id hid v c hv hc ha
    obtain ⟨g, hg, _, hgid⟩ := key id hid v c hv hc ha
    simp only [hx, hg, own, effOf, true_and]
    exact hgid
  · intro id hid v c hv hc ha
    obtain ⟨g, hg, hgw, _⟩ := key id hid v c hv hc ha
    simp only [hg, effOf, true_and]
    exact predded_marked e i hgw

end Sys2Proof.Machine
end

