-- ==== Sys2Proof/Laws/PerInstr.lean ====
section
/-! SUPPORT. For every instruction: its body fits bits 28 to 0 of a word and is never taken for the modifier word (R70, R83).
An event has no word, and its body is 0. -/

namespace Sys2Proof.Laws.Fits

def Statement (i : Instr) : Prop := encodeBody i < 2 ^ 29 ∧ bitsOf (encodeBody i) 28 23 ≠ 1

/-- A body of a major opcode and 23 bits below it. -/
theorem fits_of {n : Nat} (k x : Nat) (h : n = k * 2 ^ 23 + x) (hx : x < 2 ^ 23) (hk : k < 64) (h1 : k ≠ 1) :
    n < 2 ^ 29 ∧ bitsOf n 28 23 ≠ 1 := by
  subst h
  unfold bitsOf
  constructor <;> omega

theorem nop : Statement .nop :=
  fits_of 0 0 rfl (by decide) (by decide) (by decide)

theorem yield : Statement .yield :=
  fits_of 0 1 rfl (by decide) (by decide) (by decide)

theorem brk : Statement .brk :=
  fits_of 0 2 rfl (by decide) (by decide) (by decide)

theorem trap (code : BitVec 12) : Statement (.trap code) :=
  fits_of 0 (3 + code.toNat * 2 ^ 5)
    (by show place1 _ _ _ = _; unfold place1; omega)
    (by have := code.isLt; omega) (by decide) (by decide)

theorem tret : Statement .tret :=
  fits_of 0 4 rfl (by decide) (by decide) (by decide)

theorem exit : Statement .exit :=
  fits_of 0 5 rfl (by decide) (by decide) (by decide)

theorem stop : Statement .stop :=
  fits_of 2 0 rfl (by decide) (by decide) (by decide)

theorem rstop : Statement .rstop :=
  fits_of 2 1 rfl (by decide) (by decide) (by decide)

theorem rstopGated (g : BitVec 6) : Statement (.rstopGated g) :=
  fits_of 2 (33 + g.toNat * 2 ^ 11)
    (by show place1 _ _ _ = _; unfold place1; omega)
    (by have := g.isLt; omega) (by decide) (by decide)

theorem gadd (g : BitVec 6) (b : BitVec 6) : Statement (.gadd g b) :=
  fits_of 2 (2 + g.toNat * 2 ^ 11 + b.toNat * 2 ^ 5)
    (by show place2 _ _ _ _ _ = _; unfold place2; omega)
    (by have := g.isLt; have := b.isLt; omega) (by decide) (by decide)

theorem gread (d : BitVec 6) (g : BitVec 6) : Statement (.gread d g) :=
  fits_of 2 (3 + d.toNat * 2 ^ 17 + g.toNat * 2 ^ 11)
    (by show place2 _ _ _ _ _ = _; unfold place2; omega)
    (by have := d.isLt; have := g.isLt; omega) (by decide) (by decide)

theorem br (delta : BitVec 19) (slot : BitVec 4) : Statement (.br delta slot) :=
  fits_of 3 (0 + delta.toNat * 2 ^ 4 + slot.toNat * 2 ^ 0)
    (by show place2 _ _ _ _ _ = _; unfold place2; omega)
    (by have := delta.isLt; have := slot.isLt; omega) (by decide) (by decide)

theorem call (a : BitVec 6) (delta : BitVec 13) (slot : BitVec 4) : Statement (.call a delta slot) :=
  fits_of 4 (0 + a.toNat * 2 ^ 17 + delta.toNat * 2 ^ 4 + slot.toNat * 2 ^ 0)
    (by show place3 _ _ _ _ _ _ _ = _; unfold place3; omega)
    (by have := a.isLt; have := delta.isLt; have := slot.isLt; omega) (by decide) (by decide)

theorem brx (a : BitVec 6) : Statement (.brx a) :=
  fits_of 5 (0 + a.toNat * 2 ^ 11)
    (by show place1 _ _ _ = _; unfold place1; omega)
    (by have := a.isLt; omega) (by decide) (by decide)

theorem callx (d : BitVec 6) (a : BitVec 6) : Statement (.callx d a) :=
  fits_of 5 (1 + d.toNat * 2 ^ 17 + a.toNat * 2 ^ 11)
    (by show place2 _ _ _ _ _ = _; unfold place2; omega)
    (by have := d.isLt; have := a.isLt; omega) (by decide) (by decide)

theorem ret (a : BitVec 6) : Statement (.ret a) :=
  fits_of 5 (2 + a.toNat * 2 ^ 11)
    (by show place1 _ _ _ = _; unfold place1; omega)
    (by have := a.isLt; omega) (by decide) (by decide)

theorem spawn (a : BitVec 6) (delta : BitVec 13) (slot : BitVec 4) : Statement (.spawn a delta slot) :=
  fits_of 6 (0 + a.toNat * 2 ^ 17 + delta.toNat * 2 ^ 4 + slot.toNat * 2 ^ 0)
    (by show place3 _ _ _ _ _ _ _ = _; unfold place3; omega)
    (by have := a.isLt; have := delta.isLt; have := slot.isLt; omega) (by decide) (by decide)

theorem iadd (d : BitVec 6) (a : BitVec 6) (b : BitVec 6) : Statement (.iadd d a b) :=
  fits_of 8 (0 + d.toNat * 2 ^ 17 + a.toNat * 2 ^ 11 + b.toNat * 2 ^ 5)
    (by show place3 _ _ _ _ _ _ _ = _; unfold place3; omega)
    (by have := d.isLt; have := a.isLt; have := b.isLt; omega) (by decide) (by decide)

theorem isub (d : BitVec 6) (a : BitVec 6) (b : BitVec 6) : Statement (.isub d a b) :=
  fits_of 8 (1 + d.toNat * 2 ^ 17 + a.toNat * 2 ^ 11 + b.toNat * 2 ^ 5)
    (by show place3 _ _ _ _ _ _ _ = _; unfold place3; omega)
    (by have := d.isLt; have := a.isLt; have := b.isLt; omega) (by decide) (by decide)

theorem imul (d : BitVec 6) (a : BitVec 6) (b : BitVec 6) : Statement (.imul d a b) :=
  fits_of 8 (2 + d.toNat * 2 ^ 17 + a.toNat * 2 ^ 11 + b.toNat * 2 ^ 5)
    (by show place3 _ _ _ _ _ _ _ = _; unfold place3; omega)
    (by have := d.isLt; have := a.isLt; have := b.isLt; omega) (by decide) (by decide)

theorem imulhi (d : BitVec 6) (a : BitVec 6) (b : BitVec 6) : Statement (.imulhi d a b) :=
  fits_of 8 (3 + d.toNat * 2 ^ 17 + a.toNat * 2 ^ 11 + b.toNat * 2 ^ 5)
    (by show place3 _ _ _ _ _ _ _ = _; unfold place3; omega)
    (by have := d.isLt; have := a.isLt; have := b.isLt; omega) (by decide) (by decide)

theorem imulhin (d : BitVec 6) (a : BitVec 6) (b : BitVec 6) : Statement (.imulhin d a b) :=
  fits_of 8 (4 + d.toNat * 2 ^ 17 + a.toNat * 2 ^ 11 + b.toNat * 2 ^ 5)
    (by show place3 _ _ _ _ _ _ _ = _; unfold place3; omega)
    (by have := d.isLt; have := a.isLt; have := b.isLt; omega) (by decide) (by decide)

theorem imad (d : BitVec 6) (a : BitVec 6) (b : BitVec 6) : Statement (.imad d a b) :=
  fits_of 8 (5 + d.toNat * 2 ^ 17 + a.toNat * 2 ^ 11 + b.toNat * 2 ^ 5)
    (by show place3 _ _ _ _ _ _ _ = _; unfold place3; omega)
    (by have := d.isLt; have := a.isLt; have := b.isLt; omega) (by decide) (by decide)

theorem imin (d : BitVec 6) (a : BitVec 6) (b : BitVec 6) : Statement (.imin d a b) :=
  fits_of 8 (6 + d.toNat * 2 ^ 17 + a.toNat * 2 ^ 11 + b.toNat * 2 ^ 5)
    (by show place3 _ _ _ _ _ _ _ = _; unfold place3; omega)
    (by have := d.isLt; have := a.isLt; have := b.isLt; omega) (by decide) (by decide)

theorem imax (d : BitVec 6) (a : BitVec 6) (b : BitVec 6) : Statement (.imax d a b) :=
  fits_of 8 (7 + d.toNat * 2 ^ 17 + a.toNat * 2 ^ 11 + b.toNat * 2 ^ 5)
    (by show place3 _ _ _ _ _ _ _ = _; unfold place3; omega)
    (by have := d.isLt; have := a.isLt; have := b.isLt; omega) (by decide) (by decide)

theorem iminn (d : BitVec 6) (a : BitVec 6) (b : BitVec 6) : Statement (.iminn d a b) :=
  fits_of 8 (8 + d.toNat * 2 ^ 17 + a.toNat * 2 ^ 11 + b.toNat * 2 ^ 5)
    (by show place3 _ _ _ _ _ _ _ = _; unfold place3; omega)
    (by have := d.isLt; have := a.isLt; have := b.isLt; omega) (by decide) (by decide)

theorem imaxn (d : BitVec 6) (a : BitVec 6) (b : BitVec 6) : Statement (.imaxn d a b) :=
  fits_of 8 (9 + d.toNat * 2 ^ 17 + a.toNat * 2 ^ 11 + b.toNat * 2 ^ 5)
    (by show place3 _ _ _ _ _ _ _ = _; unfold place3; omega)
    (by have := d.isLt; have := a.isLt; have := b.isLt; omega) (by decide) (by decide)

theorem iabs (d : BitVec 6) (a : BitVec 6) : Statement (.iabs d a) :=
  fits_of 8 (10 + d.toNat * 2 ^ 17 + a.toNat * 2 ^ 11)
    (by show place2 _ _ _ _ _ = _; unfold place2; omega)
    (by have := d.isLt; have := a.isLt; omega) (by decide) (by decide)

theorem ineg (d : BitVec 6) (a : BitVec 6) : Statement (.ineg d a) :=
  fits_of 8 (11 + d.toNat * 2 ^ 17 + a.toNat * 2 ^ 11)
    (by show place2 _ _ _ _ _ = _; unfold place2; omega)
    (by have := d.isLt; have := a.isLt; omega) (by decide) (by decide)

theorem iadds (d : BitVec 6) (a : BitVec 6) (b : BitVec 6) : Statement (.iadds d a b) :=
  fits_of 8 (12 + d.toNat * 2 ^ 17 + a.toNat * 2 ^ 11 + b.toNat * 2 ^ 5)
    (by show place3 _ _ _ _ _ _ _ = _; unfold place3; omega)
    (by have := d.isLt; have := a.isLt; have := b.isLt; omega) (by decide) (by decide)

theorem isubs (d : BitVec 6) (a : BitVec 6) (b : BitVec 6) : Statement (.isubs d a b) :=
  fits_of 8 (13 + d.toNat * 2 ^ 17 + a.toNat * 2 ^ 11 + b.toNat * 2 ^ 5)
    (by show place3 _ _ _ _ _ _ _ = _; unfold place3; omega)
    (by have := d.isLt; have := a.isLt; have := b.isLt; omega) (by decide) (by decide)

theorem iaddsn (d : BitVec 6) (a : BitVec 6) (b : BitVec 6) : Statement (.iaddsn d a b) :=
  fits_of 8 (14 + d.toNat * 2 ^ 17 + a.toNat * 2 ^ 11 + b.toNat * 2 ^ 5)
    (by show place3 _ _ _ _ _ _ _ = _; unfold place3; omega)
    (by have := d.isLt; have := a.isLt; have := b.isLt; omega) (by decide) (by decide)

theorem isubsn (d : BitVec 6) (a : BitVec 6) (b : BitVec 6) : Statement (.isubsn d a b) :=
  fits_of 8 (15 + d.toNat * 2 ^ 17 + a.toNat * 2 ^ 11 + b.toNat * 2 ^ 5)
    (by show place3 _ _ _ _ _ _ _ = _; unfold place3; omega)
    (by have := d.isLt; have := a.isLt; have := b.isLt; omega) (by decide) (by decide)

theorem ladd (d : BitVec 6) (a : BitVec 6) (b : BitVec 6) : Statement (.ladd d a b) :=
  fits_of 9 (0 + d.toNat * 2 ^ 17 + a.toNat * 2 ^ 11 + b.toNat * 2 ^ 5)
    (by show place3 _ _ _ _ _ _ _ = _; unfold place3; omega)
    (by have := d.isLt; have := a.isLt; have := b.isLt; omega) (by decide) (by decide)

theorem lsub (d : BitVec 6) (a : BitVec 6) (b : BitVec 6) : Statement (.lsub d a b) :=
  fits_of 9 (1 + d.toNat * 2 ^ 17 + a.toNat * 2 ^ 11 + b.toNat * 2 ^ 5)
    (by show place3 _ _ _ _ _ _ _ = _; unfold place3; omega)
    (by have := d.isLt; have := a.isLt; have := b.isLt; omega) (by decide) (by decide)

theorem lmul (d : BitVec 6) (a : BitVec 6) (b : BitVec 6) : Statement (.lmul d a b) :=
  fits_of 9 (2 + d.toNat * 2 ^ 17 + a.toNat * 2 ^ 11 + b.toNat * 2 ^ 5)
    (by show place3 _ _ _ _ _ _ _ = _; unfold place3; omega)
    (by have := d.isLt; have := a.isLt; have := b.isLt; omega) (by decide) (by decide)

theorem lmad (d : BitVec 6) (a : BitVec 6) (b : BitVec 6) : Statement (.lmad d a b) :=
  fits_of 9 (3 + d.toNat * 2 ^ 17 + a.toNat * 2 ^ 11 + b.toNat * 2 ^ 5)
    (by show place3 _ _ _ _ _ _ _ = _; unfold place3; omega)
    (by have := d.isLt; have := a.isLt; have := b.isLt; omega) (by decide) (by decide)

theorem lmin (d : BitVec 6) (a : BitVec 6) (b : BitVec 6) : Statement (.lmin d a b) :=
  fits_of 9 (4 + d.toNat * 2 ^ 17 + a.toNat * 2 ^ 11 + b.toNat * 2 ^ 5)
    (by show place3 _ _ _ _ _ _ _ = _; unfold place3; omega)
    (by have := d.isLt; have := a.isLt; have := b.isLt; omega) (by decide) (by decide)

theorem lmax (d : BitVec 6) (a : BitVec 6) (b : BitVec 6) : Statement (.lmax d a b) :=
  fits_of 9 (5 + d.toNat * 2 ^ 17 + a.toNat * 2 ^ 11 + b.toNat * 2 ^ 5)
    (by show place3 _ _ _ _ _ _ _ = _; unfold place3; omega)
    (by have := d.isLt; have := a.isLt; have := b.isLt; omega) (by decide) (by decide)

theorem lminn (d : BitVec 6) (a : BitVec 6) (b : BitVec 6) : Statement (.lminn d a b) :=
  fits_of 9 (6 + d.toNat * 2 ^ 17 + a.toNat * 2 ^ 11 + b.toNat * 2 ^ 5)
    (by show place3 _ _ _ _ _ _ _ = _; unfold place3; omega)
    (by have := d.isLt; have := a.isLt; have := b.isLt; omega) (by decide) (by decide)

theorem lmaxn (d : BitVec 6) (a : BitVec 6) (b : BitVec 6) : Statement (.lmaxn d a b) :=
  fits_of 9 (7 + d.toNat * 2 ^ 17 + a.toNat * 2 ^ 11 + b.toNat * 2 ^ 5)
    (by show place3 _ _ _ _ _ _ _ = _; unfold place3; omega)
    (by have := d.isLt; have := a.isLt; have := b.isLt; omega) (by decide) (by decide)

theorem lshl (d : BitVec 6) (a : BitVec 6) (b : BitVec 6) : Statement (.lshl d a b) :=
  fits_of 9 (8 + d.toNat * 2 ^ 17 + a.toNat * 2 ^ 11 + b.toNat * 2 ^ 5)
    (by show place3 _ _ _ _ _ _ _ = _; unfold place3; omega)
    (by have := d.isLt; have := a.isLt; have := b.isLt; omega) (by decide) (by decide)

theorem lshr (d : BitVec 6) (a : BitVec 6) (b : BitVec 6) : Statement (.lshr d a b) :=
  fits_of 9 (9 + d.toNat * 2 ^ 17 + a.toNat * 2 ^ 11 + b.toNat * 2 ^ 5)
    (by show place3 _ _ _ _ _ _ _ = _; unfold place3; omega)
    (by have := d.isLt; have := a.isLt; have := b.isLt; omega) (by decide) (by decide)

theorem lsra (d : BitVec 6) (a : BitVec 6) (b : BitVec 6) : Statement (.lsra d a b) :=
  fits_of 9 (10 + d.toNat * 2 ^ 17 + a.toNat * 2 ^ 11 + b.toNat * 2 ^ 5)
    (by show place3 _ _ _ _ _ _ _ = _; unfold place3; omega)
    (by have := d.isLt; have := a.isLt; have := b.isLt; omega) (by decide) (by decide)

theorem lneg (d : BitVec 6) (a : BitVec 6) : Statement (.lneg d a) :=
  fits_of 9 (11 + d.toNat * 2 ^ 17 + a.toNat * 2 ^ 11)
    (by show place2 _ _ _ _ _ = _; unfold place2; omega)
    (by have := d.isLt; have := a.isLt; omega) (by decide) (by decide)

theorem labs (d : BitVec 6) (a : BitVec 6) : Statement (.labs d a) :=
  fits_of 9 (12 + d.toNat * 2 ^ 17 + a.toNat * 2 ^ 11)
    (by show place2 _ _ _ _ _ = _; unfold place2; omega)
    (by have := d.isLt; have := a.isLt; omega) (by decide) (by decide)

theorem and (d : BitVec 6) (a : BitVec 6) (b : BitVec 6) : Statement (.and d a b) :=
  fits_of 10 (0 + d.toNat * 2 ^ 17 + a.toNat * 2 ^ 11 + b.toNat * 2 ^ 5)
    (by show place3 _ _ _ _ _ _ _ = _; unfold place3; omega)
    (by have := d.isLt; have := a.isLt; have := b.isLt; omega) (by decide) (by decide)

theorem or (d : BitVec 6) (a : BitVec 6) (b : BitVec 6) : Statement (.or d a b) :=
  fits_of 10 (1 + d.toNat * 2 ^ 17 + a.toNat * 2 ^ 11 + b.toNat * 2 ^ 5)
    (by show place3 _ _ _ _ _ _ _ = _; unfold place3; omega)
    (by have := d.isLt; have := a.isLt; have := b.isLt; omega) (by decide) (by decide)

theorem xor (d : BitVec 6) (a : BitVec 6) (b : BitVec 6) : Statement (.xor d a b) :=
  fits_of 10 (2 + d.toNat * 2 ^ 17 + a.toNat * 2 ^ 11 + b.toNat * 2 ^ 5)
    (by show place3 _ _ _ _ _ _ _ = _; unfold place3; omega)
    (by have := d.isLt; have := a.isLt; have := b.isLt; omega) (by decide) (by decide)

theorem andn (d : BitVec 6) (a : BitVec 6) (b : BitVec 6) : Statement (.andn d a b) :=
  fits_of 10 (3 + d.toNat * 2 ^ 17 + a.toNat * 2 ^ 11 + b.toNat * 2 ^ 5)
    (by show place3 _ _ _ _ _ _ _ = _; unfold place3; omega)
    (by have := d.isLt; have := a.isLt; have := b.isLt; omega) (by decide) (by decide)

theorem orn (d : BitVec 6) (a : BitVec 6) (b : BitVec 6) : Statement (.orn d a b) :=
  fits_of 10 (4 + d.toNat * 2 ^ 17 + a.toNat * 2 ^ 11 + b.toNat * 2 ^ 5)
    (by show place3 _ _ _ _ _ _ _ = _; unfold place3; omega)
    (by have := d.isLt; have := a.isLt; have := b.isLt; omega) (by decide) (by decide)

theorem xnor (d : BitVec 6) (a : BitVec 6) (b : BitVec 6) : Statement (.xnor d a b) :=
  fits_of 10 (5 + d.toNat * 2 ^ 17 + a.toNat * 2 ^ 11 + b.toNat * 2 ^ 5)
    (by show place3 _ _ _ _ _ _ _ = _; unfold place3; omega)
    (by have := d.isLt; have := a.isLt; have := b.isLt; omega) (by decide) (by decide)

theorem not (d : BitVec 6) (a : BitVec 6) : Statement (.not d a) :=
  fits_of 10 (6 + d.toNat * 2 ^ 17 + a.toNat * 2 ^ 11)
    (by show place2 _ _ _ _ _ = _; unfold place2; omega)
    (by have := d.isLt; have := a.isLt; omega) (by decide) (by decide)

theorem shl (d : BitVec 6) (a : BitVec 6) (b : BitVec 6) : Statement (.shl d a b) :=
  fits_of 10 (7 + d.toNat * 2 ^ 17 + a.toNat * 2 ^ 11 + b.toNat * 2 ^ 5)
    (by show place3 _ _ _ _ _ _ _ = _; unfold place3; omega)
    (by have := d.isLt; have := a.isLt; have := b.isLt; omega) (by decide) (by decide)

theorem shr (d : BitVec 6) (a : BitVec 6) (b : BitVec 6) : Statement (.shr d a b) :=
  fits_of 10 (8 + d.toNat * 2 ^ 17 + a.toNat * 2 ^ 11 + b.toNat * 2 ^ 5)
    (by show place3 _ _ _ _ _ _ _ = _; unfold place3; omega)
    (by have := d.isLt; have := a.isLt; have := b.isLt; omega) (by decide) (by decide)

theorem sra (d : BitVec 6) (a : BitVec 6) (b : BitVec 6) : Statement (.sra d a b) :=
  fits_of 10 (9 + d.toNat * 2 ^ 17 + a.toNat * 2 ^ 11 + b.toNat * 2 ^ 5)
    (by show place3 _ _ _ _ _ _ _ = _; unfold place3; omega)
    (by have := d.isLt; have := a.isLt; have := b.isLt; omega) (by decide) (by decide)

theorem rotl (d : BitVec 6) (a : BitVec 6) (b : BitVec 6) : Statement (.rotl d a b) :=
  fits_of 10 (10 + d.toNat * 2 ^ 17 + a.toNat * 2 ^ 11 + b.toNat * 2 ^ 5)
    (by show place3 _ _ _ _ _ _ _ = _; unfold place3; omega)
    (by have := d.isLt; have := a.isLt; have := b.isLt; omega) (by decide) (by decide)

theorem rotr (d : BitVec 6) (a : BitVec 6) (b : BitVec 6) : Statement (.rotr d a b) :=
  fits_of 10 (11 + d.toNat * 2 ^ 17 + a.toNat * 2 ^ 11 + b.toNat * 2 ^ 5)
    (by show place3 _ _ _ _ _ _ _ = _; unfold place3; omega)
    (by have := d.isLt; have := a.isLt; have := b.isLt; omega) (by decide) (by decide)

theorem popc (d : BitVec 6) (a : BitVec 6) : Statement (.popc d a) :=
  fits_of 10 (12 + d.toNat * 2 ^ 17 + a.toNat * 2 ^ 11)
    (by show place2 _ _ _ _ _ = _; unfold place2; omega)
    (by have := d.isLt; have := a.isLt; omega) (by decide) (by decide)

theorem clz (d : BitVec 6) (a : BitVec 6) : Statement (.clz d a) :=
  fits_of 10 (13 + d.toNat * 2 ^ 17 + a.toNat * 2 ^ 11)
    (by show place2 _ _ _ _ _ = _; unfold place2; omega)
    (by have := d.isLt; have := a.isLt; omega) (by decide) (by decide)

theorem ctz (d : BitVec 6) (a : BitVec 6) : Statement (.ctz d a) :=
  fits_of 10 (14 + d.toNat * 2 ^ 17 + a.toNat * 2 ^ 11)
    (by show place2 _ _ _ _ _ = _; unfold place2; omega)
    (by have := d.isLt; have := a.isLt; omega) (by decide) (by decide)

theorem brev (d : BitVec 6) (a : BitVec 6) : Statement (.brev d a) :=
  fits_of 10 (15 + d.toNat * 2 ^ 17 + a.toNat * 2 ^ 11)
    (by show place2 _ _ _ _ _ = _; unfold place2; omega)
    (by have := d.isLt; have := a.isLt; omega) (by decide) (by decide)

theorem bfe (d : BitVec 6) (a : BitVec 6) (b : BitVec 6) : Statement (.bfe d a b) :=
  fits_of 10 (16 + d.toNat * 2 ^ 17 + a.toNat * 2 ^ 11 + b.toNat * 2 ^ 5)
    (by show place3 _ _ _ _ _ _ _ = _; unfold place3; omega)
    (by have := d.isLt; have := a.isLt; have := b.isLt; omega) (by decide) (by decide)

theorem bfes (d : BitVec 6) (a : BitVec 6) (b : BitVec 6) : Statement (.bfes d a b) :=
  fits_of 10 (17 + d.toNat * 2 ^ 17 + a.toNat * 2 ^ 11 + b.toNat * 2 ^ 5)
    (by show place3 _ _ _ _ _ _ _ = _; unfold place3; omega)
    (by have := d.isLt; have := a.isLt; have := b.isLt; omega) (by decide) (by decide)

theorem bfi (d : BitVec 6) (a : BitVec 6) (b : BitVec 6) : Statement (.bfi d a b) :=
  fits_of 10 (18 + d.toNat * 2 ^ 17 + a.toNat * 2 ^ 11 + b.toNat * 2 ^ 5)
    (by show place3 _ _ _ _ _ _ _ = _; unfold place3; omega)
    (by have := d.isLt; have := a.isLt; have := b.isLt; omega) (by decide) (by decide)

theorem bswap (d : BitVec 6) (a : BitVec 6) : Statement (.bswap d a) :=
  fits_of 10 (19 + d.toNat * 2 ^ 17 + a.toNat * 2 ^ 11)
    (by show place2 _ _ _ _ _ = _; unfold place2; omega)
    (by have := d.isLt; have := a.isLt; omega) (by decide) (by decide)

theorem icmp (p : BitVec 6) (a : BitVec 6) (b : BitVec 6) (cond : BitVec 4) : Statement (.icmp p a b cond) :=
  fits_of 11 (0 + p.toNat * 2 ^ 17 + a.toNat * 2 ^ 11 + b.toNat * 2 ^ 5 + cond.toNat * 2 ^ 0)
    (by show place4 _ _ _ _ _ _ _ _ _ = _; unfold place4; omega)
    (by have := p.isLt; have := a.isLt; have := b.isLt; have := cond.isLt; omega) (by decide) (by decide)

theorem lcmp (p : BitVec 6) (a : BitVec 6) (b : BitVec 6) (cond : BitVec 4) : Statement (.lcmp p a b cond) :=
  fits_of 11 (16 + p.toNat * 2 ^ 17 + a.toNat * 2 ^ 11 + b.toNat * 2 ^ 5 + cond.toNat * 2 ^ 0)
    (by show place4 _ _ _ _ _ _ _ _ _ = _; unfold place4; omega)
    (by have := p.isLt; have := a.isLt; have := b.isLt; have := cond.isLt; omega) (by decide) (by decide)

theorem mov (d : BitVec 6) (a : BitVec 6) : Statement (.mov d a) :=
  fits_of 12 (0 + d.toNat * 2 ^ 17 + a.toNat * 2 ^ 11)
    (by show place2 _ _ _ _ _ = _; unfold place2; omega)
    (by have := d.isLt; have := a.isLt; omega) (by decide) (by decide)

theorem isel (d : BitVec 6) (a : BitVec 6) (b : BitVec 6) : Statement (.isel d a b) :=
  fits_of 12 (1 + d.toNat * 2 ^ 17 + a.toNat * 2 ^ 11 + b.toNat * 2 ^ 5)
    (by show place3 _ _ _ _ _ _ _ = _; unfold place3; omega)
    (by have := d.isLt; have := a.isLt; have := b.isLt; omega) (by decide) (by decide)

theorem movs (d : BitVec 6) (sr : BitVec 6) : Statement (.movs d sr) :=
  fits_of 12 (2 + d.toNat * 2 ^ 17 + sr.toNat * 2 ^ 11)
    (by show place2 _ _ _ _ _ = _; unfold place2; omega)
    (by have := d.isLt; have := sr.isLt; omega) (by decide) (by decide)

theorem movsw (sr : BitVec 6) (b : BitVec 6) : Statement (.movsw sr b) :=
  fits_of 12 (3 + sr.toNat * 2 ^ 11 + b.toNat * 2 ^ 5)
    (by show place2 _ _ _ _ _ = _; unfold place2; omega)
    (by have := sr.isLt; have := b.isLt; omega) (by decide) (by decide)

theorem pand (p : BitVec 6) (a : BitVec 4) (b : BitVec 4) : Statement (.pand p a b) :=
  fits_of 13 (0 + p.toNat * 2 ^ 17 + a.toNat * 2 ^ 11 + b.toNat * 2 ^ 5)
    (by show place3 _ _ _ _ _ _ _ = _; unfold place3; omega)
    (by have := p.isLt; have := a.isLt; have := b.isLt; omega) (by decide) (by decide)

theorem por (p : BitVec 6) (a : BitVec 4) (b : BitVec 4) : Statement (.por p a b) :=
  fits_of 13 (1 + p.toNat * 2 ^ 17 + a.toNat * 2 ^ 11 + b.toNat * 2 ^ 5)
    (by show place3 _ _ _ _ _ _ _ = _; unfold place3; omega)
    (by have := p.isLt; have := a.isLt; have := b.isLt; omega) (by decide) (by decide)

theorem pxor (p : BitVec 6) (a : BitVec 4) (b : BitVec 4) : Statement (.pxor p a b) :=
  fits_of 13 (2 + p.toNat * 2 ^ 17 + a.toNat * 2 ^ 11 + b.toNat * 2 ^ 5)
    (by show place3 _ _ _ _ _ _ _ = _; unfold place3; omega)
    (by have := p.isLt; have := a.isLt; have := b.isLt; omega) (by decide) (by decide)

theorem pandn (p : BitVec 6) (a : BitVec 4) (b : BitVec 4) : Statement (.pandn p a b) :=
  fits_of 13 (3 + p.toNat * 2 ^ 17 + a.toNat * 2 ^ 11 + b.toNat * 2 ^ 5)
    (by show place3 _ _ _ _ _ _ _ = _; unfold place3; omega)
    (by have := p.isLt; have := a.isLt; have := b.isLt; omega) (by decide) (by decide)

theorem pnot (p : BitVec 6) (a : BitVec 4) : Statement (.pnot p a) :=
  fits_of 13 (4 + p.toNat * 2 ^ 17 + a.toNat * 2 ^ 11)
    (by show place2 _ _ _ _ _ = _; unfold place2; omega)
    (by have := p.isLt; have := a.isLt; omega) (by decide) (by decide)

theorem pmov (p : BitVec 6) (a : BitVec 4) : Statement (.pmov p a) :=
  fits_of 13 (5 + p.toNat * 2 ^ 17 + a.toNat * 2 ^ 11)
    (by show place2 _ _ _ _ _ = _; unfold place2; omega)
    (by have := p.isLt; have := a.isLt; omega) (by decide) (by decide)

theorem pword (d : BitVec 6) : Statement (.pword d) :=
  fits_of 13 (6 + d.toNat * 2 ^ 17)
    (by show place1 _ _ _ = _; unfold place1; omega)
    (by have := d.isLt; omega) (by decide) (by decide)

theorem psetw (a : BitVec 6) (b : BitVec 6) : Statement (.psetw a b) :=
  fits_of 13 (7 + a.toNat * 2 ^ 11 + b.toNat * 2 ^ 5)
    (by show place2 _ _ _ _ _ = _; unfold place2; omega)
    (by have := a.isLt; have := b.isLt; omega) (by decide) (by decide)

theorem iaddi (d : BitVec 6) (a : BitVec 6) (imm : BitVec 11) : Statement (.iaddi d a imm) :=
  fits_of 16 (0 + d.toNat * 2 ^ 17 + a.toNat * 2 ^ 11 + imm.toNat * 2 ^ 0)
    (by show place3 _ _ _ _ _ _ _ = _; unfold place3; omega)
    (by have := d.isLt; have := a.isLt; have := imm.isLt; omega) (by decide) (by decide)

theorem andi (d : BitVec 6) (a : BitVec 6) (imm : BitVec 11) : Statement (.andi d a imm) :=
  fits_of 17 (0 + d.toNat * 2 ^ 17 + a.toNat * 2 ^ 11 + imm.toNat * 2 ^ 0)
    (by show place3 _ _ _ _ _ _ _ = _; unfold place3; omega)
    (by have := d.isLt; have := a.isLt; have := imm.isLt; omega) (by decide) (by decide)

theorem ori (d : BitVec 6) (a : BitVec 6) (imm : BitVec 11) : Statement (.ori d a imm) :=
  fits_of 18 (0 + d.toNat * 2 ^ 17 + a.toNat * 2 ^ 11 + imm.toNat * 2 ^ 0)
    (by show place3 _ _ _ _ _ _ _ = _; unfold place3; omega)
    (by have := d.isLt; have := a.isLt; have := imm.isLt; omega) (by decide) (by decide)

theorem xori (d : BitVec 6) (a : BitVec 6) (imm : BitVec 11) : Statement (.xori d a imm) :=
  fits_of 19 (0 + d.toNat * 2 ^ 17 + a.toNat * 2 ^ 11 + imm.toNat * 2 ^ 0)
    (by show place3 _ _ _ _ _ _ _ = _; unfold place3; omega)
    (by have := d.isLt; have := a.isLt; have := imm.isLt; omega) (by decide) (by decide)

theorem shli (d : BitVec 6) (a : BitVec 6) (n : BitVec 5) : Statement (.shli d a n) :=
  fits_of 20 (0 + d.toNat * 2 ^ 17 + a.toNat * 2 ^ 11 + n.toNat * 2 ^ 0)
    (by show place3 _ _ _ _ _ _ _ = _; unfold place3; omega)
    (by have := d.isLt; have := a.isLt; have := n.isLt; omega) (by decide) (by decide)

theorem shri (d : BitVec 6) (a : BitVec 6) (n : BitVec 5) : Statement (.shri d a n) :=
  fits_of 20 (512 + d.toNat * 2 ^ 17 + a.toNat * 2 ^ 11 + n.toNat * 2 ^ 0)
    (by show place3 _ _ _ _ _ _ _ = _; unfold place3; omega)
    (by have := d.isLt; have := a.isLt; have := n.isLt; omega) (by decide) (by decide)

theorem srai (d : BitVec 6) (a : BitVec 6) (n : BitVec 5) : Statement (.srai d a n) :=
  fits_of 20 (1024 + d.toNat * 2 ^ 17 + a.toNat * 2 ^ 11 + n.toNat * 2 ^ 0)
    (by show place3 _ _ _ _ _ _ _ = _; unfold place3; omega)
    (by have := d.isLt; have := a.isLt; have := n.isLt; omega) (by decide) (by decide)

theorem icmpi (p : BitVec 6) (a : BitVec 6) (cond : BitVec 4) (imm : BitVec 7) : Statement (.icmpi p a cond imm) :=
  fits_of 21 (0 + p.toNat * 2 ^ 17 + a.toNat * 2 ^ 11 + cond.toNat * 2 ^ 7 + imm.toNat * 2 ^ 0)
    (by show place4 _ _ _ _ _ _ _ _ _ = _; unfold place4; omega)
    (by have := p.isLt; have := a.isLt; have := cond.isLt; have := imm.isLt; omega) (by decide) (by decide)

theorem movi (d : BitVec 6) (imm : BitVec 17) : Statement (.movi d imm) :=
  fits_of 22 (0 + d.toNat * 2 ^ 17 + imm.toNat * 2 ^ 0)
    (by show place2 _ _ _ _ _ = _; unfold place2; omega)
    (by have := d.isLt; have := imm.isLt; omega) (by decide) (by decide)

theorem movhi (d : BitVec 6) (imm : BitVec 15) : Statement (.movhi d imm) :=
  fits_of 23 (0 + d.toNat * 2 ^ 17 + imm.toNat * 2 ^ 0)
    (by show place2 _ _ _ _ _ = _; unfold place2; omega)
    (by have := d.isLt; have := imm.isLt; omega) (by decide) (by decide)

theorem fadd (d : BitVec 6) (a : BitVec 6) (b : BitVec 6) : Statement (.fadd d a b) :=
  fits_of 24 (0 + d.toNat * 2 ^ 17 + a.toNat * 2 ^ 11 + b.toNat * 2 ^ 5)
    (by show place3 _ _ _ _ _ _ _ = _; unfold place3; omega)
    (by have := d.isLt; have := a.isLt; have := b.isLt; omega) (by decide) (by decide)

theorem fsub (d : BitVec 6) (a : BitVec 6) (b : BitVec 6) : Statement (.fsub d a b) :=
  fits_of 24 (1 + d.toNat * 2 ^ 17 + a.toNat * 2 ^ 11 + b.toNat * 2 ^ 5)
    (by show place3 _ _ _ _ _ _ _ = _; unfold place3; omega)
    (by have := d.isLt; have := a.isLt; have := b.isLt; omega) (by decide) (by decide)

theorem fmul (d : BitVec 6) (a : BitVec 6) (b : BitVec 6) : Statement (.fmul d a b) :=
  fits_of 24 (2 + d.toNat * 2 ^ 17 + a.toNat * 2 ^ 11 + b.toNat * 2 ^ 5)
    (by show place3 _ _ _ _ _ _ _ = _; unfold place3; omega)
    (by have := d.isLt; have := a.isLt; have := b.isLt; omega) (by decide) (by decide)

theorem ffma (d : BitVec 6) (a : BitVec 6) (b : BitVec 6) : Statement (.ffma d a b) :=
  fits_of 24 (3 + d.toNat * 2 ^ 17 + a.toNat * 2 ^ 11 + b.toNat * 2 ^ 5)
    (by show place3 _ _ _ _ _ _ _ = _; unfold place3; omega)
    (by have := d.isLt; have := a.isLt; have := b.isLt; omega) (by decide) (by decide)

theorem ffms (d : BitVec 6) (a : BitVec 6) (b : BitVec 6) : Statement (.ffms d a b) :=
  fits_of 24 (4 + d.toNat * 2 ^ 17 + a.toNat * 2 ^ 11 + b.toNat * 2 ^ 5)
    (by show place3 _ _ _ _ _ _ _ = _; unfold place3; omega)
    (by have := d.isLt; have := a.isLt; have := b.isLt; omega) (by decide) (by decide)

theorem fnfma (d : BitVec 6) (a : BitVec 6) (b : BitVec 6) : Statement (.fnfma d a b) :=
  fits_of 24 (5 + d.toNat * 2 ^ 17 + a.toNat * 2 ^ 11 + b.toNat * 2 ^ 5)
    (by show place3 _ _ _ _ _ _ _ = _; unfold place3; omega)
    (by have := d.isLt; have := a.isLt; have := b.isLt; omega) (by decide) (by decide)

theorem fmin (d : BitVec 6) (a : BitVec 6) (b : BitVec 6) : Statement (.fmin d a b) :=
  fits_of 24 (6 + d.toNat * 2 ^ 17 + a.toNat * 2 ^ 11 + b.toNat * 2 ^ 5)
    (by show place3 _ _ _ _ _ _ _ = _; unfold place3; omega)
    (by have := d.isLt; have := a.isLt; have := b.isLt; omega) (by decide) (by decide)

theorem fmax (d : BitVec 6) (a : BitVec 6) (b : BitVec 6) : Statement (.fmax d a b) :=
  fits_of 24 (7 + d.toNat * 2 ^ 17 + a.toNat * 2 ^ 11 + b.toNat * 2 ^ 5)
    (by show place3 _ _ _ _ _ _ _ = _; unfold place3; omega)
    (by have := d.isLt; have := a.isLt; have := b.isLt; omega) (by decide) (by decide)

theorem fabs (d : BitVec 6) (a : BitVec 6) : Statement (.fabs d a) :=
  fits_of 24 (8 + d.toNat * 2 ^ 17 + a.toNat * 2 ^ 11)
    (by show place2 _ _ _ _ _ = _; unfold place2; omega)
    (by have := d.isLt; have := a.isLt; omega) (by decide) (by decide)

theorem fneg (d : BitVec 6) (a : BitVec 6) : Statement (.fneg d a) :=
  fits_of 24 (9 + d.toNat * 2 ^ 17 + a.toNat * 2 ^ 11)
    (by show place2 _ _ _ _ _ = _; unfold place2; omega)
    (by have := d.isLt; have := a.isLt; omega) (by decide) (by decide)

theorem fdiv (d : BitVec 6) (a : BitVec 6) (b : BitVec 6) : Statement (.fdiv d a b) :=
  fits_of 24 (10 + d.toNat * 2 ^ 17 + a.toNat * 2 ^ 11 + b.toNat * 2 ^ 5)
    (by show place3 _ _ _ _ _ _ _ = _; unfold place3; omega)
    (by have := d.isLt; have := a.isLt; have := b.isLt; omega) (by decide) (by decide)

theorem fsqrt (d : BitVec 6) (a : BitVec 6) : Statement (.fsqrt d a) :=
  fits_of 24 (11 + d.toNat * 2 ^ 17 + a.toNat * 2 ^ 11)
    (by show place2 _ _ _ _ _ = _; unfold place2; omega)
    (by have := d.isLt; have := a.isLt; omega) (by decide) (by decide)

theorem frcp (d : BitVec 6) (a : BitVec 6) : Statement (.frcp d a) :=
  fits_of 24 (12 + d.toNat * 2 ^ 17 + a.toNat * 2 ^ 11)
    (by show place2 _ _ _ _ _ = _; unfold place2; omega)
    (by have := d.isLt; have := a.isLt; omega) (by decide) (by decide)

theorem frsq (d : BitVec 6) (a : BitVec 6) : Statement (.frsq d a) :=
  fits_of 24 (13 + d.toNat * 2 ^ 17 + a.toNat * 2 ^ 11)
    (by show place2 _ _ _ _ _ = _; unfold place2; omega)
    (by have := d.isLt; have := a.isLt; omega) (by decide) (by decide)

theorem fexp2 (d : BitVec 6) (a : BitVec 6) : Statement (.fexp2 d a) :=
  fits_of 24 (14 + d.toNat * 2 ^ 17 + a.toNat * 2 ^ 11)
    (by show place2 _ _ _ _ _ = _; unfold place2; omega)
    (by have := d.isLt; have := a.isLt; omega) (by decide) (by decide)

theorem flog2 (d : BitVec 6) (a : BitVec 6) : Statement (.flog2 d a) :=
  fits_of 24 (15 + d.toNat * 2 ^ 17 + a.toNat * 2 ^ 11)
    (by show place2 _ _ _ _ _ = _; unfold place2; omega)
    (by have := d.isLt; have := a.isLt; omega) (by decide) (by decide)

theorem fsinpi (d : BitVec 6) (a : BitVec 6) : Statement (.fsinpi d a) :=
  fits_of 24 (16 + d.toNat * 2 ^ 17 + a.toNat * 2 ^ 11)
    (by show place2 _ _ _ _ _ = _; unfold place2; omega)
    (by have := d.isLt; have := a.isLt; omega) (by decide) (by decide)

theorem fcospi (d : BitVec 6) (a : BitVec 6) : Statement (.fcospi d a) :=
  fits_of 24 (17 + d.toNat * 2 ^ 17 + a.toNat * 2 ^ 11)
    (by show place2 _ _ _ _ _ = _; unfold place2; omega)
    (by have := d.isLt; have := a.isLt; omega) (by decide) (by decide)

theorem fkey (d : BitVec 6) (a : BitVec 6) : Statement (.fkey d a) :=
  fits_of 24 (18 + d.toNat * 2 ^ 17 + a.toNat * 2 ^ 11)
    (by show place2 _ _ _ _ _ = _; unfold place2; omega)
    (by have := d.isLt; have := a.isLt; omega) (by decide) (by decide)

theorem fkeyinv (d : BitVec 6) (a : BitVec 6) : Statement (.fkeyinv d a) :=
  fits_of 24 (19 + d.toNat * 2 ^ 17 + a.toNat * 2 ^ 11)
    (by show place2 _ _ _ _ _ = _; unfold place2; omega)
    (by have := d.isLt; have := a.isLt; omega) (by decide) (by decide)

theorem fcmp (p : BitVec 6) (a : BitVec 6) (b : BitVec 6) (cond : BitVec 3) : Statement (.fcmp p a b cond) :=
  fits_of 25 (0 + p.toNat * 2 ^ 17 + a.toNat * 2 ^ 11 + b.toNat * 2 ^ 5 + cond.toNat * 2 ^ 0)
    (by show place4 _ _ _ _ _ _ _ _ _ = _; unfold place4; omega)
    (by have := p.isLt; have := a.isLt; have := b.isLt; have := cond.isLt; omega) (by decide) (by decide)

theorem dcmp (p : BitVec 6) (a : BitVec 6) (b : BitVec 6) (cond : BitVec 3) : Statement (.dcmp p a b cond) :=
  fits_of 25 (8 + p.toNat * 2 ^ 17 + a.toNat * 2 ^ 11 + b.toNat * 2 ^ 5 + cond.toNat * 2 ^ 0)
    (by show place4 _ _ _ _ _ _ _ _ _ = _; unfold place4; omega)
    (by have := p.isLt; have := a.isLt; have := b.isLt; have := cond.isLt; omega) (by decide) (by decide)

theorem dadd (d : BitVec 6) (a : BitVec 6) (b : BitVec 6) : Statement (.dadd d a b) :=
  fits_of 26 (0 + d.toNat * 2 ^ 17 + a.toNat * 2 ^ 11 + b.toNat * 2 ^ 5)
    (by show place3 _ _ _ _ _ _ _ = _; unfold place3; omega)
    (by have := d.isLt; have := a.isLt; have := b.isLt; omega) (by decide) (by decide)

theorem dsub (d : BitVec 6) (a : BitVec 6) (b : BitVec 6) : Statement (.dsub d a b) :=
  fits_of 26 (1 + d.toNat * 2 ^ 17 + a.toNat * 2 ^ 11 + b.toNat * 2 ^ 5)
    (by show place3 _ _ _ _ _ _ _ = _; unfold place3; omega)
    (by have := d.isLt; have := a.isLt; have := b.isLt; omega) (by decide) (by decide)

theorem dmul (d : BitVec 6) (a : BitVec 6) (b : BitVec 6) : Statement (.dmul d a b) :=
  fits_of 26 (2 + d.toNat * 2 ^ 17 + a.toNat * 2 ^ 11 + b.toNat * 2 ^ 5)
    (by show place3 _ _ _ _ _ _ _ = _; unfold place3; omega)
    (by have := d.isLt; have := a.isLt; have := b.isLt; omega) (by decide) (by decide)

theorem dfma (d : BitVec 6) (a : BitVec 6) (b : BitVec 6) : Statement (.dfma d a b) :=
  fits_of 26 (3 + d.toNat * 2 ^ 17 + a.toNat * 2 ^ 11 + b.toNat * 2 ^ 5)
    (by show place3 _ _ _ _ _ _ _ = _; unfold place3; omega)
    (by have := d.isLt; have := a.isLt; have := b.isLt; omega) (by decide) (by decide)

theorem dmin (d : BitVec 6) (a : BitVec 6) (b : BitVec 6) : Statement (.dmin d a b) :=
  fits_of 26 (4 + d.toNat * 2 ^ 17 + a.toNat * 2 ^ 11 + b.toNat * 2 ^ 5)
    (by show place3 _ _ _ _ _ _ _ = _; unfold place3; omega)
    (by have := d.isLt; have := a.isLt; have := b.isLt; omega) (by decide) (by decide)

theorem dmax (d : BitVec 6) (a : BitVec 6) (b : BitVec 6) : Statement (.dmax d a b) :=
  fits_of 26 (5 + d.toNat * 2 ^ 17 + a.toNat * 2 ^ 11 + b.toNat * 2 ^ 5)
    (by show place3 _ _ _ _ _ _ _ = _; unfold place3; omega)
    (by have := d.isLt; have := a.isLt; have := b.isLt; omega) (by decide) (by decide)

theorem dabs (d : BitVec 6) (a : BitVec 6) : Statement (.dabs d a) :=
  fits_of 26 (6 + d.toNat * 2 ^ 17 + a.toNat * 2 ^ 11)
    (by show place2 _ _ _ _ _ = _; unfold place2; omega)
    (by have := d.isLt; have := a.isLt; omega) (by decide) (by decide)

theorem dneg (d : BitVec 6) (a : BitVec 6) : Statement (.dneg d a) :=
  fits_of 26 (7 + d.toNat * 2 ^ 17 + a.toNat * 2 ^ 11)
    (by show place2 _ _ _ _ _ = _; unfold place2; omega)
    (by have := d.isLt; have := a.isLt; omega) (by decide) (by decide)

theorem ddiv (d : BitVec 6) (a : BitVec 6) (b : BitVec 6) : Statement (.ddiv d a b) :=
  fits_of 26 (8 + d.toNat * 2 ^ 17 + a.toNat * 2 ^ 11 + b.toNat * 2 ^ 5)
    (by show place3 _ _ _ _ _ _ _ = _; unfold place3; omega)
    (by have := d.isLt; have := a.isLt; have := b.isLt; omega) (by decide) (by decide)

theorem dsqrt (d : BitVec 6) (a : BitVec 6) : Statement (.dsqrt d a) :=
  fits_of 26 (9 + d.toNat * 2 ^ 17 + a.toNat * 2 ^ 11)
    (by show place2 _ _ _ _ _ = _; unfold place2; omega)
    (by have := d.isLt; have := a.isLt; omega) (by decide) (by decide)

theorem dkey (d : BitVec 6) (a : BitVec 6) : Statement (.dkey d a) :=
  fits_of 26 (10 + d.toNat * 2 ^ 17 + a.toNat * 2 ^ 11)
    (by show place2 _ _ _ _ _ = _; unfold place2; omega)
    (by have := d.isLt; have := a.isLt; omega) (by decide) (by decide)

theorem hadd2 (d : BitVec 6) (a : BitVec 6) (b : BitVec 6) : Statement (.hadd2 d a b) :=
  fits_of 27 (0 + d.toNat * 2 ^ 17 + a.toNat * 2 ^ 11 + b.toNat * 2 ^ 5)
    (by show place3 _ _ _ _ _ _ _ = _; unfold place3; omega)
    (by have := d.isLt; have := a.isLt; have := b.isLt; omega) (by decide) (by decide)

theorem hsub2 (d : BitVec 6) (a : BitVec 6) (b : BitVec 6) : Statement (.hsub2 d a b) :=
  fits_of 27 (1 + d.toNat * 2 ^ 17 + a.toNat * 2 ^ 11 + b.toNat * 2 ^ 5)
    (by show place3 _ _ _ _ _ _ _ = _; unfold place3; omega)
    (by have := d.isLt; have := a.isLt; have := b.isLt; omega) (by decide) (by decide)

theorem hmul2 (d : BitVec 6) (a : BitVec 6) (b : BitVec 6) : Statement (.hmul2 d a b) :=
  fits_of 27 (2 + d.toNat * 2 ^ 17 + a.toNat * 2 ^ 11 + b.toNat * 2 ^ 5)
    (by show place3 _ _ _ _ _ _ _ = _; unfold place3; omega)
    (by have := d.isLt; have := a.isLt; have := b.isLt; omega) (by decide) (by decide)

theorem hfma2 (d : BitVec 6) (a : BitVec 6) (b : BitVec 6) : Statement (.hfma2 d a b) :=
  fits_of 27 (3 + d.toNat * 2 ^ 17 + a.toNat * 2 ^ 11 + b.toNat * 2 ^ 5)
    (by show place3 _ _ _ _ _ _ _ = _; unfold place3; omega)
    (by have := d.isLt; have := a.isLt; have := b.isLt; omega) (by decide) (by decide)

theorem hmin2 (d : BitVec 6) (a : BitVec 6) (b : BitVec 6) : Statement (.hmin2 d a b) :=
  fits_of 27 (4 + d.toNat * 2 ^ 17 + a.toNat * 2 ^ 11 + b.toNat * 2 ^ 5)
    (by show place3 _ _ _ _ _ _ _ = _; unfold place3; omega)
    (by have := d.isLt; have := a.isLt; have := b.isLt; omega) (by decide) (by decide)

theorem hmax2 (d : BitVec 6) (a : BitVec 6) (b : BitVec 6) : Statement (.hmax2 d a b) :=
  fits_of 27 (5 + d.toNat * 2 ^ 17 + a.toNat * 2 ^ 11 + b.toNat * 2 ^ 5)
    (by show place3 _ _ _ _ _ _ _ = _; unfold place3; omega)
    (by have := d.isLt; have := a.isLt; have := b.isLt; omega) (by decide) (by decide)

theorem hkey2 (d : BitVec 6) (a : BitVec 6) : Statement (.hkey2 d a) :=
  fits_of 27 (6 + d.toNat * 2 ^ 17 + a.toNat * 2 ^ 11)
    (by show place2 _ _ _ _ _ = _; unfold place2; omega)
    (by have := d.isLt; have := a.isLt; omega) (by decide) (by decide)

theorem badd2 (d : BitVec 6) (a : BitVec 6) (b : BitVec 6) : Statement (.badd2 d a b) :=
  fits_of 27 (16 + d.toNat * 2 ^ 17 + a.toNat * 2 ^ 11 + b.toNat * 2 ^ 5)
    (by show place3 _ _ _ _ _ _ _ = _; unfold place3; omega)
    (by have := d.isLt; have := a.isLt; have := b.isLt; omega) (by decide) (by decide)

theorem bsub2 (d : BitVec 6) (a : BitVec 6) (b : BitVec 6) : Statement (.bsub2 d a b) :=
  fits_of 27 (17 + d.toNat * 2 ^ 17 + a.toNat * 2 ^ 11 + b.toNat * 2 ^ 5)
    (by show place3 _ _ _ _ _ _ _ = _; unfold place3; omega)
    (by have := d.isLt; have := a.isLt; have := b.isLt; omega) (by decide) (by decide)

theorem bmul2 (d : BitVec 6) (a : BitVec 6) (b : BitVec 6) : Statement (.bmul2 d a b) :=
  fits_of 27 (18 + d.toNat * 2 ^ 17 + a.toNat * 2 ^ 11 + b.toNat * 2 ^ 5)
    (by show place3 _ _ _ _ _ _ _ = _; unfold place3; omega)
    (by have := d.isLt; have := a.isLt; have := b.isLt; omega) (by decide) (by decide)

theorem bfma2 (d : BitVec 6) (a : BitVec 6) (b : BitVec 6) : Statement (.bfma2 d a b) :=
  fits_of 27 (19 + d.toNat * 2 ^ 17 + a.toNat * 2 ^ 11 + b.toNat * 2 ^ 5)
    (by show place3 _ _ _ _ _ _ _ = _; unfold place3; omega)
    (by have := d.isLt; have := a.isLt; have := b.isLt; omega) (by decide) (by decide)

theorem bmin2 (d : BitVec 6) (a : BitVec 6) (b : BitVec 6) : Statement (.bmin2 d a b) :=
  fits_of 27 (20 + d.toNat * 2 ^ 17 + a.toNat * 2 ^ 11 + b.toNat * 2 ^ 5)
    (by show place3 _ _ _ _ _ _ _ = _; unfold place3; omega)
    (by have := d.isLt; have := a.isLt; have := b.isLt; omega) (by decide) (by decide)

theorem bmax2 (d : BitVec 6) (a : BitVec 6) (b : BitVec 6) : Statement (.bmax2 d a b) :=
  fits_of 27 (21 + d.toNat * 2 ^ 17 + a.toNat * 2 ^ 11 + b.toNat * 2 ^ 5)
    (by show place3 _ _ _ _ _ _ _ = _; unfold place3; omega)
    (by have := d.isLt; have := a.isLt; have := b.isLt; omega) (by decide) (by decide)

theorem cvt (d : BitVec 6) (a : BitVec 6) (dt : BitVec 4) (sty : BitVec 4) (rm : BitVec 3) : Statement (.cvt d a dt sty rm) :=
  fits_of 28 (0 + d.toNat * 2 ^ 17 + a.toNat * 2 ^ 11 + dt.toNat * 2 ^ 7 + sty.toNat * 2 ^ 3 + rm.toNat * 2 ^ 0)
    (by show place5 _ _ _ _ _ _ _ _ _ _ _ = _; unfold place5; omega)
    (by have := d.isLt; have := a.isLt; have := dt.isLt; have := sty.isLt; have := rm.isLt; omega) (by decide) (by decide)

theorem fix (d : BitVec 6) (a : BitVec 6) (rm : BitVec 3) (scale : BitVec 7) : Statement (.fix d a rm scale) :=
  fits_of 29 (0 + d.toNat * 2 ^ 17 + a.toNat * 2 ^ 11 + rm.toNat * 2 ^ 7 + scale.toNat * 2 ^ 0)
    (by show place4 _ _ _ _ _ _ _ _ _ = _; unfold place4; omega)
    (by have := d.isLt; have := a.isLt; have := rm.isLt; have := scale.isLt; omega) (by decide) (by decide)

theorem unfix (d : BitVec 6) (a : BitVec 6) (rm : BitVec 3) (scale : BitVec 7) : Statement (.unfix d a rm scale) :=
  fits_of 29 (1024 + d.toNat * 2 ^ 17 + a.toNat * 2 ^ 11 + rm.toNat * 2 ^ 7 + scale.toNat * 2 ^ 0)
    (by show place4 _ _ _ _ _ _ _ _ _ = _; unfold place4; omega)
    (by have := d.isLt; have := a.isLt; have := rm.isLt; have := scale.isLt; omega) (by decide) (by decide)

theorem lshfl (d : BitVec 6) (a : BitVec 6) (b : BitVec 6) : Statement (.lshfl d a b) :=
  fits_of 32 (0 + d.toNat * 2 ^ 17 + a.toNat * 2 ^ 11 + b.toNat * 2 ^ 5)
    (by show place3 _ _ _ _ _ _ _ = _; unfold place3; omega)
    (by have := d.isLt; have := a.isLt; have := b.isLt; omega) (by decide) (by decide)

theorem lvoteany (p : BitVec 6) (a : BitVec 6) : Statement (.lvoteany p a) :=
  fits_of 32 (1 + p.toNat * 2 ^ 17 + a.toNat * 2 ^ 11)
    (by show place2 _ _ _ _ _ = _; unfold place2; omega)
    (by have := p.isLt; have := a.isLt; omega) (by decide) (by decide)

theorem lvoteall (p : BitVec 6) (a : BitVec 6) : Statement (.lvoteall p a) :=
  fits_of 32 (2 + p.toNat * 2 ^ 17 + a.toNat * 2 ^ 11)
    (by show place2 _ _ _ _ _ = _; unfold place2; omega)
    (by have := p.isLt; have := a.isLt; omega) (by decide) (by decide)

theorem lballot (d : BitVec 6) (a : BitVec 6) : Statement (.lballot d a) :=
  fits_of 32 (3 + d.toNat * 2 ^ 17 + a.toNat * 2 ^ 11)
    (by show place2 _ _ _ _ _ = _; unfold place2; omega)
    (by have := d.isLt; have := a.isLt; omega) (by decide) (by decide)

theorem lrank (d : BitVec 6) (a : BitVec 6) : Statement (.lrank d a) :=
  fits_of 32 (4 + d.toNat * 2 ^ 17 + a.toNat * 2 ^ 11)
    (by show place2 _ _ _ _ _ = _; unfold place2; omega)
    (by have := d.isLt; have := a.isLt; omega) (by decide) (by decide)

theorem lfirst (d : BitVec 6) (a : BitVec 6) : Statement (.lfirst d a) :=
  fits_of 32 (5 + d.toNat * 2 ^ 17 + a.toNat * 2 ^ 11)
    (by show place2 _ _ _ _ _ = _; unfold place2; omega)
    (by have := d.isLt; have := a.isLt; omega) (by decide) (by decide)

theorem bxpos (d : BitVec 6) (a : BitVec 6) (b : BitVec 6) : Statement (.bxpos d a b) :=
  fits_of 33 (0 + d.toNat * 2 ^ 17 + a.toNat * 2 ^ 11 + b.toNat * 2 ^ 5)
    (by show place3 _ _ _ _ _ _ _ = _; unfold place3; omega)
    (by have := d.isLt; have := a.isLt; have := b.isLt; omega) (by decide) (by decide)

theorem bxcnt (d : BitVec 6) (a : BitVec 6) (b : BitVec 6) : Statement (.bxcnt d a b) :=
  fits_of 33 (1 + d.toNat * 2 ^ 17 + a.toNat * 2 ^ 11 + b.toNat * 2 ^ 5)
    (by show place3 _ _ _ _ _ _ _ = _; unfold place3; omega)
    (by have := d.isLt; have := a.isLt; have := b.isLt; omega) (by decide) (by decide)

theorem bmerge (d : BitVec 6) (a : BitVec 6) (b : BitVec 6) : Statement (.bmerge d a b) :=
  fits_of 33 (2 + d.toNat * 2 ^ 17 + a.toNat * 2 ^ 11 + b.toNat * 2 ^ 5)
    (by show place3 _ _ _ _ _ _ _ = _; unfold place3; omega)
    (by have := d.isLt; have := a.isLt; have := b.isLt; omega) (by decide) (by decide)

theorem bmpre (d : BitVec 6) (a : BitVec 6) (b : BitVec 6) : Statement (.bmpre d a b) :=
  fits_of 33 (3 + d.toNat * 2 ^ 17 + a.toNat * 2 ^ 11 + b.toNat * 2 ^ 5)
    (by show place3 _ _ _ _ _ _ _ = _; unfold place3; omega)
    (by have := d.isLt; have := a.isLt; have := b.isLt; omega) (by decide) (by decide)

theorem ld (d : BitVec 6) (cap : BitVec 4) (x : BitVec 6) (size : BitVec 3) (hint : BitVec 3) (f : BitVec 1) : Statement (.ld d cap x size hint f) :=
  fits_of 40 (0 + d.toNat * 2 ^ 17 + cap.toNat * 2 ^ 13 + x.toNat * 2 ^ 7 + size.toNat * 2 ^ 4 + hint.toNat * 2 ^ 1 + f.toNat * 2 ^ 0)
    (by show place6 _ _ _ _ _ _ _ _ _ _ _ _ _ = _; unfold place6; omega)
    (by have := d.isLt; have := cap.isLt; have := x.isLt; have := size.isLt; have := hint.isLt; have := f.isLt; omega) (by decide) (by decide)

theorem st (d : BitVec 6) (cap : BitVec 4) (x : BitVec 6) (size : BitVec 3) (rule : BitVec 3) (f : BitVec 1) : Statement (.st d cap x size rule f) :=
  fits_of 41 (0 + d.toNat * 2 ^ 17 + cap.toNat * 2 ^ 13 + x.toNat * 2 ^ 7 + size.toNat * 2 ^ 4 + rule.toNat * 2 ^ 1 + f.toNat * 2 ^ 0)
    (by show place6 _ _ _ _ _ _ _ _ _ _ _ _ _ = _; unfold place6; omega)
    (by have := d.isLt; have := cap.isLt; have := x.isLt; have := size.isLt; have := rule.isLt; have := f.isLt; omega) (by decide) (by decide)

theorem fadr (d : BitVec 6) (cap : BitVec 4) (x : BitVec 6) (size : BitVec 3) (f : BitVec 1) : Statement (.fadr d cap x size f) :=
  fits_of 42 (6 + d.toNat * 2 ^ 17 + cap.toNat * 2 ^ 13 + x.toNat * 2 ^ 7 + size.toNat * 2 ^ 4 + f.toNat * 2 ^ 0)
    (by show place5 _ _ _ _ _ _ _ _ _ _ _ = _; unfold place5; omega)
    (by have := d.isLt; have := cap.isLt; have := x.isLt; have := size.isLt; have := f.isLt; omega) (by decide) (by decide)

theorem movb (d : BitVec 6) (bi : BitVec 5) : Statement (.movb d bi) :=
  fits_of 43 (0 + d.toNat * 2 ^ 17 + bi.toNat * 2 ^ 12)
    (by show place2 _ _ _ _ _ = _; unfold place2; omega)
    (by have := d.isLt; have := bi.isLt; omega) (by decide) (by decide)

theorem stb (d : BitVec 6) (bi : BitVec 5) (rule : BitVec 3) (f : BitVec 1) : Statement (.stb d bi rule f) :=
  fits_of 43 (2048 + d.toNat * 2 ^ 17 + bi.toNat * 2 ^ 12 + rule.toNat * 2 ^ 8 + f.toNat * 2 ^ 7)
    (by show place4 _ _ _ _ _ _ _ _ _ = _; unfold place4; omega)
    (by have := d.isLt; have := bi.isLt; have := rule.isLt; have := f.isLt; omega) (by decide) (by decide)

theorem capsub (d : BitVec 4) (a : BitVec 4) (b : BitVec 6) : Statement (.capsub d a b) :=
  fits_of 44 (0 + d.toNat * 2 ^ 17 + a.toNat * 2 ^ 11 + b.toNat * 2 ^ 5)
    (by show place3 _ _ _ _ _ _ _ = _; unfold place3; omega)
    (by have := d.isLt; have := a.isLt; have := b.isLt; omega) (by decide) (by decide)

theorem capperm (d : BitVec 4) (a : BitVec 4) (b : BitVec 6) : Statement (.capperm d a b) :=
  fits_of 44 (1 + d.toNat * 2 ^ 17 + a.toNat * 2 ^ 11 + b.toNat * 2 ^ 5)
    (by show place3 _ _ _ _ _ _ _ = _; unfold place3; omega)
    (by have := d.isLt; have := a.isLt; have := b.isLt; omega) (by decide) (by decide)

theorem capget (d : BitVec 6) (a : BitVec 4) (sel : BitVec 6) : Statement (.capget d a sel) :=
  fits_of 44 (2 + d.toNat * 2 ^ 17 + a.toNat * 2 ^ 11 + sel.toNat * 2 ^ 5)
    (by show place3 _ _ _ _ _ _ _ = _; unfold place3; omega)
    (by have := d.isLt; have := a.isLt; have := sel.isLt; omega) (by decide) (by decide)

theorem captag (p : BitVec 6) (a : BitVec 4) : Statement (.captag p a) :=
  fits_of 44 (3 + p.toNat * 2 ^ 17 + a.toNat * 2 ^ 11)
    (by show place2 _ _ _ _ _ = _; unfold place2; omega)
    (by have := p.isLt; have := a.isLt; omega) (by decide) (by decide)

theorem capmint (d : BitVec 4) (a : BitVec 6) : Statement (.capmint d a) :=
  fits_of 44 (4 + d.toNat * 2 ^ 17 + a.toNat * 2 ^ 11)
    (by show place2 _ _ _ _ _ = _; unfold place2; omega)
    (by have := d.isLt; have := a.isLt; omega) (by decide) (by decide)

theorem tld (d : BitVec 6) (cap : BitVec 4) (x : BitVec 6) : Statement (.tld d cap x) :=
  fits_of 45 (0 + d.toNat * 2 ^ 17 + cap.toNat * 2 ^ 13 + x.toNat * 2 ^ 7)
    (by show place3 _ _ _ _ _ _ _ = _; unfold place3; omega)
    (by have := d.isLt; have := cap.isLt; have := x.isLt; omega) (by decide) (by decide)

theorem tst (d : BitVec 6) (cap : BitVec 4) (x : BitVec 6) (rule : BitVec 3) (f : BitVec 1) : Statement (.tst d cap x rule f) :=
  fits_of 45 (64 + d.toNat * 2 ^ 17 + cap.toNat * 2 ^ 13 + x.toNat * 2 ^ 7 + rule.toNat * 2 ^ 3 + f.toNat * 2 ^ 2)
    (by show place5 _ _ _ _ _ _ _ _ _ _ _ = _; unfold place5; omega)
    (by have := d.isLt; have := cap.isLt; have := x.isLt; have := rule.isLt; have := f.isLt; omega) (by decide) (by decide)

theorem tnext (d : BitVec 6) (a : BitVec 6) (cap : BitVec 4) : Statement (.tnext d a cap) :=
  fits_of 46 (0 + d.toNat * 2 ^ 17 + a.toNat * 2 ^ 11 + cap.toNat * 2 ^ 5)
    (by show place3 _ _ _ _ _ _ _ = _; unfold place3; omega)
    (by have := d.isLt; have := a.isLt; have := cap.isLt; omega) (by decide) (by decide)

theorem tcount (d : BitVec 6) (cap : BitVec 4) : Statement (.tcount d cap) :=
  fits_of 46 (1 + d.toNat * 2 ^ 17 + cap.toNat * 2 ^ 5)
    (by show place2 _ _ _ _ _ = _; unfold place2; omega)
    (by have := d.isLt; have := cap.isLt; omega) (by decide) (by decide)

theorem cp (d : BitVec 6) (dst : BitVec 4) (src : BitVec 4) (x : BitVec 6) (size : BitVec 2) : Statement (.cp d dst src x size) :=
  fits_of 48 (0 + d.toNat * 2 ^ 17 + dst.toNat * 2 ^ 13 + src.toNat * 2 ^ 9 + x.toNat * 2 ^ 3 + size.toNat * 2 ^ 1)
    (by show place5 _ _ _ _ _ _ _ _ _ _ _ = _; unfold place5; omega)
    (by have := d.isLt; have := dst.isLt; have := src.isLt; have := x.isLt; have := size.isLt; omega) (by decide) (by decide)

theorem cpt (d : BitVec 6) (a : BitVec 4) (b : BitVec 6) : Statement (.cpt d a b) :=
  fits_of 49 (0 + d.toNat * 2 ^ 17 + a.toNat * 2 ^ 11 + b.toNat * 2 ^ 5)
    (by show place3 _ _ _ _ _ _ _ = _; unfold place3; omega)
    (by have := d.isLt; have := a.isLt; have := b.isLt; omega) (by decide) (by decide)

theorem cpd (d : BitVec 6) (a : BitVec 4) (b : BitVec 6) : Statement (.cpd d a b) :=
  fits_of 49 (1 + d.toNat * 2 ^ 17 + a.toNat * 2 ^ 11 + b.toNat * 2 ^ 5)
    (by show place3 _ _ _ _ _ _ _ = _; unfold place3; omega)
    (by have := d.isLt; have := a.isLt; have := b.isLt; omega) (by decide) (by decide)

theorem cps (d : BitVec 6) (a : BitVec 4) (b : BitVec 6) : Statement (.cps d a b) :=
  fits_of 49 (2 + d.toNat * 2 ^ 17 + a.toNat * 2 ^ 11 + b.toNat * 2 ^ 5)
    (by show place3 _ _ _ _ _ _ _ = _; unfold place3; omega)
    (by have := d.isLt; have := a.isLt; have := b.isLt; omega) (by decide) (by decide)

theorem gath (d : BitVec 6) (a : BitVec 4) (b : BitVec 6) : Statement (.gath d a b) :=
  fits_of 49 (3 + d.toNat * 2 ^ 17 + a.toNat * 2 ^ 11 + b.toNat * 2 ^ 5)
    (by show place3 _ _ _ _ _ _ _ = _; unfold place3; omega)
    (by have := d.isLt; have := a.isLt; have := b.isLt; omega) (by decide) (by decide)

theorem scat (d : BitVec 6) (a : BitVec 4) (b : BitVec 6) : Statement (.scat d a b) :=
  fits_of 49 (4 + d.toNat * 2 ^ 17 + a.toNat * 2 ^ 11 + b.toNat * 2 ^ 5)
    (by show place3 _ _ _ _ _ _ _ = _; unfold place3; omega)
    (by have := d.isLt; have := a.isLt; have := b.isLt; omega) (by decide) (by decide)

theorem mmb (d : BitVec 6) (a : BitVec 4) (b : BitVec 6) : Statement (.mmb d a b) :=
  fits_of 49 (5 + d.toNat * 2 ^ 17 + a.toNat * 2 ^ 11 + b.toNat * 2 ^ 5)
    (by show place3 _ _ _ _ _ _ _ = _; unfold place3; omega)
    (by have := d.isLt; have := a.isLt; have := b.isLt; omega) (by decide) (by decide)

theorem mma (d : BitVec 6) (a : BitVec 4) (b : BitVec 6) : Statement (.mma d a b) :=
  fits_of 49 (6 + d.toNat * 2 ^ 17 + a.toNat * 2 ^ 11 + b.toNat * 2 ^ 5)
    (by show place3 _ _ _ _ _ _ _ = _; unfold place3; omega)
    (by have := d.isLt; have := a.isLt; have := b.isLt; omega) (by decide) (by decide)

theorem mmd (d : BitVec 6) (a : BitVec 4) (b : BitVec 6) : Statement (.mmd d a b) :=
  fits_of 49 (7 + d.toNat * 2 ^ 17 + a.toNat * 2 ^ 11 + b.toNat * 2 ^ 5)
    (by show place3 _ _ _ _ _ _ _ = _; unfold place3; omega)
    (by have := d.isLt; have := a.isLt; have := b.isLt; omega) (by decide) (by decide)

theorem mmz (d : BitVec 6) (a : BitVec 4) (b : BitVec 6) : Statement (.mmz d a b) :=
  fits_of 49 (8 + d.toNat * 2 ^ 17 + a.toNat * 2 ^ 11 + b.toNat * 2 ^ 5)
    (by show place3 _ _ _ _ _ _ _ = _; unfold place3; omega)
    (by have := d.isLt; have := a.isLt; have := b.isLt; omega) (by decide) (by decide)

theorem lease (d : BitVec 6) (a : BitVec 4) (b : BitVec 6) : Statement (.lease d a b) :=
  fits_of 49 (9 + d.toNat * 2 ^ 17 + a.toNat * 2 ^ 11 + b.toNat * 2 ^ 5)
    (by show place3 _ _ _ _ _ _ _ = _; unfold place3; omega)
    (by have := d.isLt; have := a.isLt; have := b.isLt; omega) (by decide) (by decide)

theorem unlease (d : BitVec 6) (a : BitVec 4) (b : BitVec 6) : Statement (.unlease d a b) :=
  fits_of 49 (10 + d.toNat * 2 ^ 17 + a.toNat * 2 ^ 11 + b.toNat * 2 ^ 5)
    (by show place3 _ _ _ _ _ _ _ = _; unfold place3; omega)
    (by have := d.isLt; have := a.isLt; have := b.isLt; omega) (by decide) (by decide)

theorem digest (d : BitVec 6) (a : BitVec 4) (b : BitVec 6) : Statement (.digest d a b) :=
  fits_of 49 (11 + d.toNat * 2 ^ 17 + a.toNat * 2 ^ 11 + b.toNat * 2 ^ 5)
    (by show place3 _ _ _ _ _ _ _ = _; unfold place3; omega)
    (by have := d.isLt; have := a.isLt; have := b.isLt; omega) (by decide) (by decide)

theorem rcp (d : BitVec 6) (a : BitVec 4) (b : BitVec 6) : Statement (.rcp d a b) :=
  fits_of 49 (12 + d.toNat * 2 ^ 17 + a.toNat * 2 ^ 11 + b.toNat * 2 ^ 5)
    (by show place3 _ _ _ _ _ _ _ = _; unfold place3; omega)
    (by have := d.isLt; have := a.isLt; have := b.isLt; omega) (by decide) (by decide)

theorem rsplit (d : BitVec 6) (a : BitVec 4) (b : BitVec 6) : Statement (.rsplit d a b) :=
  fits_of 56 (0 + d.toNat * 2 ^ 17 + a.toNat * 2 ^ 11 + b.toNat * 2 ^ 5)
    (by show place3 _ _ _ _ _ _ _ = _; unfold place3; omega)
    (by have := d.isLt; have := a.isLt; have := b.isLt; omega) (by decide) (by decide)

theorem rmerge (d : BitVec 6) (a : BitVec 4) (b : BitVec 6) : Statement (.rmerge d a b) :=
  fits_of 56 (1 + d.toNat * 2 ^ 17 + a.toNat * 2 ^ 11 + b.toNat * 2 ^ 5)
    (by show place3 _ _ _ _ _ _ _ = _; unfold place3; omega)
    (by have := d.isLt; have := a.isLt; have := b.isLt; omega) (by decide) (by decide)

theorem rinval (d : BitVec 6) (a : BitVec 4) (b : BitVec 6) : Statement (.rinval d a b) :=
  fits_of 56 (2 + d.toNat * 2 ^ 17 + a.toNat * 2 ^ 11 + b.toNat * 2 ^ 5)
    (by show place3 _ _ _ _ _ _ _ = _; unfold place3; omega)
    (by have := d.isLt; have := a.isLt; have := b.isLt; omega) (by decide) (by decide)

theorem rres (d : BitVec 6) (a : BitVec 4) (b : BitVec 6) : Statement (.rres d a b) :=
  fits_of 56 (3 + d.toNat * 2 ^ 17 + a.toNat * 2 ^ 11 + b.toNat * 2 ^ 5)
    (by show place3 _ _ _ _ _ _ _ = _; unfold place3; omega)
    (by have := d.isLt; have := a.isLt; have := b.isLt; omega) (by decide) (by decide)

theorem rmove (d : BitVec 6) (a : BitVec 4) (b : BitVec 6) : Statement (.rmove d a b) :=
  fits_of 56 (4 + d.toNat * 2 ^ 17 + a.toNat * 2 ^ 11 + b.toNat * 2 ^ 5)
    (by show place3 _ _ _ _ _ _ _ = _; unfold place3; omega)
    (by have := d.isLt; have := a.isLt; have := b.isLt; omega) (by decide) (by decide)

theorem bankmode (d : BitVec 6) (a : BitVec 4) (b : BitVec 6) : Statement (.bankmode d a b) :=
  fits_of 56 (5 + d.toNat * 2 ^ 17 + a.toNat * 2 ^ 11 + b.toNat * 2 ^ 5)
    (by show place3 _ _ _ _ _ _ _ = _; unfold place3; omega)
    (by have := d.isLt; have := a.isLt; have := b.isLt; omega) (by decide) (by decide)

theorem rgkill (d : BitVec 6) (a : BitVec 4) (b : BitVec 6) : Statement (.rgkill d a b) :=
  fits_of 56 (6 + d.toNat * 2 ^ 17 + a.toNat * 2 ^ 11 + b.toNat * 2 ^ 5)
    (by show place3 _ _ _ _ _ _ _ = _; unfold place3; omega)
    (by have := d.isLt; have := a.isLt; have := b.isLt; omega) (by decide) (by decide)

theorem rgreset (d : BitVec 6) (a : BitVec 4) (b : BitVec 6) : Statement (.rgreset d a b) :=
  fits_of 56 (7 + d.toNat * 2 ^ 17 + a.toNat * 2 ^ 11 + b.toNat * 2 ^ 5)
    (by show place3 _ _ _ _ _ _ _ = _; unfold place3; omega)
    (by have := d.isLt; have := a.isLt; have := b.isLt; omega) (by decide) (by decide)

theorem rgresume (d : BitVec 6) (a : BitVec 4) (b : BitVec 6) : Statement (.rgresume d a b) :=
  fits_of 56 (8 + d.toNat * 2 ^ 17 + a.toNat * 2 ^ 11 + b.toNat * 2 ^ 5)
    (by show place3 _ _ _ _ _ _ _ = _; unfold place3; omega)
    (by have := d.isLt; have := a.isLt; have := b.isLt; omega) (by decide) (by decide)

theorem rgpri (d : BitVec 6) (a : BitVec 4) (b : BitVec 6) : Statement (.rgpri d a b) :=
  fits_of 56 (9 + d.toNat * 2 ^ 17 + a.toNat * 2 ^ 11 + b.toNat * 2 ^ 5)
    (by show place3 _ _ _ _ _ _ _ = _; unfold place3; omega)
    (by have := d.isLt; have := a.isLt; have := b.isLt; omega) (by decide) (by decide)

theorem rgbud (d : BitVec 6) (a : BitVec 4) (b : BitVec 6) : Statement (.rgbud d a b) :=
  fits_of 56 (10 + d.toNat * 2 ^ 17 + a.toNat * 2 ^ 11 + b.toNat * 2 ^ 5)
    (by show place3 _ _ _ _ _ _ _ = _; unfold place3; omega)
    (by have := d.isLt; have := a.isLt; have := b.isLt; omega) (by decide) (by decide)

theorem fret (d : BitVec 6) (a : BitVec 4) (b : BitVec 6) : Statement (.fret d a b) :=
  fits_of 56 (11 + d.toNat * 2 ^ 17 + a.toNat * 2 ^ 11 + b.toNat * 2 ^ 5)
    (by show place3 _ _ _ _ _ _ _ = _; unfold place3; omega)
    (by have := d.isLt; have := a.isLt; have := b.isLt; omega) (by decide) (by decide)

theorem snap (d : BitVec 6) (a : BitVec 4) (b : BitVec 6) : Statement (.snap d a b) :=
  fits_of 56 (12 + d.toNat * 2 ^ 17 + a.toNat * 2 ^ 11 + b.toNat * 2 ^ 5)
    (by show place3 _ _ _ _ _ _ _ = _; unfold place3; omega)
    (by have := d.isLt; have := a.isLt; have := b.isLt; omega) (by decide) (by decide)

theorem wdarm (d : BitVec 6) (a : BitVec 4) (b : BitVec 6) : Statement (.wdarm d a b) :=
  fits_of 56 (13 + d.toNat * 2 ^ 17 + a.toNat * 2 ^ 11 + b.toNat * 2 ^ 5)
    (by show place3 _ _ _ _ _ _ _ = _; unfold place3; omega)
    (by have := d.isLt; have := a.isLt; have := b.isLt; omega) (by decide) (by decide)

theorem snew (d : BitVec 6) (a : BitVec 4) (b : BitVec 6) : Statement (.snew d a b) :=
  fits_of 56 (14 + d.toNat * 2 ^ 17 + a.toNat * 2 ^ 11 + b.toNat * 2 ^ 5)
    (by show place3 _ _ _ _ _ _ _ = _; unfold place3; omega)
    (by have := d.isLt; have := a.isLt; have := b.isLt; omega) (by decide) (by decide)

theorem sgrow (d : BitVec 6) (a : BitVec 4) (b : BitVec 6) : Statement (.sgrow d a b) :=
  fits_of 56 (15 + d.toNat * 2 ^ 17 + a.toNat * 2 ^ 11 + b.toNat * 2 ^ 5)
    (by show place3 _ _ _ _ _ _ _ = _; unfold place3; omega)
    (by have := d.isLt; have := a.isLt; have := b.isLt; omega) (by decide) (by decide)

theorem gcfg (d : BitVec 6) (a : BitVec 4) (b : BitVec 6) : Statement (.gcfg d a b) :=
  fits_of 56 (16 + d.toNat * 2 ^ 17 + a.toNat * 2 ^ 11 + b.toNat * 2 ^ 5)
    (by show place3 _ _ _ _ _ _ _ = _; unfold place3; omega)
    (by have := d.isLt; have := a.isLt; have := b.isLt; omega) (by decide) (by decide)

theorem launch (d : BitVec 6) (a : BitVec 4) (b : BitVec 6) : Statement (.launch d a b) :=
  fits_of 57 (0 + d.toNat * 2 ^ 17 + a.toNat * 2 ^ 11 + b.toNat * 2 ^ 5)
    (by show place3 _ _ _ _ _ _ _ = _; unfold place3; omega)
    (by have := d.isLt; have := a.isLt; have := b.isLt; omega) (by decide) (by decide)

theorem stepCommit (_l : Nat) (_b : Nat) : Statement (.stepCommit _l _b) :=
  fits_of 0 0 rfl (by decide) (by decide) (by decide)

theorem roundCommit (_l : Nat) : Statement (.roundCommit _l) :=
  fits_of 0 0 rfl (by decide) (by decide) (by decide)

theorem heldCommitRetry (_l : Nat) : Statement (.heldCommitRetry _l) :=
  fits_of 0 0 rfl (by decide) (by decide) (by decide)

theorem launchEnd (_l : Nat) : Statement (.launchEnd _l) :=
  fits_of 0 0 rfl (by decide) (by decide) (by decide)

theorem tokenLanding (_cmd : Nat) : Statement (.tokenLanding _cmd) :=
  fits_of 0 0 rfl (by decide) (by decide) (by decide)

theorem engineOutputLine (_cmd : Nat) : Statement (.engineOutputLine _cmd) :=
  fits_of 0 0 rfl (by decide) (by decide) (by decide)

theorem loadDataReturn (_l : Nat) (_b : Nat) (_f : Nat) : Statement (.loadDataReturn _l _b _f) :=
  fits_of 0 0 rfl (by decide) (by decide) (by decide)

theorem codeLineFill (_core : Nat) (_l : Nat) (_line : Nat) : Statement (.codeLineFill _core _l _line) :=
  fits_of 0 0 rfl (by decide) (by decide) (by decide)

theorem rangeWalk (_core : Nat) (_tenant : Nat) (_va : Nat) : Statement (.rangeWalk _core _tenant _va) :=
  fits_of 0 0 rfl (by decide) (by decide) (by decide)

theorem stagedCommandEnqueue (_cmd : Nat) : Statement (.stagedCommandEnqueue _cmd) :=
  fits_of 0 0 rfl (by decide) (by decide) (by decide)

theorem matrixRowGrant (_port : Nat) : Statement (.matrixRowGrant _port) :=
  fits_of 0 0 rfl (by decide) (by decide) (by decide)

theorem matrixPortGrant (_port : Nat) : Statement (.matrixPortGrant _port) :=
  fits_of 0 0 rfl (by decide) (by decide) (by decide)

theorem engineQuiesceStop (_cmd : Nat) : Statement (.engineQuiesceStop _cmd) :=
  fits_of 0 0 rfl (by decide) (by decide) (by decide)

theorem rcpLineArrival (_msg : RcpLine) : Statement (.rcpLineArrival _msg) :=
  fits_of 0 0 rfl (by decide) (by decide) (by decide)

theorem watchdog (_l : Nat) (_b : Nat) : Statement (.watchdog _l _b) :=
  fits_of 0 0 rfl (by decide) (by decide) (by decide)

theorem timeSliceExpiry (_core : Nat) : Statement (.timeSliceExpiry _core) :=
  fits_of 0 0 rfl (by decide) (by decide) (by decide)

theorem gracePeriodEnd (_l : Nat) (_b : Nat) : Statement (.gracePeriodEnd _l _b) :=
  fits_of 0 0 rfl (by decide) (by decide) (by decide)

theorem placementDecision (_slice : Nat) : Statement (.placementDecision _slice) :=
  fits_of 0 0 rfl (by decide) (by decide) (by decide)

theorem bind (_core : Nat) : Statement (.bind _core) :=
  fits_of 0 0 rfl (by decide) (by decide) (by decide)

theorem unbind (_core : Nat) : Statement (.unbind _core) :=
  fits_of 0 0 rfl (by decide) (by decide) (by decide)

theorem rebind (_core : Nat) : Statement (.rebind _core) :=
  fits_of 0 0 rfl (by decide) (by decide) (by decide)

theorem scoreboardWaitThreshold (_l : Nat) (_b : Nat) (_g : Nat) : Statement (.scoreboardWaitThreshold _l _b _g) :=
  fits_of 0 0 rfl (by decide) (by decide) (by decide)

theorem gtoDemotion (_core : Nat) (_ctx : Nat) : Statement (.gtoDemotion _core _ctx) :=
  fits_of 0 0 rfl (by decide) (by decide) (by decide)

theorem compactorMove (_slice : Nat) : Statement (.compactorMove _slice) :=
  fits_of 0 0 rfl (by decide) (by decide) (by decide)

theorem portDown (_port : Nat) : Statement (.portDown _port) :=
  fits_of 0 0 rfl (by decide) (by decide) (by decide)

theorem hostGateWrite (_off : Nat) (_size : Nat) (_v : BitVec 64) : Statement (.hostGateWrite _off _size _v) :=
  fits_of 0 0 rfl (by decide) (by decide) (by decide)

theorem hostApertureWrite (_off : Nat) (_bytes : List (BitVec 8)) : Statement (.hostApertureWrite _off _bytes) :=
  fits_of 0 0 rfl (by decide) (by decide) (by decide)

theorem hostApertureRead (_off : HostAddr) (_len : Nat) : Statement (.hostApertureRead _off _len) :=
  fits_of 0 0 rfl (by decide) (by decide) (by decide)

theorem rootPortDma (_port : Nat) (_tenant : Nat) (_addr : Nat) (_bytes : List (BitVec 8)) : Statement (.rootPortDma _port _tenant _addr _bytes) :=
  fits_of 0 0 rfl (by decide) (by decide) (by decide)

theorem ltrUpdate (_us : Nat) : Statement (.ltrUpdate _us) :=
  fits_of 0 0 rfl (by decide) (by decide) (by decide)

theorem powerStateEntry (_slice : Nat) : Statement (.powerStateEntry _slice) :=
  fits_of 0 0 rfl (by decide) (by decide) (by decide)

theorem powerWake (_slice : Nat) : Statement (.powerWake _slice) :=
  fits_of 0 0 rfl (by decide) (by decide) (by decide)

theorem clockThrottle (_excess : Bool) : Statement (.clockThrottle _excess) :=
  fits_of 0 0 rfl (by decide) (by decide) (by decide)

theorem coreFailure (_core : Nat) : Statement (.coreFailure _core) :=
  fits_of 0 0 rfl (by decide) (by decide) (by decide)

theorem matrixEngineFailure (_engine : Nat) : Statement (.matrixEngineFailure _engine) :=
  fits_of 0 0 rfl (by decide) (by decide) (by decide)

theorem bootdb (_v : BitVec 64) : Statement (.bootdb _v) :=
  fits_of 0 0 rfl (by decide) (by decide) (by decide)

theorem snaptrig (_v : BitVec 64) : Statement (.snaptrig _v) :=
  fits_of 0 0 rfl (by decide) (by decide) (by decide)

theorem replreq (_v : BitVec 64) : Statement (.replreq _v) :=
  fits_of 0 0 rfl (by decide) (by decide) (by decide)

theorem registerWrite (_off : Nat) (_v : BitVec 64) : Statement (.registerWrite _off _v) :=
  fits_of 0 0 rfl (by decide) (by decide) (by decide)

theorem mailboxUnknownCommand (_code : Nat) : Statement (.mailboxUnknownCommand _code) :=
  fits_of 0 0 rfl (by decide) (by decide) (by decide)

theorem getMeasurements (_idx : Nat) : Statement (.getMeasurements _idx) :=
  fits_of 0 0 rfl (by decide) (by decide) (by decide)

theorem unsupportedRequest (_code : Nat) : Statement (.unsupportedRequest _code) :=
  fits_of 0 0 rfl (by decide) (by decide) (by decide)

theorem softError (_site : ErrorSite) : Statement (.softError _site) :=
  fits_of 0 0 rfl (by decide) (by decide) (by decide)

theorem flitRetry (_port : FlitTry) : Statement (.flitRetry _port) :=
  fits_of 0 0 rfl (by decide) (by decide) (by decide)

theorem engineSourceLine (_cmd : Nat) : Statement (.engineSourceLine _cmd) :=
  fits_of 0 0 rfl (by decide) (by decide) (by decide)

theorem unassignedEncoding (_w : BitVec 32) : Statement (.unassignedEncoding _w) :=
  fits_of 0 0 rfl (by decide) (by decide) (by decide)

theorem issuePolicyChange (_core : Nat) (_policy : IssuePolicy) : Statement (.issuePolicyChange _core _policy) :=
  fits_of 0 0 rfl (by decide) (by decide) (by decide)

theorem podEpisode : Statement .podEpisode :=
  fits_of 0 0 rfl (by decide) (by decide) (by decide)

theorem c3Entry : Statement .c3Entry :=
  fits_of 0 0 rfl (by decide) (by decide) (by decide)

theorem reset : Statement .reset :=
  fits_of 0 0 rfl (by decide) (by decide) (by decide)

theorem snaptrigPin : Statement .snaptrigPin :=
  fits_of 0 0 rfl (by decide) (by decide) (by decide)

theorem registerExportEntry : Statement .registerExportEntry :=
  fits_of 0 0 rfl (by decide) (by decide) (by decide)

theorem registerImportEntry : Statement .registerImportEntry :=
  fits_of 0 0 rfl (by decide) (by decide) (by decide)

theorem joinPodGroup : Statement .joinPodGroup :=
  fits_of 0 0 rfl (by decide) (by decide) (by decide)

theorem removePodMember : Statement .removePodMember :=
  fits_of 0 0 rfl (by decide) (by decide) (by decide)

theorem attachDebugger : Statement .attachDebugger :=
  fits_of 0 0 rfl (by decide) (by decide) (by decide)

theorem detachDebugger : Statement .detachDebugger :=
  fits_of 0 0 rfl (by decide) (by decide) (by decide)

theorem setPartitionLayout : Statement .setPartitionLayout :=
  fits_of 0 0 rfl (by decide) (by decide) (by decide)

theorem tenantSave : Statement .tenantSave :=
  fits_of 0 0 rfl (by decide) (by decide) (by decide)

theorem tenantRestore : Statement .tenantRestore :=
  fits_of 0 0 rfl (by decide) (by decide) (by decide)

theorem writeRangeDescriptor : Statement .writeRangeDescriptor :=
  fits_of 0 0 rfl (by decide) (by decide) (by decide)

theorem getVersion : Statement .getVersion :=
  fits_of 0 0 rfl (by decide) (by decide) (by decide)

theorem getCapabilities : Statement .getCapabilities :=
  fits_of 0 0 rfl (by decide) (by decide) (by decide)

theorem negotiateAlgorithms : Statement .negotiateAlgorithms :=
  fits_of 0 0 rfl (by decide) (by decide) (by decide)

theorem getDigests : Statement .getDigests :=
  fits_of 0 0 rfl (by decide) (by decide) (by decide)

theorem getCertificate : Statement .getCertificate :=
  fits_of 0 0 rfl (by decide) (by decide) (by decide)

theorem challenge : Statement .challenge :=
  fits_of 0 0 rfl (by decide) (by decide) (by decide)

end Sys2Proof.Laws.Fits
end

