-- ==== Sys2Proof/Tests/Slice0.lean ====
section
/-! SUPPORT. Tests of the model against the spec's own words and examples, and a witness for the hypotheses of each
statement. -/

namespace Sys2Proof.Tests

open Sys2Proof Sys2Proof.Machine

set_option Elab.async false

/-! ## Well-formedness: each check refuses an ill-formed term -/

theorem test_wf_slot : (Instr.br 0 10).wf = false ∧ (Instr.call 1 0 10).wf = false ∧ (Instr.br 0 9).wf = true := by decide
theorem test_wf_spawn : (Instr.spawn 57 0 0).wf = false ∧ (Instr.spawn 0 0 10).wf = false ∧ (Instr.spawn 56 0 9).wf = true := by
  decide
theorem test_wf_pair : (Instr.ladd 1 2 4).wf = false ∧ (Instr.ladd 2 3 4).wf = false ∧ (Instr.ladd 2 4 5).wf = false
    ∧ (Instr.dabs 2 3).wf = false ∧ (Instr.lballot 3 0).wf = false ∧ (Instr.bmpre 1 3 0).wf = false
    ∧ (Instr.tcount 1 0).wf = false ∧ (Instr.ladd 2 4 6).wf = true := by decide
theorem test_wf_spec : (Instr.icmp 48 0 0 0).wf = false ∧ (Instr.pand 48 0 0).wf = false ∧ (Instr.fcmp 63 0 0 0).wf = false
    ∧ (Instr.lvoteany 48 0).wf = false ∧ (Instr.captag 50 0).wf = false ∧ (Instr.icmp 47 0 0 0).wf = true := by decide
theorem test_wf_cond : (Instr.icmp 1 0 0 10).wf = false ∧ (Instr.icmpi 1 0 12 0).wf = false ∧ (Instr.lcmp 1 0 0 15).wf = false
    ∧ (Instr.icmp 1 0 0 9).wf = true := by decide
theorem test_wf_special : (Instr.movs 0 25).wf = false ∧ (Instr.movsw 17 0).wf = false ∧ (Instr.movsw 22 0).wf = false
    ∧ (Instr.movs 0 24).wf = true ∧ (Instr.movsw 18 0).wf = true ∧ (Instr.movsw 23 0).wf = true := by decide
theorem test_wf_cvt : (Instr.cvt 0 0 12 0 0).wf = false ∧ (Instr.cvt 0 0 0 12 0).wf = false ∧ (Instr.cvt 0 0 0 0 5).wf = false
    ∧ (Instr.cvt 1 0 6 0 0).wf = false ∧ (Instr.cvt 0 1 0 11 0).wf = false ∧ (Instr.fix 1 0 0 0).wf = false
    ∧ (Instr.unfix 0 1 0 0).wf = false ∧ (Instr.cvt 1 1 8 10 4).wf = true := by decide
theorem test_wf_load : (Instr.ld 0 0 0 6 0 0).wf = false ∧ (Instr.ld 1 0 0 4 0 0).wf = false ∧ (Instr.ld 2 0 0 5 0 0).wf = false
    ∧ (Instr.ld 0 0 0 1 3 0).wf = false ∧ (Instr.ld 0 0 0 3 0 1).wf = false ∧ (Instr.ld 0 0 0 2 2 1).wf = true := by decide
theorem test_wf_store : (Instr.st 0 0 0 6 0 0).wf = false ∧ (Instr.st 1 0 0 4 0 0).wf = false ∧ (Instr.st 0 0 0 0 2 0).wf = false
    ∧ (Instr.st 0 0 0 3 0 1).wf = false ∧ (Instr.st 0 0 0 1 3 1).wf = false ∧ (Instr.st 0 0 0 4 4 1).wf = true := by decide
theorem test_wf_fadr : (Instr.fadr 0 0 0 2 0).wf = false ∧ (Instr.fadr 1 0 0 4 0).wf = false ∧ (Instr.fadr 0 0 0 4 1).wf = false
    ∧ (Instr.fadr 0 0 0 3 1).wf = true := by decide
theorem test_wf_blockreg : (Instr.stb 0 0 7 0).wf = false ∧ (Instr.stb 0 0 0 1).wf = false ∧ (Instr.stb 0 0 3 1).wf = true := by
  decide
theorem test_wf_cap : (Instr.capsub 0 0 61).wf = false ∧ (Instr.capsub 0 0 1).wf = false ∧ (Instr.capget 0 0 6).wf = false
    ∧ (Instr.capget 0 1 16).wf = false ∧ (Instr.capget 16 0 17).wf = false ∧ (Instr.capmint 0 61).wf = false
    ∧ (Instr.capsub 0 0 60).wf = true := by decide
theorem test_wf_sparse : (Instr.tld 0 0 61).wf = false ∧ (Instr.tst 0 0 61 0 0).wf = false ∧ (Instr.tst 0 0 0 7 0).wf = false
    ∧ (Instr.tnext 1 0 0).wf = false ∧ (Instr.tld 0 0 60).wf = true := by decide
theorem test_wf_cp : (Instr.cp 0 0 0 63 0).wf = false ∧ (Instr.cp 0 0 0 0 3).wf = false ∧ (Instr.cp 0 0 0 62 2).wf = true := by
  decide

/-! ## Decoding: words that the spec writes out

The words stand in the spec beside their source line: 04 (R83, R94), 05, 06, 07, 09 to 11, 13 to 18, 20, 22 and 24. -/

/-- An instruction that stands alone in its chain. -/
def alone (i : Instr) : Except DecodeErr Decoded := .ok { chain := false, stall := 0, body := .instr i }
/-- An instruction with a stall count. -/
def stalled (k : Nat) (i : Instr) : Except DecodeErr Decoded := .ok { chain := false, stall := k, body := .instr i }
/-- A modifier word. -/
def modified (gq : BitVec 4) (pb : BitVec 5) (c : BitVec 6) (kind : BitVec 2) : Except DecodeErr Decoded :=
  .ok { chain := true, stall := 0, body := .mods { gn := false, gq := gq, pa := 0, pb := pb, c := c, kind := kind } }

theorem test_decode_misc : decodeWord 0x00000000 = alone .nop ∧ decodeWord 0x00000001 = alone .yield := by decide
theorem test_decode_sync : decodeWord 0x01000000 = alone .stop ∧ decodeWord 0x01000021 = alone (.rstopGated 0)
    ∧ decodeWord 0x01000821 = alone (.rstopGated 1) ∧ decodeWord 0x01000842 = alone (.gadd 1 2) := by decide
theorem test_decode_transfers : decodeWord 0x01FFFFF2 = alone (.br (-1) 2) ∧ decodeWord 0x01800003 = alone (.br 0 3) := by decide
theorem test_decode_integer : decodeWord 0x042041E1 = alone (.isub 16 8 15) ∧ decodeWord 0x642041E1 = stalled 3 (.isub 16 8 15)
    ∧ decodeWord 0x04228A29 = alone (.imaxn 17 17 17) ∧ decodeWord 0x04B8D00B = alone (.lneg 28 26) := by decide
theorem test_decode_logic : decodeWord 0x05124A80 = alone (.and 9 9 20) := by decide
/-- An `lcmp` of the odd register v3 is no pair (R87, R140). -/
theorem test_decode_compares : decodeWord 0x05C41886 = alone (.icmp 0x22 3 4 6)
    ∧ decodeWord 0x05C41896 = .error .illegalField ∧ decodeWord 0x05C42096 = alone (.lcmp 0x22 4 4 6) := by decide
theorem test_decode_predicates : decodeWord 0x068820A3 = alone (.pandn 4 4 5) ∧ decodeWord 0x06801887 = alone (.psetw 3 4) := by
  decide
theorem test_decode_moves : decodeWord 0x06100002 = alone (.movs 8 0) ∧ decodeWord 0x060090A3 = alone (.movsw 18 5) := by decide
theorem test_decode_immediates : decodeWord 0x0A0A3207 = alone (.shri 5 6 7) ∧ decodeWord 0x6A1E7801 = stalled 3 (.shli 15 15 1)
    ∧ decodeWord 0x0B125678 = alone (.movi 9 0x5678) ∧ decodeWord 0x0B92091A = alone (.movhi 9 0x091A)
    ∧ decodeWord 0x681867FF = stalled 3 (.iaddi 12 12 (-1)) ∧ decodeWord 0x0AAA63BF = alone (.icmpi 0x15 12 7 63)
    ∧ decodeWord 0x0A84D87F = alone (.icmpi 2 27 0 (-1)) := by decide
theorem test_decode_lanes : decodeWord 0x10282803 = alone (.lballot 20 5) ∧ decodeWord 0x10145980 = alone (.lshfl 10 11 12)
    ∧ decodeWord 0x109461C0 = alone (.bxpos 10 12 14) := by decide
theorem test_decode_floats : decodeWord 0x0C0828C3 = alone (.ffma 4 5 6) ∧ decodeWord 0x0C12500B = alone (.fsqrt 9 10)
    ∧ decodeWord 0x0C228012 = alone (.fkey 17 16) ∧ decodeWord 0x0C841882 = alone (.fcmp 2 3 4 2)
    ∧ decodeWord 0x0C8420CA = alone (.dcmp 2 4 6 2) ∧ decodeWord 0x0D083103 = alone (.dfma 4 6 8)
    ∧ decodeWord 0x0D8828C3 = alone (.hfma2 4 5 6) ∧ decodeWord 0x0DA28006 = alone (.hkey2 17 16) := by decide
theorem test_decode_conversions : decodeWord 0x0E0E3054 = alone (.cvt 7 6 0 10 4) ∧ decodeWord 0x0E1435D0 = alone (.cvt 10 6 11 10 0)
    ∧ decodeWord 0x0EB4C820 = alone (.fix 26 25 0 32) ∧ decodeWord 0x0EB2D420 = alone (.unfix 25 26 0 32) := by decide
theorem test_decode_memory : decodeWord 0x14064221 = alone (.ld 3 2 4 2 0 1) ∧ decodeWord 0x14180450 = alone (.ld 12 0 8 5 0 0)
    ∧ decodeWord 0x148C0235 = alone (.st 6 0 4 3 2 1) ∧ decodeWord 0x14A64B38 = alone (.st 19 2 22 3 4 0)
    ∧ decodeWord 0x150A43B6 = alone (.fadr 5 2 7 3 0) := by decide
theorem test_decode_capabilities : decodeWord 0x16081280 = alone (.capsub 4 2 20) ∧ decodeWord 0x16082301 = alone (.capperm 4 4 24)
    ∧ decodeWord 0x16042003 = alone (.captag 2 4) := by decide
theorem test_decode_sparse : decodeWord 0x16A86800 = alone (.tld 20 3 16) ∧ decodeWord 0x16AC6958 = alone (.tst 22 3 18 3 0)
    ∧ decodeWord 0x16A86864 = alone (.tst 20 3 16 4 1) ∧ decodeWord 0x1734C060 = alone (.tnext 26 24 3)
    ∧ decodeWord 0x17340061 = alone (.tcount 26 3) := by decide
theorem test_decode_engines : decodeWord 0x18280434 = alone (.cp 20 0 2 6 2) := by decide
theorem test_decode_commands : decodeWord 0x18BA02E1 = alone (.cpd 29 0 23) ∧ decodeWord 0x18980083 = alone (.gath 12 0 4)
    ∧ decodeWord 0x189A0084 = alone (.scat 13 0 4) ∧ decodeWord 0x18BC0486 = alone (.mma 30 0 36) := by decide
theorem test_decode_system : decodeWord 0x1C140080 = alone (.rsplit 10 0 4) ∧ decodeWord 0x1C1C0084 = alone (.rmove 14 0 4)
    ∧ decodeWord 0x1C240286 = alone (.rgkill 18 0 20) ∧ decodeWord 0x1C14008B = alone (.fret 10 0 4)
    ∧ decodeWord 0x1C1E008E = alone (.snew 15 0 4) ∧ decodeWord 0x1C940080 = alone (.launch 10 0 4) := by decide
theorem test_decode_modifiers : decodeWord 0x8080001E = modified 0 0 7 2 ∧ decodeWord 0x80800005 = modified 0 0 1 1
    ∧ decodeWord 0x80880000 = modified 2 0 0 0 ∧ decodeWord 0x80800100 = modified 0 1 0 0 := by decide
/-- Words laid out field by field from R78 to R82 under their majors of R94: `brk`, `trap` 0x123, `exit`, `gread`, `call`, `brx`,
`callx`, `spawn`, `stb` and `movb`, `capmint`. -/
theorem test_decode_laid_out :
    decodeWord 2 = alone .brk ∧ decodeWord (4 * 2 ^ 11 + 35 * 2 ^ 5 + 3) = alone (.trap 0x123) ∧ decodeWord 5 = alone .exit
    ∧ decodeWord (2 * 2 ^ 23 + 9 * 2 ^ 17 + 3 * 2 ^ 11 + 3) = alone (.gread 9 3)
    ∧ decodeWord (4 * 2 ^ 23 + 8 * 2 ^ 17 + 1 * 2 ^ 4 + 9) = alone (.call 8 1 9)
    ∧ decodeWord (5 * 2 ^ 23 + 7 * 2 ^ 11) = alone (.brx 7) ∧ decodeWord (5 * 2 ^ 23 + 8 * 2 ^ 17 + 7 * 2 ^ 11 + 1) = alone (.callx 8 7)
    ∧ decodeWord (6 * 2 ^ 23 + 8 * 2 ^ 17 + 1 * 2 ^ 4 + 9) = alone (.spawn 8 1 9)
    ∧ decodeWord (0x2B * 2 ^ 23 + 8 * 2 ^ 17 + 17 * 2 ^ 12 + 2 ^ 11 + 3 * 2 ^ 8 + 2 ^ 7) = alone (.stb 8 17 3 1)
    ∧ decodeWord (0x2B * 2 ^ 23 + 8 * 2 ^ 17 + 17 * 2 ^ 12) = alone (.movb 8 17)
    ∧ decodeWord (0x2C * 2 ^ 23 + 3 * 2 ^ 17 + 8 * 2 ^ 11 + 4) = alone (.capmint 3 8) := by decide
/-- R77, R95: a field that must be zero, and a word that R94 does not assign. -/
theorem test_decode_refused : decodeWord 0x00000020 = .error .illegalField ∧ decodeWord 0x00000006 = .error .illegalOpcode
    ∧ decodeWord 0x03800000 = .error .illegalOpcode ∧ decodeWord 0x0180000A = .error .illegalField := by decide

/-! ## One step of one word -/

/-- The placed word's chain is open. -/
def opened (s : State) : State :=
  match s.picked with
  | some r => s.openChain r
  | none => s

/-- The word of an instruction. -/
def wordOf (i : Instr) : Nat := encodeWord false 0 i

/-- Reset with a word placed, its launch and its fibre changed. -/
def placed (i : Instr) (l : Launch → Launch) (f : Fibre → Fibre) : State :=
  (State.reset.placeWord (wordOf i)).modLaunch 1 fun x =>
    let y := l x
    { y with blockList := y.blockList.map fun b => { b with fibres := b.fibres.map f } }

/-- Registers set before the word. -/
def setRegs (ws : List (Nat × Nat)) (f : Fibre) : Fibre :=
  { f with regs := ws.foldl (fun rs x => rs.set x.1 (BitVec.ofNat 32 x.2)) f.regs }

/-- The only fibre. -/
def fibreOf (s : State) : Option Fibre := ((s.launch? 1).bind (·.block? 0)).bind (·.fibre? 0)

/-- What one step leaves, read by `p`. -/
def reads {α : Type} (o : Out) (p : State → α) : Option α :=
  match o with
  | .next s => some (p s)
  | _ => none

/-- Register n of the fibre after one step of the word, on registers given. -/
def regAfter (i : Instr) (ws : List (Nat × Nat)) (n : Nat) : Option Nat :=
  (reads (step (placed i id (setRegs ws))) fun s => (fibreOf s).map fun f => (f.reg n).toNat).join

/-- Predicate q of the fibre after one step. -/
def predAfter (i : Instr) (ws : List (Nat × Nat)) (q : Nat) : Option Bool :=
  (reads (step (placed i id (setRegs ws))) fun s => (fibreOf s).map fun f => f.pred q).join

/-! R136 and R137: saturation, the unsigned high half, |−2^31|, carries between the halves of a pair. -/
theorem test_iadd_wraps : regAfter (.iadd 3 1 2) [(1, 0xFFFFFFFF), (2, 2)] 3 = some 1 := by decide +kernel
theorem test_isub : regAfter (.isub 3 1 2) [(1, 5), (2, 7)] 3 = some 0xFFFFFFFE := by decide +kernel
theorem test_imulhi : regAfter (.imulhi 3 1 2) [(1, 0xFFFFFFFF), (2, 2)] 3 = some 0xFFFFFFFF := by decide +kernel
theorem test_imulhin : regAfter (.imulhin 3 1 2) [(1, 0xFFFFFFFF), (2, 2)] 3 = some 1 := by decide +kernel
theorem test_imad : regAfter (.imad 3 1 2) [(1, 3), (2, 4), (3, 5)] 3 = some 17 := by decide +kernel
theorem test_imin : regAfter (.imin 3 1 2) [(1, 0xFFFFFFFF), (2, 1)] 3 = some 0xFFFFFFFF := by decide +kernel
theorem test_imaxn : regAfter (.imaxn 3 1 2) [(1, 0xFFFFFFFF), (2, 1)] 3 = some 0xFFFFFFFF := by decide +kernel
theorem test_iabs_min : regAfter (.iabs 3 1) [(1, 0x80000000)] 3 = some 0x80000000 := by decide +kernel
theorem test_iadds : regAfter (.iadds 3 1 2) [(1, 0x7FFFFFFF), (2, 1)] 3 = some 0x7FFFFFFF := by decide +kernel
theorem test_isubsn : regAfter (.isubsn 3 1 2) [(1, 1), (2, 2)] 3 = some 0 := by decide +kernel
theorem test_ladd_carries : regAfter (.ladd 4 6 8) [(6, 0xFFFFFFFF), (8, 1)] 5 = some 1 := by decide +kernel
theorem test_lmul : regAfter (.lmul 4 6 8) [(6, 0x10000), (8, 0x10000)] 5 = some 1 := by decide +kernel
theorem test_lsra : regAfter (.lsra 4 6 8) [(7, 0x80000000), (8, 32)] 4 = some 0x80000000 := by decide +kernel
theorem test_lshl : regAfter (.lshl 4 6 8) [(6, 1), (8, 97)] 5 = some 2 := by decide +kernel

/-! R138 and R139, with the example of R139. -/
theorem test_andn : regAfter (.andn 3 1 2) [(1, 0xFF), (2, 0x0F)] 3 = some 0xF0 := by decide +kernel
theorem test_shl_mod32 : regAfter (.shl 3 1 2) [(1, 1), (2, 33)] 3 = some 2 := by decide +kernel
theorem test_rotr : regAfter (.rotr 3 1 2) [(1, 1), (2, 1)] 3 = some 0x80000000 := by decide +kernel
theorem test_clz : regAfter (.clz 3 1) [(1, 0)] 3 = some 32 := by decide +kernel
theorem test_ctz : regAfter (.ctz 3 1) [(1, 0x100)] 3 = some 8 := by decide +kernel
theorem test_brev : regAfter (.brev 3 1) [(1, 2)] 3 = some 0x40000000 := by decide +kernel
theorem test_bfe : regAfter (.bfe 3 1 2) [(1, 0xF0A5), (2, 0x0804)] 3 = some 0x0A := by decide +kernel
theorem test_bfe_clipped : regAfter (.bfe 3 1 2) [(1, 0xF0A5), (2, 0x081C)] 3 = some 0 := by decide +kernel
theorem test_bfes : regAfter (.bfes 3 1 2) [(1, 0xF0A5), (2, 0x0808)] 3 = some 0xFFFFFFF0 := by decide +kernel
theorem test_bfi : regAfter (.bfi 3 1 2) [(1, 0xAB), (2, 0x0408), (3, 0xFFFFFFFF)] 3 = some 0xFFFFFBFF := by decide +kernel
theorem test_bswap : regAfter (.bswap 3 1) [(1, 0x11223344)] 3 = some 0x44332211 := by decide +kernel

/-! R140 to R146. -/
theorem test_icmp_signed : predAfter (.icmp 1 3 4 2) [(3, 0xFFFFFFFF), (4, 0)] 1 = some true := by decide +kernel
theorem test_icmp_unsigned : predAfter (.icmp 1 3 4 6) [(3, 0xFFFFFFFF), (4, 0)] 1 = some false := by decide +kernel
theorem test_icmp_q0 : predAfter (.icmp 0 3 4 1) [(3, 1)] 0 = some true := by decide +kernel
theorem test_icmpi_ltn : predAfter (.icmpi 1 3 6 (-1)) [(3, 0xFFFFFFFF)] 1 = some false := by decide +kernel
theorem test_lcmp : predAfter (.lcmp 1 4 6 4) [(5, 1)] 1 = some true := by decide +kernel
theorem test_iaddi : regAfter (.iaddi 3 1 (-1)) [] 3 = some 0xFFFFFFFF := by decide +kernel
theorem test_srai : regAfter (.srai 3 1 4) [(1, 0x80000000)] 3 = some 0xF8000000 := by decide +kernel
theorem test_movi : regAfter (.movi 9 0x10000) [] 9 = some 0xFFFF0000 := by decide +kernel
theorem test_movhi : regAfter (.movhi 9 0x091A) [(9, 0x5678)] 9 = some 0x12345678 := by decide +kernel
theorem test_isel : regAfter (.isel 3 1 2) [(1, 7), (2, 8), (3, 0)] 3 = some 8 := by decide +kernel
theorem test_movs_shape : regAfter (.movs 3 11) [] 3 = some 1 := by decide +kernel
theorem test_pword : regAfter (.pword 3) [] 3 = some 1 := by decide +kernel
theorem test_psetw : predAfter (.psetw 3 4) [(3, 0x8000), (4, 0xFFFF)] 15 = some true := by decide +kernel
theorem test_pnot : predAfter (.pnot 5 5) [] 5 = some true := by decide +kernel

/-! R147 and R148 with the latter's examples. -/
theorem test_lballot : regAfter (.lballot 20 5) [(5, 3)] 20 = some 1 := by decide +kernel
theorem test_lfirst_none : regAfter (.lfirst 23 5) [] 23 = some 64 := by decide +kernel
theorem test_bxpos : regAfter (.bxpos 10 12 14) [(12, 0b1011), (14, 2)] 10 = some 3 := by decide +kernel
theorem test_bxpos_none : regAfter (.bxpos 10 12 14) [(12, 0b1011), (14, 3)] 10 = some 64 := by decide +kernel
theorem test_bxcnt : regAfter (.bxcnt 10 12 14) [(12, 0b1011), (14, 0b0111)] 10 = some 2 := by decide +kernel
theorem test_bmpre : regAfter (.bmpre 10 12 14) [(12, 0b1011), (14, 200)] 10 = some 3 := by decide +kernel

/-! The examples of R182, R184's family, R185, R188 and R190. -/
theorem test_fmul_tie : regAfter (.fmul 3 1 2) [(1, 0x3F800800), (2, 0x3F800800)] 3 = some 0x3F801000 := by decide +kernel
theorem test_ffma_once : regAfter (.ffma 3 1 2) [(1, 0x3F800800), (2, 0x3F800800), (3, 0xBF800000)] 3 = some 0x3A000400 := by decide +kernel
theorem test_fadd_opposite : regAfter (.fadd 3 1 2) [(1, 0x7F800000), (2, 0xFF800000)] 3 = some 0x7FC00000 := by decide +kernel
theorem test_fmin_zeros : regAfter (.fmin 3 1 2) [(1, 0), (2, 0x80000000)] 3 = some 0x80000000 := by decide +kernel
theorem test_fneg_nan : regAfter (.fneg 3 1) [(1, 0x7FC01234)] 3 = some 0xFFC01234 := by decide +kernel
theorem test_fkey : regAfter (.fkey 3 1) [(1, 0xFFC01234)] 3 = some 0x003FEDCB := by decide +kernel
theorem test_fsinpi : regAfter (.fsinpi 3 1) [(1, 0xC0000000)] 3 = some 0x80000000 := by decide +kernel
theorem test_fcospi : regAfter (.fcospi 3 1) [(1, 0x3F000000)] 3 = some 0 := by decide +kernel
theorem test_fdiv : regAfter (.fdiv 3 1 2) [(1, 0x40C00000), (2, 0x40000000)] 3 = some 0x40400000 := by decide +kernel
theorem test_fsqrt : regAfter (.fsqrt 3 1) [(1, 0x40800000)] 3 = some 0x40000000 := by decide +kernel
theorem test_fcmp_zeros : predAfter (.fcmp 2 3 4 0) [(4, 0x80000000)] 2 = some true := by decide +kernel
theorem test_fcmp_nan : predAfter (.fcmp 2 3 4 1) [(3, 0x3F800000), (4, 0x7FC00000)] 2 = some true := by decide +kernel
theorem test_dadd : regAfter (.dadd 4 6 8) [(7, 0x3FF00000), (9, 0x3FF00000)] 5 = some 0x40000000 := by decide +kernel
theorem test_hadd2 : regAfter (.hadd2 3 1 2) [(1, 0x3C007BFF), (2, 0x3C004C00)] 3 = some 0x40007C00 := by decide +kernel
theorem test_cvt_f16 : regAfter (.cvt 5 6 8 10 0) [(6, 0xC0200000)] 5 = some 0xC100 := by decide +kernel
theorem test_cvt_odd : regAfter (.cvt 7 6 0 10 4) [(6, 0xC0200000)] 7 = some 0xFFFFFFFD := by decide +kernel
theorem test_fix : regAfter (.fix 20 5 0 32) [(5, 0xBEC00000)] 20 = some 0xA0000000 := by decide +kernel
theorem test_unfix_up : regAfter (.unfix 6 20 2 32) [(20, 0x20000002), (21, 1)] 6 = some 0x3F900001 := by decide +kernel

/-- A capability in a quad of the fibre. -/
def giveCap (q : Nat) (c : Cap) (f : Fibre) : Fibre :=
  { f with regs := (List.range 4).foldl (fun rs k => rs.set (4 * q + k) (BitVec.ofNat 32 (c.num / 2 ^ (32 * k)))) f.regs,
           tags := f.tags ||| BitVec.ofNat 16 (2 ^ q) }

/-- A capability without an object. -/
def capOn (space base len perm : Nat) : Cap := { base := base, len := len, space := space, perm := perm, objid := 0, zero := 0 }

/-- Private memory of 128 bytes and scratch of 1 KiB, four gates, a spawn budget. -/
def roomy (l : Launch) : Launch :=
  { l with privSize := 128, scratchSize := 1024, gates := 4, spawns := 1,
           blockList := l.blockList.map fun b => { b with spawnLeft := 1, gateSeen := [[0], [0], [0], [0]] } }

/-- A second range of the tenant: 64 KiB of data at virtual address 64 KiB, in granule 2 (R315). -/
def withData (s : State) : State :=
  let d := descOf { gen := 0, tenant := 1, part := false, space := 0, perm := 3, pbase := 2, limit := 2, vbase := 1, bitmap := 0, word := none }
  { s with mem := s.mem.setBytes 32 (leBytes 32 d), owners := s.owners ++ [(2, 1)],
           tenants := s.tenants.map fun t => { t with ndir := 2 } }

/-- The word's chain is open, with room, a data range, and the fibre as `f` makes it. -/
def at1 (i : Instr) (f : Fibre → Fibre) : State := opened (withData (placed i roomy f))

/-- What a word's `exec` leaves in the fibre. -/
def fibreAfter {α : Type} (i : Instr) (f : Fibre → Fibre) (p : Fibre → α) : Option α :=
  (reads (exec i (at1 i f)) fun s => (fibreOf s).map p).join

/-! R201, R202, R45: a private store and load; a scratch store waits as one contribution and a global one names its physical
address; `fadr` leaves its register pending. -/
theorem test_store_private : fibreAfter (.st 9 1 8 3 0 0) (giveCap 1 (capOn 2 0 128 3) ∘ setRegs [(9, 0x11223344), (8, 1)])
    (fun f => Memory.bytes f.privMem 3 3) = some [0, 0x44, 0x33] := by decide +kernel
theorem test_load_nibble_signed : fibreAfter (.ld 9 1 8 0 0 1)
    ((fun f => { f with privMem := [(0, 0x8F)] }) ∘ giveCap 1 (capOn 2 0 128 3) ∘ setRegs [(8, 1)])
    (fun f => f.loads.map PendLoad.regs) = some [[(9, 0xFFFFFFF8)]] := by decide +kernel
theorem test_store_global : (reads (exec (.st 9 1 8 3 0 0)
    (at1 (.st 9 1 8 3 0 0) (giveCap 1 (capOn 0 0x10000 64 3) ∘ setRegs [(9, 7), (8, 2)])))
    fun s => ((s.launch? 1).bind (·.block? 0)).map fun b => b.contribs.map fun c => (c.addr, c.phys, c.value, c.size))
      = some (some [(0x10008, 0x20008, 7, 4)]) := by decide +kernel
theorem test_fadr_pending : fibreAfter (.fadr 9 1 8 3 0) (giveCap 1 (capOn 1 0 64 3) ∘ setRegs [(8, 2)])
    (fun f => f.fadrs.map PendFadr.reg) = some [9] := by decide +kernel
/-! R197: tag, permission, bounds, alignment, in that order. -/
def parksOf (i : Instr) (f : Fibre → Fibre) : Option (List FaultCode) :=
  reads (exec i (at1 i f)) fun s => (s.issue.map fun is => is.parks.map fun x => x.2.1).getD []
theorem test_cap_tag : parksOf (.ld 9 1 8 3 0 0) id = some [.capTag] := by decide +kernel
theorem test_cap_perm : parksOf (.st 9 1 8 3 0 0) (giveCap 1 (capOn 2 0 128 1)) = some [.capPerm] := by decide +kernel
theorem test_cap_bounds : parksOf (.ld 9 1 8 3 0 0) (giveCap 1 (capOn 2 0 128 1) ∘ setRegs [(8, 32)]) = some [.capBounds] := by
  decide +kernel
theorem test_misaligned : parksOf (.ld 9 1 8 3 0 0) (giveCap 1 (capOn 2 2 64 1)) = some [.misaligned] := by decide +kernel

/-! The example of R207 to R209: `capsub` and then `capperm`; R211. -/
theorem test_capsub : fibreAfter (.capsub 4 2 20)
    (giveCap 2 (capOn 0 0x4000000000 576 0x33) ∘ setRegs [(20, 512), (22, 64)])
    (fun f => ([16, 17, 18, 19].map fun n => (f.reg n).toNat, f.tag 4))
      = some ([0x200, 0x400040, 0x30000000, 3], true) := by decide +kernel
theorem test_capperm : fibreAfter (.capperm 4 4 24) (giveCap 4 (capOn 0 0x4000000200 64 0x33) ∘ setRegs [(24, 6)])
    (fun f => ([16, 17, 18, 19].map fun n => (f.reg n).toNat, f.tag 4))
      = some ([0x200, 0x400040, 0x60000000, 0], true) := by decide +kernel
/-- R193: `capmint` writes bit 7 of the permissions as 0. -/
theorem test_capmint : fibreAfter (.capmint 4 8) (setRegs [(9, 0x400000), (10, 0x30000000), (11, 0xB)])
    (fun f => ([16, 17, 18, 19].map fun n => (f.reg n).toNat, f.tag 4)) = some ([0, 0x400000, 0x30000000, 3], true) := by
  decide +kernel
theorem test_register_write_clears_tag : fibreAfter (.iaddi 16 16 4) (giveCap 4 (capOn 0 0x4000000200 64 0x33)) (fun f => f.tag 4)
    = some false := by decide +kernel

/-! Control words through a whole step: R122, R124, R126, R128, R95; code begins at offset 8. -/
theorem test_step_goes_on : (reads (step (placed .nop id id)) fun s => (s.issue.map fun is => (is.pc, is.pos), (fibreOf s).map Fibre.pc))
    = some (none, some 8) := by decide +kernel
theorem test_exit : fibreAfter .exit id (fun f => f.ctl.map Prod.fst) = some (some .exit) := by decide +kernel
theorem test_branch : fibreAfter (.br 0 3) id (fun f => f.ctl.map Prod.fst) = some (some (.jump 44)) := by decide +kernel
theorem test_call_links : fibreAfter (.call 5 0 3) id (fun f => f.reg 5) = some 20 := by decide +kernel
theorem test_trap_vector : (({ (default : Fibre) with ctl := some (.trap .trapCode 7, 3, 0) } : Fibre).endPacket 8 0 0x80 false)
    = .goes { (default : Fibre) with trap := ⟨true, 20, 0x1A, 7, 0⟩, trapSaved := some default, pc := 0x80, arrival := .transfer 8 } := by
  decide +kernel
theorem test_unassigned : (reads (exec (.unassignedEncoding 6) (at1 .nop id)) fun s => s.issue.map fun is => is.parks.map fun x => x.2.1)
    = some (some [.illegalOpcode]) := by decide +kernel
/-! R48's worked example: `.low` over three fibres. -/
def wrote (fibre addr size value : Nat) : Contrib :=
  { space := .scratch, addr := addr, size := size, nib := none, value := value, tag := false, rule := 0, flt := false,
    key := ⟨0, 0, fibre, 0, 0⟩, wo := false, phys := 0, dest := none, opened := 0, issued := 0 }
theorem test_low : (List.range 4).map (newByte true 0 (fun _ => 0) (fun _ => 0)
    (sortKeys [wrote 5 0 4 0x11111111, wrote 2 2 1 0xAA, wrote 9 0 2 0xBBBB])) = [0x11, 0x11, 0xAA, 0x11] := by decide +kernel
/-- R53: a `.x4` that meets a `.x8` of another rule takes the whole byte, which keeps its start value. -/
theorem test_collision_byte : (List.range 2).map (newByte true 0 (fun _ => 0x55) (fun _ => 0)
    [{ wrote 1 0 1 3 with nib := some 0, rule := 6 }, { wrote 2 0 2 0xBBBB with rule := 0 }]) = [0x55, 0xBB] := by decide +kernel
/-! R53's neighbour R50: integer `.acc` adds to the start value modulo the element's size. -/
theorem test_acc : arithValue 3 4 false 10 [4, 7] = 21 ∧ arithValue 2 1 false 10 [255, 2] = 1
    ∧ arithValue 4 4 false 0 [0xFFFFFFFF, 0xFFFFFFFE] = 0xFFFFFFFF := by decide +kernel

/-! ## The assembler: expected words and verdicts are those that the spec writes out -/

/-- The words of one source word in `--manual` mode, or the error's code. -/
def kz (t : String) : List Nat :=
  match Kzas.asmWord (fun _ => none) none 1 false (Kzas.tokens t.toList) with
  | .ok w => w.encode (w.stall.getD 0)
  | .error e => [e.code]

/-- The result of a kernel's body under options. -/
def kzk (args : List String) (t : String) : Kzas.Result :=
  Kzas.kzas [("k", (" .kernel k\n .regs 24\n" ++ t ++ "\n exit\n .kend\n").toList)] (["k", "-o", "o"] ++ args)

/-- Bytes of `.text`. -/
def kzText (r : Kzas.Result) : List Byte :=
  match r.object with
  | some o => ((o.sections.head?).map Kzas.Section.bytes).getD []
  | none => []

theorem test_kzas_words : kz "imad v4, v5, v6, v7" = [0x8080001E, 0x040828C5] ∧ kz "imad v4, v5, v6, v4" = [0x040828C5]
    ∧ kz "icmp.ltn.or q2, v3, v4" = [0x05C41886] ∧ kz "dfma v4, v6, v8, v10" = [0x8080002A, 0x0D083103]
    ∧ kz "cvt.f64.f32 v10, v6" = [0x0E1435D0] ∧ kz "psetw v3, v4" = [0x06801887] ∧ kz "rstop g1" = [0x01000821] := by
  decide +kernel
theorem test_kzas_memory_words : kz "fadr.x32 v5, cap2, v7" = [0x150A43B6] ∧ kz "stb.acc b3, v9" = [0x15923B00]
    ∧ kz "capget v9, cap4, lenlo" = [0x16122042] ∧ kz "tst.max.f cap3, v16, v20" = [0x16A86864]
    ∧ kz "cp.x128 v20, cap0, cap2, v6" = [0x18280434] ∧ kz "launch v10, cap0, v4" = [0x1C940080] := by decide +kernel
/-- R101, R116: an uppercase permutation and a negative stall count. -/
theorem test_kzas_suffixes : kz "iadd v1, v2, v3:BF1" = [101] ∧ kz "iadd v1, v2, v3 !-1" = [307] := by decide +kernel
/-- R99: a refused option value; R111: a macro after a guard; R112: a later label, and an undefined name in an `.equ`. -/
theorem test_kzas_definitions : (kzk ["-D", "x=1+"] " nop").status = 2
    ∧ (kzk [] " .macro inc, a\n iaddi \\a, \\a, 1\n .endm\n ?q1 inc v1").status = 0
    ∧ (kzk [] " .equ x, nowhere + 1\n nop").status = 1 := by decide +kernel
theorem test_kzas_lo_hi : kz "movi v9, lo17(0x12345678)" = [0x0B125678] ∧ kz "movhi v9, hi15(0x12345678)" = [0x0B92091A] := by
  decide +kernel
theorem test_kzas_word_errors : kz "IADD v1, v2, v3" = [101] ∧ kz "iadd v1, v2" = [102] ∧ kz "ld.x16.s.keep v1, cap0, v2" = [103]
    ∧ kz "br away" = [104] ∧ kz "movi v1, 65536" = [201] ∧ kz "ld.x32 v1, cap16, v2" = [203]
    ∧ kz "iadd v1, v2:bc1, v3:bc2" = [205] ∧ kz "iadd v1, v2, v3 !4" = [307] := by decide +kernel

/-- A step packed by hand (05_kzas_assembler.md). -/
theorem test_kzas_manual : ((kzText (kzk ["--manual"]
      " xori v17, v8, 9 | andi v18, v8, 1 !3\n ?q3 ld.x32 v10, cap0, v17 | icmpi.ne q4, v18, 0 !3")).drop 8).take 24 =
    [0x09A24009, 0x68A44001, 0, 0x808C0000, 0x141408B0, 0x6A889080].flatMap (leBytes 4) := by decide +kernel
theorem test_kzas_verdicts : (kzk ["--manual"] " xori v17, v8, 9 & andi v18, v8, 1 !3").lines.length = 1
    ∧ (kzk ["--manual"] " ?q3 st.x32.low cap0, v14, v10 | ?q4 iadd v12, v12, v11:bf1").lines
      = ["k:3:6: E301: more than three words"]
    ∧ (kzk ["--manual"] " ?q1 br .L1 | stop\n.L1: nop").lines = ["k:3:15: E304: two control words"] := by decide +kernel
/-- The variant of the packed step without `!3` on `icmpi.ne`. -/
theorem test_kzas_short_stall : (kzk ["--manual"]
      " ld.x32 v10, cap0, v17 | icmpi.ne q4, v18, 0\n st.x32.low cap0, v14, v10\n ?q4 iadd v12, v12, v11:bf1").lines
      = ["k:5:6: W401: stall too short"]
    ∧ (kzk ["--manual", "--check=strict"]
      " ld.x32 v10, cap0, v17 | icmpi.ne q4, v18, 0\n st.x32.low cap0, v14, v10\n ?q4 iadd v12, v12, v11:bf1").status = 1 := by
  decide +kernel

/-- `.psb8 130, 124, 3, -5*e1` (R109). -/
theorem test_kzas_psb : (match Kzas.dataBytes (fun _ => none) ".psb8" 1 (Kzas.tokens "130, 124, 3, -5*e1".toList) with
    | .ok m => m.bytes
    | .error _ => []) = 0x03 :: 0xC5 :: (List.replicate 30 0 ++ [0x82, 0x7C]) := by decide +kernel
theorem test_kzas_floats : (match Kzas.dataBytes (fun _ => none) ".f16" 1 (Kzas.tokens "0x1.8p-3, -inf, nan, 65520".toList) with
    | .ok m => (m.bytes, m.warns.length)
    | .error _ => ([], 0)) = ([0x3200, 0xFC00, 0x7E00, 0x7C00].flatMap (leBytes 2), 1) := by decide +kernel

/-- Line 1 of `prefix_steps` (04_words_formats_opcode_map.md): its header and the packets of the loop. -/
theorem test_kzas_line : ((kzText (Kzas.kzas [("k", (
      " .kernel prefix_steps\n" ++
      " .block 8\n" ++
      " .regs 24\n" ++
      " .scratch 64\n" ++
      " movs v8, fibre\n" ++
      " movs v13, blockdim\n" ++
      " ld.x32 v9, cap1, v8\n" ++
      " iaddi v14, v8, 8\n" ++
      " icmpi.lt q3, v8, 2\n" ++
      " ?q3 ld.x32 v10, cap1, v14\n" ++
      " st.x32.low cap0, v8, v9\n" ++
      " ?q3 st.x32.low cap0, v14, v10\n" ++
      " mov v11, v9\n" ++
      " mov v12, v9\n" ++
      " movi v15, 1\n" ++
      " stop\n" ++
      ".Lloop: icmp.ge q1, v8, v15\n" ++
      " isub v16, v8, v15\n" ++
      " ?q1 ld.x32 v10, cap0, v16\n" ++
      " ?q1 iadd v9, v9, v10\n" ++
      " ?q1 st.x32.low cap0, v8, v9\n" ++
      " stop\n" ++
      " shli v15, v15, 1\n" ++
      " icmp.lt q2, v15, v13\n" ++
      " ?q2 br .Lloop\n" ++ " .kend\n").toList)]
      ["k", "-o", "o"])).drop 128).take 72 =
    leBytes 8 0x3FF20804 ++ [0x0B1E0001, 0, 0, 0x01000000, 0, 0, 0x058241E5, 0, 0, 0x642041E1, 0, 0, 0x80840000, 0x14140830, 0,
      0x80840000].flatMap (leBytes 4) := by decide +kernel

theorem test_kzas_loop : (kzk [] ".Ls: br .Ls").lines = ["k:3:6: W403: loop that ends no step"] := by decide +kernel
theorem test_kzas_pending : (kzk [] " fadr.x32 v5, cap0, v7\n iadd v6, v5, v5\n stop\n iadd v6, v5, v5").lines
    = ["k:4:2: E502: pending result"] := by decide +kernel
theorem test_kzas_spoiled : (kzk [] " capsub cap4, cap2, v20\n iaddi v16, v16, 4\n st.x32.low cap4, v3, v6").lines
    = ["k:5:2: W603: quad written since it was a capability"] := by decide +kernel

/-- E202 at the register, E203 at the odd register, E206 and E204 at the special register (R116). -/
theorem test_kzas_columns :
    (kzk [] " iadd v1, v2, v30\n ladd v2, v3, v4\n movs v1, tenant\n movsw lane, v3").lines =
      ["k:3:15: E202: register at or above the window", "k:4:11: E203: odd register or a run past the last register",
       "k:5:11: E206: supervisor only", "k:6:8: E204: reserved code"] := by decide +kernel
/-- A register in another case is E101 before a permutation and before an offset too (R101). -/
theorem test_kzas_case : (kzk [] " iadd v1, V3:bf1, v2\n ld.x32 v1, cap2, V2+4").lines =
    ["k:3:11: E101: unknown name or a name not in lowercase", "k:4:19: E101: unknown name or a name not in lowercase"] := by
  decide +kernel
/-- `kzas` writes an object with a long `.const`; the linker refuses it (R10, R115). -/
theorem test_kzas_const : (match (kzk [] " .const\n .space 1025\n .text").object with
    | some x => (Kzas.kzld [x]).status
    | none => 7) = 1 := by decide +kernel
/-- `-D` defines as `.equ` does: a value it lacks is E104 or E102, used or not (R99). -/
theorem test_kzas_given : (kzk ["-D", "A=B"] "").status = 1 ∧ (kzk ["-D", "A=1/0"] "").status = 1
    ∧ (kzk ["-D", "A=B", "-D", "A=3"] "").status = 0 := by decide +kernel
/-- Data between `.kernel` and the code is not the kernel's entry (R108). -/
theorem test_kzas_entry : (match (kzk [] " .data\n .word 1\n .text\n nop").object with
    | some o => o.symbols.map Kzas.Symbol.place
    | none => []) = [some { sect := 0, off := 8 }] := by decide +kernel

/-- A call into another object: the linker writes line delta and slot. -/
theorem test_kzld_call :
    (match (kzk [] " .extern far\n call v9, far").object,
        (Kzas.kzas [("f", " .global far\n .func g\n nop\nfar: ret v9".toList)] ["f", "-o", "o"]).object with
    | some x, some y => (Kzas.kzld [x, y]).image.map fun (m : Kzas.Image) => ((m.bytes ".text").drop 8).take 4
    | _, _ => none) = some (leBytes 4 0x02120011) := by decide +kernel
theorem test_kzld_unresolved : (match (kzk [] " .extern far\n call v9, far").object with
    | some x => (Kzas.kzld [x]).status
    | none => 0) = 1 := by decide +kernel

/-! ## Witnesses: states and operands that meet the hypotheses of the statements -/

def envOf (s : State) : Env := s.env?.getD default
def viewOf (s : State) : Fibre := ((envOf s).b.fibre? 0).getD default
def curOf (s : State) : Fibre := ((envOf s).cur? 0).getD default

/-- The hypotheses of a statement about a word, at a concrete state. -/
abbrev Runs (s : State) (i : Instr) : Prop := s.env? = some (envOf s) ∧ (envOf s).ready i = true
def runsAt (s : State) (i : Instr) : Bool := s.env?.isSome && (envOf s).ready i

theorem runs_of {s : State} {i : Instr} (h : runsAt s i = true) : Runs s i := by
  simp only [runsAt, Bool.and_eq_true] at h
  refine ⟨?_, h.2⟩
  unfold envOf
  cases hs : s.env? with
  | none => simp [hs] at h
  | some e => rfl

/-- The fragment is one fibre that acts. -/
abbrev Single (s : State) : Prop := (envOf s).single (viewOf s) (curOf s)
def singleAt (s : State) : Bool :=
  let e := envOf s
  decide (e.is.live = [(viewOf s).id]) && decide (e.b.fibre? (viewOf s).id = some (viewOf s))
    && decide (e.cur? (viewOf s).id = some (curOf s)) && e.active (viewOf s)

theorem single_of {s : State} (h : singleAt s = true) : Single s := by
  simp only [singleAt, Bool.and_eq_true, decide_eq_true_eq] at h
  exact ⟨h.1.1.1, h.1.1.2, h.1.2, h.2⟩

/-- A second fibre beside the first. -/
def twoFibres (l : Launch) : Launch :=
  { roomy l with blockList := (roomy l).blockList.map fun b =>
      { b with fibres := b.fibres ++ b.fibres.map fun f => { f with id := 1, lane := 1 } } }

theorem witness_DecodeOfEncode : (Instr.lcmp 0x2F 62 62 9).wf = true ∧ isEvent (.lcmp 0x2F 62 62 9) = false := by decide
theorem witness_EncodeOfDecode : 0x0A0A3207 < 2 ^ 32 ∧ decodeWord 0x0A0A3207 = alone (.shri 5 6 7) := by decide
theorem witness_StepRuns_word : ((at1 (.iadd 3 1 2) id).issue.map fun is => (is.words[is.pos]?, is.pos))
    = some (some (BitVec.ofNat 32 (wordOf (.iadd 3 1 2))), 0) ∧ decodeWord (wordOf (.iadd 3 1 2)) = alone (.iadd 3 1 2) := by
  decide +kernel
/-- A modifier and the word after it, and an unassigned word, in a chain. -/
def chainOf (ws : List (BitVec 32)) : State :=
  let s := at1 .nop id
  { s with issue := s.issue.map fun is => { is with words := ws } }
theorem witness_StepRuns_modified : ((chainOf [0x8080001E, 0x040828C5, 0]).issue.map fun is =>
    (is.pos, is.words[is.pos]?, is.words[is.pos + 1]?)) = some (0, some 0x8080001E, some 0x040828C5)
    ∧ decodeWord 0x8080001E = modified 0 0 7 2 ∧ decodeWord 0x040828C5 = alone (.imad 4 5 6) := by decide +kernel
theorem witness_StepRuns_unassigned : ((chainOf [6, 0, 0]).issue.map fun is => is.words[is.pos]?) = some (some 6)
    ∧ decodeWord 6 = .error .illegalOpcode := by decide +kernel
theorem witness_StepRuns_opens : (let s := State.reset.placeWord 0
    s.issue.isNone && (takeDue s.clock s.inputs).isNone && match s.picked with
      | some r => (match s.launch? r.frag.launch with
        | some l => (l.block? r.frag.block).isSome
            && decide (s.translate (some r.core) l.tenant .fetch (l.codeVa r.frag.pc) = .ok (65536 + 8))
        | none => false) && (s.openChain r).issue.isSome
      | none => false) = true := by decide +kernel
theorem witness_StepKeepsMemoryCanonical : (State.reset.placeWord 5).mem.wf = true
    ∧ (reads (step (State.reset.placeWord 5)) fun _ => true) = some true := by decide +kernel
theorem witness_LandedBytesReadBack : Memory.wf [(3, 1), (4, 2)] = true := by decide
theorem witness_WordsActFibreByFibre : perFibre (.iadd 3 1 2) = true
    ∧ ((opened (placed (.iadd 3 1 2) twoFibres id)).issue.map fun is => is.live) = some ([0] ++ [1])
    ∧ ([0, 1] : List Nat).Nodup := by decide +kernel
theorem witness_IntegerWords : Runs (at1 (.imad 3 1 2) id) (.imad 3 1 2)
    ∧ ∀ f, ((envOf (at1 (.imad 3 1 2) id)).int32 f (.imad 3 1 2)).isSome = true :=
  ⟨runs_of (by decide +kernel), fun _ => rfl⟩
theorem witness_LongWords : Runs (at1 (.lmad 4 6 8) id) (.lmad 4 6 8)
    ∧ ∀ f, ((envOf (at1 (.lmad 4 6 8) id)).int64 f (.lmad 4 6 8)).isSome = true :=
  ⟨runs_of (by decide +kernel), fun _ => rfl⟩
theorem witness_LogicImmediateAndMoveWords_logic : Runs (at1 (.bfi 63 1 2) id) (.bfi 63 1 2)
    ∧ ∀ f, ((envOf (at1 (.bfi 63 1 2) id)).logic f (.bfi 63 1 2)).isSome = true :=
  ⟨runs_of (by decide +kernel), fun _ => rfl⟩
theorem witness_LogicImmediateAndMoveWords_immediate : Runs (at1 (.movhi 9 0) id) (.movhi 9 0)
    ∧ (∀ f, ((envOf (at1 (.movhi 9 0) id)).immediate f (.movhi 9 0)).isSome = true) ∧ Runs (at1 (.movb 9 31) id) (.movb 9 31)
    ∧ ∀ f, ((envOf (at1 (.movb 9 31) id)).move f (.movb 9 31)).isSome = true :=
  ⟨runs_of (by decide +kernel), fun _ => rfl, runs_of (by decide +kernel), fun _ => rfl⟩
theorem witness_LaneAndBitmapWords : Runs (at1 (.lrank 3 1) id) (.lrank 3 1)
    ∧ (∀ f, ((envOf (at1 (.lrank 3 1) id)).lane32 f (.lrank 3 1)).isSome = true) ∧ Runs (at1 (.bmpre 3 2 1) id) (.bmpre 3 2 1)
    ∧ (∀ f, ((envOf (at1 (.bmpre 3 2 1) id)).bitmap32 f (.bmpre 3 2 1)).isSome = true)
    ∧ Runs (at1 (.bxpos 4 2 1) id) (.bxpos 4 2 1)
    ∧ ∀ f, ((envOf (at1 (.bxpos 4 2 1) id)).bitmap64 f (.bxpos 4 2 1)).isSome = true :=
  ⟨runs_of (by decide +kernel), fun _ => rfl, runs_of (by decide +kernel), fun _ => rfl, runs_of (by decide +kernel),
    fun _ => rfl⟩
theorem witness_FloatAndDoubleWords_single : Runs (at1 (.ffma 3 1 2) id) (.ffma 3 1 2)
    ∧ ∀ f, ((envOf (at1 (.ffma 3 1 2) id)).float32 f (.ffma 3 1 2)).isSome = true :=
  ⟨runs_of (by decide +kernel), fun _ => rfl⟩
theorem witness_FloatAndDoubleWords_double : Runs (at1 (.dfma 4 6 8) id) (.dfma 4 6 8)
    ∧ ∀ f, ((envOf (at1 (.dfma 4 6 8) id)).float64 f (.dfma 4 6 8)).isSome = true :=
  ⟨runs_of (by decide +kernel), fun _ => rfl⟩
theorem witness_PackedHalfWords : Runs (at1 (.bfma2 4 6 8) id) (.bfma2 4 6 8)
    ∧ ∀ f, ((envOf (at1 (.bfma2 4 6 8) id)).packed f (.bfma2 4 6 8)).isSome = true :=
  ⟨runs_of (by decide +kernel), fun _ => rfl⟩
theorem witness_ConversionWords : Runs (at1 (.cvt 7 6 0 10 4) id) (.cvt 7 6 0 10 4)
    ∧ (∀ f, ((envOf (at1 (.cvt 7 6 0 10 4) id)).convert32 f (.cvt 7 6 0 10 4)).isSome = true)
    ∧ Runs (at1 (.fix 4 6 0 32) id) (.fix 4 6 0 32)
    ∧ ∀ f, ((envOf (at1 (.fix 4 6 0 32) id)).convert64 f (.fix 4 6 0 32)).isSome = true :=
  ⟨runs_of (by decide +kernel), fun _ => rfl, runs_of (by decide +kernel), fun _ => rfl⟩
theorem witness_PredicateWords : Runs (at1 (.icmp 47 1 2 9) id) (.icmp 47 1 2 9)
    ∧ (∀ f, ((envOf (at1 (.icmp 47 1 2 9) id)).truth f (.icmp 47 1 2 9)).isSome = true)
    ∧ Runs (at1 (.psetw 1 2) id) (.psetw 1 2) :=
  ⟨runs_of (by decide +kernel), fun _ => rfl, runs_of (by decide +kernel)⟩
theorem witness_SpecialRegisters : Runs (at1 (.movs 3 12) id) (.movs 3 12) ∧ Runs (at1 (.movsw 18 1) id) (.movsw 18 1)
    ∧ Runs (at1 (.movsw 23 1) id) (.movsw 23 1)
    ∧ (envOf (at1 (.movsw 23 1) id)).actives.getLast? = some (viewOf (at1 (.movsw 23 1) id), curOf (at1 (.movsw 23 1) id)) :=
  ⟨runs_of (by decide +kernel), runs_of (by decide +kernel), runs_of (by decide +kernel), by decide +kernel⟩

/-! Memory words: an environment and a fibre for each check in turn, at the last index inside the bounds and the first outside. -/

/-- A word with one capability in cap1 and an index in v8. -/
def mem1 (i : Instr) (c : Cap) (idx : Nat) : State := at1 i (giveCap 1 c ∘ setRegs [(8, idx)])

theorem witness_AccessChecks : let s := at1 .nop id
    let s1 := mem1 .nop (capOn 1 0 31 3) 7
    let s2 := mem1 .nop (capOn 1 2 64 3) 0
    capValid (envOf s).l ((viewOf s).tag 1) (capOf ((viewOf s).quad 1)) = false
    ∧ capValid (envOf s1).l ((viewOf s1).tag 1) (capOf ((viewOf s1).quad 1)) = true
    ∧ spaceCheck (capOf ((viewOf s1).quad 1)) (.store 7) (envOf s1).l.sup = none
    ∧ spaceCheck (capOn 4 0 31 3) .load true = some .capPerm
    ∧ capOf ((viewOf s1).quad 1) = capOn 1 0 31 3 ∧ (capOn 1 0 31 3).len < 7 * 4 + 4 ∧ 6 * 4 + 4 ≤ (capOn 1 0 31 3).len
    ∧ capOf ((viewOf s2).quad 1) = capOn 1 2 64 3 ∧ (capOn 1 2 64 3).base % 4 ≠ 0 := by decide +kernel
theorem witness_AccessChecks_spaces : (capOn 7 0 0 3).space < 8 ∧ (capOn 7 0 0 0x43).isSup = true ∧ (capOn 2 0 0 3).isSup = false
    ∧ (capOn 2 0 0 3).canW = true ∧ (capOn 2 0 0 3).isWO = false ∧ (capOn 5 0 0 2).canW = true := by decide

/-- What a load of four bytes at index 2 of a capability has passed. -/
def accOf (c : Cap) : Acc := { cap := c, addr := c.base + 8, size := 4, nib := none, idx := 2 }
abbrev LoadOk (c : Cap) : Prop := let s := mem1 (.ld 9 1 8 3 0 0) c 2
  Runs s (.ld 9 1 8 3 0 0) ∧ Single s ∧ (envOf s).access (viewOf s) 1 8 3 .load = .ok (accOf c)
theorem load_ok {c : Cap} (h : runsAt (mem1 (.ld 9 1 8 3 0 0) c 2) (.ld 9 1 8 3 0 0) = true)
    (h1 : singleAt (mem1 (.ld 9 1 8 3 0 0) c 2) = true)
    (h2 : (envOf (mem1 (.ld 9 1 8 3 0 0) c 2)).access (viewOf (mem1 (.ld 9 1 8 3 0 0) c 2)) 1 8 3 .load = .ok (accOf c)) :
    LoadOk c := ⟨runs_of h, single_of h1, h2⟩
theorem witness_LoadFixesItsData_scratch : LoadOk (capOn 1 0 12 1)
    ∧ (let s := mem1 (.ld 9 1 8 3 0 0) (capOn 1 0 12 1) 2; (envOf s).loadPasses (viewOf s) (accOf (capOn 1 0 12 1))) :=
  ⟨load_ok (by decide +kernel) (by decide +kernel) (by decide +kernel),
    show List.contains _ _ = false by decide +kernel⟩
theorem witness_LoadFixesItsData_private : LoadOk (capOn 2 0 12 1)
    ∧ (let s := mem1 (.ld 9 1 8 3 0 0) (capOn 2 0 12 1) 2; (envOf s).loadPasses (viewOf s) (accOf (capOn 2 0 12 1))) :=
  ⟨load_ok (by decide +kernel) (by decide +kernel) (by decide +kernel),
    show List.contains _ _ = false by decide +kernel⟩
theorem witness_LoadFixesItsData_window : LoadOk (capOn 6 0 12 1)
    ∧ (let s := mem1 (.ld 9 1 8 3 0 0) (capOn 6 0 12 1) 2; (envOf s).loadPasses (viewOf s) (accOf (capOn 6 0 12 1))) :=
  ⟨load_ok (by decide +kernel) (by decide +kernel) (by decide +kernel),
    show ∀ n ∈ windowRegs _ _, Fibre.pendingRound _ n = none by decide +kernel⟩
theorem witness_LoadFixesItsData_global : LoadOk (capOn 0 65536 12 1)
    ∧ (let s := mem1 (.ld 9 1 8 3 0 0) (capOn 0 65536 12 1) 2; (envOf s).loadPasses (viewOf s) (accOf (capOn 0 65536 12 1))) :=
  ⟨load_ok (by decide +kernel) (by decide +kernel) (by decide +kernel), ⟨131080, by decide +kernel, by decide +kernel⟩⟩
theorem witness_LoadFixesItsData_const : LoadOk (capOn 3 0 12 1)
    ∧ (let s := mem1 (.ld 9 1 8 3 0 0) (capOn 3 0 12 1) 2; (envOf s).loadPasses (viewOf s) (accOf (capOn 3 0 12 1))) :=
  ⟨load_ok (by decide +kernel) (by decide +kernel) (by decide +kernel), ⟨65544, by decide +kernel, by decide +kernel⟩⟩

/-- A store of four bytes under `.low` at index 2. -/
abbrev StoreOk (c : Cap) : Prop := let s := mem1 (.st 9 1 8 3 0 0) c 2
  Runs s (.st 9 1 8 3 0 0) ∧ Single s ∧ (envOf s).access (viewOf s) 1 8 3 (.store (0 : BitVec 3).toNat) = .ok (accOf c)
theorem store_ok {c : Cap} (h : runsAt (mem1 (.st 9 1 8 3 0 0) c 2) (.st 9 1 8 3 0 0) = true)
    (h1 : singleAt (mem1 (.st 9 1 8 3 0 0) c 2) = true)
    (h2 : (envOf (mem1 (.st 9 1 8 3 0 0) c 2)).access (viewOf (mem1 (.st 9 1 8 3 0 0) c 2)) 1 8 3 (.store (0 : BitVec 3).toNat)
      = .ok (accOf c)) : StoreOk c := ⟨runs_of h, single_of h1, h2⟩
theorem witness_Stores_scratch : StoreOk (capOn 1 0 12 3) := store_ok (by decide +kernel) (by decide +kernel) (by decide +kernel)
theorem witness_Stores_private : StoreOk (capOn 2 0 12 3) := store_ok (by decide +kernel) (by decide +kernel) (by decide +kernel)
theorem witness_Stores_global : StoreOk (capOn 0 65536 12 3)
    ∧ (let s := mem1 (.st 9 1 8 3 0 0) (capOn 0 65536 12 3) 2; (envOf s).phys (curOf s) .store 65544 = .ok 131080) :=
  ⟨store_ok (by decide +kernel) (by decide +kernel) (by decide +kernel), by decide +kernel⟩
theorem witness_Stores_window : StoreOk (capOn 6 0 12 3)
    ∧ (let s := mem1 (.st 9 1 8 3 0 0) (capOn 6 0 12 3) 2
       (curOf s).takes (windowRegs 8 4) = true ∧ 8 + 4 ≤ 4 * (curOf s).regs.length) :=
  ⟨store_ok (by decide +kernel) (by decide +kernel) (by decide +kernel), by decide +kernel⟩
theorem witness_FadrAndBlockRegisterStores_scratch : let s := mem1 (.fadr 10 1 8 3 0) (capOn 1 0 12 3) 2
    Runs s (.fadr 10 1 8 3 0) ∧ Single s ∧ (envOf s).access (viewOf s) 1 8 3 .fadr = .ok (accOf (capOn 1 0 12 3)) :=
  ⟨runs_of (by decide +kernel), single_of (by decide +kernel), by decide +kernel⟩
theorem witness_FadrAndBlockRegisterStores_global : let s := mem1 (.fadr 10 1 8 3 0) (capOn 0 65536 12 3) 2
    Runs s (.fadr 10 1 8 3 0) ∧ Single s ∧ (envOf s).access (viewOf s) 1 8 3 .fadr = .ok (accOf (capOn 0 65536 12 3))
    ∧ (envOf s).phys (curOf s) .store 65544 = .ok 131080 :=
  ⟨runs_of (by decide +kernel), single_of (by decide +kernel), by decide +kernel, by decide +kernel⟩
theorem witness_FadrAndBlockRegisterStores_stb : Runs (at1 (.stb 9 31 3 1) id) (.stb 9 31 3 1) := runs_of (by decide +kernel)
theorem witness_AccessFaults_park : let s := mem1 (.ld 9 1 8 3 0 0) (capOn 2 0 12 1) 3
    Runs s (.ld 9 1 8 3 0 0) ∧ Single s ∧ (envOf s).access (viewOf s) 1 8 3 .load =
      .error { code := .capBounds, info0 := wordOf (.ld 9 1 8 3 0 0), info1 := 3 } :=
  ⟨runs_of (by decide +kernel), single_of (by decide +kernel), by decide +kernel⟩
/-- A misaligned load, with a trap vector, in and out of a trap routine. -/
def misal (vec : Nat) (inTrap : Bool) : State :=
  opened (withData (placed (.ld 9 1 8 3 0 0) (fun l => { roomy l with trapvec := vec })
    ((fun f => { f with trap := { f.trap with mode := inTrap } }) ∘ giveCap 1 (capOn 2 2 64 1))))
theorem witness_AccessFaults_misaligned : (∀ s ∈ [misal 0xFFFFFFFF false, misal 0x80 true, misal 0x80 false],
      runsAt s (.ld 9 1 8 3 0 0) = true ∧ singleAt s = true ∧ (envOf s).access (viewOf s) 1 8 3 .load =
        .error { code := .misaligned, info0 := wordOf (.ld 9 1 8 3 0 0), info1 := 0 })
    ∧ (curOf (misal 0x80 true)).trap.mode = true ∧ (curOf (misal 0x80 false)).trap.mode = false
    ∧ (envOf (misal 0x80 false)).is.hasControl = false ∧ (curOf (misal 0x80 false)).ctl = none := by decide +kernel

/-! Capability, control, gate, spawn and sparse words. -/

/-- A word with one capability in cap1 and registers v8 to v11. -/
def cap1 (i : Instr) (c : Cap) (ws : List (Nat × Nat)) : State := at1 i (giveCap 1 c ∘ setRegs ws)

theorem witness_CapabilityWords_sub : let s := cap1 (.capsub 3 1 8) (capOn 0 0x1000 64 0x13) [(8, 16), (10, 48)]
    Runs s (.capsub 3 1 8) ∧ ∀ x ∈ (envOf s).actives,
      capValid (envOf s).l (x.1.tag 1) (capOf (x.1.quad 1)) = true ∧ (capOf (x.1.quad 1)).hasSub = true
      ∧ (x.1.pair 8).toNat + (x.1.pair 10).toNat = (capOf (x.1.quad 1)).len :=
  ⟨runs_of (by decide +kernel), by decide +kernel⟩
theorem witness_CapabilityWords_perm : let s := cap1 (.capperm 3 1 8) (capOn 0 0x1000 64 0x13) [(8, 6)]
    Runs s (.capperm 3 1 8) ∧ ∀ x ∈ (envOf s).actives,
      capValid (envOf s).l (x.1.tag 1) (capOf (x.1.quad 1)) = true ∧ (capOf (x.1.quad 1)).hasSub = true :=
  ⟨runs_of (by decide +kernel), by decide +kernel⟩
theorem witness_CapabilityWords_get : Runs (at1 (.capget 15 0 17) id) (.capget 15 0 17) ∧ Runs (at1 (.capget 63 1 5) id) (.capget 63 1 5) :=
  ⟨runs_of (by decide +kernel), runs_of (by decide +kernel)⟩
theorem witness_CapabilityWords_mint : Runs (at1 (.capmint 3 60) id) (.capmint 3 60)
    ∧ ∀ x ∈ (envOf (at1 (.capmint 3 60) id)).actives,
      (capOf ((x.1.pair 60).toNat + (x.1.pair 62).toNat * 2 ^ 64)).wellFormed = true :=
  ⟨runs_of (by decide +kernel), by decide +kernel⟩
theorem witness_AccessFaults_caps :
    (let s := cap1 (.capsub 3 2 8) (capOn 0 0x1000 64 0x13) [];
      Runs s (.capsub 3 2 8) ∧ Single s ∧ capValid (envOf s).l ((viewOf s).tag 2) (capOf ((viewOf s).quad 2)) = false)
    ∧ (let s := cap1 (.capsub 3 1 8) (capOn 0 0x1000 64 3) [];
      Runs s (.capsub 3 1 8) ∧ Single s ∧ capOf ((viewOf s).quad 1) = capOn 0 0x1000 64 3 ∧ (capOn 0 0x1000 64 3).hasSub = false)
    ∧ (let s := cap1 (.capsub 3 1 8) (capOn 0 0x1000 64 0x13) [(8, 16), (10, 49)];
      Runs s (.capsub 3 1 8) ∧ Single s ∧ capOf ((viewOf s).quad 1) = capOn 0 0x1000 64 0x13
        ∧ (viewOf s).pair 8 = 16 ∧ (viewOf s).pair 10 = 49)
    ∧ (let s := at1 (.capmint 3 8) (setRegs [(11, 0x80000000)]);
      Runs s (.capmint 3 8) ∧ Single s
        ∧ (capOf (((viewOf s).pair 8).toNat + ((viewOf s).pair 10).toNat * 2 ^ 64)).wellFormed = false) :=
  ⟨⟨runs_of (by decide +kernel), single_of (by decide +kernel), by decide +kernel⟩,
   ⟨runs_of (by decide +kernel), single_of (by decide +kernel), by decide +kernel⟩,
   ⟨runs_of (by decide +kernel), single_of (by decide +kernel), by decide +kernel⟩,
   ⟨runs_of (by decide +kernel), single_of (by decide +kernel), by decide +kernel⟩⟩
theorem witness_ControlWords : Runs (at1 (.rstopGated 3) id) (.rstopGated 3)
    ∧ (∀ f, ((envOf (at1 (.rstopGated 3) id)).controlOf f (.rstopGated 3)).isSome = true)
    ∧ (envOf (at1 (.rstopGated 3) id)).l.gates = 4 ∧ Runs (at1 (.callx 5 6) id) (.callx 5 6)
    ∧ ∀ f, ((envOf (at1 (.callx 5 6) id)).callOf f (.callx 5 6)).isSome = true :=
  ⟨runs_of (by decide +kernel), fun _ => rfl, by decide +kernel, runs_of (by decide +kernel), fun _ => rfl⟩
/-- A word inside a trap routine. -/
def trapped (i : Instr) : State := at1 i fun f => { f with trap := { f.trap with mode := true } }
theorem witness_ControlWords_faults : (Runs (trapped .stop) .stop ∧ Single (trapped .stop) ∧ (viewOf (trapped .stop)).trap.mode = true)
    ∧ (Runs (trapped .brk) .brk ∧ Single (trapped .brk) ∧ ((envOf (trapped .brk)).controlOf (viewOf (trapped .brk)) .brk).isSome = true)
    ∧ (Runs (at1 .tret id) .tret ∧ Single (at1 .tret id) ∧ (viewOf (at1 .tret id)).trap.mode = false) :=
  ⟨⟨runs_of (by decide +kernel), single_of (by decide +kernel), by decide +kernel⟩,
   ⟨runs_of (by decide +kernel), single_of (by decide +kernel), by decide +kernel⟩,
   ⟨runs_of (by decide +kernel), single_of (by decide +kernel), by decide +kernel⟩⟩
/-- A fibre at its packet's end, in and out of a trap routine. -/
def ending (a : CtlAct) (mode : Bool) : Fibre :=
  { (default : Fibre) with ctl := some (a, 0, 0), trap := { (default : TrapRegs) with mode := mode } }
theorem witness_PacketEnd : (default : Fibre).ctl = none ∧ (ending .stop true).ctl = some (.stop, 0, 0)
    ∧ (ending .stop true).trap.mode = true ∧ (ending (.rstop none) false).trap.mode = false
    ∧ (ending (.trap .breakCode 0) false).ctl = some (.trap .breakCode 0, 0, 0) ∧ (ending .tret true).ctl = some (.tret, 0, 0)
    ∧ (ending (.misaligned 1 2) false).ctl = some (.misaligned 1 2, 0, 0) := by decide
theorem witness_GateWords_index : let s := at1 (.gread 3 4) id
    Runs s (.gread 3 4) ∧ Single s ∧ (envOf s).l.gates ≤ (4 : BitVec 6).toNat :=
  ⟨runs_of (by decide +kernel), single_of (by decide +kernel), by decide +kernel⟩
theorem witness_GateWords : Runs (at1 (.gadd 3 9) id) (.gadd 3 9) ∧ (3 : BitVec 6).toNat < (envOf (at1 (.gadd 3 9) id)).l.gates
    ∧ Runs (at1 (.gread 9 3) id) (.gread 9 3) ∧ (3 : BitVec 6).toNat < (envOf (at1 (.gread 9 3) id)).l.gates :=
  ⟨runs_of (by decide +kernel), by decide +kernel, runs_of (by decide +kernel), by decide +kernel⟩
theorem witness_SpawnWord : Runs (at1 (.spawn 56 0 0) id) (.spawn 56 0 0)
    ∧ ∀ x ∈ (envOf (at1 (.spawn 56 0 0) id)).actives, x.2.journalUsed < 24 :=
  ⟨runs_of (by decide +kernel), by decide +kernel⟩
/-- The guard q1 keeps the only fibre from acting. -/
def guarded (i : Instr) : State :=
  let s := at1 i id
  { s with issue := s.issue.map fun is => { is with mods := { Mods.none with gq := 1 } } }
theorem witness_NopAndYield : Runs (at1 .nop id) .nop ∧ Runs (at1 .yield id) .yield ∧ (envOf (at1 .yield id)).actives ≠ []
    ∧ Runs (guarded .yield) .yield ∧ (envOf (guarded .yield)).actives = [] :=
  ⟨runs_of (by decide +kernel), runs_of (by decide +kernel), by decide +kernel, runs_of (by decide +kernel), by decide +kernel⟩
theorem witness_UnassignedEncodingsAndParkPath_word : (at1 .nop id).issue.isSome = true := by decide +kernel
theorem witness_UnassignedEncodingsAndParkPath_park : ((at1 .nop id).launch? 1).isSome = true ∧ (((at1 .nop id).launch? 1).bind (·.block? 0)).isSome = true := by
  decide +kernel

/-- A sparse region that the launch has latched while its tree was empty, with its descriptor in the data granule. -/
def withSparse (i : Instr) : State :=
  let s := withData (placed i (fun l => { roomy l with
      latched := [{ region := skey 1 5, root := noNode, pub := 0, entries := 0 }] })
    (giveCap 1 { capOn 4 0 0 3 with objid := 5 } ∘ setRegs [(12, 0xFFFFFFFF), (13, 0x7FFFFFFF)]))
  opened { s with sparse := [{ num := skey 1 5, tenant := 1, desc := 131072, used := [], retired := [], holders := [],
                               poolLimit := 131072 }] }
theorem witness_SparseWords_tld : let s := withSparse (.tld 9 1 8)
    Runs s (.tld 9 1 8) ∧ Single s ∧ (s.sparse? (skey (envOf s).l.tenant 5)).isSome = true
    ∧ capOf ((viewOf s).quad 1) = { capOn 4 0 0 3 with objid := 5 } ∧ (viewOf s).tag 1 = true
    ∧ keyOf (readDesc s.mem 1 131072).rank (readDesc s.mem 1 131072).ext ((List.range 4).map fun n => ((viewOf s).reg (8 + n)).toNat) = .ok 0
    ∧ s.lookup (readDesc s.mem 1 131072) noNode 0 = .ok 0 ∧ (curOf s).takes ((valueWords 9 4 0).map Prod.fst) = true :=
  ⟨runs_of (by decide +kernel), single_of (by decide +kernel), by decide +kernel⟩
theorem witness_SparseWords_tnext : let s := withSparse (.tnext 20 22 1)
    let u := withSparse (.tnext 20 12 1)
    Runs s (.tnext 20 22 1) ∧ Single s ∧ s.nextKey (readDesc s.mem 1 131072) noNode ((envOf s).pairA (viewOf s) 22).toInt = .ok none
    ∧ Runs u (.tnext 20 12 1) ∧ ((envOf u).pairA (viewOf u) 12).toInt = 2 ^ 63 - 1 :=
  ⟨runs_of (by decide +kernel), single_of (by decide +kernel), by decide +kernel, runs_of (by decide +kernel), by decide +kernel⟩
theorem witness_SparseWords_tcount : Runs (withSparse (.tcount 20 1)) (.tcount 20 1) ∧ Single (withSparse (.tcount 20 1)) :=
  ⟨runs_of (by decide +kernel), single_of (by decide +kernel)⟩
theorem witness_SparseWords_tst : Runs (withSparse (.tst 9 1 8 3 0)) (.tst 9 1 8 3 0) ∧ Single (withSparse (.tst 9 1 8 3 0))
    ∧ tstOk (readDesc (withSparse (.tst 9 1 8 3 0)).mem 1 131072).typ 3 false = true
    ∧ typeSize (readDesc (withSparse (.tst 9 1 8 3 0)).mem 1 131072).typ = 4 :=
  ⟨runs_of (by decide +kernel), single_of (by decide +kernel), by decide +kernel⟩

/-! Words that act once. -/

/-- A command word over two fibres, with a capability in cap1 and a second in cap3. -/
def two (i : Instr) (m : Mods) (c : Cap) (ws : List (Nat × Nat)) : State :=
  let s := opened (withData (placed i twoFibres (giveCap 1 c ∘ giveCap 3 c ∘ setRegs ws)))
  { s with issue := s.issue.map fun is => { is with mods := m } }
def electsAt (s : State) (el : Nat) (rest : List Nat) : Bool :=
  let e := envOf s
  decide e.is.live.Nodup && (e.is.live.all fun id => (e.b.fibre? id).isSome && (e.cur? id).isSome) && e.is.mods.gq == 0
    && decide (e.actives.map (fun x => x.1.id) = el :: rest)
theorem elects_of {s : State} {el : Nat} {rest : List Nat} (h : electsAt s el rest = true) : (envOf s).elects el rest := by
  simp only [electsAt, Bool.and_eq_true, decide_eq_true_eq, List.all_eq_true, beq_iff_eq] at h
  obtain ⟨⟨⟨h1, h2⟩, h3⟩, h4⟩ := h
  refine ⟨h1, fun id hid => ?_, h4⟩
  obtain ⟨hv, hc⟩ := h2 id hid
  exact ⟨_, _, (Option.some_get hv).symm, (Option.some_get hc).symm, Or.inl h3⟩
theorem witness_CommandWords : let s := two (.gath 20 1 8) Mods.none (capOn 1 0 64 0x21) []
    s.env? = some (envOf s) ∧ onceOf (.gath 20 1 8) = some (engForm, 20, 1, 8) ∧ (Instr.gath 20 1 8).wf = true
    ∧ (envOf s).elects 0 [1] ∧ (envOf s).takesToken 20 ∧ (envOf s).b.fibre? 0 = some (viewOf s)
    ∧ (envOf s).cur? 0 = some (curOf s)
    ∧ ((Instr.gath 20 1 8).newestReads (envOf s).is.mods).all ((viewOf s).settled (envOf s).is.cycle) = true
    ∧ (envOf s).onceCheck (viewOf s) engForm 1 8 = .ok ((capOn 1 0 64 0x21).num, 0, none) :=
  ⟨by decide +kernel, rfl, rfl, elects_of (by decide +kernel), show ∀ x ∈ _, _ ∧ _ by decide +kernel, by decide +kernel⟩
theorem witness_CommandWords_supervisor : let s := two (.launch 20 1 8) Mods.none (capOn 1 0 128 1) []
    (envOf s).elects 0 [1] ∧ (envOf s).takesToken 20
    ∧ (envOf s).onceCheck (viewOf s) launchForm 1 8 = .ok ((capOn 1 0 128 1).num, 0, none) :=
  ⟨elects_of (by decide +kernel), show ∀ x ∈ _, _ ∧ _ by decide +kernel, by decide +kernel⟩
theorem witness_CommandChecks : let m : Mods := { Mods.none with kind := 2, c := 9 }
    let s (c : Cap) (ws : List (Nat × Nat)) : State := two (.gath 20 1 8) m c ws
    let ck (s : State) : Except Trap (Nat × Nat × Option Nat) := (envOf s).onceCheck (viewOf s) engForm 1 8
    let w := wordOf (.gath 20 1 8)
    ck (two (.gath 20 1 8) m { capOn 1 0 64 0x21 with zero := 1 } []) = .error ⟨.capTag, w, 0, none⟩
    ∧ ck (s (capOn 1 0 64 1) []) = .error ⟨.capPerm, w, 0, none⟩ ∧ ck (s (capOn 2 0 64 0x21) []) = .error ⟨.capPerm, w, 0, none⟩
    ∧ ck (s (capOn 1 0 127 0x21) [(8, 32)]) = .error ⟨.illegalField, w, 32, none⟩
    ∧ ck (s (capOn 1 0 127 0x21) [(8, 64)]) = .error ⟨.capBounds, w, 64, none⟩
    ∧ ck (s (capOn 1 0 64 0x21) [(9, 3)]) = .ok ((capOn 1 0 64 0x21).num, 0, some 3)
    ∧ ck (s (capOn 1 0 64 0x21) [(9, 4)]) = .error ⟨.illegalField, w, 0, none⟩ := by decide +kernel
theorem witness_CommandChecks_fails : let s := cap1 (.gath 20 1 8) (capOn 1 0 64 1) []
    s.env? = some (envOf s) ∧ (envOf s).elects (viewOf s).id [] ∧ Single s ∧ (envOf s).takesToken 20
    ∧ (envOf s).onceCheck (viewOf s) engForm 1 8 = .error ⟨.capPerm, wordOf (.gath 20 1 8), 0, none⟩ :=
  ⟨by decide +kernel, elects_of (by decide +kernel), single_of (by decide +kernel), show ∀ x ∈ _, _ ∧ _ by decide +kernel,
    by decide +kernel⟩
theorem witness_CommandWords_cp : let s := two (.cp 20 1 3 8 2) Mods.none (capOn 1 0 64 0x23) [(8, 3), (9, 0)]
    s.env? = some (envOf s) ∧ (Instr.cp 20 1 3 8 2).wf = true ∧ (envOf s).elects 0 [1] ∧ (envOf s).takesToken 20
    ∧ (envOf s).cur? 0 = some (curOf s) ∧ ∀ y ∈ (envOf s).actives,
      ((Instr.cp 20 1 3 8 2).newestReads (envOf s).is.mods).all (y.1.settled (envOf s).is.cycle) = true
      ∧ (envOf s).cpCheck y.1 1 3 8 2 = .ok ((capOn 1 0 64 0x23).num, (capOn 1 0 64 0x23).num, 48, 0) :=
  ⟨by decide +kernel, rfl, elects_of (by decide +kernel), show ∀ x ∈ _, _ ∧ _ by decide +kernel, by decide +kernel⟩

/-! Operands, numbers and contributions. -/

theorem witness_SourceOperands : let s := two (.iadd 3 1 2) Mods.none (capOn 1 0 64 1) []
    (viewOf s).lane = 0 ∧ 1 = (viewOf s).lane ^^^ 2 ^ ((1 : BitVec 5).toNat - 1) ∧ ((envOf s).b.atLane? 0 1).isSome = true
    ∧ ((envOf s).b.atLane? 0 2).isNone = true ∧ (((envOf s).b.atLane? 0 1).map Fibre.status) = some .running := by decide +kernel
theorem witness_RoundingRule_overflow : let x : ℚ := ((1 : Nat) : ℚ) * (2 : ℚ) ^ (20 : Int)
    let e0 : Int := max (Int.log 2 x) f16.emin
    let q : ℚ := (2 : ℚ) ^ (e0 - f16.fbits)
    (2 - (2 : ℚ) ^ (-(f16.fbits : Int))) * (2 : ℚ) ^ f16.bias < chooseInt .rne false (x / q) * q := by
  have h : Int.log 2 (((1 : Nat) : ℚ) * (2 : ℚ) ^ (20 : Int)) = 20 := by
    rw [Nat.cast_one, one_mul]; exact_mod_cast Int.log_zpow (R := ℚ) (b := 2) (by norm_num) 20
  simp only [h]
  have e : max (20 : Int) f16.emin = 20 := by decide
  have d : f16.fbits = 10 := by decide
  have b : f16.bias = 15 := by decide
  simp only [e, d, b]
  have c : chooseInt .rne false (((1 : Nat) : ℚ) * (2 : ℚ) ^ (20 : Int) / (2 : ℚ) ^ (20 - ((10 : Nat) : Int))) = 1024 := by
    have t : ((1 : Nat) : ℚ) * (2 : ℚ) ^ (20 : Int) / (2 : ℚ) ^ (20 - ((10 : Nat) : Int)) = ((1024 : Nat) : ℚ) := by norm_num
    rw [t]; simp [chooseInt]
  rw [c]; norm_num
theorem witness_OverflowTable : f16 ∈ [f16, bf16, f32, f64] ∧ RMode.rdn = .rdn := by decide
theorem witness_FloatMinMax : Runs (at1 (.fmin 3 1 2) id) (.fmin 3 1 2) ∧ Runs (at1 (.fmax 3 1 2) id) (.fmax 3 1 2) :=
  ⟨runs_of (by decide +kernel), runs_of (by decide +kernel)⟩
theorem witness_FloatExtremes : (2 ∈ [2, 4, 8]) ∧ ([0x7E00, 0x3C00] : List Nat) ≠ []
    ∧ (∀ v ∈ ([0x7E00, 0x3C00] : List Nat), v < 2 ^ (8 * 2)) ∧ f16.isNan 0x7E00 = true
    ∧ ∀ v ∈ ([0x3C00, 0x8000] : List Nat), f16.isNan v = false := by decide
/-- Three contributions in key order: `.low` twice over one byte, and an `.acc` elsewhere. -/
def threeC : List Contrib := [wrote 2 2 1 0xAA, wrote 5 0 4 0x11111111, { wrote 9 8 4 7 with rule := 3 }]
theorem witness_ContributionsCombine : threeC.Pairwise (fun x y => y.key.lt x.key = false) ∧ deadNibble threeC (2 * 2 + 0) = false
    ∧ deadNibble threeC (2 * 8 + 1) = false ∧ (∀ c ∈ threeC, c.touches (2 * 100) = false)
    ∧ (∃ c ∈ threeC, c.touches (2 * 2) = true ∧ c.arith = false ∧ c.rule ≠ 1)
    ∧ ∃ c ∈ threeC, c.touches (2 * 8 + 1) = true ∧ c.arith = true := by decide +kernel

/-! Commits and landings. -/

/-- Between chains: the placed launch with its block and its fibre changed. -/
def idle (l : Launch → Launch) (b : Block → Block) (f : Fibre → Fibre) : State :=
  (withData (placed .nop id f)).modLaunch 1 fun x =>
    let y := l (roomy x)
    { y with blockList := y.blockList.map b }
def launchOf (s : State) : Launch := (s.launch? 1).getD default
def blockOf (s : State) : Block := ((launchOf s).block? 0).getD default
/-- Where the hypotheses find the launch and the block. -/
abbrev Has (s : State) : Prop := s.launch? 1 = some (launchOf s) ∧ (launchOf s).block? 0 = some (blockOf s)
def atStop (f : Fibre) : Fibre := { f with status := .atStop }

theorem witness_StepCommits_waits : let s := idle id id id
    Has s ∧ (launchOf s).stepReady (blockOf s) = false := by decide +kernel
theorem witness_StepCommits_collides : let s := idle id (fun b => { b with contribs := [{ wrote 0 0 4 1 with rule := 6 },
      { wrote 1 0 4 2 with rule := 6 }] }) atStop
    Has s ∧ (launchOf s).ended = false ∧ (launchOf s).suspended = false ∧ (blockOf s).status ≠ .terminated
    ∧ (∀ f ∈ (blockOf s).fibres, f.ended = true) ∧ (∃ f ∈ (blockOf s).fibres, f.endsNow (blockOf s).step = true)
    ∧ (blockOf s).stepCollision.isSome = true := by decide +kernel
/-- A step that stores to scratch, to a block register and to global memory, adds to a gate of the launch and spawns. -/
def busyStep : State :=
  let s := idle id (fun b => { b with
      contribs := [wrote 0 0 4 1, { wrote 0 31 4 2 with space := .breg, rule := 2 },
                   { wrote 0 65536 4 3 with space := .global, phys := 131072 }],
      gadds := [(3, 5, 0, 0)], spawns := [{ (default : SpawnReq) with target := 8, regs := List.replicate 8 0 }] })
    (fun f => { f with status := .atStop, spawnPending := true })
  { s with gates := [{ tenant := 1, slice := 0, index := 3, count := 0xFFFFFFFF, thresh := 1, pod := false, host := false,
                       remote := false, launch := 1 }] }
theorem witness_StepCommits : let s := busyStep
    Has s ∧ (launchOf s).ended = false ∧ (launchOf s).suspended = false ∧ (blockOf s).status ≠ .terminated
    ∧ (∀ f ∈ (blockOf s).fibres, f.ended = true) ∧ (∃ f ∈ (blockOf s).fibres, f.endsNow (blockOf s).step = true)
    ∧ (blockOf s).endedAt ≤ s.clock ∧ s.stepRoomFor (launchOf s) (blockOf s) = some []
    ∧ (blockOf s).stepCollision = none ∧ (blockOf s).reqs = [] ∧ (blockOf s).heldLines = [] ∧ (blockOf s).heldScat = []
    ∧ (∀ c ∈ (blockOf s).contribs, s.inHazard 1 0 c = false) ∧ Memory.wf (blockOf s).scratch = true
    ∧ (s.gate? ((launchOf s).tenant, (launchOf s).gateslice, (launchOf s).gatebase + 3)).isSome = true := by decide +kernel
/-- A step whose global store finds no room: its slice's share is leased, and the tenant has no free granule. -/
def fullStep : State :=
  let s := idle (fun l => { l with leases := List.replicate 448 { num := 1, base := 65536, len := 65536, last := none } })
    (fun b => { b with contribs := [{ wrote 0 65536 4 3 with space := .global, phys := 131072 }] }) atStop
  { s with tenants := s.tenants.map fun t => { t with slices := 0 } }
theorem witness_StepCommits_full : let s := fullStep
    Has s ∧ (launchOf s).ended = false ∧ (launchOf s).suspended = false ∧ (∀ f ∈ (blockOf s).fibres, f.ended = true)
    ∧ (∃ f ∈ (blockOf s).fibres, f.endsNow (blockOf s).step = true) ∧ (blockOf s).stepCollision = none
    ∧ s.stepRoomFor (launchOf s) (blockOf s) = none := by decide +kernel
theorem witness_RoundCommits_waits : (idle id id id).roundReady (launchOf (idle id id id)) = false := by decide +kernel
/-- A round that stores to global memory and names a gate; its only fibre waits at `rstop`, or has exited. -/
def busyRound (x : FStatus) : State :=
  let s := idle (fun l => { l with roundLog := [{ wrote 0 65536 4 3 with space := .global, phys := 131072 }], named := [3] })
    (fun b => { b with step := 1 }) (fun f => { f with status := x })
  { s with gates := [{ tenant := 1, slice := 0, index := 3, count := 1, thresh := 1, pod := false, host := false,
                       remote := false, launch := 1 }] }
theorem witness_RoundCommits : ∀ x ∈ [FStatus.atRstop 0, .exited 0], let s := busyRound x
    Has s ∧ s.mem.wf = true ∧ (launchOf s).ended = false ∧ (launchOf s).suspended = false ∧ (launchOf s).hold = .none
    ∧ (∀ b ∈ (launchOf s).blockList, b.roundReady = true) ∧ s.cmds = []
    ∧ ((launchOf s).named.all fun n => (s.gate? ((launchOf s).gateIndex n)).any fun g => decide (g.thresh ≤ g.count)) = true
    ∧ (∀ c ∈ (launchOf s).roundLog, c.space = .global) ∧ collisions (sortKeys (launchOf s).roundLog) = []
    ∧ (launchOf s).woSecond = [] ∧ (launchOf s).logPoison = [] ∧ s.sparse = []
    ∧ (launchOf s).allExited = decide (x = .exited 0) ∧ touchedBytes (sortKeys (launchOf s).roundLog) = [65536, 65537, 65538, 65539] := by
  decide +kernel
theorem witness_RoundCommits_held : let s := idle (fun l => { l with
      hold := .pool 5 false, heldLog := [{ wrote 0 5 4 3 with space := .sparse 5 }], grown := [5] }) id id
    (launchOf s).hold = .pool 5 false ∧ (launchOf s).ended = false ∧ (launchOf s).retries ≠ []
    ∧ (launchOf (idle (fun l => { l with hold := .pool 5 false }) id id)).retries = [] := by decide +kernel
/-- Two lines wait to land. -/
theorem witness_RoundCommits_landing : let s := { idle (fun l => { l with
      hold := .landing none false, landing := [(1024, [some 1]), (1025, [some 2])], landAt := 3 }) id id with clock := 4 }
    (launchOf s).hold = .landing none false ∧ (launchOf s).ended = false ∧ (launchOf s).landAt < s.clock ∧ (launchOf s).landing.length = 2 := by
  decide +kernel

/-- A command of the placed launch's block. -/
def cmdOf (i : Instr) (params : List Byte) (phase : CmdPhase) : Cmd :=
  { id := 7, instr := i, launch := 1, block := 0, fibre := 0, seq := 0, dests := [0], reg := 20, gate := none,
    params := params ++ List.replicate (64 - params.length) 0, capBase := 0, capScratch := true, capLen := 64, capVal := 0,
    lanes := [], phase := phase, progress := 0, buf := [], outs := [], count := 0, status := 0, protect := [], child := none,
    port := none, since := 0, discard := false, written := 0, drain := [], frees := [], stop := none, after := [],
    before := [] }
def withCmd (s : State) (c : Cmd) : State := { s with cmds := [c] }

theorem witness_Landings_end :
    let s := withCmd (idle (fun l => { l with hold := .final, parent := some 7 }) id id)
      (cmdOf (.launch 20 1 8) [] .staged);
    Has s ∧ (launchOf s).hold = .final ∧ (launchOf s).ended = false ∧ (launchOf s).parent = some 7 ∧ (s.cmd? 7).isSome = true := by
  decide +kernel
theorem witness_Landings_token :
    let s := withCmd (idle id id fun f => { f with tokens := [{ reg := 20, cmd := 7, step := 0 }] })
      (cmdOf (.gath 20 1 8) [] .finished);
    Has s ∧ ((s.cmd? 7).map fun c => (c.phase, c.discard, c.dests.contains 0)) = some (.finished, false, true)
    ∧ ∀ f ∈ (blockOf s).fibres, (f.tokens.find? (fun x => x.cmd == 7)).map PendTok.reg = some 20 ∧ 20 < f.regs.length := by
  decide +kernel
theorem witness_Landings_load : let s := idle id id fun f => { f with loads := [{ regs := [(63, 5)], tag := none, line := [], core := 0, va := none, issued := 0, due := 0 }] }
    ∀ f ∈ (blockOf s).fibres, f.loads = [{ regs := [(63, 5)], tag := none, line := [], core := 0, va := none, issued := 0, due := 0 }] ∧ 63 < f.regs.length := by decide +kernel

/-! Engines. -/

/-- A `digest` of 200 bytes from the data range to offset 256 of a capability. -/
def digestParams (dest : Cap) : List Byte :=
  leBytes 16 (capOn 0 65536 256 0x21).num ++ leBytes 16 dest.num ++ List.replicate 8 0 ++ leBytes 8 0
    ++ leBytes 8 200 ++ leBytes 4 256
/-- A running `digest` to a capability that has read some bytes. -/
def digestTo (dest : Cap) (read : Nat) : State :=
  withCmd (idle id id id) { cmdOf (.digest 20 1 8) (digestParams dest) .running with buf := List.replicate read 0 }
def digesting (read : Nat) : State := digestTo (capOn 1 0 1024 0x22) read
def cmd7 (s : State) : Cmd := (s.cmd? 7).getD default
theorem witness_EngineEvents_source : let s := digesting 0
    s.cmd? 7 = some (cmd7 s) ∧ s.runnable (cmd7 s) = true ∧ s.blockOf (cmd7 s) = some (launchOf s, blockOf s)
    ∧ (cmd7 s).outs = [] ∧ (cmd7 s).sourceDone = false ∧ (cmd7 s).nextPiece = (0, 65536, 128)
    ∧ s.engBytes (launchOf s) (blockOf s) 0 65536 128 = .ok (List.replicate 128 0)
    ∧ (cmd7 (digesting 200)).sourceDone = true ∧ (cmd7 (digesting 199)).sourceDone = false := by decide +kernel
theorem witness_EngineEvents_source_fails : let s := { digesting 0 with poison := [1024] }
    s.engBytes (launchOf s) (blockOf s) (cmd7 s).nextPiece.1 (cmd7 s).nextPiece.2.1 (cmd7 s).nextPiece.2.2 = .error .memUncorrectable := by
  decide +kernel
/-- Before the last source byte there is no line to write; then one, to scratch or to memory. -/
theorem witness_EngineEvents_output : let s := digesting 200
    let u := digestTo (capOn 0 65536 1024 0x22) 200
    let v := digestTo (capOn 0 262144 1024 0x22) 200
    s.runnable (cmd7 s) = true ∧ s.blockOf (cmd7 s) = some (launchOf s, blockOf s) ∧ (blockOf s).allExited = false
    ∧ (cmd7 (digesting 199)).nextOut = none
    ∧ (cmd7 s).nextOut.map (fun o => (o.scratch, o.addr, o.bytes.length)) = some (true, 256, 32)
    ∧ (cmd7 u).nextOut.map (fun o => (o.scratch, u.translate none (launchOf u).tenant .store o.addr)) = some (false, .ok 131328)
    ∧ (cmd7 v).nextOut.map (fun o => v.translate none (launchOf v).tenant .store o.addr) = some (.error .rangeMiss) := by decide +kernel
theorem witness_EngineEvents_exited : (blockOf (withCmd (idle id id fun f => { f with status := .exited 0 })
    (cmdOf (.digest 20 1 8) (digestParams (capOn 1 0 1024 0x22)) .running))).allExited = true := by decide +kernel
/-- An `rcp` of eight bytes that it has read. -/
def sending : State :=
  let params := leBytes 16 (capOn 0 65536 64 0x21).num ++ leBytes 16 (capOn 7 0 64 0x22).num ++ List.replicate 8 0 ++ leBytes 8 0
    ++ leBytes 8 8
  withCmd (idle id id id) { cmdOf (.rcp 20 1 8) params .running with buf := List.replicate 8 1 }
theorem witness_EngineEvents_sends : let s := sending
    s.runnable (cmd7 s) = true ∧ (cmd7 s).nextOut.map (fun o => o.bytes) = some (List.replicate 8 (some 1)) := by decide +kernel
/-- A `scat` whose source line is poisoned. -/
def scattering : State :=
  let params := leBytes 16 (capOn 1 0 64 0x22).num ++ leBytes 16 (capOn 0 65536 64 0x21).num ++ List.replicate 4 0 ++ leBytes 2 1
    ++ leBytes 2 8
  withCmd { idle id id id with poison := [1024] } (cmdOf (.scat 20 1 8) params .running)
theorem witness_EngineEvents_scat : let s := scattering
    s.runnable (cmd7 s) = true ∧ (cmd7 s).sourceDone = false
    ∧ s.engBytes (launchOf s) (blockOf s) (cmd7 s).nextPiece.1 (cmd7 s).nextPiece.2.1 (cmd7 s).nextPiece.2.2 = .error .memUncorrectable := by
  decide +kernel
theorem witness_EngineEvents_quiesce :
    let s := withCmd (idle (fun l => { l with suspended := true }) id id)
      (cmdOf (.digest 20 1 8) (digestParams (capOn 1 0 1024 0x22)) .running);
    (launchOf s).suspended = true ∧ (cmd7 s).isLaunch = false ∧ (cmd7 s).phase = .running ∧ (cmd7 s).resumable = true := by decide +kernel
/-- A region that may hold both ports of its engine. -/
def region1 : Region :=
  { (default : Region) with rcb := rkey 1 0, tenant := 1, mehalves := 2, prio := 3, timeslice := 100, watchdog := 5, cores := 16 }
/-- A staged matrix command for port A; `queued` puts it in the port's queue, which its region then holds. -/
def matrix (i : Instr) (queued : Bool) : State :=
  let s := withCmd (idle id id id) { cmdOf i [] .staged with port := some 0 }
  { s with regions := [region1], ports := s.ports.map fun p =>
      if p.num = 0 ∧ queued then { p with holder := some (rkey 1 0), queue := [7] } else p }
theorem witness_MatrixEvents_enqueue : (let s := matrix (.mma 20 1 8) false; s.mayEnqueue (cmd7 s) = true)
    ∧ (let s := matrix (.mma 20 1 8) true; s.mayEnqueue (cmd7 s) = false) := by decide +kernel
theorem witness_MatrixEvents_row : ∀ i ∈ [Instr.mma 20 1 8, .mmb 20 1 8, .mmd 20 1 8, .mmz 20 1 8],
    (matrix i true).pickRow 0 = some (cmd7 (matrix i true)) ∧ (matrix i true).pickRow 1 = none := by decide +kernel
/-- One row of one k-block against a B of two columns. -/
def multiplying : State :=
  let s := matrix (.mma 20 1 8) true
  { s with cmds := [{ cmdOf (.mma 20 1 8) (List.replicate 36 0 ++ leBytes 2 1 ++ leBytes 2 1) .staged with port := some 0 }],
           ports := s.ports.map fun p => { p with btile := some { n := 2, kb := 1, fmt := 0, elems := [], exps := [] } } }
theorem witness_MatrixEvents_mma : let s := multiplying
    s.pickRow 0 = some (cmd7 s) ∧ s.cmd? 7 = some (cmd7 s) ∧ (cmd7 s).num 35 1 = 0 ∧ (cmd7 s).num 36 2 = 1 ∧ (cmd7 s).num 38 2 = 1
    ∧ (cmd7 s).progress = 0 ∧ ((s.port? 0).bind Port.btile).map (fun t => (t.n, t.kb, t.fmt)) = some (2, 1, 0)
    ∧ ((matrix (.mma 20 1 8) true).port? 0).map Port.btile = some none := by decide +kernel
theorem witness_MatrixEvents_mmb : let s := matrix (.mmb 20 1 8) true
    (s.port? 0).map Port.holder = some (some (s.regionOf (cmd7 s))) ∧ 0 / 2 = s.clusterOf (cmd7 s) := by decide +kernel
/-- A port whose region's budget has fallen to nothing, and no command. -/
def overBudget : State :=
  let s := matrix (.mma 20 1 8) true
  { s with cmds := [], regions := [{ region1 with mehalves := 0 }], ports := s.ports.map fun p => { p with queue := [] } }
theorem witness_MatrixEvents_port : (let s := matrix (.mma 20 1 8) false;
      (s.port? 0).map Port.holder = some none ∧ s.nextForPort 0 = some (cmd7 s))
    ∧ (let s := matrix (.mma 20 1 8) true;
      (s.port? 0).map (fun x => (s.mustRelease x, x.holder)) = some (false, some (rkey 1 0)))
    ∧ ((overBudget.port? 0).map overBudget.mustRelease = some true
      ∧ (overBudget.modPort 0 Port.release).nextForPort 0 = none) := by decide +kernel
/-- The same, with a command of another region that waits for the port. -/
theorem witness_MatrixEvents_given : let s := { overBudget with
      launches := overBudget.launches ++ overBudget.launches.map (fun l => { l with id := 2, rcb := rkey 1 128 })
      regions := overBudget.regions ++ [{ region1 with rcb := rkey 1 128, regionid := 1 }]
      cmds := [{ cmdOf (.mma 20 1 8) [] .staged with launch := 2, port := some 0 }] }
    (s.port? 0).map s.mustRelease = some true ∧ (s.modPort 0 Port.release).nextForPort 0 = some (cmd7 s) := by decide +kernel

/-! Scheduling. -/

theorem witness_WatchdogAndPlacement_watchdog : let s := { idle id id id with regions := [region1], clock := 10500 }
    Has s ∧ s.eff (launchOf s).rcb 6 Region.watchdog = 5 ∧ (launchOf s).ended = false ∧ (launchOf s).suspended = false
    ∧ (blockOf s).status = .bound ∧ (∃ g ∈ (blockOf s).groups, g.bound = true)
    ∧ (∀ f ∈ (blockOf s).fibres, f.isParked = false) ∧ (∃ f ∈ (blockOf s).fibres, f.live = true ∧ f.isAtRstop = false)
    ∧ (∀ r ∈ s.regions, r.suspended = false) ∧ (blockOf s).lastCommit + 5 * s.power.clock ≤ s.lastCheck
    ∧ s.overdueBefore (launchOf s) (blockOf s) = false := by decide +kernel
theorem witness_WatchdogAndPlacement_quiet : let s := { idle id id id with regions := [region1], clock := 10499 }
    s.clock < (blockOf s).lastCommit + s.eff (launchOf s).rcb 6 Region.watchdog * s.power.clock := by decide +kernel
/-- A block whose grace period ends at cycle 7. -/
def graced (x : FStatus) (clock : Nat) : State :=
  { idle id (fun b => { b with graceEnd := some 7, step := 1 }) (fun f => { f with status := x }) with clock := clock }
theorem witness_PreemptionEvents_grace : (blockOf (graced .running 7)).graceEnd = some 7 ∧ (blockOf (graced .running 7)).blocked = false
    ∧ (blockOf (graced (.atRstop 0) 7)).blocked = true ∧ (graced .running 6).clock < 7 := by decide +kernel
/-- A group whose next chain has waited for a global load for more than 10,000 µs. -/
def waitsLoad : State :=
  let s := idle id id fun f => { f with loads := [{ regs := [(0, 1)], tag := none, line := [], core := 0, va := some 65536, issued := 0, due := 9 }] }
  let u := (withData ((State.reset.placeWord (wordOf (.mov 3 0))).modLaunch 1 fun l => { l with blockList := (blockOf s) :: [] }))
  { u with clock := 21000001 }
theorem long_wait {s : State} {l : Launch} {b : Block} {g : Group} (a : (canRun l b && g.bound) = true)
    (w : s.groupWaits l b g = true) (r : g.ready = 0) (k : s.power.clock = 2100) (c : s.clock = 21000001) :
    s.longWait l b g = true := by
  have h := Nat.mod_lt Config.waitThreshold (show 0 < 10000 by decide)
  simp only [State.longWait, a, w, r, c, State.cyclesOf, waitThreshold, k, Bool.true_and, Bool.and_true, decide_eq_true_eq]
  clear a w
  generalize Config.waitThreshold % 10000 = n at h ⊢
  calc 0 + (1 + n) * 2100 ≤ 0 + 10000 * 2100 := by gcongr; omega
    _ < 21000001 := by decide
theorem no_wait {s : State} {l : Launch} {b : Block} {g : Group} (w : s.groupWaits l b g = false) : s.longWait l b g = false := by
  simp only [State.longWait, w, Bool.and_false]
theorem witness_PreemptionEvents_scoreboard : let u := waitsLoad
    let g := (blockOf u).groups.headD default
    Has u ∧ (blockOf u).group? 0 = some g ∧ u.longWait (launchOf u) (blockOf u) g = true ∧ u.evicting g = false
    ∧ (let s := idle id id id
       s.longWait (launchOf s) (blockOf s) ((blockOf s).groups.headD default) = false) :=
  ⟨by decide +kernel, by decide +kernel,
    long_wait (by decide +kernel) (by decide +kernel) (by decide +kernel) (by decide +kernel) (by decide +kernel),
    by decide +kernel, no_wait (by decide +kernel)⟩
theorem witness_PreemptionEvents_abort : let f : Fibre := { (default : Fibre) with regs := List.replicate 64 9, journal := [(3, 1), (63, 2)] }
    f.startStatus = .running ∧ (f.journal.map Prod.fst).Nodup ∧ 63 < f.regs.length
    ∧ (∃ k, { f with startStatus := .parked 3 }.startStatus = .parked k)
    ∧ { f with startStatus := .exited 0 }.startStatus ≠ .running := by
  refine ⟨by decide, by decide, by decide, ⟨3, rfl⟩, by decide⟩
/-- Two launches of two regions; the second one's block waits for the core that the first has held past its time slice. -/
def rivals (x : FStatus) : State :=
  let s := { idle id (fun b => { b with step := 1 }) (fun f => { f with status := x }) with
    regions := [region1, { region1 with rcb := rkey 1 128, regionid := 1 }], clock := 1000000 }
  { s with launches := s.launches ++ s.launches.map fun l =>
      { l with id := 2, rcb := rkey 1 128, blockList := l.blockList.map fun b =>
          { b with status := .waiting, groups := b.groups.map fun g => { g with bound := false } } } }
theorem witness_PreemptionEvents_slice : ∀ x ∈ [FStatus.running, .atRstop 0], let s := rivals x
    ((s.core? 0).map fun k => (s.blocksOn 0).filter (s.sliceOver k)) = some [{ l := launchOf s, b := blockOf s }]
    ∧ (blockOf s).blocked = decide (x = .atRstop 0) := by decide +kernel
theorem blocked_not {s : State} {l : Launch} {b : Block} {g : Group} (e : b.groupEnded g.index = false)
    (w : s.groupWaits l b g = false) : s.groupBlocked l b g = false := by
  simp only [State.groupBlocked, e, no_wait w, Bool.or_self, Bool.and_false]
/-- A running block's group on the core is at no blocking point. -/
theorem witness_PreemptionEvents_graced : let s := rivals .running
    (blockOf s).groups.filter (fun g => g.bound && g.core == 0) = [(blockOf s).groups.headD default]
    ∧ s.groupBlocked (launchOf s) (blockOf s) ((blockOf s).groups.headD default) = false :=
  ⟨by decide +kernel, blocked_not (by decide +kernel) (by decide +kernel)⟩
/-- The group on the core has ended the step; another group of the block waits to be bound. -/
theorem witness_PreemptionEvents_ended : let b := (blockOf (rivals .atStop))
    let c : Block := { b with groups := b.groups ++ b.groups.map fun g => { g with index := 1, bound := false }
                              fibres := b.fibres ++ b.fibres.map fun f => { f with id := 64, group := 1, status := .running } }
    c.blocked = false ∧ c.groups.all (fun g => !(g.bound && g.core == 0) || c.groupEnded g.index) = true := by decide +kernel
theorem witness_PreemptionEvents_no_slice : let s := idle id id id
    ((s.core? 0).map fun k => (s.blocksOn 0).all fun c => !s.sliceOver k c) = some true := by decide +kernel
/-- A block that waits, with a region that has room for it. -/
def waitingBlock : State :=
  { idle (fun l => { l with scratchSize := 0 }) (fun b => { b with status := .waiting, groups := b.groups.map fun g => { g with bound := false } }) id with
    regions := [{ region1 with banks := 4000 }] }
theorem witness_WatchdogAndPlacement_places : let s := waitingBlock
    (∀ k ∈ s.cores, k.pending = 0) ∧ s.excess = none ∧ s.candidates 0 = [{ l := launchOf s, b := blockOf s }]
    ∧ (s.planFor (launchOf s) (blockOf s)).isSome = true := by decide +kernel
theorem witness_WatchdogAndPlacement_waits : let s := waitingBlock.modCore 0 fun k => k.push { BindRecord.empty with valid := true }
    ∃ k ∈ s.cores, k.pending ≠ 0 := by decide +kernel
/-- A bound block at a blocking point, with a region that may hold no bank. -/
theorem witness_WatchdogAndPlacement_excess : let s := { idle id (fun b => { b with step := 1 }) (fun f => { f with status := .atRstop 0 }) with
      regions := [{ region1 with banks := 0 }] }
    (∀ k ∈ s.cores, k.pending = 0) ∧ s.excess = some { l := launchOf s, b := blockOf s, g := none } := by decide +kernel

/-- A core whose next record binds, or frees, the waiting group. -/
def recorded (op wsize : Nat) : State :=
  let s := waitingBlock.modCore 0 fun k => { k with contexts := [], launchTable := [(4, 1)], blockTable := [⟨5, 1, 0, 0⟩] }
  s.modCore 0 fun k => k.push { valid := true, gen := 1, banks := 0, wbase := 0, wsize := wsize, lslot := 4, bslot := 5,
                                context := 127, group := 0, op := op, zero := 0 }
def core0 (s : State) : Core := (s.core? 0).getD default
theorem witness_CoreEvents_binds : ∀ op ∈ [0, 2], let s := recorded op 6
    let k := core0 s
    let r := k.entry k.pitchAt
    s.core? 0 = some k ∧ r.valid = true ∧ r.op = op ∧ k.named r = some (1, 0, 0) ∧ Has s ∧ ((blockOf s).group? 0).map Group.bound = some false
    ∧ r.wsize ≠ 7 ∧ r.zero = 0 ∧ r.context < 128 ∧ 16 + 8 * r.wsize = (launchOf s).window
    ∧ (∀ x ∈ k.contexts, x.num ≠ r.context) ∧ k.inReg r.wbase (windowUnits (launchOf s).window) = true := by decide +kernel
theorem witness_CoreEvents_skips : let k := core0 (recorded 0 7)
    (k.entry k.pitchAt).valid = true ∧ k.named (k.entry k.pitchAt) = some (1, 0, 0) ∧ (k.entry k.pitchAt).wsize = 7
    ∧ (core0 (idle id id id)).pitch = [] ∧ ((core0 (idle id id id)).entry 0).valid = false := by decide +kernel
theorem witness_CoreEvents_unbinds : let s := (idle id id id).modCore 0 fun k => k.push { BindRecord.empty with valid := true, context := 1, op := 1 }
    let k := core0 s
    let r := k.entry k.pitchAt
    Has s ∧ r.valid = true ∧ r.op = 1
    ∧ (k.contexts.find? fun y => y.num == r.context).map (fun x => (x.launch, x.block, x.group)) = some (1, 0, 0)
    ∧ ((blockOf s).group? 0).isSome = true := by decide +kernel
theorem witness_CoreEvents_unbind_skips : let k := core0 (recorded 1 7)
    (k.entry k.pitchAt).valid = true ∧ (k.entry k.pitchAt).op = 1 ∧ (k.entry k.pitchAt).wsize = 7 := by decide +kernel
/-- A second context on the slot of the first, which has issued for long. -/
def demoting : State :=
  let s := idle id (fun b => { b with
      groups := b.groups ++ b.groups.map fun g => { g with index := 1, context := 5 }
      fibres := b.fibres ++ b.fibres.map fun f => { f with id := 64, group := 1 } }) id
  s.modCore 0 fun k => { k with
    contexts := k.contexts.flatMap fun x => [{ x with streak := 64, last := 9 }, { x with num := 5, group := 1 }] }
theorem witness_CoreEvents_demotes : let s := demoting
    let k := core0 s
    ((k.contexts.find? fun y => y.num == 1).map fun x =>
      (decide (64 ≤ x.streak), decide (s.clock ≤ x.last + 1), s.otherIssues k x (x.last + 1))) = some (true, true, true)
    ∧ k.policy = .gto ∧ ((core0 (idle id id id)).contexts.all fun x => decide (x.streak < 64)) = true := by decide +kernel
theorem witness_CoreEvents_lines : let s := idle id id id
    Has s ∧ (launchOf s).ended = false ∧ s.lineReadable 0 (launchOf s) (128 * 0 + 8) = true
    ∧ (∃ e, s.walk 1 65536 = .ok e) ∧ s.walk 1 131072 = .error .rangeMiss := by
  refine ⟨by decide +kernel, by decide +kernel, by decide +kernel, ⟨(entryOf (State.dirDesc (idle id id id) ((idle id id id).tenants.headD default) 1)), by decide +kernel⟩, by decide +kernel⟩

/-! The compactor: a data range between two free runs of slice 0. -/

def fragmented : State :=
  let d := descOf { gen := 0, tenant := 1, part := false, space := 0, perm := 3, pbase := 4, limit := 2, vbase := 1, bitmap := 0, word := none }
  let s := State.reset.placeWord 0
  { s with mem := s.mem.setBytes 32 (leBytes 32 d), owners := [(0, 0), (1, 1), (2, 0), (4, 1)],
           tenants := s.tenants.map fun t => { t with ndir := 2 },
           slices := s.slices.map fun x => { x with threshold := 1 } }
theorem free_tail (s : State) (a n g : Nat) (h : ∀ k, k < n → s.owner ((g + k) * unit) = 0xFFF) (c : Nat) :
    s.freeRunsFrom n g (some (a, c)) = [(a, c + n)] := by
  induction n generalizing g c with
  | zero => rfl
  | succ n ih =>
    have h0 := h 0 (by omega)
    simp only [Nat.add_zero] at h0
    have hs := ih (g + 1) (fun k hk => by have := h (k + 1) (by omega); rwa [show g + (k + 1) = g + 1 + k by omega] at this) (c + 1)
    simp only [State.freeRunsFrom, h0, beq_self_eq_true, if_true]
    rw [hs, show c + 1 + n = c + (n + 1) by omega]
theorem fragmented_owner (g : Nat) (h : 5 ≤ g) : fragmented.owner (g * unit) = 0xFFF := by
  have : g * unit / unit = g := Nat.mul_div_cancel g (by decide)
  have e : fragmented.owners = [(0, 0), (1, 1), (2, 0), (4, 1)] := rfl
  simp only [State.owner, this, e, List.find?]
  have h0 : (0 == g) = false := by simp; omega
  have h1 : (1 == g) = false := by simp; omega
  have h2 : (2 == g) = false := by simp; omega
  have h4 : (4 == g) = false := by simp; omega
  simp only [h0, h1, h2, h4]
theorem fragmented_runs : fragmented.freeRuns 0 = [(3, 1), (5, 1572859)] := by
  have t := free_tail fragmented 5 1572858 6 (fun k _ => fragmented_owner (6 + k) (by omega)) 1
  have e (n g : Nat) (c : Option (Nat × Nat)) : fragmented.freeRunsFrom (n + 1) g c = if fragmented.owner (g * unit) == 0xFFF
      then fragmented.freeRunsFrom n (g + 1) (match c with
        | none => some (g, 1)
        | some c => some (c.1, c.2 + 1))
      else c.toList ++ fragmented.freeRunsFrom n (g + 1) none := rfl
  have o0 : (fragmented.owner (0 * unit) == 0xFFF) = false := by decide +kernel
  have o1 : (fragmented.owner (1 * unit) == 0xFFF) = false := by decide +kernel
  have o2 : (fragmented.owner (2 * unit) == 0xFFF) = false := by decide +kernel
  have o3 : (fragmented.owner (3 * unit) == 0xFFF) = true := by decide +kernel
  have o4 : (fragmented.owner (4 * unit) == 0xFFF) = false := by decide +kernel
  have o5 : (fragmented.owner (5 * unit) == 0xFFF) = true := by decide +kernel
  show fragmented.freeRunsFrom 1572864 0 none = _
  rw [show 1572864 = 1572858 + 1 + 1 + 1 + 1 + 1 + 1 from rfl, e, o0, if_neg (by decide), e, o1, if_neg (by decide), e, o2,
    if_neg (by decide), e, o3, if_pos rfl, e, o4, if_neg (by decide), e, o5, if_pos rfl]
  simp only [t]
  rfl
theorem witness_CompactorMoves_idle : ((State.reset.slices.find? fun y => y.num == 11).map fun x => (x.moving, x.threshold)) = some (none, 0) := by
  decide +kernel
theorem witness_CompactorMoves_begins : fragmented.compactorPick 0 1 = some (1, 1, 3) ∧ (fragmented.rangeBy 1 1).isSome = true := by
  refine ⟨?_, by decide +kernel⟩
  unfold State.compactorPick
  simp only [fragmented_runs]
  decide +kernel
theorem witness_CompactorMoves_ends : let s := fragmented.modSlice 0 fun y => { y with moving := some (1, 1, 3) }
    ((s.slices.find? fun y => y.num == 0).map Slice.moving) = some (some (1, 1, 3)) ∧ (s.rangeBy 1 1).isSome = true
    ∧ Memory.wf [(0, 1)] = true ∧ 0 + 128 * 1 ≤ 128 := by decide +kernel

/-! From outside. -/

/-- A gate with the host flag given, and a running firmware that has mapped the data granule. -/
def hosted (host : Bool) : State :=
  { idle id id id with
    gates := [{ tenant := 1, slice := 11, index := 4095, count := 0, thresh := 1, pod := true, host := host, remote := false, launch := 1 }],
    boot := { State.reset.boot with status := 0, running := some [] },
    barMap := [{ off := 128, len := 128, phys := 131072, tenant := 1 }] }
theorem witness_HostTraffic_gate : ∀ h ∈ [true, false], (hosted h).windowGate 11 4095 = (1, 11, 4095)
    ∧ ((hosted h).gate? (1, 11, 4095)).map Gate.host = some h := by decide +kernel
theorem witness_HostTraffic_aperture : (hosted true).firmware = true ∧ (hosted true).aperture 255 = some 131199
    ∧ (hosted true).aperture 256 = none ∧ State.reset.firmware = false ∧ 255 % 128 + [(7 : Byte)].length ≤ 128 := by decide +kernel
theorem witness_HostTraffic_dma : (hosted true).owner 131072 = 1 ∧ 131072 + 128 ≤ memEnd ∧ (hosted true).owner 196608 ≠ 1 := by
  decide +kernel
theorem witness_FabricEvents_pod : let s := { hosted true with pod := some { tag := 1, members := [0, 1], count := 1 } }
    s.pod.map Pod.count = some 1 ∧ ((s.gates.find? Gate.pod).map Gate.key) = some (1, 11, 4095)
    ∧ (s.gate? (1, 11, 4095)).isSome = true ∧ State.reset.pod = none := by decide +kernel
/-- An export of 64 bytes of the data range, from one sender. -/
def exporting : State :=
  { idle id id id with exports := [{ base := 65536, len := 64, sender := 9, tenant := 1, launch := 1, gate := 0xFFF, gslice := 0, window := 3 }] }
def lineIn (acc : Bool) : RcpLine := { (default : RcpLine) with sender := 9, window := 3, off := 56, bytes := List.replicate 8 1, last := false, acc := acc }
theorem witness_FabricEvents_lines : let s := exporting
    ∀ acc ∈ [true, false], let m := lineIn acc
      (s.exports.find? fun e => e.window == m.window).map Export.launch = some 1 ∧ Has s ∧ (launchOf s).ended = false
      ∧ m.off + m.bytes.length = 64 ∧ m.bytes ≠ [] ∧ s.translate none 1 .store (65536 + m.off) = .ok (131072 + 56)
      ∧ m.last = false ∧ s.staging = [] ∧ ∀ e ∈ State.reset.exports, e.window ≠ m.window := by decide +kernel
/-- One port at its sixteenth failed retry, the others at their fifteenth. -/
def worn : State :=
  { State.reset with guyPorts := State.reset.guyPorts.map fun p => { p with streak := if p.num = 5 then 16 else 15 } }
theorem witness_FabricEvents_port : let s := worn
    ((s.guyPorts.find? fun p => p.num == 5).map fun p => (p.up, p.streak)) = some (true, 16)
    ∧ ((s.guyPorts.find? fun p => p.num == 6).map fun p => (p.up, p.streak)) = some (true, 15) := by decide +kernel

/-! Power, failures and management. -/

/-- Every slice in C2, a tolerance of 400 µs, and no traffic for one millisecond. -/
def quiet : State :=
  { State.reset with
    power := { State.reset.power with ltr := 400 }
    clock := 2100000
    slices := State.reset.slices.map fun x => { x with power := .c2 } }
theorem witness_PowerAndFailures_c3 : let s := quiet
    (∀ x ∈ s.slices, s.idle x.num = true ∧ (x.power = .c2 ∨ x.power = .c3) ∧ 400 ≤ s.tolerance x.num)
    ∧ s.power.lastHost + 1000 * s.power.clock = s.clock
    ∧ (let u := { s with clock := 2099999 }; u.clock < u.power.lastHost + 1000 * u.power.clock) := by decide +kernel
theorem witness_PowerAndFailures_core : ((idle id id id).core? 0).map Core.failed = some false
    ∧ ((({ (core0 State.reset) with failed := true } : Core).failed) = true) ∧ 5 ∉ State.reset.failedEngines := by decide +kernel
theorem witness_PowerAndFailures_gate : (hosted true).windowGate 11 4095 = (1, 11, 4095) ∧ ((hosted true).gate? (1, 11, 4095)).isSome = true := by
  decide +kernel
theorem witness_ManagementRegisters : State.reset.boot.accepts = true
    ∧ ({ State.reset.boot with checking := true } : Boot).accepts = false ∧ (hosted true).boot.accepts = false
    ∧ (0xFFFF : BitVec 64).toNat / 2 ^ 16 % 2 = 0 ∧ State.reset.snaps = [] ∧ State.reset.mgmt.busy = false
    ∧ (hosted true).firmware = true := by decide +kernel

/-- The firmware has a command, with its argument words. -/
def mailed (c : Nat) (ws : List Nat) : State :=
  let s := hosted true
  { s with mgmt := { s.mgmt with busy := true, pending := some c, mbox := ws ++ List.replicate (32 - ws.length) 0 } }
theorem witness_ExportAndPodCommands_args : (∀ w < 32, w ∉ [0, 1, 2, 3] → (mailed 1 [1, 2, 3, 4]).word w = 0)
    ∧ (mailed 4 [1, 2]).mgmt.begun = none ∧ (∃ w < 32, w ∉ [0] ∧ (mailed 4 [1, 2]).word w ≠ 0) ∧ (mailed 11 []).mgmt.pending = some 11
    ∧ (mailed 3 []).mgmt.pending ≠ some 4 := by decide +kernel
/-- An export entry of the placed launch, by its words: base 64 KiB, 64 bytes, any sender. -/
def exportWords (valid window : Nat) : List Nat :=
  let n := valid + window * 2 ^ 32 + 0xFFF * 2 ^ 52 + 1 * 2 ^ 64 + 1 * 2 ^ 96 + 0xFFF * 2 ^ 108 + 64 * 2 ^ 120 + 65536 * 2 ^ 160
  (List.range 4).map fun i => n / 2 ^ (64 * i) % 2 ^ 64
theorem witness_ExportAndPodCommands_export : let s := mailed 1 (exportWords 1 7)
    (s.words 0 4) % 2 = 1 ∧ s.exportOk (s.words 0 4) = true ∧ (exportOf (s.words 0 4)).window = 7 ∧ s.exports = []
    ∧ ((mailed 1 (exportWords 0 7)).words 0 4) % 2 = 0 ∧ (exportOf ((mailed 1 (exportWords 1 0)).words 0 4)).window = 0
    ∧ s.mgmt.pending = some 1 ∧ ∀ w < 32, w ∉ mboxArgs 1 → s.word w = 0 := by decide +kernel
theorem witness_ExportAndPodCommands_import : let n (valid : Nat) : Nat := valid + 7 * 2 ^ 16 + 9 * 2 ^ 32 + 64 * 2 ^ 64
    let s := mailed 2 [n 1 % 2 ^ 64, n 1 / 2 ^ 64, 5]
    s.word 2 % 65536 = 5 ∧ s.words 0 2 = n 1 ∧ bitsOf (n 1) 127 104 = 0 ∧ bitsOf (n 1) 63 44 = 0 ∧ bitsOf (n 1) 15 1 = 0
    ∧ bitsOf (n 1) 103 64 = 64 ∧ bitsOf (n 1) 43 32 = 9 ∧ bitsOf (n 1) 31 16 = 7 ∧ n 0 % 2 = 0 := by decide +kernel
/-- Modules 0 and 1 in a torus of 2 x 1 x 1. -/
theorem witness_ExportAndPodCommands_pod : let s := mailed 3 [9, 0x001000, 0x001]
    s.pod = none ∧ (∀ i < 3, s.word 1 / 16 ^ i % 16 ≤ s.word 1 / 16 ^ (i + 3) % 16
        ∧ s.word 1 / 16 ^ (i + 3) % 16 < s.word 2 / 16 ^ i % 16 + 1)
    ∧ ((List.range 4096).filter fun m => (List.range 3).all fun i =>
        decide (s.word 1 / 16 ^ i % 16 ≤ m / 16 ^ i % 16 ∧ m / 16 ^ i % 16 ≤ s.word 1 / 16 ^ (i + 3) % 16)) = [0, 1] ∧ s.moduleId = 0
    ∧ (let u := { mailed 4 [1] with pod := some { tag := 9, members := [0, 1], count := 0 } }
       u.word 0 % 4096 ∈ [0, 1] ∧ u.word 0 % 4096 ≠ u.moduleId ∧ (mailed 4 [0]).word 0 % 4096 = u.moduleId) := by decide +kernel
/-- A region whose handler gate the launch names, with every live fibre at a gated `rstop`. -/
def attachable : State :=
  let s := mailed 5 [0, 1]
  { s with regions := [{ region1 with hgate := 3, hslice := 0 }], launches := s.launches.map fun l =>
      { l with named := [3], blockList := l.blockList.map fun b => { b with fibres := b.fibres.map fun f => { f with status := .atRstop 0 } } } }
theorem witness_LayoutAndTenantCommands_debug : let s := attachable
    s.launch? (s.word 1 % 2 ^ 32) = some (launchOf s) ∧ (s.region? (rkey (launchOf s).tenant (s.word 0))).isSome = true
    ∧ (launchOf s).ended = false ∧ (launchOf s).sup = true
    ∧ (launchOf s).waitsOn ((launchOf s).tenant, s.eff (rkey 1 0) 7 Region.hslice, s.eff (rkey 1 0) 7 Region.hgate) = true
    ∧ (let u := { mailed 6 [0] with regions := [{ region1 with dbg := some { launch := 1 } }] }
       (u.regions.find? fun r => r.addr == u.word 0 && r.dbg.isSome).isSome = true) := by decide +kernel
/-- Twelve slices for one partition, or six and six. -/
theorem witness_LayoutAndTenantCommands_layout : let y (s : State) : Layout := { slices := nibbles (s.word 0) 12, groups := nibbles (s.word 1) 12 }
    let one := mailed 7 [0, 0]
    let split := mailed 7 [0x111111000000, 0x111111000000]
    let bad := mailed 7 [2, 0]
    (y one).ok = true ∧ (y split).ok = true ∧ (y bad).ok = false ∧ (∀ t ∈ one.tenants, (t.first, t.slices) ∈ (y one).runs)
    ∧ (∃ t ∈ split.tenants, (t.first, t.slices) ∉ (y split).runs) := by decide +kernel
/-- The firmware's own granule for an image, mapped for it. -/
def savable : State :=
  let s := mailed 8 [1, 3 * 65536, 65536]
  { s with owners := s.owners ++ [(3, 0)], barMap := [{ off := 0, len := 65536, phys := 3 * 65536, tenant := 0 }] }
theorem witness_LayoutAndTenantCommands_save : let s := savable
    (s.tenant? (s.word 0 % 4096)).isSome = true ∧ s.areaOk (s.word 1) (s.word 2) = true ∧ s.mgmt.begun = none
    ∧ ∀ t ∈ s.tenants, t.num ≠ (mailed 8 [2, 0, 0]).word 0 % 4096 := by decide +kernel
/-- A save that has begun: it waits while the launch is on core 0, and goes on once it is not. -/
def saving : State := { savable with mgmt := { savable.mgmt with begun := some (.save 1 (3 * 65536) 65536 9) } }
theorem witness_LayoutAndTenantCommands_saving : let s := saving
    let u := s.modCore 0 fun k => { k with contexts := [] }
    s.onCores 1 = true ∧ u.onCores 1 = false ∧ (u.tenant? 1).isSome = true
    ∧ 65536 < (u.granulesOf 1).length * unit + 9 ∧ (u.granulesOf 1).length * unit + 9 ≤ 2 ^ 20 := by decide +kernel
/-- A removal that has begun waits for a store of before that is in a step buffer, and not for another. -/
theorem witness_LayoutAndTenantCommands_removing : let s := { idle id id (fun f => { f with loads :=
        [{ regs := [(0, 1)], tag := none, line := [], core := 0, va := some 65536, issued := 3, due := 9 }] }) with
      mgmt := { State.reset.mgmt with busy := true, pending := some 10, begun := some (.range 1 3 65536 65536 1) } }
    s.onItsWay 1 3 [(65536, 65536)] = true ∧ s.onItsWay 1 2 [(65536, 65536)] = false := by decide +kernel
theorem witness_LayoutAndTenantCommands_restore_none : ∀ i ∈ (mailed 9 [0, 0, 0]).images, i.digest ≠ [] := by decide +kernel
/-- A tenant's image, known by the digest of no bytes, to be restored to the first slice; one launch of it spills to a range that starts
at its first granule. -/
def restoring (gs : List Nat) : State :=
  let s := mailed 9 [0, 0, 0]
  { s with
    layout := { slices := List.range 12, groups := List.range 12 }
    tenants := []
    owners := [(0, 0), (1, 1), (2, 1)]
    images := [{ digest := sha256 [], version := Config.imageVersion [],
                 tenant := { num := 1, first := 0, slices := 1, dir := 0, ndir := 0, cap := 65535 },
                 launches := [{ (default : Launch) with spilllen := gs.length * unit }], regions := [],
                 sparse := [], gates := [], cmds := [], ports := [], barMap := [], scratchPoison := [], granules := gs, cells := [],
                 poison := [] }] }
theorem runs_whole (whole : List (Nat × Nat)) (n a : Nat) (h : ∀ k, a ≤ k → k < a + n → linked whole k = true) :
    runsOf whole (List.range' a (n + 1)) = [(a, n + 1)] := by
  induction n generalizing a with
  | zero => rfl
  | succ n ih =>
    rw [List.range'_succ, runsOf, ih (a + 1) fun k hk hn => h k (by omega) (by omega)]
    simp [h a (by omega) (by omega)]
theorem witness_LayoutAndTenantCommands_restore : let s := restoring []
    s.images.find? (fun i => i.digest == sha256 (s.mem.bytes (s.word 1) (s.word 2))) = s.images.head?
    ∧ (∀ i ∈ s.images, i.version = Config.imageVersion (s.boot.running.getD []))
    ∧ s.layout.runs.find? (fun x => x.1 == s.word 0 % 16) = some (0, 1) ∧ s.tenants = [] ∧ (s.allot 1 0 1 []).isSome = true
    ∧ (∀ i ∈ s.images, (runsOf i.whole i.granules).foldr insertRun [] = []) := by
  refine ⟨?_, fun i hi => ?_, by decide +kernel, rfl, rfl, fun i hi => ?_⟩
  · have e : (restoring []).mem.bytes ((restoring []).word 1) ((restoring []).word 2) = [] := by decide +kernel
    simp only [e]
    simp [restoring]
  · simp only [restoring, List.mem_singleton] at hi
    subst hi; rfl
  · simp only [restoring, List.mem_singleton] at hi
    subst hi; rfl
theorem restoring_owner (gs : List Nat) (g : Nat) (h : 3 ≤ g) : (restoring gs).owner (g * unit) = 0xFFF := by
  have : g * unit / unit = g := Nat.mul_div_cancel g (by decide)
  have e : (restoring gs).owners = [(0, 0), (1, 1), (2, 1)] := rfl
  simp only [State.owner, this, e, List.find?]
  have h0 : (0 == g) = false := by simp; omega
  have h1 : (1 == g) = false := by simp; omega
  have h2 : (2 == g) = false := by simp; omega
  simp only [h0, h1, h2]
theorem restoring_runs (gs : List Nat) : (restoring gs).partitionRuns 0 1 = [(3, 1572861)] := by
  have e (n g : Nat) (c : Option (Nat × Nat)) : (restoring gs).freeRunsFrom (n + 1) g c =
      if (restoring gs).owner (g * unit) == 0xFFF
      then (restoring gs).freeRunsFrom n (g + 1) (match c with
        | none => some (g, 1)
        | some c => some (c.1, c.2 + 1))
      else c.toList ++ (restoring gs).freeRunsFrom n (g + 1) none := rfl
  have own (g : Nat) (h : g < 3) : ((restoring gs).owner (g * unit) == 0xFFF) = false := by
    have x : (restoring gs).owners = [(0, 0), (1, 1), (2, 1)] := rfl
    have : g * unit / unit = g := Nat.mul_div_cancel g (by decide)
    unfold State.owner
    rw [this, x]
    obtain rfl | rfl | rfl : g = 0 ∨ g = 1 ∨ g = 2 := by omega
    · decide
    · decide
    · decide
  have o3 := restoring_owner gs 3 (by omega)
  have t := free_tail (restoring gs) 3 1572860 4 (fun k _ => restoring_owner gs (4 + k) (by omega)) 1
  unfold State.partitionRuns
  rw [show sliceGranules * 1 = 1572864 from by decide, Nat.mul_zero]
  rw [show 1572864 = 1572860 + 1 + 1 + 1 + 1 from rfl, e, own 0 (by decide), if_neg (by decide), e,
    own 1 (by decide), if_neg (by decide), e, own 2 (by decide), if_neg (by decide), e, o3, if_pos (by decide)]
  simp only [t]
  rfl
theorem allot_none (s : State) (k n : Nat) (r : s.partitionRuns 0 1 = [(3, k)]) (h : k < n) : s.allot 1 0 1 [(0, n)] = none := by
  simp only [State.allot, r, List.find?, show decide (n ≤ k) = false by simp; omega]
/-- A spill range of an image that is longer than the slice has no place. -/
theorem witness_LayoutAndTenantCommands_restore_full (n : Nat) (h : 1572861 ≤ n) :
    ∀ i ∈ (restoring (List.range' 0 (n + 1))).images,
      (restoring (List.range' 0 (n + 1))).allot 1 0 1 ((runsOf i.whole i.granules).foldr insertRun []) = none := by
  intro i hi
  have hw : (0, (n + 1) * unit) ∈ i.whole := by
    simp only [restoring, List.mem_singleton] at hi
    subst hi
    simp [TenantImage.whole, show (default : Launch).spillbase = 0 from rfl]
  have hg : i.granules = List.range' 0 (n + 1) := by
    simp only [restoring, List.mem_singleton] at hi
    subst hi; rfl
  rw [hg, runs_whole _ _ _ fun k _ hk => List.any_eq_true.mpr ⟨_, hw, by
    have : (k + 1) * unit < (n + 1) * unit := Nat.mul_lt_mul_of_pos_right (by omega) (by decide)
    simp; omega⟩]
  exact allot_none _ _ _ (restoring_runs _) (by omega)
/-- The removal of the second range. -/
theorem witness_LayoutAndTenantCommands_remove :
    let d := descOf { gen := 0, tenant := 1, part := false, space := 0, perm := 3, pbase := 2, limit := 2, vbase := 1, bitmap := 0, word := none }
    let s := mailed 10 ([1] ++ ((List.range 4).map fun i => d / 2 ^ (64 * i) % 2 ^ 64) ++ [1])
    s.word 5 % 2 = 1 ∧ (∀ t ∈ s.tenants, ((s.dirList t).map entryOf).any (fun x => x.vbase == (entryOf (s.words 1 4)).vbase) = true)
    ∧ s.moveInFlight 1 1 = false ∧ s.mgmt.begun = none ∧ s.onItsWay 1 s.clock [(65536, 65536)] = false := by decide +kernel
/-- A range of one unit at virtual unit `v` in granule `p`, to be written for tenant 1. -/
def descWords (v p : Nat) : State :=
  let d := descOf { gen := 0, tenant := 1, part := false, space := 0, perm := 3, pbase := p, limit := v + 1, vbase := v, bitmap := 0, word := none }
  mailed 10 ([1] ++ ((List.range 4).map fun i => d / 2 ^ (64 * i) % 2 ^ 64) ++ [0])
theorem witness_LayoutAndTenantCommands_range : ∀ x ∈ [(1, 2, true, true), (2, 2, false, true), (2, 3, false, false)],
    let s := descWords x.1 x.2.1
    (s.tenant? (s.word 0 % 4096)).isSome = true ∧ s.word 5 % 2 = 0 ∧ descBad 1 (s.words 1 4) = false
    ∧ (∀ t ∈ s.tenants, (((s.dirList t).map entryOf).any fun y => decide ((entryOf (s.words 1 4)).vbase < y.limit ∧ y.vbase < (entryOf (s.words 1 4)).limit)) = x.2.2.1
      ∧ t.ndir < min t.cap 65535)
    ∧ s.ownsRun 1 (x.2.1 * unit) unit = x.2.2.2 := by decide +kernel

/-! Checks 5 and 6 of an access, a store through a write-only capability, and what fails there. -/

theorem witness_AccessChecks_later : let s := at1 .nop id
    let e := envOf s
    s.translate (some 0) 1 .store 65544 = .ok 131080 ∧ s.translate (some 0) 1 .store 262144 = .error .rangeMiss
    ∧ e.b.coreOf (viewOf s).group = 0 ∧ e.l.tenant = 1
    ∧ (let u := { s with scratchPoison := [(1, 0, 0)] }; u.scratchPoison.contains ((envOf u).l.id, (envOf u).b.index, (accOf (capOn 1 0 12 1)).addr / 128) = true)
    ∧ ({ viewOf s with privPoison := [0] } : Fibre).privPoison.contains ((accOf (capOn 2 0 12 1)).addr / 128) = true
    ∧ e.phys (viewOf s) .constLoad (accOf (capOn 3 262144 12 1)).addr = .error (walkedTrap .rangeMiss 262152)
    ∧ (let u := { s with poison := [1024] }; (envOf u).phys (viewOf u) .load 65544 = .ok 131080 ∧ u.poisoned 131080 = true)
    ∧ (capOn 0 0 31 6).canW = true ∧ (capOn 0 0 31 6).isWO = true ∧ (capOn 1 0 31 6).isWO = true := by decide +kernel
/-- The write-only table at its edges: `.fault` passes, `.acc` does not (R61). -/
theorem test_write_only : ([0, 1, 6].map fun r => spaceCheck (capOn 0 0 31 6) (.store r) false) = [none, none, none]
    ∧ spaceCheck (capOn 5 0 31 6) (.store 3) false = some .illegalField ∧ spaceCheck (capOn 1 0 31 6) (.store 0) false = some .capPerm
    ∧ spaceCheck (capOn 0 0 31 6) .load false = some .capPerm := by decide +kernel
theorem witness_FadrAndBlockRegisterStores_sound : let s := mem1 (.fadr 10 1 8 3 0) (capOn 0 65536 12 3) 2
    s.poisoned 131080 = false ∧ s.scratchPoison.contains ((envOf s).l.id, (envOf s).b.index, 8 / 128) = false := by decide +kernel
/-- A load and a `fadr` that meet a poisoned line, a store to no range. -/
def hurt (i : Instr) (c : Cap) : State := { mem1 i c 2 with poison := [1024], scratchPoison := [(1, 0, 0)] }
theorem witness_AccessFaults_later :
    (let s := hurt (.ld 9 1 8 3 0 0) (capOn 0 65536 12 1)
     Runs s (.ld 9 1 8 3 0 0) ∧ Single s ∧ (envOf s).access (viewOf s) 1 8 3 .load = .ok (accOf (capOn 0 65536 12 1))
      ∧ (envOf s).loadData (viewOf s) (accOf (capOn 0 65536 12 1)) 0 = .error (walkedTrap .memUncorrectable 65544))
    ∧ (let s := hurt (.st 9 1 8 3 0 0) (capOn 0 262144 12 3)
     Runs s (.st 9 1 8 3 0 0) ∧ Single s ∧ (envOf s).access (viewOf s) 1 8 3 (.store 0) = .ok (accOf (capOn 0 262144 12 3))
      ∧ (envOf s).phys (curOf s) .store 262152 = .error (walkedTrap .rangeMiss 262152))
    ∧ (let s := hurt (.fadr 10 1 8 3 0) (capOn 0 65536 12 3)
     Runs s (.fadr 10 1 8 3 0) ∧ Single s ∧ (envOf s).access (viewOf s) 1 8 3 .fadr = .ok (accOf (capOn 0 65536 12 3))
      ∧ (envOf s).phys (curOf s) .store 65544 = .ok 131080 ∧ s.poisoned 131080 = true)
    ∧ (let s := hurt (.fadr 10 1 8 3 0) (capOn 1 0 12 3)
     Runs s (.fadr 10 1 8 3 0) ∧ Single s ∧ (envOf s).access (viewOf s) 1 8 3 .fadr = .ok (accOf (capOn 1 0 12 3))
      ∧ s.scratchPoison.contains ((envOf s).l.id, (envOf s).b.index, 8 / 128) = true) :=
  ⟨⟨runs_of (by decide +kernel), single_of (by decide +kernel), by decide +kernel, by decide +kernel⟩,
   ⟨runs_of (by decide +kernel), single_of (by decide +kernel), by decide +kernel, by decide +kernel⟩,
   ⟨runs_of (by decide +kernel), single_of (by decide +kernel), by decide +kernel, by decide +kernel⟩,
   ⟨runs_of (by decide +kernel), single_of (by decide +kernel), by decide +kernel, by decide +kernel⟩⟩
theorem witness_AccessFaults_perm :
    (let s := cap1 (.capperm 3 2 8) (capOn 0 0x1000 64 0x13) [];
      Runs s (.capperm 3 2 8) ∧ Single s ∧ capValid (envOf s).l ((viewOf s).tag 2) (capOf ((viewOf s).quad 2)) = false)
    ∧ (let s := cap1 (.capperm 3 1 8) (capOn 0 0x1000 64 3) [];
      Runs s (.capperm 3 1 8) ∧ Single s ∧ capOf ((viewOf s).quad 1) = capOn 0 0x1000 64 3
        ∧ capValid (envOf s).l ((viewOf s).tag 1) (capOn 0 0x1000 64 3) = true ∧ (capOn 0 0x1000 64 3).hasSub = false) :=
  ⟨⟨runs_of (by decide +kernel), single_of (by decide +kernel), by decide +kernel⟩,
   ⟨runs_of (by decide +kernel), single_of (by decide +kernel), by decide +kernel⟩⟩

/-! The checks of a packet: a place outside the image, in no range, on a poisoned line, with a bad header, at no packet, at a packet
that is no destination; then a packet with a word that is wrong in itself, chains that clash, a register outside the window. -/

/-- What the checks of the placed packet say, with its line's header and words, at a code offset, for a fibre that came by a transfer. -/
def checked (h : Nat) (ws : List Nat) (pc : Nat) (f : State → State) (l : Launch → Launch) : Checked :=
  let s := State.reset.placeWord 0
  let u := f { s with mem := s.mem.setBytes 65536 (leBytes 8 h ++ ws.flatMap (leBytes 4)) }
  u.checkPacket 0 (l ((u.launch? 1).getD default)) [{ (default : Fibre) with id := 3, arrival := .transfer 44 }] pc
theorem witness_PacketChecks :
    (checked (2 ^ 20 + 1) [0, 0, 0] 128 id id).fails = [(3, .target, 44, 0)]
    ∧ (checked (2 ^ 20 + 1) [0, 0, 0] 120 id id).fails = [(3, .target, 44, 0)]
    ∧ (checked (2 ^ 20 + 1) [0, 0, 0] 8 id fun l => { l with codebase := 65536 }).fails = [(3, .rangeMiss, 65544, 0)]
    ∧ (checked (2 ^ 20 + 1) [0, 0, 0] 8 (fun s => { s with poison := [512] }) id).fails = [(3, .memUncorrectable, 8, 0)]
    ∧ (checked (2 ^ 20 + 1 + 2 ^ 30) [0, 0, 0] 8 id id).fails = [(3, .lineHeader, 2 ^ 20 + 1 + 2 ^ 30, 0)] := by decide +kernel
theorem witness_PacketChecks_line :
    (checked 1 [0, 0, 0] 8 id id).fails = [(3, .lineHeader, 1, 0)]
    ∧ (checked (2 ^ 20 + 1 + 2 ^ 10) [0, 0, 0] 8 id id).fails = [(3, .lineHeader, 2 ^ 20 + 1 + 2 ^ 10, 0)]
    ∧ (checked (2 ^ 20) [0, 0, 0] 8 id id).fails = [(3, .target, 44, 0)]
    ∧ checked (2 ^ 20 + 1) [0, 0, 0] 8 id id = { fails := [], live := [3], words := [0, 0, 0], bad := none }
    ∧ checked (2 ^ 20 + 1) [0, 6, 0] 8 id id = { fails := [], live := [3], words := [0, 6, 0], bad := some (6, 1) }
    ∧ (checked (2 ^ 20 + 1) [0, 0x20, 0] 8 id id).fails = [(3, .illegalField, 0x20, 1)] := by decide +kernel
/-- A word alone, by its own check: privilege stands before the fields, and a chain bit at the last position is refused (R71, R97). -/
theorem witness_PacketChecks_word : let rgkill : BitVec 32 := 0x1C240286
    decodeWord 6 = .error .illegalOpcode ∧ wordFault true none 0 6 [] = some .illegalOpcode
    ∧ privWord rgkill.toNat = true ∧ wordFault false none 0 rgkill [] = some .privilege ∧ wordFault true none 0 rgkill [] = none
    ∧ decodeWord 0x20 = .error .illegalField ∧ wordFault true none 0 0x20 [] = some .illegalField
    ∧ wordFault true none 2 0x8080001E [] = some .illegalField ∧ wordFault true none 0 0x8080001E [0x8080001E] = some .illegalField
    ∧ wordFault true none 0 0x8080001E [0x040828C5] = none ∧ wordFault true none 2 0x80000000 [] = some .illegalField := by
  decide +kernel
/-- Two writes of v4, or one pipe twice, in a chain; two control words; and v30 in a window of 24 registers. -/
theorem witness_PacketChecks_packet : let w (c : Bool) (i : Instr) : BitVec 32 := BitVec.ofNat 32 (encodeWord c 0 i)
    packetFault true 64 [w true (.iadd 4 1 2), w false (.fadd 4 1 2), 0] = some (.illegalField, w false (.fadd 4 1 2), 1)
    ∧ packetFault true 64 [w true (.iadd 4 1 2), w false (.iadd 5 1 2), 0] = some (.illegalField, w false (.iadd 5 1 2), 1)
    ∧ packetFault true 64 [w false .stop, 0, w false (.br 0 0)] = some (.illegalField, w false (.br 0 0), 2)
    ∧ packetFault true 24 [0, w false (.iadd 4 1 30), 0] = some (.regWindow, w false (.iadd 4 1 30), 1)
    ∧ packetFault true 24 [0, w false (.iadd 4 1 23), 0] = none := by decide +kernel
/-- Under check, a fibre that reads v1 one cycle before it can be read is taken out, and no other. -/
theorem witness_PacketChecks_short : let s := State.reset.placeWord 0
    let l : Launch := { launchOf s with check := true }
    let f : Fibre := { (default : Fibre) with id := 3, regs := List.replicate 64 0, preds := 1, fresh := [{ reg := 1, ready := 10, old := 0 }] }
    let g : Fibre := { f with id := 4, fresh := [] }
    let ws : List (BitVec 32) := [BitVec.ofNat 32 (wordOf (.iadd 4 1 2)), 0, 0]
    s.stallShort l 9 [f, g] ws 0 = [(3, .stallShort, 1, 0)] ∧ s.stallShort l 10 [f, g] ws 0 = []
    ∧ (f.early 9 1).isSome = true ∧ s.stallShort { l with check := false } 9 [f, g] ws 0 = [] := by decide +kernel

/-! Faults at run time: a guard, a source and a destination that are pending; a journal that is full. -/

theorem witness_RunTimeFaults_pending :
    (let s := (guarded (.iadd 3 1 2)); perFibre (.iadd 3 1 2) = true ∧ (envOf s).is.live = [(viewOf s).id]
      ∧ (envOf s).b.fibre? (viewOf s).id = some (viewOf s) ∧ (envOf s).cur? (viewOf s).id = some (curOf s)
      ∧ (envOf s).is.mods.gq ≠ 0)
    ∧ ({ (default : Fibre) with spawnPending := true } : Fibre).pendingRound 79 = some { code := .pendingRound, info0 := 79, info1 := 0 }
    ∧ (let p : PendFadr := { reg := 8, wide := true, round := true, seq := 0, step := 0, got := none }
       let f : Fibre := { (default : Fibre) with fadrs := [p] }
       ([7, 8, 9, 10].map f.pendingRound) = [none, some ⟨.pendingRound, 8, 0, none⟩, some ⟨.pendingRound, 8, 0, none⟩, none]
        ∧ Instr.newestReads (.iadd 3 1 9) Mods.none ++ Instr.writesNow (.iadd 3 1 9) = [1, 9, 3]) := by decide +kernel
/-- A journal of 24 entries, or of 23 with the predicate word's. -/
def journalled (i : Instr) (n : Nat) (p : Option (BitVec 16)) : State :=
  at1 i fun f => { f with journal := (List.range n).map (fun k => (k + 10, 0)), jpreds := p }
theorem witness_RunTimeFaults_full : ∀ x ∈ [(24, none), (23, some 1)], let s := journalled (.iadd 3 1 2) x.1 x.2
    runsAt s .nop = true ∧ singleAt s = true ∧ (envOf s).is.mods.gq = 0
    ∧ (Instr.newestReads (.iadd 3 1 2) (envOf s).is.mods ++ Instr.writesNow (.iadd 3 1 2)).all ((viewOf s).settled (envOf s).is.cycle) = true
    ∧ 24 ≤ (curOf s).journal.length + (if (curOf s).jpreds.isSome = true then 1 else 0)
    ∧ ((envOf s).int32 (viewOf s) (.iadd 3 1 2)).map Prod.fst = some 3 ∧ (curOf s).pendingRound 3 = none
    ∧ (∀ y ∈ (curOf s).journal, y.1 ≠ 3)
    ∧ ((envOf s).truth (viewOf s) (.icmp 1 2 3 0)).map Prod.fst = some 1 ∧ (curOf s).pendingRound 65 = none := by decide +kernel
/-- Where the chain's fibres wait to be parked after the word. -/
def parkedBy (i : Instr) (s : State) : List (Nat × FaultCode × Nat × Nat) :=
  ((reads (exec i s) fun t => (t.issue.map Issue.parks).getD []).getD [])
theorem test_journal_full : parkedBy (.iadd 3 1 2) (journalled (.iadd 3 1 2) 24 none) = [(0, .journalFull, 3, 0)]
    ∧ parkedBy (.icmp 1 2 3 0) (journalled (.icmp 1 2 3 0) 24 none) = [(0, .journalFull, 64, 0)]
    ∧ parkedBy (.iadd 10 1 2) (journalled (.iadd 10 1 2) 24 none) = [] := by decide +kernel

/-! Dispatch: what a command's parameter block leaves it with. -/

/-- A parameter block of n bytes, by byte offset, size and value. -/
def fields (n : Nat) (xs : List (Nat × Nat × Nat)) : List Byte := leBytes n (xs.map fun x => x.2.2 % 256 ^ x.2.1 * 256 ^ x.1).sum

/-- The phase, status and count of a command after its dispatch, on a state that `f` makes; C is 1,024 bytes of scratch. -/
def outcome (f : State → State) (i : Instr) (xs : List (Nat × Nat × Nat)) : Option (CmdPhase × Nat × Nat) :=
  let c : Cmd := { cmdOf i (fields 64 xs) .running with capVal := (capOn 1 0 1024 0x2B).num, capLen := 1024 }
  let s := withCmd (f (idle id (fun b => { b with scratchTags := [0, 16, 32] }) id)) c
  ((s.dispatchRead (launchOf s) (blockOf s) c).cmd? 7).map fun x => (x.phase, x.status, x.count)
/-- It ended with a fault's code. -/
def failed (c : FaultCode) : Option (CmdPhase × Nat × Nat) := some (.finished, c.num, 0)
def runs : Option (CmdPhase × Nat × Nat) := some (.running, 0, 0)
/-- A capability operand at byte 0 or 16. -/
def at0 (c : Cap) : Nat × Nat × Nat := (0, 16, c.num)
def at16 (c : Cap) : Nat × Nat × Nat := (16, 16, c.num)
/-- The data range, for reading, writing, or neither by an engine. -/
def src (len : Nat) : Cap := capOn 0 65536 len 0x21
def dst (len : Nat) : Cap := capOn 0 65536 len 0x22

theorem witness_EngineDispatch_digest : let d := outcome id (.digest 20 1 8)
    d [at0 (src 256), at16 (dst 64), (48, 8, 256), (56, 8, 32)] = runs
    ∧ d [at0 (src 256), at16 (dst 64), (48, 8, 257)] = failed .capBounds ∧ d [at0 (src 256), at16 (dst 64), (56, 8, 33)] = failed .capBounds
    ∧ d [at0 (src 256), at16 (src 64)] = failed .capPerm ∧ d [at0 { src 256 with zero := 1 }, at16 (dst 64)] = failed .capTag
    ∧ d [at0 (src 256), at16 (dst 64), (39, 1, 1)] = failed .illegalField ∧ d [at0 (src 256), at16 (dst 64), (48, 8, 2 ^ 40)] = failed .illegalField := by
  decide +kernel
/-- Two rows of one PSB8 block into tile, an empty command, an INT8 tile of PSB storage, overlapping planes. -/
theorem witness_EngineDispatch_cpt : let ok := [(33, 1, 1), (34, 1, 1), (36, 2, 2), (38, 2, 1), (48, 4, 34), (52, 4, 0), (56, 4, 64), (60, 4, 72)]
    let d (xs : List (Nat × Nat × Nat)) := outcome id (.cpt 20 1 8) xs
    d (at0 (src 68) :: ok) = runs ∧ d (at0 (src 67) :: ok) = failed .capBounds ∧ d (at0 (dst 68) :: ok) = failed .capPerm
    ∧ d [at0 (src 68), (33, 1, 1), (34, 1, 1), (38, 2, 1), (48, 4, 34), (56, 4, 64), (60, 4, 72)] = some (.finished, 0, 0)
    ∧ d [at0 (src 68), (33, 1, 1), (34, 1, 3), (36, 2, 2), (38, 2, 1), (48, 4, 34), (56, 4, 64), (60, 4, 72)] = failed .format
    ∧ d [at0 (src 68), (33, 1, 1), (34, 1, 1), (36, 2, 2), (38, 2, 1), (48, 4, 34), (56, 4, 62), (60, 4, 72)] = failed .illegalField := by
  decide +kernel
theorem witness_EngineDispatch_cpt_out : outcome id (.cpt 20 1 8)
    [at0 (dst 68), (32, 1, 1), (33, 1, 1), (34, 1, 1), (36, 2, 2), (38, 2, 1), (48, 4, 34), (52, 4, 0), (56, 4, 64), (60, 4, 72)] = runs := by
  decide +kernel
/-- One row of the example's tables (R270); an index beyond the table; `.acc` of bytes at a misaligned position. -/
theorem witness_EngineDispatch_rows : let ok := [(36, 2, 6), (38, 2, 64), (48, 4, 64), (52, 4, 256), (56, 4, 0), (60, 4, 64)]
    let g := outcome id (.gath 20 1 8)
    let c := outcome id (.scat 20 1 8)
    g (at0 (src 64) :: at16 (dst 384) :: ok) = runs ∧ g (at0 (src 63) :: at16 (dst 384) :: ok) = failed .capBounds
    ∧ g (at0 (src 64) :: at16 (dst 383) :: ok) = failed .capBounds ∧ g (at0 (src 64) :: at16 (src 384) :: ok) = failed .capPerm
    ∧ c (at0 (dst 64) :: at16 (src 384) :: (32, 1, 3) :: (33, 1, 3) :: ok) = runs
    ∧ c (at0 { dst 64 with base := 65538 } :: at16 (src 384) :: (32, 1, 3) :: (33, 1, 3) :: ok) = failed .illegalField
    ∧ c [at0 (dst 64), at16 (src 384), (33, 1, 1), (38, 2, 1), (48, 4, 1), (60, 4, 1)] = some (.finished, 0, 0) := by decide +kernel
/-- A region of 8 x 8 `s32` elements at the data granule's descriptor, which the launch has latched while it was empty. -/
def boxed (s : State) : State :=
  let m := (s.mem.setNum 131072 4 noNode).setNum 131090 1 2
  { s with mem := (m.setNum 131096 4 8).setNum 131100 4 8
           launches := s.launches.map fun l => { l with latched := [{ region := skey 1 5, root := noNode, pub := 0, entries := 0 }] }
           sparse := [{ num := skey 1 5, tenant := 1, desc := 131072, used := [], retired := [], holders := [], poolLimit := 131072 }] }
def region5 (perm : Nat) : Cap := { capOn 4 0 0 perm with objid := 5 }
theorem witness_EngineDispatch_boxes : let ok := [(36, 2, 2), (38, 2, 3), (40, 2, 1), (42, 2, 1), (44, 4, 6), (48, 4, 5)]
    let d := outcome boxed (.cpd 20 1 8)
    let s := outcome boxed (.cps 20 1 8)
    d (at0 (region5 0x21) :: at16 (dst 24) :: ok) = some (.running, 0, 1) ∧ d (at0 (region5 0x21) :: at16 (dst 23) :: ok) = failed .capBounds
    ∧ d [at0 (region5 0x21), at16 (dst 24), (36, 2, 2), (38, 2, 3), (40, 2, 1), (42, 2, 1), (44, 4, 7)] = failed .sparseCoord
    ∧ d [at0 (region5 0x21), at16 (dst 24), (36, 2, 2), (38, 2, 3), (40, 2, 2), (42, 2, 1)] = failed .illegalField
    ∧ d (at0 { region5 0x21 with objid := 6 } :: at16 (dst 24) :: ok) = failed .capTag
    ∧ s (at0 (src 24) :: at16 (region5 0x22) :: (32, 1, 3) :: ok) = some (.running, 0, 24)
    ∧ s (at0 (src 24) :: at16 (region5 0x22) :: (32, 1, 7) :: ok) = failed .illegalField := by decide +kernel
theorem witness_EngineDispatch_leases : let r := { capOn 0 65536 256 0x21 with perm := 0x21 }
    let g := outcome id (.lease 20 1 8)
    let held (s : State) : State := { s with launches := s.launches.map fun l => { l with leases := [{ num := 3, base := 65536, len := 128, last := none }] } }
    let u := outcome held (.unlease 20 1 8)
    let k (n : Nat) : Cap := { capOn 5 65536 128 0x21 with objid := n }
    g [at0 r, (48, 8, 256)] = some (.running, 0, 2) ∧ g [at0 r, (48, 8, 384)] = failed .capBounds ∧ g [at0 r, (48, 8, 64)] = failed .illegalField
    ∧ g [at0 { r with perm := 1 }, (48, 8, 256)] = failed .capPerm
    ∧ u [at0 (k 3)] = some (.finished, 0, 1) ∧ u [at0 (k 4)] = failed .capTag ∧ u [at0 { k 3 with perm := 1 }] = failed .capPerm
    ∧ u [at0 (k 3), (16, 1, 1)] = failed .illegalField := by decide +kernel
/-- An import of window 3 in module 9; every port of this module up, or down. -/
def importing (up : Bool) (s : State) : State :=
  { s with imports := [{ objid := 5, len := 64, module := 9, window := 3 }], torus := (16, 1, 1)
           guyPorts := s.guyPorts.map fun p => { p with up := up } }
theorem witness_EngineDispatch_rcp : let w : Cap := { capOn 7 0 64 0x22 with objid := 5 }
    let d := outcome (importing true) (.rcp 20 1 8)
    d [at0 (src 64), at16 w, (48, 8, 64)] = runs ∧ d [at0 (src 64), at16 w, (48, 8, 65)] = failed .capBounds
    ∧ d [at0 (src 64), at16 w, (32, 1, 3), (33, 1, 3), (48, 8, 6)] = failed .illegalField
    ∧ d [at0 (src 64), at16 (dst 64), (48, 8, 8)] = failed .capPerm
    ∧ outcome (importing false) (.rcp 20 1 8) [at0 (src 64), at16 w, (48, 8, 64)] = failed .fabric
    ∧ d [at0 (src 64), at16 { w with objid := 6 }, (48, 8, 64)] = failed .fabric := by decide +kernel
/-- The region may hold both halves of the engine, or none; port A may hold a B tile. -/
def matrixFor (halves : Nat) (tile : Option BTile) (s : State) : State :=
  { s with regions := [{ region1 with mehalves := halves }],
           ports := s.ports.map fun p => if p.num = 0 then { p with holder := some (rkey 1 0), btile := tile } else p }
def queued : Option (CmdPhase × Nat × Nat) := some (.staged, 0, 0)
theorem witness_EngineDispatch_mmz : let d := outcome (matrixFor 2 none) (.mmz 20 1 8)
    d [(33, 1, 7)] = queued ∧ d [(33, 1, 8)] = failed .illegalField ∧ d [(32, 1, 2)] = failed .illegalField
    ∧ outcome (matrixFor 0 none) (.mmz 20 1 8) [] = failed .privilege := by decide +kernel
theorem witness_EngineDispatch_mmb : let ok := [(36, 2, 2), (38, 2, 1), (52, 4, 0), (56, 4, 64)]
    let d := outcome (matrixFor 2 none) (.mmb 20 1 8)
    d ok = queued ∧ d [(36, 2, 2), (38, 2, 1), (52, 4, 0), (56, 4, 62)] = failed .illegalField
    ∧ d [(36, 2, 2), (38, 2, 1), (52, 4, 992), (56, 4, 64)] = failed .capBounds ∧ d [(38, 2, 1), (56, 4, 64)] = some (.finished, 0, 0)
    ∧ outcome (matrixFor 0 none) (.mmb 20 1 8) ok = failed .privilege := by decide +kernel
theorem witness_EngineDispatch_mma : let ok := [(36, 2, 1), (38, 2, 1), (40, 8, 1), (52, 4, 0), (56, 4, 32), (60, 4, 40)]
    let t : BTile := { n := 2, kb := 1, fmt := 0, elems := [], exps := [] }
    let d := outcome (matrixFor 2 (some t)) (.mma 20 1 8)
    d ok = queued ∧ outcome (matrixFor 2 none) (.mma 20 1 8) ok = failed .format
    ∧ outcome (matrixFor 2 (some { t with fmt := 1 })) (.mma 20 1 8) ok = failed .format
    ∧ d [(38, 2, 1), (56, 4, 32), (60, 4, 40)] = some (.finished, 0, 0) ∧ d [(36, 2, 17), (38, 2, 1), (56, 4, 32), (60, 4, 40)] = failed .illegalField := by
  decide +kernel
theorem witness_EngineDispatch_mmd : let d := outcome (matrixFor 2 none) (.mmd 20 1 8)
    d [(34, 1, 6), (36, 2, 2), (38, 2, 2), (48, 4, 8), (52, 4, 1008)] = queued
    ∧ d [(34, 1, 6), (36, 2, 2), (38, 2, 2), (48, 4, 8), (52, 4, 1012)] = failed .capBounds
    ∧ d [(34, 1, 6), (36, 2, 2), (38, 2, 2), (48, 4, 7), (52, 4, 0)] = failed .illegalField
    ∧ d [(34, 1, 6), (36, 2, 0), (38, 2, 2), (48, 4, 8)] = some (.finished, 0, 0) := by decide +kernel

/-- Range 1 of the tenant: four units at virtual unit 1 in granules 2 to 5, all of it or, with a bitmap in granule 6, in part; granule 8
on is the tenant's too. -/
def ranged (part : Bool) (s : State) : State :=
  let d := descOf { gen := 255, tenant := 1, part := part, space := 0, perm := 3, pbase := 2, limit := 5, vbase := 1,
                    bitmap := if part then 6 * unit else 0, word := none }
  { s with mem := s.mem.setBytes 32 (leBytes 32 d), owners := [(0, 1), (1, 1), (2, 1), (3, 1), (4, 1), (5, 1), (6, 1), (8, 1), (9, 1), (10, 1), (11, 1)] }
/-- It ended, with a count. -/
def counts (n : Nat) : Option (CmdPhase × Nat × Nat) := some (.finished, 0, n)

theorem witness_SupervisorDispatch_split : let d := outcome (ranged false) (.rsplit 20 1 8)
    d [(0, 8, unit), (8, 8, 2 * unit)] = counts 1 ∧ d [(0, 8, unit), (8, 8, unit)] = failed .rangeMiss
    ∧ d [(0, 8, unit), (8, 8, 4 * unit)] = counts 1 ∧ d [(0, 8, unit), (8, 8, 5 * unit)] = failed .rangeMiss
    ∧ d [(0, 8, 2 * unit), (8, 8, 3 * unit)] = failed .rangeMiss ∧ d [(0, 8, unit), (8, 8, unit + 128)] = failed .illegalField := by
  decide +kernel
theorem witness_SupervisorDispatch_split_part : let d := outcome (ranged false) (.rsplit 20 1 8)
    let p := outcome (ranged true) (.rsplit 20 1 8)
    d [(0, 8, unit), (8, 8, 2 * unit), (24, 8, 8 * unit)] = failed .illegalField ∧ p [(0, 8, unit), (8, 8, 2 * unit)] = failed .illegalField
    ∧ p [(0, 8, unit), (8, 8, 2 * unit), (24, 8, 8 * unit)] = counts 1
    ∧ p [(0, 8, unit), (8, 8, 2 * unit), (24, 8, 12 * unit)] = failed .ownership := by decide +kernel
/-- The same range in two descriptors, which are adjacent, or not. -/
def halved (pbase : Nat) (s : State) : State :=
  let e : RangeEntry := { gen := 255, tenant := 1, part := false, space := 0, perm := 3, pbase := 2, limit := 3, vbase := 1, bitmap := 0, word := none }
  let u := ranged false s
  { u with mem := (u.mem.setBytes 32 (leBytes 32 (descOf e))).setBytes 64 (leBytes 32 (descOf { e with pbase := pbase, limit := 5, vbase := 3 }))
           tenants := u.tenants.map fun t => { t with ndir := 3 } }
theorem witness_SupervisorDispatch_merge : let w := [(0, 8, unit), (8, 8, 3 * unit)]
    outcome (halved 4) (.rmerge 20 1 8) w = counts 1 ∧ outcome (halved 8) (.rmerge 20 1 8) w = failed .rangePerm
    ∧ outcome (halved 4) (.rmerge 20 1 8) [(0, 8, 3 * unit), (8, 8, unit)] = failed .rangePerm
    ∧ outcome (halved 4) (.rmerge 20 1 8) [(0, 8, unit), (8, 8, 2 * unit)] = failed .rangeMiss
    ∧ outcome (halved 4) (.rmerge 20 1 8) ((16, 8, 1) :: w) = failed .illegalField := by decide +kernel
theorem witness_SupervisorDispatch_inval : let d := outcome (ranged false) (.rinval 20 1 8)
    d [(0, 8, unit)] = counts 1 ∧ d [(0, 8, 2 * unit)] = failed .rangeMiss ∧ d [(0, 8, unit), (63, 1, 1)] = failed .illegalField
    ∧ outcome (fun s => { ranged false s with slices := s.slices.map fun x => { x with moving := some (1, 1, 8) } }) (.rinval 20 1 8) [(0, 8, unit)]
      = failed .engineHazard := by decide +kernel
/-- Two units are made resident, of which none was; or none, of which two were not; a run that ends past the range. -/
theorem witness_SupervisorDispatch_resident : let d := outcome (ranged true) (.rres 20 1 8)
    d [(0, 8, unit), (8, 8, 2), (16, 4, 2), (20, 1, 1)] = counts 2 ∧ d [(0, 8, unit), (8, 8, 2), (16, 4, 2)] = counts 0
    ∧ d [(0, 8, unit), (8, 8, 2), (16, 4, 3)] = failed .capBounds ∧ d [(0, 8, unit), (8, 8, 9)] = counts 0
    ∧ d [(0, 8, unit), (16, 4, 1), (20, 1, 2)] = failed .illegalField
    ∧ outcome (ranged false) (.rres 20 1 8) [(0, 8, unit), (16, 4, 1)] = failed .rangePerm := by decide +kernel
theorem witness_SupervisorDispatch_move : let d := outcome (ranged false) (.rmove 20 1 8)
    d [(0, 8, unit), (8, 8, 8 * unit)] = counts 2048 ∧ d [(0, 8, unit), (8, 8, 9 * unit)] = failed .ownership
    ∧ d [(0, 8, unit), (8, 8, 5 * unit)] = failed .illegalField ∧ d [(0, 8, 2 * unit), (8, 8, 8 * unit)] = failed .rangeMiss
    ∧ d [(0, 8, unit), (8, 8, 8 * unit + 128)] = failed .illegalField := by decide +kernel
/-- A descriptor of rank 1 and extent 8 stands at the range's second unit; the region's pool is its first. -/
def described (s : State) : State :=
  let u := ranged false s
  { u with mem := ((((u.mem.setNum (3 * unit + 18) 1 1).setNum (3 * unit + 24) 4 8).setNum (3 * unit + 28) 4 1).setNum (3 * unit + 32) 4 1).setNum (3 * unit + 36) 4 1 }
theorem witness_SupervisorDispatch_new : let pool (perm : Nat) : Nat × Nat × Nat := at0 (capOn 0 unit 512 perm)
    let desc := at16 (capOn 0 (2 * unit) 64 3)
    let d := outcome described (.snew 20 1 8)
    d [pool 3, desc, (48, 4, 4)] = some (.running, 0, 4) ∧ d [pool 3, desc, (48, 4, 5)] = failed .capBounds
    ∧ d [pool 3, desc, (48, 4, 0)] = failed .illegalField ∧ d [pool 1, desc, (48, 4, 4)] = failed .capPerm
    ∧ d [pool 3, at16 (capOn 0 (3 * unit) 64 3), (48, 4, 4)] = failed .illegalField
    ∧ d [pool 3, at16 (capOn 0 (8 * unit) 64 3), (48, 4, 4)] = failed .rangeMiss
    ∧ d [at0 (capOn 0 0 512 3), desc, (48, 4, 4)] = failed .rangePerm := by decide +kernel
/-- A region of two nodes, with a pool that may grow to four. -/
def growing (s : State) : State :=
  let u := described s
  { u with mem := ((u.mem.setNum (3 * unit + 40) 8 (2 * unit)).setNum (3 * unit + 48) 4 2)
           sparse := [{ num := skey 1 5, tenant := 1, desc := 3 * unit, used := [], retired := [], holders := [], poolLimit := 2 * unit + 512 }] }
theorem witness_SupervisorDispatch_grow : let d := outcome growing (.sgrow 20 1 8)
    d [at0 (region5 3), (16, 4, 4)] = counts 2 ∧ d [at0 (region5 3), (16, 4, 5)] = failed .capBounds
    ∧ d [at0 (region5 3), (16, 4, 2)] = failed .illegalField ∧ d [at0 (region5 1), (16, 4, 4)] = failed .capPerm
    ∧ d [at0 { region5 3 with objid := 6 }, (16, 4, 4)] = failed .capTag ∧ d [at0 (src 64), (16, 4, 4)] = failed .capPerm := by decide +kernel
/-- Bank 47 of core 0 is free, and bank 0 is in the window of the bound group. -/
theorem witness_SupervisorDispatch_bank : let d := outcome (fun s => s.modCore 0 fun k => { k with contexts := k.contexts.map fun x => { x with banks := 1 } }) (.bankmode 20 1 8)
    d [(2, 1, 47), (3, 1, 2)] = counts 1 ∧ d [(2, 1, 47), (3, 1, 0)] = counts 0 ∧ d [(2, 1, 48)] = failed .illegalField
    ∧ d [(3, 1, 3)] = failed .illegalField ∧ d [(0, 2, 192)] = failed .illegalField := by decide +kernel
/-- The launch's region, of priority 3, and one below it, of priority 2. -/
def tree (s : State) : State :=
  { s with regions := [region1, { region1 with rcb := rkey 1 128, parent := rkey 1 0, regionid := 1, depth := 1, prio := 2 }] }
/-- It, with a launch of one bound block in the lower region. -/
def treed (s : State) : State :=
  { tree s with launches := s.launches ++ s.launches.map fun l => { l with id := 2, rcb := rkey 1 128 } }
theorem witness_SupervisorDispatch_regions : let below := [(0, 8, 128)]
    outcome treed (.rgkill 20 1 8) below = counts 1 ∧ outcome tree (.rgkill 20 1 8) [(0, 8, 0)] = failed .privilege
    ∧ outcome tree (.rgkill 20 1 8) [(0, 8, 256)] = failed .illegalField ∧ outcome tree (.rgkill 20 1 8) [(0, 8, 2 ^ 48 + 128)] = failed .illegalField
    ∧ outcome tree (.rgreset 20 1 8) below = counts 1 ∧ outcome treed (.rgreset 20 1 8) below = failed .engineHazard
    ∧ outcome tree (.rgresume 20 1 8) below = counts 0 ∧ outcome treed (.wdarm 20 1 8) below = counts 1
    ∧ outcome tree (.wdarm 20 1 8) [(0, 8, 128), (8, 1, 1)] = failed .illegalField := by decide +kernel
theorem witness_SupervisorDispatch_budgets : let p := outcome tree (.rgpri 20 1 8)
    let b := outcome tree (.rgbud 20 1 8)
    p [(0, 8, 128), (8, 1, 3)] = counts 1 ∧ p [(0, 8, 128), (8, 1, 4)] = failed .privilege ∧ p [(0, 8, 128), (8, 1, 32)] = failed .illegalField
    ∧ b [(0, 8, 128), (8, 1, 6), (16, 2, 192), (18, 2, 1)] = counts 2 ∧ b [(0, 8, 128), (8, 1, 6), (16, 2, 193), (18, 2, 1)] = failed .illegalField
    ∧ b [(0, 8, 128), (8, 1, 2), (16, 2, 1), (18, 2, 1)] = failed .illegalField ∧ b [(0, 8, 128), (8, 1, 1)] = failed .illegalField
    ∧ b [(0, 8, 128)] = counts 0 := by decide +kernel
/-- The four gates of the launch. -/
def gated (s : State) : State :=
  { s with gates := (List.range 4).map fun i => { tenant := 1, slice := 0, index := i, count := 0, thresh := 1, pod := false, host := false,
                                                     remote := false, launch := 1 } }
theorem witness_SupervisorDispatch_gates : let g := outcome gated (.gcfg 20 1 8)
    g [(0, 1, 1), (1, 1, 3), (2, 1, 7), (4, 4, 9), (8, 1, 6), (12, 4, 5)] = counts 3 ∧ g [(0, 1, 1), (1, 1, 4)] = failed .illegalField
    ∧ g [(1, 1, 1), (2, 1, 2), (8, 1, 1)] = failed .fabric ∧ g [(1, 1, 1), (2, 1, 8)] = failed .illegalField := by decide +kernel
/-- All 396 units are the tenant's, and core 0's slice has 31 of them (R379, R415). -/
theorem witness_SupervisorDispatch_snap : let s := outcome (fun s => { s with layout := { slices := List.replicate 12 0, groups := List.replicate 12 0 } }) (.snap 20 1 8)
    s [(2, 2, 7)] = counts 396 ∧ s [(0, 1, 1)] = counts 31 ∧ s [(0, 1, 2)] = failed .illegalField ∧ s [(1, 1, 1)] = failed .illegalField := by
  decide +kernel
/-- A fibre of the lower region parked with code 0x0C, and a place for its 320 bytes. -/
def parkedBelow (s : State) : State :=
  let u := treed s
  { u with launches := u.launches.map fun l => if l.id = 2 then
      { l with blockList := l.blockList.map fun b => { b with fibres := b.fibres.map fun f => { f with status := .parked 12 } } } else l }
theorem witness_SupervisorDispatch_fret : let k (len perm : Nat) : Nat × Nat × Nat := (32, 16, (capOn 1 512 len perm).num)
    let d := outcome parkedBelow (.fret 20 1 8)
    let who := [(0, 8, 128), (8, 4, 2)]
    d (k 320 3 :: who) = some (.running, 0, 1) ∧ d (k 319 3 :: who) = failed .capBounds ∧ d (k 320 1 :: who) = failed .capPerm
    ∧ d ((20, 1, 2) :: k 320 3 :: who) = failed .illegalField ∧ outcome treed (.fret 20 1 8) (k 320 3 :: who) = failed .engineHazard
    ∧ d [k 320 3, (0, 8, 0), (8, 4, 1)] = failed .privilege := by decide +kernel
/-- A launch of one block of one fibre on the issuing launch's region, from a record of 128 bytes. -/
def launching (banks : Nat) (xs : List (Nat × Nat × Nat)) : Option (CmdPhase × Nat × Nat) :=
  let c : Cmd := { cmdOf (.launch 20 1 8) [] .running with params := fields 128 ([(8, 4, 8), (12, 4, 0xFFFFFFFF), (16, 4, 1), (20, 4, 1), (26, 1, 24), (92, 4, 128)] ++ xs) }
  let s := withCmd { idle id id id with regions := [{ region1 with banks := banks }] } c
  ((s.dispatchRead (launchOf s) (blockOf s) c).cmd? 7).map fun x => (x.phase, x.status, x.count)
theorem witness_SupervisorDispatch_launch : launching 4000 [] = queued ∧ launching 4000 [(80, 8, 2 ^ 48)] = failed .illegalField
    ∧ launching 4000 [(27, 1, 65)] = failed .illegalField ∧ launching 4000 [(0, 8, 262144)] = failed .rangeMiss
    ∧ launching 4000 [(0, 8, 65536)] = failed .rangePerm ∧ launching 4000 [(96, 1, 1)] = failed .illegalField
    ∧ launching 4000 [(88, 2, 5)] = failed .capTag ∧ launching 0 [] = failed .indexExhausted := by decide +kernel

/-! Numbers that are rounded once: the special values, a subnormal and a power of two at each end. -/

theorem witness_CorrectRounding : f32.read 0x40400000 = .fin 12582912 (-22) ∧ f32.read 0x80000000 = .zero true ∧ f32.read 0xFF800000 = .inf true
    ∧ f32.read 0x7F800001 = .nan ∧ f64.read 0x7FF8000000000000 = .nan ∧ f64.read 0x3FF0000000000000 = .fin 4503599627370496 (-52)
    ∧ f32 ∈ [f32, f64] := by decide
/-- 3.0, and the exponents −149 and 127, by their patterns. -/
theorem witness_CorrectRounding_values : (f32.read 0x40400000).toRat = 3 ∧ (f32.read 0x42FE0000).toRat = ((127 : Int) : ℚ)
    ∧ (f32.read 0xC3150000).toRat = ((-149 : Int) : ℚ) ∧ (f32.read 0x3F000000).toRat = ((0 : Int) : ℚ) + 1 / 2
    ∧ (f32.read 0x3F000000).toRat = (2 : ℚ) ^ (-1 : Int) := by
  have a : f32.read 0x40400000 = .fin 12582912 (-22) := by decide
  have b : f32.read 0x42FE0000 = .fin 16646144 (-17) := by decide
  have c : f32.read 0xC3150000 = .fin (-9764864) (-16) := by decide
  have d : f32.read 0x3F000000 = .fin 8388608 (-24) := by decide
  simp only [a, b, c, d, FVal.toRat]
  norm_num
theorem test_functions : exp2Bits 0x42FE0000 = 0x7F000000 ∧ exp2Bits 0xC3150000 = 1 ∧ log2Bits 1 = 0xC3150000 ∧ log2Bits 0x3F800000 = 0
    ∧ sinPiBits 0xC0000000 = 0x80000000 ∧ cosPiBits 0x3F000000 = 0 ∧ f32.rcp 0x40400000 = 0x3EAAAAAB ∧ f32.rsq 0x40800000 = 0x3F000000
    ∧ f32.div 0x3F800000 0x80000000 = 0xFF800000 ∧ f32.sqrt 0x80000000 = 0x80000000 ∧ f32.sqrt 0xBF800000 = f32.nan := by decide +kernel

/-! Commits: a step with a tag, a write-only store and a `fadr`; a spill range of another owner; sparse changes with and without room. -/

/-- A step that stores a tagged quad and, write-only, a byte, and whose fibre waits for a `fadr` on scratch. -/
def leakyStep : State :=
  idle id (fun b => { b with
      contribs := [{ wrote 0 16 16 1 with tag := true }, { wrote 0 65537 1 3 with space := .global, phys := 131073, wo := true },
                   { wrote 0 32 4 5 with rule := 3, dest := some (9, false), key := ⟨0, 0, 0, 2, 0⟩ }] })
    (fun f => { f with status := .atStop, fadrs := [{ reg := 9, wide := false, round := false, seq := 2, step := 0, got := none }] })
theorem witness_StepCommits_leaky : let s := leakyStep
    let sc := sortKeys ((blockOf s).contribs.filter fun c => c.space == .scratch)
    let wo := sortKeys ((blockOf s).contribs.filter fun c => c.space == .global && c.wo)
    Has s ∧ (blockOf s).stepCollision = none ∧ (blockOf s).bufPoison = [] ∧ (blockOf s).reqs = [] ∧ s.stepRoomFor (launchOf s) (blockOf s) = some []
    ∧ (∀ c ∈ (blockOf s).contribs, c.nib = none) ∧ s.regions = [] ∧ wo.map Contrib.base = [65537] ∧ physOf wo 65537 = 131073
    ∧ s.fwByte 131073 = false ∧ (∀ i < 32, (winner false 0 sc (2 * 16 + i)).map Contrib.tag = some true)
    ∧ (sc.find? fun x => x.dest.isSome && x.key.fibre == 0 && x.key.seq == 2).isSome = true := by decide +kernel
/-- A byte of a nibble store at either half. -/
theorem witness_StepCommits_nibbles : ∀ k < 2, ({ wrote 0 3 1 3 with nib := some k } : Contrib).nib = some k ∧ 1 ≤ (wrote 0 3 1 3).size := by decide
theorem witness_StepCommits_full_told : (∀ k, LogEntry.spillFull 1 k ∉ fullStep.snapLog)
    ∧ (let s := { fullStep with snapLog := [LogEntry.spillFull 1 0] }; ∃ k, LogEntry.spillFull 1 k ∈ s.snapLog) :=
  ⟨fun _ h => absurd h List.not_mem_nil, 0, List.mem_singleton.mpr rfl⟩
/-- A launch that spills to a granule of another owner, and one that spills nothing. -/
theorem witness_StepCommits_foreign : (idle id id id).spillForeign (launchOf (idle id id id)) = none
    ∧ (let s := idle (fun l =>
          let held : List Lease := List.replicate 448 { num := 1, base := 65536, len := 65536, last := none }
          let log : List Contrib := [{ wrote 0 65536 4 3 with space := .global, phys := 131072 }]
          { l with spillbase := 5 * unit, spilllen := unit, leases := held, roundLog := log }) id id
       ((s.spillForeign (launchOf s)).isSome, (launchOf s).ended) = (true, false)) := by decide +kernel
/-- A round that changes one element of a sparse region whose pool has room for n nodes. -/
def sparseRound (n : Nat) : State :=
  let s := boxed (idle (fun l => { l with roundLog := [{ wrote 0 5 4 3 with space := .sparse (skey 1 5), rule := 3 }] })
    (fun b => { b with step := 1 }) (fun f => { f with status := .atRstop 0 }))
  { s with mem := ((s.mem.setNum (131072 + 40) 8 (131072 + 128)).setNum (131072 + 48) 4 n) }
/-- The result of `applySparse`: done, or short with its two counts. -/
def shortBy : Applied → Option (Option (Nat × Nat))
  | .done _ => some none
  | .short n f => some (some (n, f))
  | .bad _ => none
theorem witness_RoundCommits_sparse : let s := sparseRound 9
    Has s ∧ s.roundReady (launchOf s) = true ∧ (launchOf s).sparsePoison = [] ∧ (launchOf s).notes = [] ∧ (launchOf s).logPoison = []
    ∧ (∀ c ∈ (launchOf s).roundLog, c.space = .sparse (skey 1 5)) ∧ collisions (sortKeys (launchOf s).roundLog) = []
    ∧ (s.sparse? (skey 1 5)).isSome = true ∧ s.owner 131072 = 1 ∧ s.owner (131072 + 128) = 1
    ∧ shortBy (s.applySparse false (skey 1 5) (sortKeys (launchOf s).roundLog)) = some none := by decide +kernel
theorem witness_RoundCommits_short : let s := sparseRound 0
    (shortBy (s.applySparse false (skey 1 5) (sortKeys (launchOf s).roundLog))).isSome = true
    ∧ shortBy (s.applySparse false (skey 1 5) (sortKeys (launchOf s).roundLog)) ≠ some none
    ∧ (let d := readDesc s.mem 1 131072
       (match s.startValues d [5] with
         | .ok starts => decide (changedKeys false 0 d.typ starts (launchOf s).roundLog ≠ [])
         | .error _ => false) = true) := by decide +kernel
theorem witness_RoundCommits_suspended : let s := idle (fun l => { l with hold := .landing none false, landing := [(1024, [some 1])], suspended := true }) id id
    (launchOf s).hold = .landing none false ∧ (launchOf s).ended = false ∧ (launchOf s).suspended = true := by decide +kernel
/-- A launch of a killed region whose command stands at a resumable point, and one whose `scat` is inside a position. -/
theorem witness_Landings_dying : let s := withCmd (idle (fun l => { l with dying := some 22 }) id id) (cmdOf (.digest 20 1 8) [] .running)
    let u := withCmd (idle (fun l => { l with dying := some 22 }) id id)
      { cmdOf (.scat 20 1 8) (fields 64 [(36, 2, 2), (38, 2, 8)]) .running with buf := List.replicate 4 0 }
    (launchOf s).dying = some 22 ∧ (launchOf s).ended = false ∧ s.cmdsRest (launchOf s) = true ∧ u.cmdsRest (launchOf u) = false := by
  decide +kernel
theorem witness_Landings_ready : let c := cmdOf (.rinval 20 1 8) [] .finished
    let s := withCmd (idle id id fun f => { f with loads := [{ regs := [(63, 5)], tag := none, line := [], core := 0, va := some 65536, issued := 0, due := 9 }] })
      { c with drain := [(65536, 128)], since := 1, after := [9] }
    c.phase = .finished ∧ (idle id id id).undrained c = false ∧ (∀ x ∈ (withCmd (idle id id id) c).cmds, x.id ∉ c.after)
    ∧ s.undrained ((s.cmd? 7).getD default) = true := by decide +kernel
theorem witness_Landings_distinct : let s := idle id id fun f => { f with loads := [{ regs := [(63, 5)], tag := none, line := [], core := 0, va := none, issued := 0, due := 1 }] }
    (s.launches.map Launch.id).Nodup ∧ ((launchOf s).blockList.map Block.index).Nodup ∧ ((blockOf s).fibres.map Fibre.id).Nodup
    ∧ ∀ f ∈ (blockOf s).fibres, ∀ p ∈ f.loads, s.clock < p.due := by decide +kernel
theorem witness_EngineEvents_before : let c : Cmd := { cmdOf (.digest 20 1 8) [] .running with before := [(1024, some 9 :: List.replicate 127 none)] }
    let s := withCmd (idle id id id) c
    s.translate none 1 .load 65536 = .ok 131072
    ∧ ((c.before.find? fun x => x.1 == 131072 / 128).bind fun x => x.2.getD (131072 % 128) none) = some 9
    ∧ ((c.before.find? fun x => x.1 == 131072 / 128).bind fun x => x.2.getD (131072 % 128 + 1) none) = none := by decide +kernel

/-! Events: what the later clauses ask for. -/

/-- A step that is aborted drops a load whose line comes later. -/
theorem witness_PreemptionEvents_drops : let s := idle id id fun f => { f with loads := [{ regs := [(63, 5)], tag := none, line := [7], core := 0, va := some 65536, issued := 0, due := 9 }] }
    ∀ f ∈ (blockOf s).fibres, f.goesBack = true ∧ ∀ p ∈ f.loads, s.clock < p.due := by decide +kernel
/-- A `WATCHDOG` record that waits for a command, and one that need not. -/
def owing (s : State) : State := { s with regions := [{ region1 with due := some default, suspended := true, watchdog := 0 }] }
theorem witness_WatchdogAndPlacement_due : let s := owing (withCmd (idle id id id) (cmdOf (.digest 20 1 8) [] .running))
    let u := owing (idle id id id)
    (s.region? (launchOf s).rcb).map (fun r => (r.due.isSome, r.suspended)) = some (true, true)
    ∧ s.cmdsRun (rkey 1 0) = true ∧ u.cmdsRun (rkey 1 0) = false ∧ s.eff (launchOf s).rcb 6 Region.watchdog = 0 := by decide +kernel
/-- Two launches: the second one's region has a higher priority, and its block finds room only once the first one's has left core 0. -/
def crowded : State :=
  let s := { idle id (fun b => { b with step := 1 }) (fun f => { f with status := .atRstop 0 }) with
    regions := [{ region1 with banks := 4000, cores := 192 }, { region1 with rcb := rkey 1 128, regionid := 1, prio := 9, banks := 4000, cores := 192 }] }
  let run (f : Fibre) : Fibre := { f with status := .running }
  let wait (b : Block) : Block :=
    { b with status := .waiting, groups := b.groups.map (fun g => { g with bound := false }), fibres := b.fibres.map run }
  { s with
    launches := s.launches ++ s.launches.map fun l => { l with id := 2, rcb := rkey 1 128, scratchSize := 0, blockList := l.blockList.map wait }
    cores := s.cores.map fun k => { k with banks := .reg :: List.replicate 47 .cache } }
theorem witness_WatchdogAndPlacement_candidates : let s := crowded
    (∀ k ∈ s.cores, k.pending = 0) ∧ s.excess = none
    ∧ (s.candidates 0).map (fun c => (c.l.id, (s.planFor c.l c.b).isSome)) = [(2, false)]
    ∧ (s.candidates 0).map (fun c => (s.victims c).map fun v => (v.l.id, v.b.index, v.g)) = [[(1, 0, none)]]
    ∧ (s.candidates 0).map (fun c => (s.victimsFor c (s.victims c) []).map fun vs => vs.map fun v => v.l.id) = [some [1]] := by decide +kernel
theorem witness_CoreEvents_walk_part : let s := ranged true (idle id id id)
    ((match s.walk 1 65536 with
      | .ok e => some (e.part, e.wordOf 65536)
      | .error _ => none) = some (true, 0)) := by decide +kernel
/-- The compactor waits for a store of before the swap, or for none. -/
theorem witness_CompactorMoves_drains : let d : Drain := { tenant := 1, since := 1, lo := 1, hi := 2, frees := [2] }
    let s := (idle id id fun f => { f with loads := [{ regs := [(63, 5)], tag := none, line := [], core := 0, va := some 65536, issued := 0, due := 9 }] }).modSlice 0
      fun y => { y with draining := some d }
    ((s.slices.find? fun y => y.num == 0).map Slice.draining) = some (some d)
    ∧ s.onItsWay 1 1 [(1 * unit, (2 - 1) * unit)] = true ∧ (idle id id id).onItsWay 1 1 [(1 * unit, (2 - 1) * unit)] = false := by decide +kernel
theorem witness_CompactorMoves_busy : let s := fragmented.modSlice 1 fun y => { y with moving := some (1, 1, 9) }
    s.moveInFlight 1 1 = true ∧ fragmented.moveInFlight 1 1 = false
    ∧ ((s.slices.find? fun y => y.num == 0).map fun y => (y.moving, y.draining)) = some (none, none) := by decide +kernel
theorem witness_HostTraffic_window : let s := { hosted true with gates := [{ tenant := 1, slice := 11, index := 4095, count := 7, thresh := 1, pod := false, host := true, remote := false, launch := 1 }] }
    s.boot.recovery = false ∧ s.windowGate 11 4095 = (1, 11, 4095) ∧ (s.gate? (1, 11, 4095)).map (fun g => (g.host, g.pod)) = some (true, false)
    ∧ ((s.gates.head?).map Gate.key) = some (1, 11, 4095)
    ∧ ({ State.reset with boot := { State.reset.boot with status := 2 } } : State).boot.recovery
      = ({ State.reset.boot with status := 2 } : Boot).recovery := by decide +kernel
theorem test_host_reads : (reads (exec (.hostApertureRead ⟨.register, 0⟩ 8) State.reset) fun s => s.hostReads.map fun x => x.2.2)
      = some [leBytes 8 0x0000124800010000]
    ∧ (reads (exec (.hostApertureRead ⟨.register, 0x300⟩ 8) State.reset) fun s => s.hostReads.map fun x => x.2.2) = some [leBytes 8 0]
    ∧ (reads (exec (.hostApertureRead ⟨.memory 1, 131072⟩ 2) (hosted true)) fun s => s.hostReads.map fun x => x.2.2) = some [[0, 0]] := by
  decide +kernel
/-- A line under a window that is not exported, from another sender, past the end, or to a launch that is over. -/
theorem witness_FabricEvents_fails : let s := exporting
    let e := s.exports.head?.getD default
    e.window = 3 ∧ e.sender ≠ 0xFFF ∧ e.sender ≠ 8 ∧ e.len < (lineIn false).off + 9 ∧ (∀ x ∈ s.exports, x.window ≠ 4)
    ∧ (launchOf { s with launches := s.launches.map fun l => { l with ended := true } }).over = true ∧ (launchOf s).over = false := by decide +kernel
theorem witness_FabricEvents_retry : (∃ p ∈ worn.guyPorts, p.num = 5 ∧ p.up = true) ∧ (∀ p ∈ worn.guyPorts, p.num = 24 → p.up = false) := by
  decide +kernel
/-- A retry that succeeds ends the run of failures; one that fails goes on with it (R388). -/
theorem test_flit_retry : ([false, true].map fun b => reads (exec (.flitRetry ⟨6, b⟩) worn) fun s =>
    (s.guyPorts.find? fun p => p.num == 6).map GuyPort.streak) = [some (some 0), some (some 16)] := by decide +kernel
theorem witness_PowerAndFailures_errors : let s := idle id id id
    Has s ∧ ((blockOf s).group? 0).map Group.bound = some true ∧ ((blockOf s).fibres.find? Fibre.live).isSome = true
    ∧ s.owner 131072 ≠ 0xFFF ∧ State.reset.owner (unit * 7) = 0xFFF ∧ 131072 / unit ≠ 65536 / unit := by decide +kernel
/-- SNAPTRIG of slice 11, of a slice that is not there, and over a latch of the same cycle. -/
theorem witness_ManagementRegisters_snap : (0xB10007 : BitVec 64).toNat / 2 ^ 16 % 2 = 1 ∧ (0xB10007 : BitVec 64).toNat / 2 ^ 20 % 16 = 11
    ∧ (0xC10007 : BitVec 64).toNat / 2 ^ 20 % 16 = 12
    ∧ (reads (exec (.snaptrig 0xB10007) { State.reset with snaps := [{ (default : Snap) with unit := 215, label := 1, cycle := 0, rank := 0 }] })
        fun s => ((s.snaps.find? fun x => x.unit == 215).map Snap.label, (s.snaps.find? fun x => x.unit == 197).map Snap.label))
      = some (some 1, none) := by decide +kernel

end Sys2Proof.Tests
end

section
/-! The bytes that land at a line and the numbers that memory holds: a write is read back where it stands and leaves every
other byte alone (R5, R226, R328). -/

namespace Sys2Proof.Machine

/-! ## Little-endian numbers -/

/-- The bytes of a number give back what fits in them (R5). -/
theorem ofLe_leBytes (k : Nat) : ∀ n, ofLe (leBytes k n) = n % 256 ^ k := by
  induction k with
  | zero => intro n; simp [leBytes, ofLe, Nat.mod_one]
  | succ k ih =>
    intro n
    calc ofLe (leBytes (k + 1) n)
        = n % 256 + 256 * (n / 256 % 256 ^ k) := by simp [leBytes, ofLe, ih]
      _ = n % 256 ^ (k + 1) := by rw [Nat.pow_succ', Nat.mod_mul]

/-- The bytes that a run holds right after it was written are the bytes written. -/
theorem bytes_setBytes (bs : List Byte) : ∀ {m : Memory} (_ : m.wf = true) (x : Nat),
    (m.setBytes x bs).bytes x bs.length = bs := by
  induction bs with
  | nil => intros; rfl
  | cons b bs ih =>
    intro m h x
    have head : (m.setBytes x (b :: bs)).get x = b := by rw [get_setBytes _ h]; simp
    have tail : (m.setBytes x (b :: bs)).bytes (x + 1) bs.length = bs := ih (wf_set h x b) (x + 1)
    rw [List.length_cons, Memory.bytes, head, tail]

/-- A stored number is read back, reduced to what its bytes hold (R5). -/
theorem num_setNum {m : Memory} (h : m.wf = true) (x n v : Nat) : (m.setNum x n v).num x n = v % 256 ^ n := by
  have read := bytes_setBytes (leBytes n v) h x
  rw [Kzas.leBytes_length] at read
  rw [Memory.num, Memory.setNum, read, ofLe_leBytes]

/-- Storing a number leaves every byte outside it as it was. -/
theorem get_setNum_outside {m : Memory} (h : m.wf = true) {x n a : Nat} (v : Nat) (ha : a < x ∨ x + n ≤ a) :
    (m.setNum x n v).get a = m.get a := by
  rw [Memory.setNum, get_setBytes _ h, Kzas.leBytes_length, if_neg (by omega)]

/-! ## What a software's write keeps -/

/-- Without a region no byte belongs to the firmware. -/
theorem fwByte_of_no_region {s : State} (h : s.regions = []) (pa : Nat) : s.fwByte pa = false := by
  simp [State.fwByte, h]

@[simp] theorem length_softBytes (s : State) (pa : Nat) (bs : List (Option Byte)) :
    (s.softBytes pa bs).length = bs.length := by
  unfold State.softBytes
  split <;> simp

/-- A software's write drops the firmware's bytes and keeps the others (R328, log 59). -/
theorem getD_softBytes (s : State) (pa : Nat) (bs : List (Option Byte)) (i : Nat) :
    (s.softBytes pa bs).getD i none = if s.fwByte (pa + i) then none else bs.getD i none := by
  unfold State.softBytes
  split
  next h => simp [fwByte_of_no_region (List.isEmpty_iff.mp h)]
  next => cases h : bs[i]? <;> simp [List.getD, List.getElem?_zipIdx, h]

/-! ## Bytes that land -/

/-- Of memory, an outside write changes the bytes that the software may write (R226, R328). -/
theorem mem_outsideWrite (s : State) (own : Option Nat) (pa : Nat) (bs : List (Option Byte)) :
    (s.outsideWrite own pa bs).mem = s.mem.setMasked pa (s.softBytes pa bs) := rfl

theorem outsideWrite_memOk {s : State} (h : s.memOk) (own : Option Nat) (pa : Nat) (bs : List (Option Byte)) :
    (s.outsideWrite own pa bs).memOk := by
  rw [State.memOk, mem_outsideWrite]
  exact wf_setMasked _ h pa

/-- A byte after an outside write: what landed on it, unless it is masked out, outside the write, or the firmware's. -/
theorem get_outsideWrite {s : State} (h : s.memOk) (own : Option Nat) (pa : Nat) (bs : List (Option Byte)) (a : Nat) :
    (s.outsideWrite own pa bs).mem.get a =
      if pa ≤ a ∧ a < pa + bs.length ∧ s.fwByte a = false then (bs.getD (a - pa) none).getD (s.mem.get a)
      else s.mem.get a := by
  rw [mem_outsideWrite, get_setMasked _ h, length_softBytes, getD_softBytes]
  by_cases hin : pa ≤ a ∧ a < pa + bs.length
  · have addr : pa + (a - pa) = a := by omega
    rw [addr]
    cases hfw : s.fwByte a <;> simp [hin]
  · have out : ¬(pa ≤ a ∧ a < pa + bs.length ∧ s.fwByte a = false) := fun ⟨lo, hi, _⟩ => hin ⟨lo, hi⟩
    rw [if_neg hin, if_neg out]

/-- Settles O7: `get_outsideWrite` says what each byte reads after a landing write, and `num_setNum` with
`get_setNum_outside` what a stored number leaves. -/
theorem landedBytesReadBack : Obligations.LandedBytesReadBack := by
  unfold Obligations.LandedBytesReadBack
  intro s own pa bs a h
  exact ⟨outsideWrite_memOk h own pa bs, get_outsideWrite h own pa bs a,
    fun n v => ⟨num_setNum h pa n v, get_setNum_outside h v⟩⟩

end Sys2Proof.Machine
end

section
/-!
# The canonical form of memory

What each operation of the state does to memory: most leave it as it is (`…_mem`), the others write it by `landRaw`,
`copyRun`, `putCells` or `clear`, which keep its canonical form (`…_wf`). The words and the events follow.
-/

namespace Sys2Proof.Machine

@[simp] theorem foldl_mem {α : Type} {f : State → α → State} (hf : ∀ s x, (f s x).mem = s.mem) (l : List α) :
    ∀ s, (l.foldl f s).mem = s.mem := by
  induction l with
  | nil => intro s; rfl
  | cons x l ih => intro s; rw [List.foldl_cons, ih, hf]

@[simp] theorem foldl_wf {α : Type} {f : State → α → State} (hf : ∀ s x, s.mem.wf = true → (f s x).mem.wf = true)
    (l : List α) : ∀ s, s.mem.wf = true → (l.foldl f s).mem.wf = true := by
  induction l with
  | nil => intro s h; exact h
  | cons x l ih => intro s h; exact ih _ (hf s x h)

@[simp] theorem landRaw_wf (s : State) (own : Option Nat) (pa : Nat) (bs : List (Option Byte)) (h : s.mem.wf = true) :
    (s.landRaw own pa bs).mem.wf = true := wf_setMasked _ h pa

@[simp] theorem outsideWrite_wf (s : State) (own : Option Nat) (pa : Nat) (bs : List (Option Byte)) (h : s.mem.wf = true) :
    (s.outsideWrite own pa bs).mem.wf = true := landRaw_wf _ _ _ _ h

@[simp] theorem choose_mem (s : State) (n : Nat) : (s.choose n).2.mem = s.mem := rfl

section
variable (s : State)

@[simp] theorem wakeDevice_mem : s.wakeDevice.mem = s.mem := by
  unfold State.wakeDevice; split <;> simp

@[simp] theorem hostAccess_mem : s.hostAccess.mem = s.mem := by
  simp [State.hostAccess]

@[simp] theorem mboxDone_mem (status : Nat) (results : List (Nat × Nat)) : (s.mboxDone status results).mem = s.mem := rfl

@[simp] theorem dropRange_mem (tenant vbase : Nat) : (s.dropRange tenant vbase).mem = s.mem := rfl

@[simp] theorem writeDescs_wf (t : Tenant) (n : Nat) (xs : List RangeEntry) (h : s.mem.wf = true) :
    (s.writeDescs t n xs).mem.wf = true := by
  fun_induction s.writeDescs t n xs <;> simp [*]

@[simp] theorem setDir_wf (t : Tenant) (es : List RangeEntry) (drop : List Nat) (h : s.mem.wf = true) :
    (s.setDir t es drop).mem.wf = true := by
  simp_all [State.setDir]

@[simp] theorem mboxFail_mem (code : FaultCode) : (s.mboxFail code).mem = s.mem := rfl

@[simp] theorem endRemoval_mem (tenant since lo len count : Nat) : (s.endRemoval tenant since lo len count).mem = s.mem := by
  fun_cases s.endRemoval tenant since lo len count <;> rfl

@[simp] theorem resumeCmds_mem (ids : List Nat) : (s.resumeCmds ids).mem = s.mem := rfl

@[simp] theorem fixPools_wf (f : Nat → Nat) (xs : List Sparse) (h : s.mem.wf = true) : (s.fixPools f xs).mem.wf = true := by
  fun_induction s.fixPools f xs <;> simp [*]

@[simp] theorem fixDir_wf (t : Tenant) (f : Nat → Nat) (h : s.mem.wf = true) : (s.fixDir t f).mem.wf = true := by
  fun_cases s.fixDir t f
  simp [h]

@[simp] theorem ensurePorts_mem (first : Nat) : (s.ensurePorts first).mem = s.mem := by
  fun_cases s.ensurePorts first <;> rfl

@[simp] theorem putImage_wf (img : TenantImage) (first : Nat) (map : List (Nat × Nat × Nat)) (h : s.mem.wf = true) :
    (s.putImage img first map).mem.wf = true :=
  fixDir_wf _ _ _ (fixPools_wf _ _ _ (wf_putCells _ _ (wf_clear h _)))

@[simp] theorem giveGranules_mem (gs : List Nat) (owner : Nat) : (s.giveGranules gs owner).mem = s.mem := rfl

@[simp] theorem setOwner_mem (pa n owner : Nat) : (s.setOwner pa n owner).mem = s.mem := rfl

theorem allot_mem (t first n : Nat) : ∀ (rs : List (Nat × Nat)) (s : State) (x : State × List (Nat × Nat × Nat)),
    s.allot t first n rs = some x → x.1.mem = s.mem := by
  intro rs
  induction rs with
  | nil => intro s x h; cases h; rfl
  | cons r rs ih =>
    intro s x h
    unfold State.allot at h
    split at h
    · cases h
    · split at h
      · cases h
      · next hy => cases h; simpa using ih _ _ hy

@[simp] theorem evictGroup_mem (g : Group) : (s.evictGroup g).mem = s.mem := by
  fun_cases s.evictGroup g <;> rfl

@[simp] theorem evictGroups_mem (xs : List Group) : (s.evictGroups xs).mem = s.mem := by
  fun_induction s.evictGroups xs <;> simp [*]

@[simp] theorem evictBlock_mem (l b : Nat) : (s.evictBlock l b).mem = s.mem := by
  unfold State.evictBlock; split <;> simp

@[simp] theorem giveGrace_mem (c : Cand) (here : List Group) : (s.giveGrace c here).mem = s.mem := by
  fun_cases s.giveGrace c here <;> simp

@[simp] theorem giveGraces_mem (xs : List Cand) : (s.giveGraces xs).mem = s.mem := by
  fun_induction s.giveGraces xs <;> simp [*]

theorem bindRecord_mem {s t : State} {k : Core} {r : BindRecord} (h : s.bindRecord k r = some t) : t.mem = s.mem := by
  simp only [State.bindRecord] at h
  (repeat' split at h) <;> cases h <;> rfl

theorem unbindRecord_mem {s t : State} {k : Core} {r : BindRecord} (h : s.unbindRecord k r = some t) : t.mem = s.mem := by
  simp only [State.unbindRecord] at h
  (repeat' split at h) <;> cases h <;> rfl

@[simp] theorem dispatchRecord_mem (core : Nat) (ops : Nat → Bool) : (s.dispatchRecord core ops).mem = s.mem := by
  unfold State.dispatchRecord
  split
  · rfl
  · dsimp only
    split
    · rfl
    · split
      · next hd =>
        rw [modCore_mem]
        (repeat' split at hd)
        · exact unbindRecord_mem hd
        · cases hd
        · exact bindRecord_mem hd
      · rfl

@[simp] theorem drainCore_mem (core : Nat) (n : Nat) : (s.drainCore core n).mem = s.mem := by
  fun_induction s.drainCore core n <;> simp [*]

@[simp] theorem drainCores_mem (xs : List Nat) : (s.drainCores xs).mem = s.mem := by
  fun_induction s.drainCores xs <;> simp [*]

@[simp] theorem beginQuiesce_mem (t : Tenant) : (s.beginQuiesce t).mem = s.mem := by
  simp [State.beginQuiesce]

@[simp] theorem writeRun_wf (pa : Nat) (bs : List Byte) (h : s.mem.wf = true) : (s.writeRun pa bs).mem.wf = true := by
  fun_cases s.writeRun pa bs
  simp_all

@[simp] theorem dropTenant_mem (t : Nat) : (s.dropTenant t).mem = s.mem := rfl

@[simp] theorem finishCmd_mem (id status count : Nat) : (s.finishCmd id status count).mem = s.mem := rfl

@[simp] theorem launchToken_mem (id status count : Nat) : (s.launchToken id status count).mem = s.mem := by
  fun_cases s.launchToken id status count <;> rfl

@[simp] theorem keepStrays_mem (xs : List Stray) : (s.keepStrays xs).mem = s.mem := rfl

@[simp] theorem releaseLaunch_mem (id : Nat) : (s.releaseLaunch id).mem = s.mem := rfl

@[simp] theorem landLine_wf (own : Nat) (bad : List Nat) (n : Nat) (m : List (Option Byte)) (h : s.mem.wf = true) :
    (s.landLine own bad n m).mem.wf = true := by
  unfold State.landLine; split <;> simp [h]

@[simp] theorem landLines_wf (own : Nat) (bad : List Nat) (xs : List (Nat × List (Option Byte))) (h : s.mem.wf = true) :
    (s.landLines own bad xs).mem.wf = true := by
  fun_induction s.landLines own bad xs <;> simp [*]

@[simp] theorem killLaunch_wf (other : Nat) (l : Launch) (h : s.mem.wf = true) : (s.killLaunch other l).mem.wf = true := by
  simp [h, State.killLaunch]

@[simp] theorem killOne_wf (other : Nat) (l : Launch) (h : s.mem.wf = true) : (s.killOne other l).mem.wf = true := by
  fun_cases s.killOne other l <;> simp [h]

@[simp] theorem killLaunches_wf (other : Nat) (xs : List Launch) (h : s.mem.wf = true) :
    (s.killLaunches other xs).mem.wf = true := by
  fun_induction s.killLaunches other xs <;> simp [*]

@[simp] theorem killRegion_wf (rcb other : Nat) (h : s.mem.wf = true) : (s.killRegion rcb other).mem.wf = true := by
  simp [h, State.killRegion]

@[simp] theorem changeGate_mem (k : Nat × Nat × Nat) (f : Gate → Gate) : (s.changeGate k f).mem = s.mem := by
  fun_cases s.changeGate k f <;> rfl

@[simp] theorem wake_mem (slice : Nat) : (s.wake slice).mem = s.mem := rfl

@[simp] theorem arrive_mem (src : GateSource) (k : Nat × Nat × Nat) (n : Nat) : (s.arrive src k n).mem = s.mem := by
  unfold State.arrive; (repeat' split) <;> simp

@[simp] theorem fwWrite_wf (tenant va : Nat) (bs : List Byte) (h : s.mem.wf = true) :
    (s.fwWrite tenant va bs).mem.wf = true := by
  fun_cases s.fwWrite tenant va bs <;> simp_all

@[simp] theorem logRecord_wf (rep : Region) (r : FRec) (h : s.mem.wf = true) : (s.logRecord rep r).mem.wf = true := by
  simp only [State.logRecord]; (repeat' split) <;> simp [h]

@[simp] theorem latchUnits_mem (units : List Nat) (label rank : Nat) : (s.latchUnits units label rank).mem = s.mem := rfl

@[simp] theorem latchFree_mem (units : List Nat) (rank : Nat) : (s.latchFree units rank).mem = s.mem := rfl

@[simp] theorem snapFault_mem (cls : Nat) : (s.snapFault cls).mem = s.mem := by
  fun_cases s.snapFault cls <;> rfl

@[simp] theorem report_wf (r : FRec) (h : s.mem.wf = true) : (s.report r).mem.wf = true := by
  simp only [State.report]; (repeat' split) <;> simp [h]

@[simp] theorem terminateBlock_mem (l b : Nat) : (s.terminateBlock l b).mem = s.mem := rfl

@[simp] theorem blockPath_wf (l b fibre : Nat) (code : FaultCode) (info0 info1 : Nat) (h : s.mem.wf = true) :
    (s.blockPath l b fibre code info0 info1).mem.wf = true := by
  unfold State.blockPath; (repeat' split) <;> simp [h]

@[simp] theorem machinePath_wf (l : Launch) (b : Option Block) (who : Option Reported) (addr : Nat) (h : s.mem.wf = true) :
    (s.machinePath l b who addr).mem.wf = true := by
  simp [h, State.machinePath]

@[simp] theorem lineFault_wf (c : Cmd) (code : FaultCode) (addr : Nat) (h : s.mem.wf = true) :
    (s.lineFault c code addr).mem.wf = true := by
  unfold State.lineFault; (repeat' split) <;> simp [h]

@[simp] theorem healScratch_mem (l b : Nat) (o : OutLine) : (s.healScratch l b o).mem = s.mem := by
  fun_cases s.healScratch l b o <;> rfl

theorem writeLine_wf {s t : State} {l : Launch} {b : Block} {o : OutLine} (h : s.mem.wf = true)
    (hw : s.writeLine l b o = .ok t) : t.mem.wf = true := by
  unfold State.writeLine at hw
  (repeat' split at hw) <;> cases hw <;> simp [h]

@[simp] theorem endRcp_mem (c : Cmd) : (s.endRcp c).mem = s.mem := by
  fun_cases s.endRcp c <;> rfl

@[simp] theorem crossed_mem (dst idx : Nat) : (s.crossed dst idx).mem = s.mem := by
  fun_cases s.crossed dst idx <;> rfl

@[simp] theorem sendLine_mem (c : Cmd) (o : OutLine) : (s.sendLine c o).mem = s.mem := by
  simp only [State.sendLine]; (repeat' split) <;> simp

@[simp] theorem joinRound_mem (l : Nat) (cs : List Contrib) : (s.joinRound l cs).mem = s.mem := rfl

@[simp] theorem joinEngine_mem (l b : Nat) (scratch : Bool) (cs : List Contrib) :
    (s.joinEngine l b scratch cs).mem = s.mem := by
  fun_cases s.joinEngine l b scratch cs <;> rfl

@[simp] theorem endScat_wf (l : Launch) (c : Cmd) (k : Nat) (bad : Option (FaultCode × Nat)) (h : s.mem.wf = true) :
    (s.endScat l c k bad).mem.wf = true := by
  simp only [State.endScat]; (repeat' split) <;> simp [h]

@[simp] theorem afterSource_wf (l : Launch) (c : Cmd) (h : s.mem.wf = true) : (s.afterSource l c).mem.wf = true := by
  fun_cases s.afterSource l c <;> simp [h]

theorem execEngineOutputLine_wf {s t : State} {cmd : Nat} (h : s.mem.wf = true)
    (ht : execEngineOutputLine cmd s = .next t) : t.mem.wf = true := by
  simp only [execEngineOutputLine] at ht
  repeat' split at ht
  all_goals cases ht
  any_goals simp [h]
  · exact writeLine_wf h ‹_›
  · refine lineFault_wf _ _ _ _ ?_
    rw [modCmd_mem]
    exact writeLine_wf h ‹_›
  · exact writeLine_wf h ‹_›

theorem execEngineSourceLine_wf {s t : State} {cmd : Nat} (h : s.mem.wf = true)
    (ht : execEngineSourceLine cmd s = .next t) : t.mem.wf = true := by
  simp only [execEngineSourceLine] at ht
  (repeat' split at ht) <;> cases ht <;> simp [h]

@[simp] theorem toPoint_wf (cmd : Nat) (n : Nat) (h : s.mem.wf = true) : (s.toPoint cmd n).mem.wf = true := by
  induction n generalizing s with
  | zero => exact h
  | succ n ih =>
    unfold State.toPoint
    split
    · exact h
    · split
      · exact h
      · split
        · next t ht =>
          refine ih t ?_
          split at ht
          · exact execEngineSourceLine_wf h ht
          · exact execEngineOutputLine_wf h ht
        · exact h

@[simp] theorem toPoints_wf (xs : List Nat) (h : s.mem.wf = true) : (s.toPoints xs).mem.wf = true := by
  fun_induction s.toPoints xs <;> simp [*]

@[simp] theorem abortBlock_mem (l : Nat) (b : Block) : (s.abortBlock l b).mem = s.mem := rfl

@[simp] theorem stopBlock_mem (l : Nat) (b : Block) : (s.stopBlock l b).mem = s.mem := by
  fun_cases s.stopBlock l b <;> simp

@[simp] theorem stopBlocks_mem (l : Nat) (xs : List Block) : (s.stopBlocks l xs).mem = s.mem := by
  fun_induction s.stopBlocks l xs <;> simp [*]

@[simp] theorem stopLaunches_mem (xs : List Launch) : (s.stopLaunches xs).mem = s.mem := by
  fun_induction s.stopLaunches xs <;> simp [*]

@[simp] theorem quiesce_wf (t : Tenant) (h : s.mem.wf = true) : (s.quiesce t).mem.wf = true := by
  simp [h, State.quiesce]

@[simp] theorem saveTenant_wf (t : Tenant) (pa size : Nat) (h : s.mem.wf = true) : (s.saveTenant t pa size).mem.wf = true := by
  simp [h, State.saveTenant]

@[simp] theorem goOnSaving_wf (tenant pa len extra : Nat) (h : s.mem.wf = true) :
    (s.goOnSaving tenant pa len extra).mem.wf = true := by
  simp only [State.goOnSaving]; (repeat' split) <;> simp [h]

@[simp] theorem rehostPorts_mem : s.rehostPorts.mem = s.mem := rfl

@[simp] theorem remap_mem (runs : List (Nat × Nat)) : (s.remap runs).mem = s.mem := rfl

@[simp] theorem addExport_mem (e : Export) (window : Nat) : (s.addExport e window).mem = s.mem := by
  fun_cases s.addExport e window <;> rfl

@[simp] theorem raiseCond_mem (bit : Nat) : (s.raiseCond bit).mem = s.mem := rfl

@[simp] theorem warmReset_mem : s.warmReset.mem = s.mem :=
  foldl_mem raiseCond_mem _ _

@[simp] theorem raisePod_mem : s.raisePod.mem = s.mem := by
  unfold State.raisePod; split <;> simp

@[simp] theorem launchPath_wf (l : Nat) (code : FaultCode) (info0 info1 : Nat) (h : s.mem.wf = true) :
    (s.launchPath l code info0 info1).mem.wf = true := by
  unfold State.launchPath; split <;> simp [h]

@[simp] theorem gateError_wf (slice index : Nat) (h : s.mem.wf = true) : (s.gateError slice index).mem.wf = true := by
  fun_cases s.gateError slice index <;> simp [h]

@[simp] theorem releaseDone_mem (l b : Nat) : (s.releaseDone l b).mem = s.mem := by
  fun_cases s.releaseDone l b <;> rfl

@[simp] theorem windowError_wf (l b g : Nat) (h : s.mem.wf = true) : (s.windowError l b g).mem.wf = true := by
  fun_cases s.windowError l b g <;> simp [h]

@[simp] theorem retire_mem (pa : Nat) : (s.retire pa).mem = s.mem := by
  fun_cases s.retire pa <;> rfl

@[simp] theorem corrected_mem (unit : Nat) : (s.corrected unit).mem = s.mem := by
  fun_cases s.corrected unit <;> rfl

@[simp] theorem mailboxDoorbell_mem (code : Nat) : (s.mailboxDoorbell code).mem = s.mem := by
  fun_cases s.mailboxDoorbell code <;> rfl

@[simp] theorem rehost_mem (k : Core) : (s.rehost k).mem = s.mem := by
  fun_cases s.rehost k <;> rfl

@[simp] theorem checkSpares_mem : s.checkSpares.mem = s.mem := by
  unfold State.checkSpares; split <;> simp

@[simp] theorem stopCands_mem (xs : List Cand) : (s.stopCands xs).mem = s.mem := by
  fun_induction s.stopCands xs <;> simp [*]

@[simp] theorem traffic_mem (slice : Nat) : (s.traffic slice).mem = s.mem := rfl

@[simp] theorem dmaLines_wf (port tenant : Nat) (xs : List (Nat × List Byte)) (h : s.mem.wf = true) :
    (s.dmaLines port tenant xs).mem.wf = true := by
  fun_induction s.dmaLines port tenant xs <;> simp_all

@[simp] theorem hostLines_wf (xs : List (Nat × List Byte)) (h : s.mem.wf = true) : (s.hostLines xs).mem.wf = true := by
  fun_induction s.hostLines xs <;> simp_all

@[simp] theorem failRoutes_mem (xs : List Cmd) : (s.failRoutes xs).mem = s.mem := by
  induction xs generalizing s with
  | nil => rfl
  | cons c cs ih => rw [State.failRoutes, ih]; (repeat' split) <;> rfl

@[simp] theorem movePools_wf (src dst n : Nat) (xs : List Sparse) (h : s.mem.wf = true) :
    (s.movePools src dst n xs).mem.wf = true := by
  induction xs generalizing s with
  | nil => exact h
  | cons r rs ih =>
    unfold State.movePools
    refine ih _ ?_
    split <;> simp [h]

@[simp] theorem rebaseAll_mem (src dst n : Nat) : (s.rebaseAll src dst n).mem = s.mem := rfl

@[simp] theorem moveRange_wf (t : Tenant) (i : Nat) (e : RangeEntry) (pbase : Nat) (h : s.mem.wf = true) :
    (s.moveRange t i e pbase).mem.wf = true :=
  setDir_wf _ _ _ _ (movePools_wf _ _ _ _ _ (wf_copyRun _ _ _ _ h))

@[simp] theorem evictVictims_mem (xs : List Victim) : (s.evictVictims xs).mem = s.mem := by
  induction xs generalizing s with
  | nil => rfl
  | cons v vs ih => rw [State.evictVictims, ih]; split <;> simp

theorem evictFirst_mem {s t : State} : ∀ {cs : List Cand}, s.evictFirst cs = some t → t.mem = s.mem
  | [], h => by cases h
  | c :: cs, h => by
    unfold State.evictFirst at h
    split at h
    · cases h; exact evictVictims_mem _ _
    · exact evictFirst_mem h

@[simp] theorem without_mem (v : Victim) : (s.without v).mem = s.mem := rfl

@[simp] theorem attachArea_mem (l : Launch) (b : Block) : (s.attachArea l b).mem = s.mem := by
  fun_cases s.attachArea l b <;> rfl

@[simp] theorem enactPlan_mem (l : Launch) (b : Block) (p : Plan) (cores : List Nat) :
    (s.enactPlan l b p cores).mem = s.mem := by
  have pushed (u : State) : (p.recs.foldl (fun s r => s.modCore r.1 fun k => k.push r.2) u).mem = u.mem :=
    foldl_mem (fun s (r : Nat × BindRecord) => modCore_mem s r.1 _) _ u
  simp only [State.enactPlan]
  split <;> simp [pushed]

theorem placeFirst_mem {s t : State} : ∀ {cs : List Cand}, s.placeFirst cs = some t → t.mem = s.mem
  | [], h => by cases h
  | c :: cs, h => by
    unfold State.placeFirst at h
    split at h
    · cases h; exact enactPlan_mem _ _ _ _ _
    · exact placeFirst_mem h

theorem place_mem {s t : State} {slice : Nat} (h : s.place slice = some t) : t.mem = s.mem := by
  simp only [State.place] at h
  repeat' split at h
  · cases h
  · cases h; simp
  · next hp => cases h; exact placeFirst_mem hp
  · exact evictFirst_mem h

@[simp] theorem extendSpill_mem (l : Launch) (gs : List Nat) : (s.extendSpill l gs).mem = s.mem := by
  fun_cases s.extendSpill l gs <;> rfl

@[simp] theorem extendShort_mem : s.extendShort.mem = s.mem := by
  refine foldl_mem (fun s l => ?_) _ _
  dsimp only
  (repeat' split) <;> simp

@[simp] theorem noteOne_wf (r : Region) (h : s.mem.wf = true) : (s.noteOne r).mem.wf = true := by
  fun_cases s.noteOne r <;> simp [h]

@[simp] theorem noteUsage_wf (h : s.mem.wf = true) : s.noteUsage.mem.wf = true := by
  simp_all [State.noteUsage]

@[simp] theorem preempt_mem (core : Nat) (xs : List Cand) : (s.preempt core xs).mem = s.mem := by
  fun_induction s.preempt core xs <;> simp [*]

@[simp] theorem recordDue_wf (r : Region) (h : s.mem.wf = true) : (s.recordDue r).mem.wf = true := by
  fun_cases s.recordDue r <;> simp [h]

@[simp] theorem holdCmds_mem (ids : List Nat) : (s.holdCmds ids).mem = s.mem := rfl

@[simp] theorem suspendLaunches_mem (xs : List Launch) : (s.suspendLaunches xs).mem = s.mem := by
  induction xs generalizing s with
  | nil => rfl
  | cons l ls ih => unfold State.suspendLaunches; split <;> simp [ih]

@[simp] theorem regionPath_wf (l : Launch) (b : Block) (h : s.mem.wf = true) : (s.regionPath l b).mem.wf = true := by
  simp only [State.regionPath]; (repeat' split) <;> simp [h]

@[simp] theorem rcpEnd_mem (m : RcpLine) (e : Export) : (s.rcpEnd m e).mem = s.mem := by
  simp only [State.rcpEnd]; (repeat' split) <;> simp

@[simp] theorem landPiece_wf (tenant : Nat) (p : Nat × List Byte) (h : s.mem.wf = true) :
    (s.landPiece tenant p).mem.wf = true := by
  fun_cases s.landPiece tenant p <;> simp [h]

@[simp] theorem stage_mem (m : RcpLine) : (s.stage m).mem = s.mem := by
  fun_cases s.stage m <;> rfl

@[simp] theorem rcpFail_mem (m : RcpLine) : (s.rcpFail m).mem = s.mem := by
  simp [State.rcpFail]

@[simp] theorem enqueue_mem (c : Cmd) : (s.enqueue c).mem = s.mem := rfl

@[simp] theorem dequeue_mem (p cmd : Nat) : (s.dequeue p cmd).mem = s.mem := rfl

@[simp] theorem grantZero_mem (p : Nat) (c : Cmd) : (s.grantZero p c).mem = s.mem := rfl

@[simp] theorem grantDrain_mem (p : Nat) (c : Cmd) : (s.grantDrain p c).mem = s.mem := by
  fun_cases s.grantDrain p c <;> rfl

@[simp] theorem grantLoad_mem (p : Nat) (c : Cmd) : (s.grantLoad p c).mem = s.mem := rfl

@[simp] theorem grantRow_mem (p : Nat) (c : Cmd) : (s.grantRow p c).mem = s.mem := by
  fun_cases s.grantRow p c <;> rfl

@[simp] theorem loadPorts_mem (ps : List Nat) : (s.loadPorts ps).mem = s.mem := rfl

@[simp] theorem lineCame_mem (core l line : Nat) : (s.lineCame core l line).mem = s.mem := by
  fun_cases s.lineCame core l line <;> rfl

@[simp] theorem noteGrown_mem (c : Cmd) : (s.noteGrown c).mem = s.mem := by
  fun_cases s.noteGrown c <;> rfl

@[simp] theorem latchAll_mem (l : Nat) : (s.latchAll l).mem = s.mem := rfl

@[simp] theorem advanceRound_mem (id : Nat) : (s.advanceRound id).mem = s.mem := by
  fun_cases s.advanceRound id <;> rfl

@[simp] theorem consumeGates_mem (l : Launch) (xs : List Nat) : (s.consumeGates l xs).mem = s.mem := by
  fun_induction s.consumeGates l xs <;> simp [*]

@[simp] theorem dropLines_mem (tenant : Nat) : (s.dropLines tenant).mem = s.mem := rfl

@[simp] theorem closeRound_mem (id : Nat) : (s.closeRound id).mem = s.mem := by
  unfold State.closeRound; split <;> simp

@[simp] theorem endRound_mem (id : Nat) (held : Bool) : (s.endRound id held).mem = s.mem := by
  unfold State.endRound; split <;> simp

@[simp] theorem writeNotes_wf (id : Nat) (h : s.mem.wf = true) : (s.writeNotes id).mem.wf = true := by
  fun_cases s.writeNotes id <;> simp_all

@[simp] theorem settleRound_wf (id : Nat) (region : Option Nat) (held : Bool) (h : s.mem.wf = true) :
    (s.settleRound id region held).mem.wf = true := by
  unfold State.settleRound; split <;> simp [h]

@[simp] theorem ownerFaults_wf (id : Nat) (bad : List NodeErr) (h : s.mem.wf = true) :
    (s.ownerFaults id bad).mem.wf = true := by
  refine foldl_wf (fun s e hs => ?_) _ _ h
  (repeat' split) <;> simp [hs]

@[simp] theorem poisonLines_mem (ns : List Nat) : (s.poisonLines ns).mem = s.mem := rfl

@[simp] theorem addNotes_mem (id : Nat) (ns : List LaunchNote) : (s.addNotes id ns).mem = s.mem := rfl

@[simp] theorem writeFree_wf (num : Nat) (h : s.mem.wf = true) : (s.writeFree num).mem.wf = true := by
  fun_cases s.writeFree num <;> simp [h]

@[simp] theorem writeNodes_wf (pool : Nat) (xs : List (Nat × List Byte)) (h : s.mem.wf = true) :
    (s.writeNodes pool xs).mem.wf = true := by
  fun_induction s.writeNodes pool xs <;> simp [*]

theorem applySparse_wf {s t : State} {det : Bool} {num : Nat} {cs : List Contrib} (h : s.mem.wf = true)
    (ht : s.applySparse det num cs = .done t) : t.mem.wf = true := by
  simp only [State.applySparse] at ht
  repeat' split at ht
  all_goals cases ht
  · exact h
  · exact h
  · refine writeFree_wf _ _ ?_
    rw [modSparse_mem]
    exact outsideWrite_wf _ _ _ _ (writeNodes_wf _ _ _ h)

@[simp] theorem applyRegions_wf (det : Bool) (cs : List Contrib) (ns : List Nat) (h : s.mem.wf = true) :
    (s.applyRegions det cs ns).1.mem.wf = true := by
  induction ns generalizing s with
  | nil => exact h
  | cons n ns ih =>
    unfold State.applyRegions
    split
    · next h1 => exact ih _ (applySparse_wf h h1)
    · exact ih _ h
    · exact ih _ h

@[simp] theorem retryHeld_wf (l : Launch) (regs : List Nat) (also : Bool) (h : s.mem.wf = true) :
    (s.retryHeld l regs also).1.mem.wf = true :=
  ownerFaults_wf _ _ _ (settleRound_wf _ _ _ _ (by simp [h]))

@[simp] theorem returnNodes_wf (l num : Nat) (h : s.mem.wf = true) : (s.returnNodes l num).mem.wf = true := by
  simp only [State.returnNodes]; (repeat' split) <;> simp [h]

@[simp] theorem returnAll_wf (l : Nat) (xs : List Nat) (h : s.mem.wf = true) : (s.returnAll l xs).mem.wf = true := by
  fun_induction s.returnAll l xs <;> simp [*]

@[simp] theorem commitRound_wf (l : Launch) (h : s.mem.wf = true) : (s.commitRound l).mem.wf = true := by
  unfold State.commitRound
  refine ownerFaults_wf _ _ _ ?_
  split
  · exact settleRound_wf _ _ _ _ (by simp [h])
  · simp [h]

@[simp] theorem landNext_wf (l : Launch) (region : Option Nat) (held : Bool) (h : s.mem.wf = true) :
    (s.landNext l region held).mem.wf = true := by
  simp only [State.landNext]; (repeat' split) <;> simp [h]

@[simp] theorem extendAll_mem (xs : List (Launch × List Nat)) : (s.extendAll xs).mem = s.mem := by
  fun_cases s.extendAll xs
  simp

@[simp] theorem hazardRecord_wf (l : Launch) (b : Block) (step : Nat) (bad : List Contrib) (group : Nat) (exited : Bool)
    (fs : List Fibre) (h : s.mem.wf = true) : (s.hazardRecord l b step bad group exited fs).mem.wf = true := by
  fun_cases s.hazardRecord l b step bad group exited fs <;> simp [h]

@[simp] theorem hazardRecords_wf (l : Launch) (b : Block) (step : Nat) (bad : List Contrib) (xs : List Nat)
    (h : s.mem.wf = true) : (s.hazardRecords l b step bad xs).mem.wf = true := by
  induction xs generalizing s with
  | nil => exact h
  | cons g gs ih => exact ih _ (hazardRecord_wf _ _ _ _ _ _ _ _ (hazardRecord_wf _ _ _ _ _ _ _ _ h))

@[simp] theorem doGcfg_mem (l : Launch) (c : Cmd) : (s.doGcfg l c).mem = s.mem := by
  fun_cases s.doGcfg l c <;> simp

@[simp] theorem doWdarm_mem (l : Launch) (c : Cmd) : (s.doWdarm l c).mem = s.mem := by
  fun_cases s.doWdarm l c <;> rfl

@[simp] theorem doSnap_mem (t : Tenant) (b : Block) (c : Cmd) : (s.doSnap t b c).mem = s.mem := by
  fun_cases s.doSnap t b c <;> rfl

@[simp] theorem fretResume_mem (l : Launch) (b : Block) (f : Fibre) (bs : List Byte) : (s.fretResume l b f bs).mem = s.mem := by
  fun_cases s.fretResume l b f bs <;> rfl

@[simp] theorem doFret_wf (l : Launch) (b : Block) (c : Cmd) (t2 : Bool) (h : s.mem.wf = true) :
    (s.doFret l b c t2).mem.wf = true := by
  simp only [State.doFret]; (repeat' split) <;> simp [h]

@[simp] theorem doRgbud_wf (l : Launch) (c : Cmd) (h : s.mem.wf = true) : (s.doRgbud l c).mem.wf = true := by
  simp only [State.doRgbud]
  (repeat' split) <;> simp only [finishCmd_mem, h]
  exact fwWrite_wf _ _ _ _ (foldl_wf (fun _ _ hs => fwWrite_wf _ _ _ _ hs) _ _ h)

@[simp] theorem doRgpri_wf (l : Launch) (c : Cmd) (h : s.mem.wf = true) : (s.doRgpri l c).mem.wf = true := by
  simp only [State.doRgpri]; (repeat' split) <;> simp [h]

@[simp] theorem resumeHeld_wf (l : Launch) (h : s.mem.wf = true) : (s.resumeHeld l).mem.wf = true := by
  simp [State.resumeHeld, h]

@[simp] theorem resumeLaunch_wf (l : Launch) (h : s.mem.wf = true) : (s.resumeLaunch l).mem.wf = true := by
  unfold State.resumeLaunch; (repeat' split) <;> simp [h]

@[simp] theorem resumeLaunches_wf (xs : List Launch) (h : s.mem.wf = true) : (s.resumeLaunches xs).mem.wf = true := by
  fun_induction s.resumeLaunches xs <;> simp [*]

@[simp] theorem doRgresume_wf (l : Launch) (c : Cmd) (h : s.mem.wf = true) : (s.doRgresume l c).mem.wf = true := by
  unfold State.doRgresume; (repeat' split) <;> simp [h]

@[simp] theorem resetRegions_wf (xs : List Region) (h : s.mem.wf = true) : (s.resetRegions xs).mem.wf = true := by
  induction xs generalizing s with
  | nil => exact h
  | cons r rs ih => exact ih _ (fwWrite_wf _ _ _ _ h)

@[simp] theorem doRgreset_wf (l : Launch) (c : Cmd) (h : s.mem.wf = true) : (s.doRgreset l c).mem.wf = true := by
  fun_cases s.doRgreset l c <;> simp [h]

@[simp] theorem doRgkill_wf (l : Launch) (c : Cmd) (h : s.mem.wf = true) : (s.doRgkill l c).mem.wf = true := by
  unfold State.doRgkill; (repeat' split) <;> simp [h]

@[simp] theorem doBankmode_mem (t : Tenant) (c : Cmd) : (s.doBankmode t c).mem = s.mem := by
  fun_cases s.doBankmode t c <;> rfl

@[simp] theorem doSgrow_wf (t : Tenant) (l : Launch) (c : Cmd) (t0 : Bool) (h : s.mem.wf = true) :
    (s.doSgrow t l c t0).mem.wf = true := by
  simp only [State.doSgrow]; (repeat' split) <;> simp [h]

@[simp] theorem noteHolder_mem (l : Nat) (sp : Sparse) : (s.noteHolder l sp).mem = s.mem := by
  fun_cases s.noteHolder l sp <;> rfl

@[simp] theorem doSnew_wf (t : Tenant) (l : Launch) (c : Cmd) (t0 t1 : Bool) (h : s.mem.wf = true) :
    (s.doSnew t l c t0 t1).mem.wf = true := by
  simp only [State.doSnew]
  (repeat' split) <;> simp [h]

@[simp] theorem finishRange_mem (id count : Nat) (ranges : List (Nat × Nat)) (frees : List Nat) :
    (s.finishRange id count ranges frees).mem = s.mem := rfl

@[simp] theorem doRmove_wf (t : Tenant) (c : Cmd) (h : s.mem.wf = true) : (s.doRmove t c).mem.wf = true := by
  simp only [State.doRmove]; (repeat' split) <;> simp [h]

@[simp] theorem dropWords_mem (tenant vbase : Nat) : (s.dropWords tenant vbase).mem = s.mem := rfl

@[simp] theorem writeBits_wf (bitmap first n : Nat) (v : Bool) (h : s.mem.wf = true) :
    (s.writeBits bitmap first n v).mem.wf = true := by
  fun_cases s.writeBits bitmap first n v
  simp_all

@[simp] theorem doRres_wf (t : Tenant) (c : Cmd) (h : s.mem.wf = true) : (s.doRres t c).mem.wf = true := by
  simp only [State.doRres]; (repeat' split) <;> simp [h]

@[simp] theorem doRinval_wf (t : Tenant) (c : Cmd) (h : s.mem.wf = true) : (s.doRinval t c).mem.wf = true := by
  fun_cases s.doRinval t c <;> simp [h]

@[simp] theorem doRmerge_wf (t : Tenant) (c : Cmd) (h : s.mem.wf = true) : (s.doRmerge t c).mem.wf = true := by
  unfold State.doRmerge; (repeat' split) <;> simp [h]

@[simp] theorem doRsplit_wf (t : Tenant) (c : Cmd) (h : s.mem.wf = true) : (s.doRsplit t c).mem.wf = true := by
  simp only [State.doRsplit]
  (repeat' split) <;> simp [h]

@[simp] theorem dispatchSys_wf (l : Launch) (b : Block) (c : Cmd) (t0 t1 t2 : Bool) (h : s.mem.wf = true) :
    (s.dispatchSys l b c t0 t1 t2).mem.wf = true := by
  fun_cases s.dispatchSys l b c t0 t1 t2 <;> simp [h]

@[simp] theorem startLaunch_mem (l : Launch) (c : Cmd) : (s.startLaunch l c).mem = s.mem := by
  simp only [State.startLaunch]; (repeat' split) <;> simp

@[simp] theorem addRegions_mem (rs : List Region) : (s.addRegions rs).mem = s.mem := by
  fun_cases s.addRegions rs <;> rfl

@[simp] theorem dispatchLaunch_mem (l : Launch) (c : Cmd) : (s.dispatchLaunch l c).mem = s.mem := by
  simp only [State.dispatchLaunch]; (repeat' split) <;> simp

@[simp] theorem startCmd_wf (l : Launch) (b : Block) (c : Cmd) (h : s.mem.wf = true) : (s.startCmd l b c).mem.wf = true := by
  fun_cases s.startCmd l b c <;> simp [h]

@[simp] theorem dispatchRcp_wf (l : Launch) (b : Block) (c : Cmd) (t0 t1 : Bool) (h : s.mem.wf = true) :
    (s.dispatchRcp l b c t0 t1).mem.wf = true := by
  fun_cases s.dispatchRcp l b c t0 t1 <;> simp [h]

@[simp] theorem dispatchDigest_wf (l : Launch) (b : Block) (c : Cmd) (t0 t1 : Bool) (h : s.mem.wf = true) :
    (s.dispatchDigest l b c t0 t1).mem.wf = true := by
  fun_cases s.dispatchDigest l b c t0 t1 <;> simp [h]

@[simp] theorem dispatchUnlease_mem (l : Launch) (c : Cmd) (t0 : Bool) : (s.dispatchUnlease l c t0).mem = s.mem := by
  fun_cases s.dispatchUnlease l c t0 <;> rfl

@[simp] theorem dispatchLease_wf (l : Launch) (c : Cmd) (t0 : Bool) (h : s.mem.wf = true) :
    (s.dispatchLease l c t0).mem.wf = true := by
  simp only [State.dispatchLease]
  (repeat' split) <;> simp [h]

@[simp] theorem dispatchMatrix_wf (l : Launch) (b : Block) (c : Cmd) (h : s.mem.wf = true) :
    (s.dispatchMatrix l b c).mem.wf = true := by
  simp only [State.dispatchMatrix]; (repeat' split) <;> simp [h]

@[simp] theorem dispatchGather_wf (l : Launch) (b : Block) (c : Cmd) (t0 t1 scat : Bool) (h : s.mem.wf = true) :
    (s.dispatchGather l b c t0 t1 scat).mem.wf = true := by
  fun_cases s.dispatchGather l b c t0 t1 scat <;> simp [h]

@[simp] theorem dispatchSparse_wf (l : Launch) (b : Block) (c : Cmd) (t0 t1 store : Bool) (h : s.mem.wf = true) :
    (s.dispatchSparse l b c t0 t1 store).mem.wf = true := by
  simp only [State.dispatchSparse]; (repeat' split) <;> simp [h]

@[simp] theorem dispatchCpt_wf (l : Launch) (b : Block) (c : Cmd) (t0 : Bool) (h : s.mem.wf = true) :
    (s.dispatchCpt l b c t0).mem.wf = true := by
  fun_cases s.dispatchCpt l b c t0 <;> simp [h]

@[simp] theorem dispatchRead_wf (l : Launch) (b : Block) (c : Cmd) (h : s.mem.wf = true) :
    (s.dispatchRead l b c).mem.wf = true := by
  fun_cases s.dispatchRead l b c <;> simp [h]

@[simp] theorem dispatchCp_wf (l : Launch) (b : Block) (c : Cmd) (size : Nat) (h : s.mem.wf = true) :
    (s.dispatchCp l b c size).mem.wf = true := by
  fun_cases s.dispatchCp l b c size
  simp [h]

@[simp] theorem dispatchOne_wf (l b : Nat) (q : CmdReq) (h : s.mem.wf = true) : (s.dispatchOne l b q).mem.wf = true := by
  simp only [State.dispatchOne]; (repeat' split) <;> simp [h]

@[simp] theorem dispatchAll_wf (l b : Nat) (xs : List CmdReq) (h : s.mem.wf = true) : (s.dispatchAll l b xs).mem.wf = true := by
  fun_induction s.dispatchAll l b xs <;> simp [*]

@[simp] theorem addGate_mem (l : Launch) (n total : Nat) : (s.addGate l n total).mem = s.mem := by
  fun_cases s.addGate l n total <;> simp

@[simp] theorem addGates_mem (l : Launch) (gs : List (Nat × Nat × Nat × Nat)) (xs : List Nat) :
    (s.addGates l gs xs).mem = s.mem := by
  fun_induction s.addGates l gs xs <;> simp [*]

@[simp] theorem landOutside_wf (xs : List (Nat × List (Option Byte))) (h : s.mem.wf = true) :
    (s.landOutside xs).mem.wf = true := by
  fun_induction s.landOutside xs <;> simp [*]

@[simp] theorem landWriteOnly_wf (l : Launch) (cs : List Contrib) (h : s.mem.wf = true) :
    (s.landWriteOnly l cs).mem.wf = true := by
  simp [h, State.landWriteOnly]

@[simp] theorem badEntries_mem (l : Launch) (b : Block) (sc wo : List Contrib) : (s.badEntries l b sc wo).mem = s.mem := by
  fun_cases s.badEntries l b sc wo <;> rfl

@[simp] theorem showLtol_mem (rcb : Nat) (ws : List (Nat × Nat × Nat)) : (s.showLtol rcb ws).mem = s.mem := by
  fun_cases s.showLtol rcb ws <;> rfl

@[simp] theorem healStep_mem (l b : Nat) (bytes : List Nat) : (s.healStep l b bytes).mem = s.mem := rfl

@[simp] theorem commitStep_wf (l : Launch) (b : Block) (bad : List Contrib) (h : s.mem.wf = true) :
    (s.commitStep l b bad).mem.wf = true := by
  unfold State.commitStep
  dsimp only
  have h6 : ∀ u : State, u.mem.wf = true → ∀ wo sc qs, ((((u.landWriteOnly l wo).badEntries l b sc wo).addGates l b.gadds
      (dedupNat (b.gadds.map Prod.fst))).dispatchAll l.id b.index qs).mem.wf = true := fun u hu wo sc qs =>
    dispatchAll_wf _ _ _ _ (by simp [hu])
  (repeat' split)
  · simp [h, h6]
  · simp [h, h6]
  · refine hazardRecords_wf _ _ _ _ _ _ ?_
    simp [h, h6]

@[simp] theorem checkSpill_wf (id : Nat) (h : s.mem.wf = true) : (s.checkSpill id).mem.wf = true := by
  fun_cases s.checkSpill id <;> simp [h]

@[simp] theorem withRound_mem (l : Nat) (cs wo : List Contrib) : (s.withRound l cs wo).mem = s.mem := rfl

@[simp] theorem recordReq_mem (e : Env) (q : CmdReq) : (s.recordReq e q).mem = s.mem := rfl

@[simp] theorem failFibre_mem (is : Issue) (vf : Fibre) (t : Trap) : (s.failFibre is vf t).mem = s.mem := rfl

@[simp] theorem onceTokens_mem (e : Env) (d cmd : Nat) (ids : List Nat) : (State.onceTokens e d cmd ids s).2.mem = s.mem := by
  induction ids generalizing s with
  | nil => rfl
  | cons id ids ih => unfold State.onceTokens; (repeat' split) <;> simp [ih]

@[simp] theorem onceActive_mem (e : Env) (ids : List Nat) : (State.onceActive e ids s).2.mem = s.mem := by
  induction ids generalizing s with
  | nil => rfl
  | cons id ids ih => simp only [State.onceActive]; (repeat' split) <;> simp [ih]

@[simp] theorem cpLanes_mem (e : Env) (i : Instr) (dst src : BitVec 4) (x : BitVec 6) (size : BitVec 2) (ids : List Nat) :
    (State.cpLanes e i dst src x size ids s).2.mem = s.mem := by
  induction ids generalizing s with
  | nil => rfl
  | cons id ids ih => simp only [State.cpLanes]; (repeat' split) <;> simp [ih]

@[simp] theorem once_mem (i : Instr) (k : OnceForm) (d : BitVec 6) (a : BitVec 4) (b : BitVec 6) :
    (s.once i k d a b).mem = s.mem := by
  simp only [State.once]
  (repeat' split) <;> simp

@[simp] theorem issueCp_mem (d : BitVec 6) (dst src : BitVec 4) (x : BitVec 6) (size : BitVec 2) :
    (s.issueCp d dst src x size).mem = s.mem := by
  simp only [State.issueCp]
  (repeat' split) <;> simp

@[simp] theorem noteHolders_mem (e : Env) (q : BitVec 4) (store : Bool) (xs : List Fibre) :
    (State.noteHolders e q store xs s).mem = s.mem := by
  induction xs generalizing s with
  | nil => rfl
  | cons f fs ih => rw [State.noteHolders, ih]; (repeat' split) <;> simp

@[simp] theorem noteSeen_mem (core : Nat) (lines : List Nat) : (s.noteSeen core lines).mem = s.mem := by
  fun_cases s.noteSeen core lines <;> rfl

@[simp] theorem touchRange_mem (core tenant va : Nat) : (s.touchRange core tenant va).mem = s.mem := by
  fun_cases s.touchRange core tenant va <;> rfl

@[simp] theorem touchOne_mem (core tenant : Nat) (t : Touch) : (s.touchOne core tenant t).mem = s.mem := by
  unfold State.touchOne; split <;> simp

@[simp] theorem touchAll_mem (core tenant : Nat) (ts : List Touch) : (s.touchAll core tenant ts).mem = s.mem := by
  fun_cases s.touchAll core tenant ts
  simp

@[simp] theorem putEff_mem (is : Issue) (core tenant : Nat) (x : Eff) (f : Fibre) :
    (s.putEff is core tenant x f).mem = s.mem := by
  simp [State.putEff]

@[simp] theorem walkTrap_mem (core tenant : Nat) (t : Trap) : (s.walkTrap core tenant t).mem = s.mem := by
  fun_cases s.walkTrap core tenant t <;> simp

@[simp] theorem raiseFor_mem (e : Env) (i : Instr) (vf cf : Fibre) (t : Trap) : (s.raiseFor e i vf cf t).mem = s.mem := by
  fun_cases s.raiseFor e i vf cf t <;> rfl

@[simp] theorem runFibre_mem (i : Instr) (eff : Env → Fibre → Fibre → Except Trap Eff) (id : Nat) :
    (State.runFibre i eff id s).mem = s.mem := by
  simp only [State.runFibre]; (repeat' split) <;> simp

@[simp] theorem eachFibre_mem (i : Instr) (eff : Env → Fibre → Fibre → Except Trap Eff) (xs : List Nat) :
    (State.eachFibre i eff xs s).mem = s.mem := by
  fun_induction State.eachFibre i eff xs s <;> simp [*]

@[simp] theorem actEach_mem (i : Instr) (eff : Env → Fibre → Fibre → Except Trap Eff) : (s.actEach i eff).mem = s.mem := by
  fun_cases s.actEach i eff <;> simp

@[simp] theorem setLtol_mem (rcb : Nat) (v : Word) : (s.setLtol rcb v).mem = s.mem := rfl

@[simp] theorem setLtols_mem (e : Env) (b : BitVec 6) (xs : List Fibre) : (State.setLtols e b xs s).mem = s.mem := by
  induction xs generalizing s with
  | nil => rfl
  | cons f fs ih => rw [State.setLtols, ih]; split <;> simp

@[simp] theorem parkRecord_wf (l : Launch) (b : Block) (group : Nat) (ids : List Nat) (code : FaultCode) (pc info0 info1 : Nat)
    (h : s.mem.wf = true) : (s.parkRecord l b group ids code pc info0 info1).mem.wf = true := by
  fun_cases s.parkRecord l b group ids code pc info0 info1
  simp [h]

@[simp] theorem park_wf (l b group : Nat) (ids : List Nat) (code : FaultCode) (pc chain info0 info1 : Nat)
    (h : s.mem.wf = true) : (s.park l b group ids code pc chain info0 info1).mem.wf = true := by
  simp only [State.park]; (repeat' split) <;> simp [h]

@[simp] theorem parkCode_wf (l b group pc chain : Nat) (ps : List (Nat × FaultCode × Nat × Nat)) (code : FaultCode)
    (h : s.mem.wf = true) : (s.parkCode l b group pc chain ps code).mem.wf = true := by
  fun_cases s.parkCode l b group pc chain ps code <;> simp [h]

@[simp] theorem flushParks_wf (l b group pc chain : Nat) (ps : List (Nat × FaultCode × Nat × Nat)) (h : s.mem.wf = true) :
    (s.flushParks l b group pc chain ps).mem.wf = true := by
  fun_cases s.flushParks l b group pc chain ps
  simp_all

@[simp] theorem endFibres_mem (is : Issue) (l : Launch) (step : Nat) (debug : Bool) (ids : List Nat) :
    (s.endFibres is l step debug ids).1.mem = s.mem := by
  induction ids generalizing s with
  | nil => rfl
  | cons id ids ih => simp only [State.endFibres]; (repeat' split) <;> simp [ih]

@[simp] theorem finishPacket_wf (is : Issue) (h : s.mem.wf = true) : (s.finishPacket is).mem.wf = true := by
  simp only [State.finishPacket]
  (repeat' split) <;> simp [h]

@[simp] theorem endChain_wf (is : Issue) (h : s.mem.wf = true) : (s.endChain is).mem.wf = true := by
  unfold State.endChain; split <;> simp [h]

@[simp] theorem afterWord_wf (pos : Nat) (h : s.mem.wf = true) : (State.afterWord pos s).mem.wf = true := by
  fun_cases State.afterWord pos s <;> simp [h]

@[simp] theorem fetchLine_mem (core : Nat) (l : Launch) (pc : Nat) : (s.fetchLine core l pc).mem = s.mem := by
  fun_cases s.fetchLine core l pc <;> simp

@[simp] theorem openChain_wf (r : Ready) (h : s.mem.wf = true) : (s.openChain r).mem.wf = true := by
  simp only [State.openChain]
  (repeat' split) <;> simp [h]

@[simp] theorem bootStep_mem : s.bootStep.mem = s.mem := by
  simp only [State.bootStep]; (repeat' split) <;> simp

@[simp] theorem idleStep_mem : s.idleStep.mem = s.mem := by
  unfold State.idleStep; split <;> simp

@[simp] theorem setAgain_mem (bit : Nat) : (s.setAgain bit).mem = s.mem := by
  fun_cases s.setAgain bit <;> rfl
end

/-! ## The events and words -/

/-- Every next state that the outcome answers has memory in canonical form. -/
def KeepsMem (o : Out) : Prop := ∀ t, o = .next t → t.mem.wf = true

@[simp] theorem keepsMem_next {t : State} : KeepsMem (.next t) ↔ t.mem.wf = true :=
  ⟨fun k => k t rfl, fun h _ ht => by cases ht; exact h⟩

theorem keepsMem_after {o : Out} {f : State → State} (hf : ∀ t, t.mem.wf = true → (f t).mem.wf = true) (k : KeepsMem o) :
    KeepsMem (after o f) := by
  cases o with
  | next t => simpa [after] using hf t (k t rfl)
  | fault r => exact fun _ ht => by cases ht
  | refused r => exact fun _ ht => by cases ht

section
variable {s : State} (h : s.mem.wf = true)
include h

theorem actEach_keepsMem (i : Instr) (eff : Env → Fibre → Fibre → Except Trap Eff) :
    KeepsMem (.next (s.actEach i eff)) := by
  simp [h]

theorem once_keepsMem (i : Instr) (k : OnceForm) (d : BitVec 6) (a : BitVec 4) (b : BitVec 6) :
    KeepsMem (.next (s.once i k d a b)) := by
  simp [h]

theorem sparseWord_keepsMem (i : Instr) (q : BitVec 4) (store : Bool) (eff : Env → Fibre → Fibre → Except Trap Eff) :
    KeepsMem (s.sparseWord i q store eff) := by
  simp only [State.sparseWord]
  split <;> simp [h]

theorem answer_keepsMem (m : SpdmMsg) : KeepsMem (s.answer m) := by simp [State.answer, h]

theorem mailbox_keepsMem {code : Nat} {args : List Nat} {run : State → State} (hrun : (run s).mem.wf = true) :
    KeepsMem (s.mailbox code args run) := by
  unfold State.mailbox
  (repeat' split) <;> simp [h, hrun]

theorem execTenantRestore_keepsMem : KeepsMem (execTenantRestore s) := by
  refine mailbox_keepsMem h ?_
  dsimp only
  repeat' split
  any_goals simp [h]
  all_goals
    next ha =>
      refine putImage_wf _ _ _ _ ?_
      simpa [allot_mem _ _ _ _ _ _ ha] using h

theorem execWriteRangeDescriptor_keepsMem : KeepsMem (execWriteRangeDescriptor s) := by
  unfold execWriteRangeDescriptor
  split
  · simp [h]
  · refine mailbox_keepsMem h ?_
    dsimp only
    (repeat' split) <;> simp [h]

theorem execTenantSave_keepsMem : KeepsMem (execTenantSave s) := by
  unfold execTenantSave
  split
  · simp [h]
  · refine mailbox_keepsMem h ?_
    dsimp only
    (repeat' split) <;> simp [h]

theorem execRegisterExportEntry_keepsMem : KeepsMem (execRegisterExportEntry s) := by
  refine mailbox_keepsMem h ?_
  cases s.freeWindow <;> simp only <;> split_ifs <;> simp [h]

theorem execRegisterImportEntry_keepsMem : KeepsMem (execRegisterImportEntry s) := by
  refine mailbox_keepsMem h ?_
  dsimp only
  (repeat' split) <;> simp [h]

theorem execJoinPodGroup_keepsMem : KeepsMem (execJoinPodGroup s) := by
  refine mailbox_keepsMem h ?_
  dsimp only
  (repeat' split) <;> simp [h]

theorem execRemovePodMember_keepsMem : KeepsMem (execRemovePodMember s) := by
  refine mailbox_keepsMem h ?_
  dsimp only
  (repeat' split) <;> simp [h]

theorem execAttachDebugger_keepsMem : KeepsMem (execAttachDebugger s) := by
  refine mailbox_keepsMem h ?_
  (repeat' split) <;> simp [h]

theorem execDetachDebugger_keepsMem : KeepsMem (execDetachDebugger s) := by
  refine mailbox_keepsMem h ?_
  (repeat' split) <;> simp [h]

theorem execSetPartitionLayout_keepsMem : KeepsMem (execSetPartitionLayout s) := by
  refine mailbox_keepsMem h ?_
  dsimp only
  (repeat' split) <;> simp [h]

theorem execStepCommit_keepsMem (l b : Nat) : KeepsMem (execStepCommit l b s) := by
  unfold execStepCommit
  (repeat' split) <;> simp [h]

theorem execRoundCommit_keepsMem (l : Nat) : KeepsMem (execRoundCommit l s) := by
  unfold execRoundCommit
  (repeat' split) <;> simp [h]

theorem execHeldCommitRetry_keepsMem (l : Nat) : KeepsMem (execHeldCommitRetry l s) := by
  unfold execHeldCommitRetry
  (repeat' split) <;> simp [h]

theorem execLaunchEnd_keepsMem (l : Nat) : KeepsMem (execLaunchEnd l s) := by
  simp only [execLaunchEnd]
  (repeat' split) <;> simp [h]

theorem execTokenLanding_keepsMem (cmd : Nat) : KeepsMem (execTokenLanding cmd s) := by
  simp only [execTokenLanding]
  (repeat' split) <;> simp [h]

theorem execRcpLineArrival_keepsMem (m : RcpLine) : KeepsMem (execRcpLineArrival m s) := by
  have pieces (e : Export) (u : State) (hu : u.mem.wf = true) :
      ((e.pieces m).foldl (fun s p => s.landPiece e.tenant p) u).mem.wf = true :=
    foldl_wf (fun _ _ hs => landPiece_wf _ _ _ hs) _ _ hu
  simp only [execRcpLineArrival]
  (repeat' split) <;> simp [h, pieces]

theorem execHostApertureRead_keepsMem (a : HostAddr) (len : Nat) : KeepsMem (execHostApertureRead a len s) := by
  simp only [execHostApertureRead]
  (repeat' split) <;> simp [h]

theorem execSoftError_keepsMem (site : ErrorSite) : KeepsMem (execSoftError site s) := by
  unfold execSoftError
  split <;> simp [h]

theorem execRegisterWrite_keepsMem (off : Nat) (v : BitVec 64) : KeepsMem (execRegisterWrite off v s) := by
  simp only [execRegisterWrite]
  (repeat' split) <;> simp [h, execBootdb, execReplreq, execSnaptrig]
  all_goals split <;> simp [h]

theorem execCompactorMove_keepsMem (slice : Nat) : KeepsMem (execCompactorMove slice s) := by
  unfold execCompactorMove
  (repeat' split) <;> simp [h]

theorem execWatchdog_keepsMem (l b : Nat) : KeepsMem (execWatchdog l b s) := by
  unfold execWatchdog
  (repeat' split) <;> simp [h]
  cases s.region? _ <;> simp [h]

theorem execPlacementDecision_keepsMem (slice : Nat) : KeepsMem (execPlacementDecision slice s) := by
  unfold execPlacementDecision
  cases hp : s.place slice with
  | none => simp [h]
  | some t => simp [h, place_mem hp]

theorem exec_keepsMem (i : Instr) : KeepsMem (exec i s) := by
  cases i with
  | nop | brk | trap | tret | exit | stop | rstop | rstopGated | gadd | gread | br | call | brx | callx | ret | spawn
    | iadd | isub | imul | imulhi | imulhin | imad | imin | imax | iminn | imaxn | iabs | ineg | iadds | isubs |
    iaddsn | isubsn | ladd | lsub | lmul | lmad | lmin | lmax | lminn | lmaxn | lshl | lshr | lsra | lneg | labs | and
    | or | xor | andn | orn | xnor | not | shl | shr | sra | rotl | rotr | popc | clz | ctz | brev | bfe | bfes | bfi
    | bswap | icmp | lcmp | mov | isel | movs | pand | por | pxor | pandn | pnot | pmov | pword | psetw | iaddi | andi
    | ori | xori | shli | shri | srai | icmpi | movi | movhi | fadd | fsub | fmul | ffma | ffms | fnfma | fmin | fmax
    | fabs | fneg | fdiv | fsqrt | frcp | frsq | fexp2 | flog2 | fsinpi | fcospi | fkey | fkeyinv | fcmp | dcmp | dadd
    | dsub | dmul | dfma | dmin | dmax | dabs | dneg | ddiv | dsqrt | dkey | hadd2 | hsub2 | hmul2 | hfma2 | hmin2 |
    hmax2 | hkey2 | badd2 | bsub2 | bmul2 | bfma2 | bmin2 | bmax2 | fix | unfix | lshfl | lvoteany | lvoteall |
    lballot | lrank | lfirst | bxpos | bxcnt | bmerge | bmpre | ld | st | fadr | movb | stb | capsub | capperm |
    capget | captag | capmint =>
    exact actEach_keepsMem h _ _
  | cpt | cpd | cps | gath | scat | mmb | mma | mmd | mmz | lease | unlease | digest | rcp | rsplit | rmerge | rinval
    | rres | rmove | bankmode | rgkill | rgreset | rgresume | rgpri | rgbud | fret | snap | wdarm | snew | sgrow |
    gcfg | launch =>
    exact once_keepsMem h _ _ _ _ _
  | tld | tst | tnext | tcount => exact sparseWord_keepsMem h _ _ _ _
  | unsupportedRequest | getVersion | getCapabilities | negotiateAlgorithms | getDigests | getCertificate | challenge =>
    exact answer_keepsMem h _
  | stepCommit => exact execStepCommit_keepsMem h _ _
  | roundCommit => exact execRoundCommit_keepsMem h _
  | heldCommitRetry => exact execHeldCommitRetry_keepsMem h _
  | launchEnd => exact execLaunchEnd_keepsMem h _
  | tokenLanding => exact execTokenLanding_keepsMem h _
  | rcpLineArrival => exact execRcpLineArrival_keepsMem h _
  | watchdog => exact execWatchdog_keepsMem h _ _
  | placementDecision => exact execPlacementDecision_keepsMem h _
  | compactorMove => exact execCompactorMove_keepsMem h _
  | hostApertureRead => exact execHostApertureRead_keepsMem h _ _
  | registerWrite => exact execRegisterWrite_keepsMem h _ _
  | softError => exact execSoftError_keepsMem h _
  | registerExportEntry => exact execRegisterExportEntry_keepsMem h
  | registerImportEntry => exact execRegisterImportEntry_keepsMem h
  | joinPodGroup => exact execJoinPodGroup_keepsMem h
  | removePodMember => exact execRemovePodMember_keepsMem h
  | attachDebugger => exact execAttachDebugger_keepsMem h
  | detachDebugger => exact execDetachDebugger_keepsMem h
  | setPartitionLayout => exact execSetPartitionLayout_keepsMem h
  | tenantSave => exact execTenantSave_keepsMem h
  | tenantRestore => exact execTenantRestore_keepsMem h
  | writeRangeDescriptor => exact execWriteRangeDescriptor_keepsMem h
  | engineOutputLine => exact fun _ => execEngineOutputLine_wf h
  | engineSourceLine => exact fun _ => execEngineSourceLine_wf h
  | getMeasurements =>
    simp only [exec, execGetMeasurements]
    split <;> exact answer_keepsMem h _
  | yield | movsw | cp | loadDataReturn | codeLineFill | rangeWalk | stagedCommandEnqueue | matrixRowGrant |
    matrixPortGrant | engineQuiesceStop | timeSliceExpiry | gracePeriodEnd | bind | unbind | rebind |
    scoreboardWaitThreshold | gtoDemotion | portDown | hostGateWrite | hostApertureWrite | rootPortDma | ltrUpdate |
    powerStateEntry | powerWake | clockThrottle | coreFailure | matrixEngineFailure | bootdb | snaptrig | replreq |
    mailboxUnknownCommand | flitRetry | unassignedEncoding | issuePolicyChange | podEpisode | c3Entry | reset |
    snaptrigPin =>
    simp only [exec, execYield, execMovsw, execCp, execLoadDataReturn, execCodeLineFill, execRangeWalk,
      execStagedCommandEnqueue, execMatrixRowGrant, execMatrixPortGrant, execEngineQuiesceStop, execTimeSliceExpiry,
      execGracePeriodEnd, execBind, execUnbind, execRebind, execScoreboardWaitThreshold, execGtoDemotion, execPortDown,
      execHostGateWrite, execHostApertureWrite, execRootPortDma, execLtrUpdate, execPowerStateEntry, execPowerWake,
      execClockThrottle, execCoreFailure, execMatrixEngineFailure, execBootdb, execSnaptrig, execReplreq,
      execMailboxUnknownCommand, execFlitRetry, execUnassignedEncoding, execIssuePolicyChange, execPodEpisode,
      execC3Entry, execReset, execSnaptrigPin]
    (repeat' split) <;> simp [h]
  | cvt =>
    simp only [exec, execCvt]
    split
    · exact actEach_keepsMem h _ _
    · exact actEach_keepsMem h _ _

theorem runWord_keepsMem (is : Issue) : KeepsMem (s.runWord is) := by
  unfold State.runWord
  split
  · exact fun _ ht => by cases ht
  · exact keepsMem_after (fun t ht => afterWord_wf t _ ht) (exec_keepsMem (by exact h) _)

theorem startChain_keepsMem (r : Ready) : KeepsMem (s.startChain r) := by
  simp only [State.startChain]
  split
  · simp [h]
  · exact runWord_keepsMem (openChain_wf s r h) _

theorem startChosen_keepsMem (r : Ready) : KeepsMem (s.startChosen r) := by
  unfold State.startChosen
  split
  · split
    · exact keepsMem_next.2 h
    · exact startChain_keepsMem h _
  · exact startChain_keepsMem h _

theorem try_wf {t : State} {i : Instr} (ht : s.try? i = some t) : t.mem.wf = true := by
  unfold State.try? at ht
  split at ht
  · next he =>
    split at ht
    · cases ht
    · cases ht; exact exec_keepsMem h i _ he
  · cases ht

theorem firstEvent_wf {t : State} {is : List Instr} (ht : s.firstEvent is = some t) : t.mem.wf = true := by
  obtain ⟨i, -, hi⟩ := List.exists_of_findSome?_eq_some ht
  exact try_wf h hi

theorem firstEvent_getD_wf (is : List Instr) : ((s.firstEvent is).getD s).mem.wf = true := by
  cases he : s.firstEvent is with
  | none => exact h
  | some t => exact firstEvent_wf h he

theorem oldestTurn_wf : s.oldestTurn.mem.wf = true := firstEvent_getD_wf (firstEvent_getD_wf h _) _

theorem command_wf {ts : List State} (hts : ∀ t ∈ ts, t.mem.wf = true) (n : Nat) : (s.command ts n).mem.wf = true := by
  show (ts.getD (n % ts.length) s).mem.wf = true
  rw [List.getD_eq_getElem?_getD]
  cases ht : ts[n % ts.length]? with
  | none => exact h
  | some t => exact hts t (List.mem_of_getElem? ht)

/-- A command's turn in the race: one of the events that it may choose from. -/
theorem command_try_wf (is : List Instr) (n : Nat) : (s.command (is.filterMap s.try?) n).mem.wf = true := by
  refine command_wf h (fun t ht => ?_) n
  obtain ⟨i, -, hi⟩ := List.mem_filterMap.1 ht
  exact try_wf h hi

theorem race_keepsMem : KeepsMem s.race := by
  have hu : ({ s with free := s.free + 2 } : State).mem.wf = true := h
  simp only [State.race]
  split
  · simp [h]
  · exact startChosen_keepsMem (by exact h) _
  · refine keepsMem_next.2 ?_
    split
    · exact oldestTurn_wf hu
    · exact command_try_wf hu _ _
  · split
    · exact startChosen_keepsMem (by exact h) _
    · split
      · exact keepsMem_next.2 (oldestTurn_wf hu)
      · split
        · exact keepsMem_next.2 (command_try_wf hu _ _)
        · exact startChosen_keepsMem (by exact h) _

theorem between_keepsMem : KeepsMem s.between := by
  unfold State.between
  split
  · exact exec_keepsMem (by exact h) _
  · split
    · exact startChain_keepsMem h _
    · split
      · simp [h]
      · split
        · next ht => exact keepsMem_next.2 (firstEvent_wf h ht)
        · exact race_keepsMem h

theorem step_keepsMem : KeepsMem (step s) := by
  unfold step
  split
  · exact runWord_keepsMem h _
  · exact between_keepsMem h

end

/-- Settles O6: memory is written by `landRaw`, `copyRun`, `putCells` and `clear` alone, each keeps the canonical form, and
every word and event is put together from them and from what leaves memory as it is. -/
theorem stepKeepsMemoryCanonical : Obligations.StepKeepsMemoryCanonical := by
  unfold Obligations.StepKeepsMemoryCanonical
  exact fun s t h ht => step_keepsMem h t ht

end Sys2Proof.Machine
end

section
/-!
# The checks of an access

The chain of checks 1 to 4 (R197), the table of spaces and permissions (R198), and the faults of checks 5 and 6.
-/

namespace Sys2Proof.Machine

/-! ## Checks 1 to 4 -/

theorem sizeBytes_eq (sz : Nat) : sizeBytes sz = if sz = 0 then 1 else 2 ^ (sz - 1) := rfl

/-- An access is aligned to its size (R197 item 4). -/
theorem sizeAlign_eq_sizeBytes (sz : Nat) : sizeAlign sz = sizeBytes sz := by
  unfold sizeAlign sizeBytes
  split_ifs with hle hz hz
  · rfl
  · rw [show sz - 1 = 0 by omega, pow_zero]
  · omega
  · rfl

section
variable (e : Env) (f : Fibre) (q : BitVec 4) (x : BitVec 6) (size : BitVec 3) (op : MemOp)

/-- The fault of checks 1 to 4. -/
def Env.accessTrap (code : FaultCode) : Trap := { code := code, info0 := e.is.word, info1 := e.memIdx f x }

/-- The byte offset of an access (R196). -/
def Env.accessOff : Nat :=
  if size.toNat = 0 then e.memIdx f x / 2 else e.memIdx f x * sizeBytes size.toNat

theorem access_of_invalid (hv : capValid e.l (f.tag q.toNat) (capOf (f.quad q.toNat)) = false) :
    e.access f q x size op = .error (e.accessTrap f x .capTag) := by
  unfold Env.access
  exact if_pos (by simp [hv])

variable (hv : capValid e.l (f.tag q.toNat) (capOf (f.quad q.toNat)) = true)
include hv

theorem access_of_space {code : FaultCode} (hs : spaceCheck (capOf (f.quad q.toNat)) op e.l.sup = some code) :
    e.access f q x size op = .error (e.accessTrap f x code) := by
  simp only [Env.access, hv, hs, Bool.not_true, Bool.false_eq_true, if_false, Env.accessTrap]

variable (hs : spaceCheck (capOf (f.quad q.toNat)) op e.l.sup = none)
include hs

theorem access_of_bounds (h : (capOf (f.quad q.toNat)).len < e.accessOff f x size + sizeBytes size.toNat ∨
    2 ^ 48 < (capOf (f.quad q.toNat)).base + e.accessOff f x size + sizeBytes size.toNat) :
    e.access f q x size op = .error (e.accessTrap f x .capBounds) := by
  simp only [Env.access, hv, hs, Bool.not_true, Bool.false_eq_true, if_false]
  exact if_pos (by rw [Bool.or_eq_true, decide_eq_true_eq, decide_eq_true_eq]; exact h)

variable (hlen : e.accessOff f x size + sizeBytes size.toNat ≤ (capOf (f.quad q.toNat)).len)
  (htop : (capOf (f.quad q.toNat)).base + e.accessOff f x size + sizeBytes size.toNat ≤ 2 ^ 48)
include hlen htop

/-- The check 4, alignment. -/
theorem access_of_inside : e.access f q x size op =
    if ((capOf (f.quad q.toNat)).base + e.accessOff f x size) % sizeBytes size.toNat ≠ 0 then
      .error (e.accessTrap f x .misaligned)
    else .ok { cap := capOf (f.quad q.toNat), addr := (capOf (f.quad q.toNat)).base + e.accessOff f x size,
               size := sizeBytes size.toNat,
               nib := if size.toNat = 0 then some (e.memIdx f x % 2) else none, idx := e.memIdx f x } := by
  have inside : ¬ (decide ((capOf (f.quad q.toNat)).len < e.accessOff f x size + sizeBytes size.toNat) ||
      decide (2 ^ 48 < (capOf (f.quad q.toNat)).base + e.accessOff f x size + sizeBytes size.toNat)) = true := by
    rw [Bool.or_eq_true, decide_eq_true_eq, decide_eq_true_eq]
    exact not_or.2 ⟨hlen.not_gt, htop.not_gt⟩
  simp only [Env.access, hv, hs, Bool.not_true, Bool.false_eq_true, if_false, sizeAlign_eq_sizeBytes]
  exact if_neg inside

end

/-! ## The table of R198 -/

section
variable {c : Cap} {sup : Bool}

theorem spaceCheck_of_sup (op : MemOp) (hs : c.isSup = true) (hu : sup = false) : spaceCheck c op sup = some .capPerm := by
  simp [spaceCheck, hs, hu]

variable (hsup : c.isSup = false ∨ sup = true)
include hsup

/-- What reaches the table: a supervisor's capability in its hands, or no supervisor's capability. -/
theorem sup_passes : (c.isSup && !sup) = false := by
  rcases hsup with h | h <;> simp [h]

theorem spaceCheck_load : spaceCheck c .load sup =
    if c.canR = true ∧ c.space ≠ 4 ∧ c.space ≠ 7 then none else some .capPerm := by
  simp only [spaceCheck, sup_passes hsup]
  cases c.canR <;> grind

theorem spaceCheck_fadr : spaceCheck c .fadr sup =
    if c.canR = true ∧ c.canW = true ∧ (c.space = 0 ∨ c.space = 1) then none else some .capPerm := by
  simp only [spaceCheck, sup_passes hsup]
  cases c.canR <;> cases c.canW <;> grind

theorem spaceCheck_store_no_write (rule : Nat) (hw : c.canW = false ∨ c.space = 3 ∨ c.space = 4 ∨ c.space = 7) :
    spaceCheck c (.store rule) sup = some .capPerm := by
  simp only [spaceCheck, sup_passes hsup]
  grind

/-- A store to a space that takes stores, by write-only or not (R61). -/
theorem spaceCheck_store (rule : Nat) (hw : c.canW = true) (hsp : c.space ≠ 3 ∧ c.space ≠ 4 ∧ c.space ≠ 7) :
    spaceCheck c (.store rule) sup =
      if c.isWO = true ∧ c.space ≠ 0 ∧ c.space ≠ 5 then some .capPerm
      else if c.isWO = true ∧ rule ≠ 0 ∧ rule ≠ 1 ∧ rule ≠ 6 then some .illegalField
      else if (c.space = 2 ∨ c.space = 6) ∧ rule ≠ 0 ∧ rule ≠ 1 then some .illegalField
      else none := by
  obtain ⟨h3, h4, h7⟩ := hsp
  simp [spaceCheck, sup_passes hsup, hw, h3, h4, h7, and_assoc]

end

theorem spaceCheck_table (c : Cap) (sup : Bool) :
    (∀ op, c.isSup = true → sup = false → spaceCheck c op sup = some .capPerm) ∧
    (c.isSup = false ∨ sup = true →
      (spaceCheck c .load sup = none ↔ c.canR = true ∧ c.space ≠ 4 ∧ c.space ≠ 7) ∧
      (spaceCheck c .load sup ≠ none → spaceCheck c .load sup = some .capPerm) ∧
      (spaceCheck c .fadr sup = none ↔ c.canR = true ∧ c.canW = true ∧ (c.space = 0 ∨ c.space = 1)) ∧
      (spaceCheck c .fadr sup ≠ none → spaceCheck c .fadr sup = some .capPerm) ∧
      (∀ rule, c.canW = false ∨ c.space = 3 ∨ c.space = 4 ∨ c.space = 7 → spaceCheck c (.store rule) sup = some .capPerm) ∧
      (∀ rule, c.canW = true → c.isWO = false → (c.space = 0 ∨ c.space = 1 ∨ c.space = 5) →
        spaceCheck c (.store rule) sup = none) ∧
      (∀ rule, c.canW = true → c.isWO = false → (c.space = 2 ∨ c.space = 6) →
        spaceCheck c (.store rule) sup = if rule = 0 ∨ rule = 1 then none else some .illegalField) ∧
      (∀ rule, c.canW = true → c.isWO = true → (c.space = 1 ∨ c.space = 2 ∨ c.space = 6) →
        spaceCheck c (.store rule) sup = some .capPerm) ∧
      (∀ rule, c.canW = true → c.isWO = true → (c.space = 0 ∨ c.space = 5) →
        spaceCheck c (.store rule) sup = if rule = 0 ∨ rule = 1 ∨ rule = 6 then none else some .illegalField)) := by
  refine ⟨spaceCheck_of_sup, fun hsup => ⟨?_, ?_, ?_, ?_, spaceCheck_store_no_write hsup, ?_, ?_, ?_, ?_⟩⟩
  · simp [spaceCheck_load hsup]
  · simp only [spaceCheck_load hsup]; split_ifs <;> simp
  · rw [spaceCheck_fadr hsup]; split_ifs <;> simp_all
  · simp only [spaceCheck_fadr hsup]; split_ifs <;> simp
  all_goals
    intro rule hw ho hsp
    rw [spaceCheck_store hsup rule hw (by omega), ho]
  · rcases hsp with h | h | h <;> simp [h]
  · rcases hsp with h | h <;> simp [h] <;> grind
  · rcases hsp with h | h | h <;> simp [h]
  · rcases hsp with h | h <;> simp [h] <;> grind

/-! ## Checks 5 and 6 -/

theorem addrTrap_at (code : FaultCode) (addr : Nat) : (addrTrap code addr).at code addr := ⟨rfl, rfl, rfl⟩

theorem walkedTrap_at (code : FaultCode) (addr : Nat) : (walkedTrap code addr).at code addr := ⟨rfl, rfl, rfl⟩

section
variable (e : Env) (f : Fibre)

theorem phys_of_translate {op : Access} {va pa : Nat}
    (h : e.s.translate (some (e.b.coreOf f.group)) e.l.tenant op va = .ok pa) : e.phys f op va = .ok pa := by
  simp [Env.phys, h]

theorem phys_of_fault {op : Access} {va : Nat} {code : FaultCode}
    (h : e.s.translate (some (e.b.coreOf f.group)) e.l.tenant op va = .error code) :
    e.phys f op va = .error (walkedTrap code va) := by
  simp [Env.phys, h]

variable {a : Acc} (hint : Nat)

theorem loadData_scratch_poison (hsp : a.cap.space = 1)
    (hp : e.s.scratchPoison.contains (e.l.id, e.b.index, a.addr / 128) = true) :
    e.loadData f a hint = .error (addrTrap .memUncorrectable a.addr) := by
  simp only [Env.loadData, hsp, hp, if_true]

theorem loadData_private_poison (hsp : a.cap.space = 2) (hp : f.privPoison.contains (a.addr / 128) = true) :
    e.loadData f a hint = .error (addrTrap .memUncorrectable a.addr) := by
  simp only [Env.loadData, hsp, hp, if_true]

/-- How a load reaches memory: constant memory asks for it as such (R198). -/
def Acc.loadAccess (a : Acc) : Access := if a.cap.space = 3 then .constLoad else .load

variable (hsp : a.cap.space = 0 ∨ a.cap.space = 3 ∨ a.cap.space = 5)
include hsp

theorem loadData_fault {tr : Trap} (h : e.phys f a.loadAccess a.addr = .error tr) : e.loadData f a hint = .error tr := by
  rcases hsp with hsp | hsp | hsp <;> simp_all [Env.loadData, Acc.loadAccess]

theorem loadData_memory_poison {pa : Nat} (h : e.phys f a.loadAccess a.addr = .ok pa) (hp : e.s.poisoned pa = true) :
    e.loadData f a hint = .error (walkedTrap .memUncorrectable a.addr) := by
  rcases hsp with hsp | hsp | hsp <;> simp_all [Env.loadData, Acc.loadAccess]

end

/-- Settles O18: `access_of_invalid`, `access_of_space`, `access_of_bounds` and `access_of_inside` are the chain of checks 1 to
4, `spaceCheck_table` is the table of R198, and the other two parts say which address a fault of check 5 or 6 names. -/
theorem accessChecks : Obligations.AccessChecks := by
  unfold Obligations.AccessChecks
  refine ⟨fun e f q x size op => ?_, fun c sup _ => spaceCheck_table c sup, fun e f op va => ?_, fun e f a hint => ?_⟩
  · have hz : size = 0 ↔ size.toNat = 0 := by simp [BitVec.toNat_eq]
    simp only [hz, ← sizeBytes_eq]
    refine ⟨access_of_invalid e f q x size op, fun hv => ⟨fun code => access_of_space e f q x size op hv, fun hs => ?_⟩⟩
    refine ⟨access_of_bounds e f q x size op hv hs, fun hl hb => ?_⟩
    rw [access_of_inside e f q x size op hv hs hl hb]
    exact ⟨fun h => if_pos h, fun h => if_neg (not_not.2 h)⟩
  · exact ⟨fun pa => phys_of_translate e f, fun code h => ⟨_, phys_of_fault e f h, walkedTrap_at code va⟩⟩
  · exact ⟨fun hsp hp => ⟨_, loadData_scratch_poison e f hint hsp hp, addrTrap_at _ _⟩,
      fun hsp hp => ⟨_, loadData_private_poison e f hint hsp hp, addrTrap_at _ _⟩,
      fun hsp => ⟨fun tr h => loadData_fault e f hint hsp h,
        fun pa h hp => ⟨_, loadData_memory_poison e f hint hsp h hp, walkedTrap_at _ _⟩⟩⟩

end Sys2Proof.Machine
end

section
/-!
# Stores

A counterexample to the statement on stores: a register window beyond the tags.
-/

namespace Sys2Proof.Machine

/-! ## A fibre with more registers than there are tags

No bound on a fibre's register file is part of the state: a file of 68 registers has a register window of 272 bytes, and its quad 16
has no tag (R192). -/

/-- A tagged store of 16 bytes. -/
def wideStore : Instr := .st 8 1 0 5 0 0

/-- The bytes 256 to 271 of the register window, for capabilities (R200). -/
def beyondWindow : Cap := { base := 256, len := 16, space := 6, perm := 10, objid := 0, zero := 0 }

/-- 68 registers: quad 1 holds the capability, quad 2 a tagged value. -/
def wideFile (f : Fibre) : Fibre :=
  { f with regs := List.replicate 4 0 ++ (List.range 4).map (fun k => BitVec.ofNat 32 (beyondWindow.num / 2 ^ (32 * k)))
             ++ List.replicate 60 0,
           tags := 0b110 }

/-- The placed store's chain is open on such a fibre. -/
def wideState : State :=
  let s := (State.reset.placeWord (encodeWord false 0 wideStore)).modLaunch 1 fun l =>
    { l with blockList := l.blockList.map fun b => { b with fibres := b.fibres.map wideFile } }
  match s.picked with
  | some r => s.openChain r
  | none => s

/-- Its environment and its fibre. -/
def wideEnv : Env := wideState.env?.getD default
def wideFibre : Fibre := (wideEnv.b.fibre? 0).getD default

/-- The access of the store: the whole of quad 16. -/
def beyondAccess : Acc := { cap := beyondWindow, addr := 256, size := 16, nib := none, idx := 0 }

theorem wideEnv_spec : wideState.env? = some wideEnv := by
  have h : wideState.env?.isSome = true := by decide +kernel
  exact (Option.some_get h).symm.trans (congrArg some (by rw [wideEnv, ← Option.get_eq_getD]))

theorem wide_ready : wideEnv.ready wideStore = true := by decide +kernel

theorem wide_single : wideEnv.single wideFibre wideFibre := by
  unfold Env.single
  decide +kernel

theorem wide_access : wideEnv.access wideFibre 1 0 5 (.store 0) = .ok beyondAccess := by decide +kernel

theorem wide_takes : wideFibre.takes (windowRegs 256 16) = true := by decide +kernel

/-- There is no tag beyond quad 15. -/
theorem tag_of_beyond (f : Fibre) {q : Nat} (h : 16 ≤ q) : f.tag q = false := BitVec.getLsbD_of_ge _ _ h

/-- Refutes O20: a store of a tagged capability through the register window to quad 16 of a fibre with 68 registers leaves no tag
there, for there is none (`tag_of_beyond`); the statement does not say that a fibre has at most 64 registers. -/
theorem not_stores : ¬ Obligations.Stores := by
  unfold Obligations.Stores
  intro h
  have window := (h wideState wideEnv wideFibre wideFibre 8 1 0 5 0 0 beyondAccess wideEnv_spec wide_ready wide_single
    wide_access).2.2.2
  obtain ⟨t, g, -, -, -, -, -, tags, -⟩ := window rfl wide_takes (by decide +kernel)
  have stored : (((5 : BitVec 3) == 5) && wideFibre.tag (8 / 4) && beyondAccess.cap.hasCaps) = true := by decide +kernel
  have quad16 := tags 16
  rw [if_pos ⟨rfl, stored⟩, tag_of_beyond g le_rfl] at quad16
  cases quad16

end Sys2Proof.Machine
end

section
/-!
# `fadr` and stores to block registers

A word on one fibre that touches its core, and what each active fibre contributes.
-/

namespace Sys2Proof.Machine

/-! ## A word on one fibre that touches its core -/

/-- A fibre that can take a word passes the guard's check and the check of the word's registers (R36, R55, R76). -/
theorem allows_settled {e : Env} {i : Instr} {v c : Fibre} (ha : e.allows i v c = true) (hact : e.active v = true) :
    (if e.is.mods.gq = 0 then ([] : List Nat) else [64 + e.is.mods.gq.toNat]).all (v.settled e.is.cycle) = true ∧
      (i.newestReads e.is.mods ++ i.writesNow).all (v.settled e.is.cycle) = true := by
  simp only [Env.allows, hact, Bool.not_true, Bool.false_or, Bool.and_eq_true, Bool.or_eq_true] at ha
  obtain ⟨guard, named, -⟩ := ha
  refine ⟨?_, named⟩
  split_ifs with hq
  · rfl
  · simpa using guard.resolve_left (by simpa using hq)

theorem putEff_free (s : State) (is : Issue) (core tenant : Nat) {x : Eff} (f : Fibre) (hu : x.used = 0) :
    { s.putEff is core tenant x f with free := s.free } = s.putEff is core tenant x f := by
  simp only [State.putEff, hu, Nat.add_zero]

/-- `runFibre_local` for an effect that may touch the core's CACHE banks and range table. -/
theorem runFibre_acts {s : State} {e : Env} {i : Instr} {eff : Env → Fibre → Fibre → Except Trap Eff} {id : Nat}
    {v c : Fibre} {x : Eff} (he : s.env? = some e) (hv : e.b.fibre? id = some v) (hc : e.cur? id = some c)
    (ha : e.allows i v c = true) (hact : e.active v = true) (hx : eff e v c = .ok x) (hu : x.used = 0) :
    State.runFibre i eff id s = s.putEff e.is (e.b.coreOf c.group) e.l.tenant x (e.marked i c x.fibre) := by
  obtain ⟨-, hes, -, -, -, -⟩ := env_eq he
  obtain ⟨guard, named⟩ := allows_settled ha hact
  have reads := (List.all_append ▸ named : _ = true)
  rw [Bool.and_eq_true] at reads
  have hc' : ((s.launch? e.is.launch).bind (·.block? e.is.block)).bind (·.fibre? id) = some c := hes ▸ hc
  have hcheck : (if e.is.mods.gq = 0 then none else regCheck v [64 + e.is.mods.gq.toNat]) = none := by
    split_ifs with hq
    · rfl
    · rw [if_neg hq] at guard
      exact regCheck_settled guard
  have hpass : (v.pred e.is.mods.gq.toNat == e.is.mods.gn) = false := by simpa [Env.active] using hact
  have hself : ({ e with s := ({ s with free := s.free } : State) } : Env) = e := by rw [← hes]
  unfold State.runFibre
  simp only [he, hv]
  simp only [hc', hcheck, earlyView_settled guard, hpass, regCheck_settled named, earlyView_settled reads.1, hself, hx,
    earlyWrites_settled reads.2, Bool.false_eq_true, if_false, hu, Nat.add_zero]
  exact putEff_free s e.is _ _ _ hu

/-- A word of a fragment of one fibre. -/
theorem actEach_single {s : State} {e : Env} {i : Instr} {eff : Env → Fibre → Fibre → Except Trap Eff} {v c : Fibre} {x : Eff}
    (he : s.env? = some e) (hr : e.ready i = true) (h1 : e.single v c) (hx : eff e v c = .ok x) (hu : x.used = 0) :
    s.actEach i eff = s.putEff e.is (e.b.coreOf c.group) e.l.tenant x (e.marked i c x.fibre) := by
  obtain ⟨live, hv, hc, hact⟩ := h1
  have ha : e.allows i v c = true := by
    simp only [Env.ready, Bool.and_eq_true, List.all_eq_true, live, List.mem_singleton, forall_eq, hv, hc] at hr
    exact hr.2
  rw [State.actEach, (env_eq he).1]
  simp only [live, State.eachFibre]
  exact runFibre_acts he hv hc ha hact hx hu

/-! ## What touching a core leaves -/

/-- From `s` to `t` at most the CACHE banks and range tables of cores have changed. -/
def State.touched (s t : State) : Prop :=
  (t.cores.map fun (k : Core) => { k with cache := [], ranges := [] }) =
      (s.cores.map fun (k : Core) => { k with cache := [], ranges := [] }) ∧
    { t with cores := s.cores } = s

theorem State.touched.refl (s : State) : s.touched s := ⟨rfl, rfl⟩

theorem State.touched.trans {s t u : State} (h : s.touched t) (h' : t.touched u) : s.touched u := by
  obtain ⟨hc, hs⟩ := h
  obtain ⟨hc', hs'⟩ := h'
  refine ⟨hc'.trans hc, ?_⟩
  calc { u with cores := s.cores } = { ({ u with cores := t.cores } : State) with cores := s.cores } := rfl
    _ = { t with cores := s.cores } := by rw [hs']
    _ = s := hs

/-- A change of cores that keeps all but their CACHE banks and range tables. -/
theorem touched_map {s : State} {f : Core → Core}
    (hf : ∀ k : Core, { f k with cache := [], ranges := [] } = { k with cache := [], ranges := [] }) :
    s.touched { s with cores := s.cores.map f } :=
  ⟨by simp only [List.map_map]; exact List.map_congr_left fun k _ => hf k, rfl⟩

theorem touched_modCore (s : State) (n : Nat) {f : Core → Core}
    (hf : ∀ k : Core, { f k with cache := [], ranges := [] } = { k with cache := [], ranges := [] }) :
    s.touched (s.modCore n f) :=
  touched_map fun k => by
    split_ifs
    · exact hf k
    · rfl

theorem touched_touchRange (s : State) (core tenant va : Nat) : s.touched (s.touchRange core tenant va) := by
  have fill (e : RangeEntry) :
      s.touched { s with cores := s.cores.map fun k => if k.num = core then k.fillRange e else k } :=
    touched_map fun k => by
      split_ifs <;> rfl
  unfold State.touchRange
  dsimp only
  split
  · exact fill _
  · split
    · exact fill _
    · exact .refl s

theorem touchLine_keeps (k : Core) (t : Touch) :
    { k.touchLine t with cache := [], ranges := [] } = { k with cache := [], ranges := [] } := by
  simp only [Core.touchLine]
  split_ifs <;> rfl

theorem touched_touchOne (s : State) (core tenant : Nat) (t : Touch) : s.touched (s.touchOne core tenant t) := by
  have line (u : State) : u.touched (u.modCore core fun k => k.touchLine t) :=
    touched_modCore u core fun k => touchLine_keeps k t
  unfold State.touchOne
  cases t.va with
  | none => exact line s
  | some va => exact (touched_touchRange s core tenant va).trans (line _)

theorem touched_touchAll (core tenant : Nat) (ts : List Touch) : ∀ s : State, s.touched (s.touchAll core tenant ts) := by
  induction ts with
  | nil => exact State.touched.refl
  | cons t ts ih => exact fun s => (touched_touchOne s core tenant t).trans (ih _)

/-- The effect of an access: its fibre and its contributions (R45), and what it touches in the core. -/
theorem accesses_putEff {s : State} {e : Env} (core tenant : Nat) {x : Eff} (g : Fibre)
    (hg : x.gadds = []) (hp : x.spawns = []) (hl : x.ltols = []) (hs : x.seen = []) :
    e.accesses s (s.putEff e.is core tenant x g) g x.contribs := by
  obtain ⟨cores, rest⟩ := touched_touchAll core tenant x.touch (s.modBlock e.is.launch e.is.block (x.onto g))
  have put : s.putEff e.is core tenant x g =
      { (s.modBlock e.is.launch e.is.block (x.onto g)).touchAll core tenant x.touch with free := s.free + x.used } := by
    simp only [State.putEff, State.noteSeen, hs, List.isEmpty_nil, if_true]
    rfl
  rw [put]
  refine ⟨⟨id, ?_⟩, cores, ?_⟩
  · have onto : x.onto g = fun b => { b.modFibre g.id (fun _ => g) with contribs := b.contribs ++ x.contribs } := by
      funext b
      simp only [Eff.onto, hg, hp, hl, List.append_nil]
      rfl
    rw [← onto]
    have same := congrArg State.launches rest
    simpa using same
  · exact congrArg (fun u : State => { u with launches := s.launches, cores := s.cores, free := s.free }) rest

/-! ## `fadr` -/

/-- Room for registers whose results land later (R30, R31, R55). -/
theorem reserve_ok {f : Fibre} {regs : List Nat} (h : f.takes regs = true) (hlt : ∀ n ∈ regs, n < 64) :
    ∃ g, f.reserve regs = .ok g ∧ f.kept g regs ∧ g = { f with journal := g.journal } := by
  obtain ⟨free, room⟩ := takes_regs h hlt
  obtain ⟨g, hg, same, saved, -, start⟩ := saveRegs_spec regs f room
  refine ⟨g, ?_, ⟨start, saved, ?_⟩, same⟩
  · simp only [Fibre.reserve, pendingAny_none fun n hn => (free n hn).1, hg]
  · rw [same]

/-- The registers of a `fadr`'s destination (R203). -/
def fadrRegs (d : BitVec 6) (size : BitVec 3) : List Nat := if size = 4 then [d.toNat, d.toNat + 1] else [d.toNat]

theorem fadr_writesNow {d : BitVec 6} {cap : BitVec 4} {x : BitVec 6} {size : BitVec 3} {fl : BitVec 1}
    (hwf : (Instr.fadr d cap x size fl).wf = true) :
    (Instr.fadr d cap x size fl).writesNow = fadrRegs d size ∧ ∀ n ∈ fadrRegs d size, n < 64 := by
  simp only [Instr.wf, decide_eq_true_eq] at hwf
  have hd := d.isLt
  rcases hwf with h3 | ⟨h4, -, even⟩
  · have hs : size = 3 := BitVec.eq_of_toNat_eq h3
    subst hs
    exact ⟨rfl, by simpa [fadrRegs] using hd⟩
  · have hs : size = 4 := BitVec.eq_of_toNat_eq h4
    subst hs
    refine ⟨rfl, ?_⟩
    simp only [fadrRegs, if_true, List.mem_cons, List.not_mem_nil, or_false, forall_eq_or_imp, forall_eq]
    omega

/-- A `fadr` marks no result: it lands at its commit (R54). -/
theorem marked_fadr (e : Env) (d : BitVec 6) (cap : BitVec 4) (x : BitVec 6) (size : BitVec 3) (fl : BitVec 1) (c g : Fibre) :
    e.marked (.fadr d cap x size fl) c g = g := by
  simp [Env.marked, Instr.fourCycle, boardCycles, Fibre.markBusy]

/-- A fibre with a `fadr` pending on register d, or on a pair (R54, R55). -/
def Fibre.pendFadr (g : Fibre) (d : BitVec 6) (size : BitVec 3) (round : Bool) (step : Nat) : Fibre :=
  { g with seq := g.seq + 1, fadrs := g.fadrs ++
      [{ reg := d.toNat, wide := size == 4, round := round, seq := g.seq, step := step, got := none }] }

/-- The contribution of a `fadr` (R203). -/
def Env.fadrContrib (e : Env) (v c : Fibre) (a : Acc) (d : BitVec 6) (size : BitVec 3) (fl : BitVec 1) (space : CSpace)
    (pa : Nat) : Contrib :=
  { e.contribution c a space pa (storeValue v d.toNat size.toNat) false 3 (fl == 1) (some (d.toNat, size == 4)) with
    nib := none, wo := false }

/-- What a `fadr` touches in its core (R224, R294). -/
def Acc.storeTouch (a : Acc) (pa : Nat) : Touch :=
  { va := some a.addr, line := pa / 128, own := none, keep := false, hint := 0, cached := false }

section
variable {s : State} {e : Env} {v c : Fibre} {d : BitVec 6} {cap : BitVec 4} {x : BitVec 6} {size : BitVec 3} {fl : BitVec 1}
  {a : Acc}

/-- The effects of a `fadr` whose checks pass and whose destination has room: in scratch, and in memory. -/
theorem execFadr_spec (s : State) (d : BitVec 6) (cap : BitVec 4) (x : BitVec 6) (size : BitVec 3) (fl : BitVec 1) :
    ∃ eff, exec (.fadr d cap x size fl) s = .next (s.actEach (.fadr d cap x size fl) eff) ∧
      ∀ (e : Env) (v c : Fibre) (a : Acc) (g : Fibre), e.access v cap x size .fadr = .ok a →
        c.reserve (fadrRegs d size) = .ok g →
        (a.cap.space = 1 → e.s.scratchPoison.contains (e.l.id, e.b.index, a.addr / 128) = false →
          eff e v c = .ok { fibre := g.pendFadr d size false e.b.step,
                            contribs := [e.fadrContrib v c a d size fl .scratch 0] }) ∧
        (∀ pa, a.cap.space ≠ 1 → e.phys c .store a.addr = .ok pa → e.s.poisoned pa = false →
          eff e v c = .ok { fibre := g.pendFadr d size true e.b.step,
                            contribs := [e.fadrContrib v c a d size fl .global pa], touch := [a.storeTouch pa] }) := by
  refine ⟨_, rfl, fun e v c a g hacc hres => ⟨fun hsp hp => ?_, fun pa hsp hpa hp => ?_⟩⟩
  all_goals
    have regs : (if (size == 4) = true then [d.toNat, d.toNat + 1] else [d.toNat]) = fadrRegs d size := by
      simp [fadrRegs]
  · simp only [hacc, hsp, hp, regs, hres, if_true, Bool.false_eq_true, if_false]
    rfl
  · simp only [hacc, hsp, hpa, hp, regs, hres, Bool.false_eq_true, if_false]
    rfl

variable (hr : e.ready (.fadr d cap x size fl) = true) (h1 : e.single v c)
include hr h1

/-- The fibre has room for a `fadr`'s destination. -/
theorem fadr_reserve : ∃ g, c.reserve (fadrRegs d size) = .ok g ∧ c.kept g (fadrRegs d size) ∧
    g = { c with journal := g.journal } := by
  obtain ⟨live, hv, hc, hact⟩ := h1
  have hwf : (Instr.fadr d cap x size fl).wf = true := by
    simp only [Env.ready, Bool.and_eq_true] at hr
    exact hr.1.1
  obtain ⟨regs, hlt⟩ := fadr_writesNow hwf
  exact reserve_ok (regs ▸ ready_takes hr (by simp [live]) hv hc hact) hlt

/-- A `fadr` whose effect is a pending destination and one contribution. -/
theorem fadr_pends (he : s.env? = some e) {eff : Env → Fibre → Fibre → Except Trap Eff} {round : Bool} {con : Contrib}
    {touch : List Touch}
    (heff : ∀ g, c.reserve (fadrRegs d size) = .ok g →
      eff e v c = .ok { fibre := g.pendFadr d size round e.b.step, contribs := [con], touch := touch }) :
    ∃ g, g.fadrs = c.fadrs ++
        [{ reg := d.toNat, wide := size == 4, round := round, seq := c.seq, step := e.b.step, got := none }] ∧
      g.seq = c.seq + 1 ∧ c.kept { g with fadrs := c.fadrs, seq := c.seq } (fadrRegs d size) ∧
      e.accesses s (s.actEach (.fadr d cap x size fl) eff) g [con] := by
  obtain ⟨g, hres, kept, same⟩ := fadr_reserve hr h1
  have fadrs : g.fadrs = c.fadrs := by rw [same]
  have seq : g.seq = c.seq := by rw [same]
  refine ⟨g.pendFadr d size round e.b.step, by rw [Fibre.pendFadr, fadrs, seq], by rw [Fibre.pendFadr, seq], ?_, ?_⟩
  · rw [← fadrs, ← seq]
    exact kept
  · rw [actEach_single he hr h1 (heff g hres) rfl, marked_fadr]
    exact accesses_putEff _ _ _ rfl rfl rfl rfl

end

/-! ## Words that contribute in each active fibre -/

/-- The fibres that act, one effect each. -/
theorem effsOn_live (e : Env) (F : Fibre → Fibre → Eff) : e.effsOn F e.is.live = e.actives.map fun x => F x.1 x.2 := by
  rw [Env.effsOn, Env.actives, List.map_filterMap]
  refine List.filterMap_congr fun id _ => ?_
  cases e.b.fibre? id <;> cases e.cur? id <;> simp

/-- From what a word does for each fibre to `gives`. -/
theorem gives_of_local {s : State} {e : Env} {i : Instr} {eff : Env → Fibre → Fibre → Except Trap Eff}
    {P : Fibre → Fibre → Fibre → Prop} (F : Fibre → Fibre → Eff) (he : s.env? = some e) (hr : e.ready i = true)
    (hloc : e.local eff F e.is.live) (hl : ∀ v c, (F v c).ltols = [])
    (hP : ∀ v c, P v c (e.marked i c (F v c).fibre)) :
    e.gives s (s.actEach i eff) P (fun v c => (F v c).contribs) (fun v c => (F v c).gadds) (fun v c => (F v c).spawns) := by
  have joined {α : Type} (p : Eff → List α) :
      ((e.effsOn F e.is.live).map p).flatten = e.actives.flatMap fun x => p (F x.1 x.2) := by
    rw [effsOn_live, List.map_map, ← List.flatMap_def]
    rfl
  refine ⟨e.updOn i F e.is.live, ?_, fun f hf => if_neg hf, fun id hid v c hv hc => ?_⟩
  · rw [actEach_local F he hr hloc]
    refine modBlock_congr fun b => ?_
    have noLtols : e.actives.flatMap (fun x => (F x.1 x.2).ltols) = [] := by simp [List.flatMap_eq_nil_iff, hl]
    simp only [Env.after, joined, noLtols, List.append_nil]
  · have upd : e.updOn i F e.is.live c = if e.active v = true then e.marked i c (F v c).fibre else c := by
      simp only [Env.updOn, cur_id hc, hid, if_true, hv, hc]
    rw [upd]
    split
    · exact hP v c
    · rfl

/-- The contribution of an `stb` (R205). -/
def Env.bregContrib (e : Env) (v c : Fibre) (d : BitVec 6) (bi : BitVec 5) (rule : BitVec 3) (fl : BitVec 1) : Contrib :=
  { space := .breg, addr := bi.toNat, size := 4, nib := none, value := (v.reg d.toNat).toNat, tag := false,
    rule := rule.toNat, flt := fl == 1, key := { remote := 0, block := e.b.index, fibre := c.id, seq := c.seq, sub := 0 },
    wo := false, phys := 0, dest := none, opened := 0, issued := e.is.cycle }

/-- An `stb` marks no register. -/
theorem marked_stb (e : Env) (d : BitVec 6) (bi : BitVec 5) (rule : BitVec 3) (fl : BitVec 1) (c g : Fibre) :
    e.marked (.stb d bi rule fl) c g = g := by
  have slow : (Instr.stb d bi rule fl).fourCycle = false := rfl
  have none : boardWrites (.stb d bi rule fl) = [] := rfl
  simp [Env.marked, slow, none, Fibre.markBusy]

/-- The effect of an `stb`. -/
theorem execStb_spec (s : State) (d : BitVec 6) (bi : BitVec 5) (rule : BitVec 3) (fl : BitVec 1) :
    ∃ eff, exec (.stb d bi rule fl) s = .next (s.actEach (.stb d bi rule fl) eff) ∧ ∀ (e : Env) (v c : Fibre),
      eff e v c = .ok { fibre := { c with seq := c.seq + 1 }, contribs := [e.bregContrib v c d bi rule fl] } := by
  refine ⟨_, rfl, fun e v c => ?_⟩
  rfl

theorem stb_gives {s : State} {e : Env} {d : BitVec 6} {bi : BitVec 5} {rule : BitVec 3} {fl : BitVec 1}
    (he : s.env? = some e) (hr : e.ready (.stb d bi rule fl) = true) :
    ∃ t, exec (.stb d bi rule fl) s = .next t ∧ e.gives s t (fun _ c g => g = { c with seq := c.seq + 1 })
      (fun v c => [e.bregContrib v c d bi rule fl]) (fun _ _ => []) (fun _ _ => []) := by
  obtain ⟨eff, hexec, heff⟩ := execStb_spec s d bi rule fl
  let F : Fibre → Fibre → Eff := fun v c =>
    { fibre := { c with seq := c.seq + 1 }, contribs := [e.bregContrib v c d bi rule fl] }
  have hloc : e.local eff F e.is.live := fun ls bl cs ga sp lt id _ v c _ _ _ =>
    ⟨heff (e.moved ls bl cs ga sp lt) v c, rfl, rfl, rfl, rfl⟩
  exact ⟨_, hexec, gives_of_local F he hr hloc (fun _ _ => rfl) fun v c => marked_stb e d bi rule fl c (F v c).fibre⟩

/-- Settles O21: `execFadr_spec` has the effects of a `fadr`, `fadr_pends` what becomes of them, and `stb_gives` is the clause on
`stb`. -/
theorem fadrAndBlockRegisterStores : Obligations.FadrAndBlockRegisterStores := by
  unfold Obligations.FadrAndBlockRegisterStores
  refine ⟨fun s e v c d cap x size fl a he hr h1 hacc => ?_, fun s e d bi rule fl he hr => stb_gives he hr⟩
  obtain ⟨eff, hexec, heff⟩ := execFadr_spec s d cap x size fl
  refine ⟨fun hsp hp => ?_, fun hsp pa hpa hp => ?_⟩
  · obtain ⟨g, hfadrs, hseq, hkept, hacts⟩ := fadr_pends hr h1 he fun g hres => (heff e v c a g hacc hres).1 hsp hp
    exact ⟨_, g, hexec, hfadrs, hseq, hkept, hacts⟩
  · obtain ⟨g, hfadrs, hseq, hkept, hacts⟩ := fadr_pends hr h1 he fun g hres =>
      (heff e v c a g hacc hres).2 pa (by omega) hpa hp
    exact ⟨_, g, hexec, hfadrs, hseq, hkept, hacts⟩

end Sys2Proof.Machine
end

section
/-!
# Float `.max` and `.min`

Keys order the patterns that are no NaN as R51 and R181 do, so that the largest key is the largest value.
-/

namespace Sys2Proof.Machine

/-! ## A pattern's sign and magnitude -/

/-- The sign of a pattern. -/
def Fmt.negBit (f : Fmt) (b : Nat) : Bool := b / f.signBit % 2 == 1

/-- A pattern without its sign. -/
def Fmt.mag (f : Fmt) (b : Nat) : Nat := b % f.signBit

/-- The value of a magnitude as a multiple of the smallest subnormal, an infinity's as if its exponent were one more. -/
def Fmt.units (f : Fmt) (g : Nat) : Nat :=
  if g / 2 ^ f.fbits = 0 then g else (g % 2 ^ f.fbits + 2 ^ f.fbits) * 2 ^ (g / 2 ^ f.fbits - 1)

theorem units_eq (f : Fmt) {ex frac : Nat} (h : frac < 2 ^ f.fbits) :
    f.units (2 ^ f.fbits * ex + frac) = if ex = 0 then frac else (frac + 2 ^ f.fbits) * 2 ^ (ex - 1) := by
  have hq : (2 ^ f.fbits * ex + frac) / 2 ^ f.fbits = ex := by
    rw [Nat.mul_add_div (Nat.two_pow_pos _), Nat.div_eq_of_lt h, Nat.add_zero]
  have hr : (2 ^ f.fbits * ex + frac) % 2 ^ f.fbits = frac := by rw [Nat.mul_add_mod, Nat.mod_eq_of_lt h]
  rw [Fmt.units, hq, hr]
  split_ifs with h0
  · rw [h0, Nat.mul_zero, Nat.zero_add]
  · rfl

theorem units_lt_succ (f : Fmt) (g : Nat) : f.units g < f.units (g + 1) := by
  have hP : 0 < 2 ^ f.fbits := Nat.two_pow_pos _
  have hfrac := Nat.mod_lt g hP
  rw [← Nat.div_add_mod g (2 ^ f.fbits)]
  generalize g / 2 ^ f.fbits = ex
  generalize g % 2 ^ f.fbits = frac at *
  rcases Nat.lt_or_ge (frac + 1) (2 ^ f.fbits) with inside | carry
  · rw [units_eq f hfrac, Nat.add_assoc, units_eq f inside]
    split_ifs
    · omega
    · exact Nat.mul_lt_mul_of_pos_right (by omega) (Nat.two_pow_pos _)
  · have next : 2 ^ f.fbits * ex + frac + 1 = 2 ^ f.fbits * (ex + 1) + 0 := by rw [Nat.mul_add]; omega
    rw [units_eq f hfrac, next, units_eq f hP, if_neg (Nat.succ_ne_zero ex), Nat.zero_add, Nat.add_sub_cancel]
    cases ex with
    | zero => simpa using hfrac
    | succ x =>
      rw [if_neg (Nat.succ_ne_zero x), Nat.add_sub_cancel, Nat.pow_succ, Nat.mul_comm (2 ^ x) 2, ← Nat.mul_assoc]
      exact Nat.mul_lt_mul_of_pos_right (by omega) (Nat.two_pow_pos _)

/-- Larger magnitudes stand for larger values. -/
theorem units_strictMono (f : Fmt) : StrictMono f.units := strictMono_nat_of_lt_succ (units_lt_succ f)

theorem mag_frac (f : Fmt) (b : Nat) : b % 2 ^ f.fbits = f.mag b % 2 ^ f.fbits := by
  rw [Fmt.mag, Fmt.signBit, Nat.add_comm, Nat.pow_add, Nat.mod_mul_right_mod]

theorem mag_exponent (f : Fmt) (b : Nat) : b / 2 ^ f.fbits % 2 ^ f.ebits = f.mag b / 2 ^ f.fbits := by
  rw [Fmt.mag, Fmt.signBit, Nat.add_comm, Nat.pow_add, Nat.mod_mul_right_div_self]

/-- Reading by sign and magnitude. -/
theorem read_eq (f : Fmt) (b : Nat) : f.read b =
    if f.mag b / 2 ^ f.fbits = 2 ^ f.ebits - 1 then
      (if f.mag b % 2 ^ f.fbits = 0 then .inf (f.negBit b) else .nan)
    else if f.mag b / 2 ^ f.fbits = 0 then
      (if f.mag b % 2 ^ f.fbits = 0 then .zero (f.negBit b)
       else .fin (if f.negBit b then -((f.mag b % 2 ^ f.fbits : Nat) : Int) else (f.mag b % 2 ^ f.fbits : Nat)) f.qmin)
    else .fin (if f.negBit b then -(((f.mag b % 2 ^ f.fbits : Nat) : Int) + (2 ^ f.fbits : Nat))
        else ((f.mag b % 2 ^ f.fbits : Nat) : Int) + (2 ^ f.fbits : Nat))
      (f.qmin + (f.mag b / 2 ^ f.fbits : Nat) - 1) := by
  rw [← mag_frac, ← mag_exponent]
  push_cast
  rfl

/-- What a pattern that is no NaN reads as (R155). -/
theorem read_cases {f : Fmt} {b : Nat} (h : f.isNan b = false) :
    (f.read b = .inf (f.negBit b) ∧ f.mag b = f.infBits) ∨
    (f.read b = .zero (f.negBit b) ∧ f.mag b = 0) ∨
    ∃ (k x : Nat), f.read b = .fin (if f.negBit b then -(k : Int) else k) (f.qmin + x) ∧ k * 2 ^ x = f.units (f.mag b) ∧
      0 < k ∧ f.mag b < f.infBits := by
  have hP : 0 < 2 ^ f.fbits := Nat.two_pow_pos _
  have hlt : f.mag b / 2 ^ f.fbits < 2 ^ f.ebits := mag_exponent f b ▸ Nat.mod_lt _ (Nat.two_pow_pos _)
  have hmod : f.mag b % 2 ^ f.fbits < 2 ^ f.fbits := Nat.mod_lt _ hP
  have hread := read_eq f b
  unfold Fmt.isNan at h
  rw [← Nat.div_add_mod (f.mag b) (2 ^ f.fbits), units_eq f hmod, Fmt.infBits]
  generalize f.mag b % 2 ^ f.fbits = frac at *
  generalize f.mag b / 2 ^ f.fbits = ex at *
  by_cases top : ex = 2 ^ f.ebits - 1
  · rw [if_pos top] at hread
    by_cases h0 : frac = 0
    · rw [if_pos h0] at hread
      exact Or.inl ⟨hread, by rw [top, h0, Nat.add_zero, Nat.mul_comm]⟩
    · rw [if_neg h0] at hread
      rw [hread] at h
      cases h
  · have below : 2 ^ f.fbits * ex + frac < (2 ^ f.ebits - 1) * 2 ^ f.fbits := by
      calc 2 ^ f.fbits * ex + frac < 2 ^ f.fbits * (ex + 1) := by rw [Nat.mul_add]; omega
        _ ≤ (2 ^ f.ebits - 1) * 2 ^ f.fbits := by rw [Nat.mul_comm]; exact Nat.mul_le_mul_right _ (by omega)
    rw [if_neg top] at hread
    by_cases hsub : ex = 0
    · rw [if_pos hsub] at hread
      by_cases h0 : frac = 0
      · rw [if_pos h0] at hread
        exact Or.inr (Or.inl ⟨hread, by rw [hsub, h0, Nat.mul_zero]⟩)
      · rw [if_neg h0] at hread
        exact Or.inr (Or.inr ⟨frac, 0, by simpa using hread, by rw [if_pos hsub, Nat.pow_zero, Nat.mul_one], by omega, below⟩)
    · rw [if_neg hsub] at hread
      refine Or.inr (Or.inr ⟨frac + 2 ^ f.fbits, ex - 1, ?_, by rw [if_neg hsub], by omega, below⟩)
      rw [hread, Nat.cast_sub (by omega), add_sub_assoc]
      push_cast
      rfl

/-! ## The order of values and of keys -/

/-- The value of a pattern that is no NaN as a multiple of the smallest subnormal. -/
def Fmt.val (f : Fmt) (b : Nat) : Int := if f.negBit b then -(f.units (f.mag b) : Int) else f.units (f.mag b)

theorem units_zero (f : Fmt) : f.units 0 = 0 := by simp [Fmt.units]

/-- A difference of dyadics by a common last bit. -/
theorem dyAdd_neg_iff (m n q : Int) (x y : Nat) :
    (dyAdd m (q + x) (-n) (q + y)).1 < 0 ↔ m * 2 ^ x < n * 2 ^ y := by
  unfold dyAdd
  split_ifs with h
  · obtain ⟨z, rfl⟩ : ∃ z, y = x + z := ⟨y - x, by omega⟩
    have hz : (q + (x + z : Nat) - (q + x)).toNat = z := by omega
    rw [hz, pow_add, mul_comm (2 ^ x : Int) (2 ^ z), ← mul_assoc, mul_lt_mul_iff_left₀ (by positivity)]
    constructor <;> intro h <;> linarith
  · obtain ⟨z, rfl⟩ : ∃ z, x = y + z := ⟨x - y, by omega⟩
    have hz : (q + (y + z : Nat) - (q + y)).toNat = z := by omega
    rw [hz, pow_add, mul_comm (2 ^ y : Int) (2 ^ z), ← mul_assoc, mul_lt_mul_iff_left₀ (by positivity)]
    constructor <;> intro h <;> linarith

/-- The value of an infinity's pattern, without its sign. -/
def Fmt.top (f : Fmt) : Int := f.units f.infBits

/-- A pattern that is no NaN, with its value. -/
theorem val_cases {f : Fmt} {b : Nat} (h : f.isNan b = false) :
    (f.read b = .inf (f.negBit b) ∧ f.val b = if f.negBit b then -f.top else f.top) ∨
    (f.read b = .zero (f.negBit b) ∧ f.val b = 0) ∨
    ∃ (m : Int) (x : Nat), f.read b = .fin m (f.qmin + x) ∧ f.val b = m * 2 ^ x ∧ -f.top < f.val b ∧ f.val b < f.top := by
  rcases read_cases h with ⟨read, mag⟩ | ⟨read, mag⟩ | ⟨k, x, read, units, -, mag⟩
  · exact Or.inl ⟨read, by rw [Fmt.val, mag, Fmt.top]⟩
  · exact Or.inr (Or.inl ⟨read, by rw [Fmt.val, mag, units_zero]; simp⟩)
  · have lt := units_strictMono f mag
    refine Or.inr (Or.inr ⟨_, x, read, ?_, ?_⟩)
    · rw [Fmt.val, ← units]
      split_ifs <;> push_cast <;> ring
    · unfold Fmt.val Fmt.top
      split_ifs <;> omega

section
variable {f : Fmt} {a b : Nat} (hf : 0 < f.infBits) (ha : f.isNan a = false) (hb : f.isNan b = false)
include hf ha hb

/-- What R181 orders below has the smaller value. -/
theorem val_lt_of_lt (h : (f.read a).lt (f.read b) = true) : f.val a < f.val b := by
  have top : 0 < f.top := by
    have := units_zero f ▸ units_strictMono f hf
    unfold Fmt.top
    omega
  rcases val_cases ha with ⟨ra, va⟩ | ⟨ra, va⟩ | ⟨m, x, ra, va, loa, hia⟩ <;>
    rcases val_cases hb with ⟨rb, vb⟩ | ⟨rb, vb⟩ | ⟨n, y, rb, vb, lob, hib⟩ <;> rw [ra, rb] at h
  · obtain ⟨sa, sb⟩ : f.negBit a = true ∧ f.negBit b = false := by simpa [FVal.lt] using h
    rw [va, vb, if_pos sa, if_neg (by simp [sb])]
    omega
  · have sa : f.negBit a = true := h
    rw [va, vb, if_pos sa]
    omega
  · have sa : f.negBit a = true := h
    rw [va, if_pos sa]
    exact lob
  · have sb : f.negBit b = false := by simpa [FVal.lt] using h
    rw [va, vb, if_neg (by simp [sb])]
    exact top
  · cases h
  · have pos : 0 < n := by simpa [FVal.lt] using h
    rw [va, vb]
    positivity
  · have sb : f.negBit b = false := by simpa [FVal.lt] using h
    rw [vb, if_neg (by simp [sb])]
    exact hia
  · have neg : m < 0 := by simpa [FVal.lt] using h
    rw [va, vb]
    exact mul_neg_of_neg_of_pos neg (by positivity)
  · rw [va, vb]
    exact (dyAdd_neg_iff m n f.qmin x y).1 (by simpa [FVal.lt] using h)

end

theorem two_pow_width (f : Fmt) : 2 ^ f.width = 2 * f.signBit := by
  rw [Fmt.width, Nat.add_assoc, Nat.pow_add, pow_one, Fmt.signBit]

/-- The key of a pattern (R166, R167): the negative ones below, by falling magnitude. -/
theorem key_eq {f : Fmt} {b : Nat} (h : b < 2 ^ f.width) :
    f.key b = if f.negBit b then f.signBit - 1 - f.mag b else f.signBit + f.mag b := by
  have hS : 0 < f.signBit := Nat.two_pow_pos _
  have hdiv := Nat.div_add_mod b f.signBit
  rw [two_pow_width] at h
  have hq : b / f.signBit < 2 := Nat.div_lt_of_lt_mul (by rwa [Nat.mul_comm])
  unfold Fmt.key Fmt.negBit Fmt.mag
  rw [two_pow_width]
  rcases Nat.le_one_iff_eq_zero_or_eq_one.1 (Nat.lt_succ_iff.1 hq) with h0 | h1
  · rw [h0, Nat.mul_zero] at hdiv
    simp only [h0, Nat.zero_mod, if_true, Nat.reduceBEq, Bool.false_eq_true, if_false]
    omega
  · rw [h1, Nat.mul_one] at hdiv
    simp only [h1, Nat.one_mod, Nat.one_ne_zero, if_false, beq_self_eq_true, if_true]
    omega

theorem mag_lt (f : Fmt) (b : Nat) : f.mag b < f.signBit := Nat.mod_lt _ (Nat.two_pow_pos _)

section
variable {f : Fmt} {a b : Nat} (hf : 0 < f.infBits) (ha : f.isNan a = false) (hb : f.isNan b = false)
  (wa : a < 2 ^ f.width) (wb : b < 2 ^ f.width)

include wa wb in
/-- Keys rise with values. -/
theorem key_lt_of_val (h : f.val a < f.val b) : f.key a < f.key b := by
  have la := mag_lt f a
  have lb := mag_lt f b
  rw [key_eq wa, key_eq wb]
  unfold Fmt.val at h
  split_ifs at h ⊢
  · have := (units_strictMono f).lt_iff_lt.1 (show f.units (f.mag b) < f.units (f.mag a) by omega)
    omega
  · omega
  · omega
  · have := (units_strictMono f).lt_iff_lt.1 (show f.units (f.mag a) < f.units (f.mag b) by omega)
    omega

/-- The sign of a zero. -/
theorem zero_sign {s : Bool} (ha : f.isNan a = false) (h : f.read a = .zero s) : f.negBit a = s := by
  rcases val_cases ha with ⟨read, -⟩ | ⟨read, -⟩ | ⟨m, x, read, -⟩ <;> rw [read] at h <;> cases h
  rfl

include hf ha hb wa wb in
/-- Keys order patterns as R181 does, −0 below +0. -/
theorem key_lt_of_below (h : (f.read a).below (f.read b)) : f.key a < f.key b := by
  rcases h with lt | ⟨neg, pos⟩
  · exact key_lt_of_val wa wb (val_lt_of_lt hf ha hb lt)
  · have la := mag_lt f a
    rw [key_eq wa, key_eq wb, zero_sign ha neg, zero_sign hb pos, if_pos rfl, if_neg Bool.false_ne_true]
    omega

end

/-! ## `.max` and `.min` over a list -/

/-- An operation that keeps one of its operands keeps one of a list's, and the first in an order that it keeps. -/
theorem foldl_extreme {op : Nat → Nat → Nat} {good : Nat → Prop} {r : Nat → Nat → Prop} (refl : ∀ a, r a a)
    (trans : ∀ a b c, r a b → r b c → r a c)
    (keeps : ∀ a b, good a → good b → (op a b = a ∨ op a b = b) ∧ r (op a b) a ∧ r (op a b) b) :
    ∀ (vs : List Nat) (a : Nat), (∀ v ∈ a :: vs, good v) →
      vs.foldl op a ∈ a :: vs ∧ ∀ v ∈ a :: vs, r (vs.foldl op a) v
  | [], a, _ => ⟨by simp, by simpa using refl a⟩
  | b :: vs, a, h => by
    obtain ⟨ga, gb, gvs⟩ : good a ∧ good b ∧ ∀ v ∈ vs, good v := by simpa using h
    obtain ⟨one, ra, rb⟩ := keeps a b ga gb
    have gop : good (op a b) := by rcases one with e | e <;> rwa [e]
    obtain ⟨mem, first⟩ := foldl_extreme refl trans keeps vs (op a b) (by simpa using ⟨gop, gvs⟩)
    have rop := first (op a b) (by simp)
    refine ⟨?_, ?_⟩
    · rcases List.mem_cons.1 mem with e | e
      · rw [List.foldl_cons, e]
        rcases one with e | e <;> simp [e]
      · exact List.mem_cons_of_mem _ (List.mem_cons_of_mem _ e)
    · simp only [List.mem_cons, forall_eq_or_imp, List.foldl_cons]
      exact ⟨trans _ _ _ rop ra, trans _ _ _ rop rb, fun v hv => first v (List.mem_cons_of_mem _ hv)⟩

/-- An operation that makes a NaN of a NaN (R51). -/
theorem foldl_nan {f : Fmt} {op : Nat → Nat → Nat} (hnan : f.isNan f.nan = true)
    (hop : ∀ a b, (f.isNan a || f.isNan b) = true → op a b = f.nan) :
    ∀ (vs : List Nat) (a : Nat), a = f.nan ∨ (∃ v ∈ vs, f.isNan v = true) → vs.foldl op a = f.nan
  | [], a, h => by simpa using h
  | b :: vs, a, h => by
    refine foldl_nan hnan hop vs _ ?_
    rcases h with rfl | ⟨v, hv, nan⟩
    · exact Or.inl (hop _ _ (by simp [hnan]))
    · rcases List.mem_cons.1 hv with rfl | hv
      · exact Or.inl (hop _ _ (by simp [nan]))
      · exact Or.inr ⟨v, hv, nan⟩

section
variable {f : Fmt} {a b : Nat}

theorem fmax_nan (h : (f.isNan a || f.isNan b) = true) : f.fmax a b = f.nan := if_pos h
theorem fmin_nan (h : (f.isNan a || f.isNan b) = true) : f.fmin a b = f.nan := if_pos h

variable (ha : f.isNan a = false) (hb : f.isNan b = false)
include ha hb

theorem fmax_keeps : (f.fmax a b = a ∨ f.fmax a b = b) ∧ f.key a ≤ f.key (f.fmax a b) ∧ f.key b ≤ f.key (f.fmax a b) := by
  rw [Fmt.fmax, if_neg (by simp [ha, hb])]
  split_ifs with h
  · exact ⟨Or.inr rfl, h, le_rfl⟩
  · exact ⟨Or.inl rfl, le_rfl, by omega⟩

theorem fmin_keeps : (f.fmin a b = a ∨ f.fmin a b = b) ∧ f.key (f.fmin a b) ≤ f.key a ∧ f.key (f.fmin a b) ≤ f.key b := by
  rw [Fmt.fmin, if_neg (by simp [ha, hb])]
  split_ifs with h
  · exact ⟨Or.inl rfl, le_rfl, h⟩
  · exact ⟨Or.inr rfl, by omega, le_rfl⟩

end

/-- The operation of float `.max` (rule 4) and `.min` (rule 5). -/
def Fmt.extreme (f : Fmt) (rule : Nat) : Nat → Nat → Nat := if rule = 4 then f.fmax else f.fmin

theorem arithValue_extreme {rule size start v : Nat} {vs : List Nat} (h : 3 < rule) :
    arithValue rule size true start (v :: vs) = vs.foldl ((sizeFmt size).extreme rule)
      (if (sizeFmt size).isNan v then (sizeFmt size).nan else v) := by
  simp only [arithValue, if_neg h.not_ge, if_true, Fmt.extreme]

theorem extreme_of_nan {rule size start : Nat} {vals : List Nat} (h : 3 < rule)
    (hnan : (sizeFmt size).isNan (sizeFmt size).nan = true) (hex : ∃ v ∈ vals, (sizeFmt size).isNan v = true) :
    arithValue rule size true start vals = (sizeFmt size).nan := by
  obtain ⟨v, vs, rfl⟩ : ∃ v vs, vals = v :: vs := by
    cases vals with
    | nil => simp at hex
    | cons v vs => exact ⟨v, vs, rfl⟩
  rw [arithValue_extreme h]
  refine foldl_nan hnan (fun a b hab => ?_) vs _ ?_
  · unfold Fmt.extreme
    split_ifs
    · exact fmax_nan hab
    · exact fmin_nan hab
  · obtain ⟨w, hw, nan⟩ := hex
    rcases List.mem_cons.1 hw with rfl | hw
    · exact Or.inl (if_pos nan)
    · exact Or.inr ⟨w, hw, nan⟩

section
variable {size start : Nat} {vals : List Nat} (hne : vals ≠ []) (hok : ∀ v ∈ vals, (sizeFmt size).isNan v = false)
include hne hok

theorem max_extreme : arithValue 4 size true start vals ∈ vals ∧
    ∀ v ∈ vals, (sizeFmt size).key v ≤ (sizeFmt size).key (arithValue 4 size true start vals) := by
  obtain ⟨v, vs, rfl⟩ := List.exists_cons_of_ne_nil hne
  rw [arithValue_extreme (by omega), if_neg (by simp [hok v])]
  exact foldl_extreme (good := fun v => (sizeFmt size).isNan v = false)
    (r := fun a b => (sizeFmt size).key b ≤ (sizeFmt size).key a) (fun _ => le_rfl) (fun _ _ _ hab hbc => hbc.trans hab)
    (fun a b ha hb => fmax_keeps ha hb) vs v hok

theorem min_extreme : arithValue 5 size true start vals ∈ vals ∧
    ∀ v ∈ vals, (sizeFmt size).key (arithValue 5 size true start vals) ≤ (sizeFmt size).key v := by
  obtain ⟨v, vs, rfl⟩ := List.exists_cons_of_ne_nil hne
  rw [arithValue_extreme (by omega), if_neg (by simp [hok v])]
  exact foldl_extreme (good := fun v => (sizeFmt size).isNan v = false)
    (r := fun a b => (sizeFmt size).key a ≤ (sizeFmt size).key b) (fun _ => le_rfl) (fun _ _ _ => le_trans)
    (fun a b ha hb => fmin_keeps ha hb) vs v hok

end

/-- The formats of the element sizes. -/
theorem sizeFmt_spec {size : Nat} (h : size ∈ [2, 4, 8]) :
    sizeFmt size = (if size = 2 then f16 else if size = 4 then f32 else f64) ∧ (sizeFmt size).width = 8 * size ∧
      0 < (sizeFmt size).infBits ∧ (sizeFmt size).isNan (sizeFmt size).nan = true := by
  simp only [List.mem_cons, List.not_mem_nil, or_false] at h
  rcases h with rfl | rfl | rfl <;> decide

/-- Settles O42: by `max_extreme` and `min_extreme` the result has the largest or smallest key, and by `key_lt_of_below` keys
order patterns as R51 does. -/
theorem floatExtremes : Obligations.FloatExtremes := by
  unfold Obligations.FloatExtremes
  intro size start vals hsize hne hwidth
  obtain ⟨fmt, width, inf, nan⟩ := sizeFmt_spec hsize
  dsimp only
  rw [← fmt]
  refine ⟨fun h => ⟨extreme_of_nan (by omega) nan h, extreme_of_nan (by omega) nan h⟩, fun ok => ?_⟩
  obtain ⟨maxMem, maxKey⟩ := max_extreme (start := start) hne ok
  obtain ⟨minMem, minKey⟩ := min_extreme (start := start) hne ok
  have hlt : ∀ v ∈ vals, v < 2 ^ (sizeFmt size).width := fun v hv => width ▸ hwidth v hv
  refine ⟨⟨maxMem, fun v hv h => ?_⟩, minMem, fun v hv h => ?_⟩
  · exact (maxKey v hv).not_gt (key_lt_of_below inf (ok _ maxMem) (ok v hv) (hlt _ maxMem) (hlt v hv) h)
  · exact (minKey v hv).not_gt (key_lt_of_below inf (ok v hv) (ok _ minMem) (hlt v hv) (hlt _ minMem) h)

end Sys2Proof.Machine
end

section
/-!
# How contributions combine

Collisions at a byte, the winner of a nibble, and what a nibble holds after the commit (R45 to R54).
-/

namespace Sys2Proof.Machine

/-! ## Collisions -/

theorem clashes_suffix {a : Nat} {p : Nat × Contrib × Contrib} {l : List Contrib} (h : p ∈ clashes a l) :
    ∀ before, p ∈ clashes a (before ++ l)
  | [] => h
  | _ :: before => List.mem_append_right _ (clashes_suffix h before)

/-- A pair that collides at a byte, the lower-keyed first. -/
theorem mem_clashes {a : Nat} {c x : Contrib} {k : Nat} {before after : List Contrib} (hmeet : c.meets a x = true)
    (hcause : c.cause x = some k) (hx : x ∈ after) : (k, c, x) ∈ clashes a (before ++ c :: after) :=
  clashes_suffix (List.mem_append_left _ (List.mem_filterMap.2 ⟨x, hx, by simp [hmeet, hcause]⟩)) before

theorem clashAt_none {cs : List Contrib} {a : Nat} (h : clashAt cs a = none) :
    clashes a (cs.filter fun c => c.touches (2 * a) || c.touches (2 * a + 1)) = [] := by
  unfold clashAt at h
  dsimp only at h
  split at h
  · assumption
  · cases h

/-- A nibble touches its byte. -/
theorem touches_byte {c : Contrib} {a h : Nat} (hh : h < 2) (ht : c.touches (2 * a + h) = true) :
    (c.touches (2 * a) || c.touches (2 * a + 1)) = true := by
  rcases (show h = 0 ∨ h = 1 by omega) with rfl | rfl <;> simp_all

/-- Two contributions that touch a nibble meet in its byte. -/
theorem meets_of_touches {c x : Contrib} {a h : Nat} (hh : h < 2) (hc : c.touches (2 * a + h) = true)
    (hx : x.touches (2 * a + h) = true) : c.meets a x = true := by
  unfold Contrib.meets
  rcases (show h = 0 ∨ h = 1 by omega) with rfl | rfl <;> simp_all

/-- The first contribution to a nibble of a byte without a collision agrees with every other one to it (R52). -/
theorem first_agrees {cs : List Contrib} {a h : Nat} (hh : h < 2) (hnone : clashAt cs a = none) {c x : Contrib}
    (hfind : cs.find? (·.touches (2 * a + h)) = some c) (hx : x ∈ cs) (hxt : x.touches (2 * a + h) = true) :
    x = c ∨ c.cause x = none := by
  obtain ⟨hct, before, after, rfl, hbefore⟩ := List.find?_eq_some_iff_append.1 hfind
  rcases List.mem_append.1 hx with hx | hx
  · exact absurd hxt (by simpa using hbefore x hx)
  rcases List.mem_cons.1 hx with rfl | hx
  · exact Or.inl rfl
  refine Or.inr (Option.eq_none_iff_forall_ne_some.2 fun k hk => ?_)
  have none := clashAt_none hnone
  rw [List.filter_append, List.filter_cons_of_pos (p := fun c : Contrib => c.touches (2 * a) || c.touches (2 * a + 1))
    (touches_byte hh hct)] at none
  have pair := mem_clashes (before := before.filter fun c => c.touches (2 * a) || c.touches (2 * a + 1))
    (meets_of_touches hh hct hxt) hk (List.mem_filter (p := fun c : Contrib => c.touches (2 * a) || c.touches (2 * a + 1)) |>.2 ⟨hx, touches_byte hh hxt⟩)
  rw [none] at pair
  cases pair

/-- Contributions that agree have one rule, and arithmetic ones the extent and F (R49, R52). -/
theorem cause_none {c x : Contrib} (h : c.cause x = none) :
    x.rule = c.rule ∧ (c.arith = true → x.flt = c.flt ∧ x.base = c.base ∧ x.size = c.size) := by
  unfold Contrib.cause at h
  split_ifs at h with h1 h2 h3
  all_goals simp_all

theorem arith_of_rule {c x : Contrib} (h : x.rule = c.rule) : x.arith = c.arith := by
  rw [Contrib.arith, h, Contrib.arith]

/-! ## The winner of a nibble -/

theorem mem_owners {o : Nat × Nat × Nat} : ∀ {cs : List Contrib}, o ∈ owners cs ↔ ∃ c ∈ cs, c.key.owner = o
  | [] => by simp [owners]
  | c :: cs => by
    have tail := mem_owners (o := o) (cs := cs)
    by_cases h : c.key.owner = o
    · simp [owners, h]
    · have other : (o != c.key.owner) = true := by simpa using fun e => h e.symm
      simp [owners, List.mem_filter, tail, other, h, Ne.symm h]

theorem lt_irrefl (k : CKey) : k.lt k = false := by simp [CKey.lt, CKey.parts, lexLt]

/-- The last contribution of one of the owners: no other of that owner has a higher key. -/
theorem lastOf_spec {o : Nat × Nat × Nat} {cs : List Contrib} (hsort : cs.Pairwise fun x y => y.key.lt x.key = false)
    (ho : ∃ c ∈ cs, c.key.owner = o) :
    ∃ w ∈ cs, lastOf o cs = some w ∧ w.key.owner = o ∧ ∀ x ∈ cs, x.key.owner = o → w.key.lt x.key = false := by
  have hne : (cs.filter fun c => c.key.owner == o) ≠ [] := by
    obtain ⟨c, hc, hco⟩ := ho
    exact List.ne_nil_of_mem (List.mem_filter.2 ⟨hc, by simpa using hco⟩)
  have split := List.dropLast_append_getLast hne
  set w := (cs.filter fun c => c.key.owner == o).getLast hne with hw
  have hmem : w ∈ cs.filter fun c => c.key.owner == o := List.getLast_mem hne
  obtain ⟨hwcs, hwo⟩ := List.mem_filter.1 hmem
  refine ⟨w, hwcs, List.getLast?_eq_some_getLast hne, by simpa using hwo, fun x hx hxo => ?_⟩
  have hxmem : x ∈ cs.filter fun c => c.key.owner == o := List.mem_filter.2 ⟨hx, by simpa using hxo⟩
  have sorted := hsort.filter fun c => c.key.owner == o
  rw [← split] at hxmem sorted
  rcases List.mem_append.1 hxmem with hxb | hxl
  · exact (List.pairwise_append.1 sorted).2.2 x hxb w (by simp)
  · rw [List.mem_singleton.1 hxl]
    exact lt_irrefl _

/-- Keys of one owner lie together (R20, R45). -/
theorem lt_of_owner {w c x : CKey} (hw : w.owner = c.owner) (hx : x.owner ≠ c.owner) (h : x.lt c = false) : w.lt x = true := by
  simp only [CKey.owner, Prod.mk.injEq, ne_eq] at hw hx
  simp only [CKey.lt, CKey.parts, lexLt, Bool.or_eq_false_iff, Bool.and_eq_false_iff, decide_eq_false_iff_not, beq_eq_false_iff_ne,
    Bool.or_eq_true, Bool.and_eq_true, decide_eq_true_eq, beq_iff_eq] at h ⊢
  omega

/-- The contributions to a nibble begin with the first of them. -/
theorem filter_touches {cs : List Contrib} {u : Nat} {c : Contrib} (hfind : cs.find? (·.touches u) = some c) :
    ∃ rest, cs.filter (·.touches u) = c :: rest := by
  obtain ⟨hct, before, after, rfl, hbefore⟩ := List.find?_eq_some_iff_append.1 hfind
  refine ⟨after.filter (·.touches u), ?_⟩
  have none : before.filter (·.touches u) = [] := List.filter_eq_nil_iff.2 fun x hx => by simpa using hbefore x hx
  rw [List.filter_append, none, List.nil_append, List.filter_cons_of_pos hct]

/-- The owner that wins a nibble (R46, R48): the lowest-keyed one, but under `.any` without DET. -/
theorem winner_owner {det : Bool} {k u : Nat} {cs : List Contrib} {c : Contrib} {rest : List Contrib}
    (here : cs.filter (·.touches u) = c :: rest) :
    ∃ o ∈ owners (c :: rest), winner det k cs u = lastOf o (c :: rest) ∧ (c.rule ≠ 1 ∨ det = true → o = c.key.owner) := by
  unfold winner
  simp only [here]
  split_ifs with hany
  · have lt : Config.freeChoice (k + anyIndex cs (c :: rest) u) % (owners (c :: rest)).length < (owners (c :: rest)).length :=
      Nat.mod_lt _ (by simp [owners])
    rw [List.getElem?_eq_getElem lt]
    refine ⟨_, List.getElem_mem lt, rfl, fun h => ?_⟩
    obtain ⟨any, free⟩ : c.rule = 1 ∧ det = false := by simpa using hany
    rcases h with h | h
    · exact absurd any h
    · rw [free] at h
      cases h
  · exact ⟨c.key.owner, by simp [owners], rfl, fun _ => rfl⟩

/-- What wins a nibble that some contribution touches, `c` the lowest-keyed (R46, R48). -/
theorem winner_spec {det : Bool} {k u : Nat} {cs : List Contrib} {c : Contrib}
    (hsort : cs.Pairwise fun x y => y.key.lt x.key = false) (hfind : cs.find? (·.touches u) = some c) :
    ∃ w ∈ cs, winner det k cs u = some w ∧ w.touches u = true ∧
      (∀ x ∈ cs, x.touches u = true → x.key.owner = w.key.owner → w.key.lt x.key = false) ∧
      (c.rule ≠ 1 ∨ det = true → ∀ x ∈ cs, x.touches u = true → x.key.owner ≠ w.key.owner → w.key.lt x.key = true) := by
  obtain ⟨rest, here⟩ := filter_touches hfind
  have sorted := hsort.filter (·.touches u)
  rw [here] at sorted
  have mem {x : Contrib} : x ∈ c :: rest ↔ x ∈ cs ∧ x.touches u = true := by rw [← here]; exact List.mem_filter
  obtain ⟨o, ho, win, lowest⟩ := winner_owner (det := det) (k := k) here
  obtain ⟨w, hw, last, hwo, high⟩ := lastOf_spec sorted (mem_owners.1 ho)
  obtain ⟨hwcs, hwt⟩ := mem.1 hw
  refine ⟨w, hwcs, win.trans last, hwt, fun x hx hxt hxo => high x (mem.2 ⟨hx, hxt⟩) (hxo.trans hwo), fun hrule x hx hxt hxo => ?_⟩
  have own : w.key.owner = c.key.owner := hwo.trans (lowest hrule)
  have hxc : x.key.owner ≠ c.key.owner := own ▸ hxo
  refine lt_of_owner own hxc ?_
  rcases List.mem_cons.1 (mem.2 ⟨hx, hxt⟩) with rfl | hxr
  · exact absurd rfl hxc
  · exact (List.pairwise_cons.1 sorted).1 x hxr

/-! ## A nibble after the commit -/

section
variable {det : Bool} {k u : Nat} {first : Contrib → Nat} {cs : List Contrib}

theorem newNibble_dead (h : deadNibble cs u = true) : newNibble det k first cs u = none := by
  unfold newNibble
  split
  · rfl
  · rw [if_pos h]

theorem newNibble_untouched (h : ∀ c ∈ cs, c.touches u = false) : newNibble det k first cs u = none := by
  have none : cs.find? (·.touches u) = none := List.find?_eq_none.2 fun c hc => by simp [h c hc]
  rw [newNibble, none]

variable {c : Contrib} (live : deadNibble cs u = false) (hfind : cs.find? (·.touches u) = some c)
include live hfind

theorem newNibble_arith (ha : c.arith = true) : newNibble det k first cs u =
    some (arithValue c.rule c.size c.flt (first c) ((elemOf c cs).map (·.value)) / 16 ^ (u - 2 * c.base) % 16) := by
  simp [newNibble, hfind, live, ha]

theorem newNibble_byte (ha : c.arith = false) : newNibble det k first cs u = (winner det k cs u).map (·.nibbleAt u) := by
  simp [newNibble, hfind, live, ha]

end

theorem nibbleAt_lt (c : Contrib) (u : Nat) : c.nibbleAt u < 16 := by
  unfold Contrib.nibbleAt
  split <;> exact Nat.mod_lt _ (by decide)

theorem newNibble_lt {det : Bool} {k u n : Nat} {first : Contrib → Nat} {cs : List Contrib}
    (h : newNibble det k first cs u = some n) : n < 16 := by
  unfold newNibble at h
  split at h
  · cases h
  · split_ifs at h
    · cases h
      exact Nat.mod_lt _ (by decide)
    · obtain ⟨w, -, rfl⟩ := Option.map_eq_some_iff.1 h
      exact nibbleAt_lt w u

/-- A nibble of the byte after the commit. -/
theorem newByte_nibble (det : Bool) (k : Nat) (start : Nat → Byte) (first : Contrib → Nat) (cs : List Contrib) (a : Nat)
    {h : Nat} (hh : h < 2) : (newByte det k start first cs a).toNat / 16 ^ h % 16 =
      (newNibble det k first cs (2 * a + h)).getD ((start a).toNat / 16 ^ h % 16) := by
  have old := (start a).isLt
  have bound (u d : Nat) (hd : d < 16) : (newNibble det k first cs u).getD d < 16 := by
    cases hn : newNibble det k first cs u with
    | none => exact hd
    | some n => exact newNibble_lt hn
  have lo := bound (2 * a) ((start a).toNat % 16) (by omega)
  have hi := bound (2 * a + 1) ((start a).toNat / 16) (by omega)
  simp only [newByte, BitVec.toNat_ofNat]
  rcases (show h = 0 ∨ h = 1 by omega) with rfl | rfl
  · simp only [Nat.pow_zero, Nat.div_one, Nat.add_zero]
    omega
  · rw [Nat.pow_one, Nat.mod_eq_of_lt (show (start a).toNat / 16 < 16 by omega)]
    omega

section
variable {det : Bool} {k a h : Nat} {first : Contrib → Nat} {cs : List Contrib} {c : Contrib}

/-- No byte of a live nibble collides. -/
theorem clashAt_of_live (hh : h < 2) (live : deadNibble cs (2 * a + h) = false) : clashAt cs a = none := by
  have byte : (2 * a + h) / 2 = a := by omega
  simp only [deadNibble, byte, Bool.or_eq_false_iff, Option.isSome_eq_false_iff, Option.isNone_iff_eq_none] at live
  exact live.1

variable (hh : h < 2) (live : deadNibble cs (2 * a + h) = false) (hc : c ∈ cs) (hct : c.touches (2 * a + h) = true)
include hh live hc hct

/-- The lowest-keyed contribution to a live nibble, which agrees with any other. -/
theorem first_spec : ∃ o ∈ cs, cs.find? (·.touches (2 * a + h)) = some o ∧ o.touches (2 * a + h) = true ∧ c.rule = o.rule ∧
    (o.arith = true → c.flt = o.flt ∧ c.base = o.base ∧ c.size = o.size) := by
  obtain ⟨o, ho⟩ : ∃ o, cs.find? (·.touches (2 * a + h)) = some o :=
    Option.isSome_iff_exists.1 (List.find?_isSome.2 ⟨c, hc, hct⟩)
  have touch : o.touches (2 * a + h) = true := by simpa using List.find?_some ho
  refine ⟨o, List.mem_of_find?_eq_some ho, ho, touch, ?_⟩
  rcases first_agrees hh (clashAt_of_live hh live) ho hc hct with rfl | agree
  · exact ⟨rfl, fun _ => ⟨rfl, rfl, rfl⟩⟩
  · exact cause_none agree

theorem nibble_byteRule (hsort : cs.Pairwise fun x y => y.key.lt x.key = false) (ha : c.arith = false) :
    ∃ w ∈ cs, w.touches (2 * a + h) = true ∧ newNibble det k first cs (2 * a + h) = some (w.nibbleAt (2 * a + h)) ∧
      (∀ x ∈ cs, x.touches (2 * a + h) = true → x.key.owner = w.key.owner → w.key.lt x.key = false) ∧
      (c.rule ≠ 1 ∨ det = true →
        ∀ x ∈ cs, x.touches (2 * a + h) = true → x.key.owner ≠ w.key.owner → w.key.lt x.key = true) := by
  obtain ⟨o, -, ho, -, rule, -⟩ := first_spec hh live hc hct
  obtain ⟨w, hw, win, hwt, last, low⟩ := winner_spec (det := det) (k := k) hsort ho
  refine ⟨w, hw, hwt, ?_, last, rule ▸ low⟩
  rw [newNibble_byte live ho (arith_of_rule rule ▸ ha), win]
  rfl

theorem nibble_arith (ha : c.arith = true) :
    ∃ o ∈ cs, o.touches (2 * a + h) = true ∧ o.base = c.base ∧ o.size = c.size ∧ newNibble det k first cs (2 * a + h) =
      some (arithValue c.rule c.size c.flt (first o)
        ((cs.filter fun x => x.arith && x.base == c.base && x.size == c.size).map Contrib.value)
          / 16 ^ (2 * a + h - 2 * c.base) % 16) := by
  obtain ⟨o, hocs, ho, hot, rule, same⟩ := first_spec hh live hc hct
  have oarith : o.arith = true := arith_of_rule rule ▸ ha
  obtain ⟨flt, base, size⟩ := same oarith
  refine ⟨o, hocs, hot, base.symm, size.symm, ?_⟩
  rw [newNibble_arith live ho oarith, elemOf, rule, flt, base, size]

end

/-! ## Integer elements -/

theorem arithValue_sum (size start v : Nat) (vs : List Nat) :
    arithValue 2 size false start (v :: vs) = (v :: vs).sum % 2 ^ (8 * size) := by
  rw [List.sum_eq_foldl]
  rfl

theorem arithValue_acc (size start v : Nat) (vs : List Nat) :
    arithValue 3 size false start (v :: vs) = (start + (v :: vs).sum) % 2 ^ (8 * size) := by
  rw [← List.sum_cons, List.sum_eq_foldl]
  rfl

theorem arithValue_max (size start v : Nat) (vs : List Nat) : ∃ x ∈ v :: vs, arithValue 4 size false start (v :: vs) = x ∧
    ∀ y ∈ v :: vs, signedElem size y ≤ signedElem size x := by
  obtain ⟨mem, high⟩ := foldl_extreme (op := fun m x => if signedElem size m < signedElem size x then x else m)
    (good := fun _ => True) (r := fun a b => signedElem size b ≤ signedElem size a) (fun _ => le_rfl)
    (fun _ _ _ hab hbc => hbc.trans hab) (fun a b _ _ => by split_ifs <;> simp <;> omega) vs v (fun _ _ => trivial)
  exact ⟨_, mem, rfl, high⟩

theorem arithValue_min (size start v : Nat) (vs : List Nat) : ∃ x ∈ v :: vs, arithValue 5 size false start (v :: vs) = x ∧
    ∀ y ∈ v :: vs, signedElem size x ≤ signedElem size y := by
  obtain ⟨mem, low⟩ := foldl_extreme (op := fun m x => if signedElem size x < signedElem size m then x else m)
    (good := fun _ => True) (r := fun a b => signedElem size a ≤ signedElem size b) (fun _ => le_rfl)
    (fun _ _ _ => le_trans) (fun a b _ _ => by split_ifs <;> simp <;> omega) vs v (fun _ _ => trivial)
  exact ⟨_, mem, rfl, low⟩

/-! ## The result of a `fadr` -/

theorem fadrResult_live {start : Nat → Byte} {first : Contrib → Nat} {cs : List Contrib} {c : Contrib}
    (h : deadNibble cs (2 * c.base) = false) : fadrResult start first cs c = arithValue 3 c.size c.flt (first c)
      ((cs.filter fun x => x.arith && x.base == c.base && x.size == c.size && x.key.lt c.key).map Contrib.value) := by
  have lower : ((elemOf c cs).filter fun x => x.key.lt c.key) =
      cs.filter fun x => x.arith && x.base == c.base && x.size == c.size && x.key.lt c.key := by
    rw [elemOf, List.filter_filter]
    exact List.filter_congr fun x _ => Bool.and_comm _ _
  rw [fadrResult, if_neg (by simp [h]), lower]

theorem fadrResult_dead {start : Nat → Byte} {first : Contrib → Nat} {cs : List Contrib} {c : Contrib}
    (h : deadNibble cs (2 * c.base) = true) : fadrResult start first cs c = startNum start c.base c.size := if_pos h

/-- Settles O44: `newByte_nibble` reads a nibble of the new byte, `nibble_byteRule` and `nibble_arith` say what a live one holds
by the agreement of its contributions (`first_agrees`), and the other parts are the integer combinations and the result of a
`fadr`. -/
theorem contributionsCombine : Obligations.ContributionsCombine := by
  unfold Obligations.ContributionsCombine
  refine ⟨fun det k start first cs a hsort => ?_, fun size start v vs => ⟨arithValue_sum size start v vs,
    arithValue_acc size start v vs, arithValue_max size start v vs, arithValue_min size start v vs⟩,
    fun start first cs c => ⟨fadrResult_live, fadrResult_dead⟩⟩
  intro after h hh u
  have read : after h = (newNibble det k first cs u).getD ((start a).toNat / 16 ^ h % 16) :=
    newByte_nibble det k start first cs a hh
  refine ⟨fun dead => by rw [read, newNibble_dead dead, Option.getD_none], fun live => ⟨fun none => ?_, fun c hc hct ha => ?_,
    fun c hc hct ha => ?_⟩⟩
  · rw [read, newNibble_untouched none, Option.getD_none]
  · obtain ⟨w, hw, hwt, value, last, low⟩ := nibble_byteRule (det := det) (k := k) (first := first) hh live hc hct hsort ha
    exact ⟨w, hw, hwt, by rw [read, value, Option.getD_some], last, low⟩
  · obtain ⟨o, ho, hot, base, size, value⟩ := nibble_arith (det := det) (k := k) (first := first) hh live hc hct ha
    exact ⟨o, ho, hot, base, size, by rw [read, value, Option.getD_some]⟩

end Sys2Proof.Machine
end

section
/-!
# Engine events

What each engine event does to a running command (R239, R241, R256, R257).
-/

namespace Sys2Proof.Machine

section
variable {s : State} {cmd : Nat} {c : Cmd} (hc : s.cmd? cmd = some c)

/-! ## Source lines -/

section
include hc

theorem sourceLine_not_runnable (hr : s.runnable c = false) : exec (.engineSourceLine cmd) s = .next s := by
  simp [exec, execEngineSourceLine, hc, hr]

theorem sourceLine_outs (ho : c.outs ≠ []) : exec (.engineSourceLine cmd) s = .next s := by
  simp [exec, execEngineSourceLine, hc, ho]

variable {l : Launch} {b : Block} (hr : s.runnable c = true) (hb : s.blockOf c = some (l, b)) (ho : c.outs = [])
include hr hb ho

theorem sourceLine_done (hd : c.sourceDone = true) : exec (.engineSourceLine cmd) s = .next (s.afterSource l c) := by
  simp [exec, execEngineSourceLine, hc, hr, hb, ho, hd]

variable (hd : c.sourceDone = false)
include hd

theorem sourceLine_reads {bs : List Byte} (hbs : s.engBytes l b c.nextPiece.1 c.nextPiece.2.1 c.nextPiece.2.2 = .ok bs) :
    exec (.engineSourceLine cmd) s = .next (s.modCmd cmd fun _ =>
      { c with buf := c.buf ++ s.sourceBytes l c c.nextPiece.1 c.nextPiece.2.1 bs }) := by
  simp [exec, execEngineSourceLine, hc, hr, hb, ho, hd, State.readPiece, hbs]

variable {er : FaultCode} (her : s.engBytes l b c.nextPiece.1 c.nextPiece.2.1 c.nextPiece.2.2 = .error er)
include her

theorem sourceLine_fails (hi : ∀ d a x, c.instr ≠ .scat d a x) : exec (.engineSourceLine cmd) s =
    .next (s.lineFault { c with progress := c.sourceProgress } er c.nextPiece.2.1) := by
  have fails : s.readPiece l b c = .error (er, c.nextPiece.2.1) := by simp [State.readPiece, her]
  simp only [exec, execEngineSourceLine, hc, hr, hb, ho, hd, fails, Bool.not_true, List.isEmpty_nil, Bool.or_self,
    Bool.false_eq_true, if_false]

theorem sourceLine_fails_scat {d : BitVec 6} {a : BitVec 4} {x : BitVec 6} (hi : c.instr = .scat d a x) :
    exec (.engineSourceLine cmd) s =
      .next (s.endScat l c (c.buf.length / c.num 38 2) (some (er, c.nextPiece.2.1))) := by
  simp [exec, execEngineSourceLine, hc, hr, hb, ho, hd, State.readPiece, her, hi]

end

/-- A piece lies in one aligned line (R239). -/
theorem nextPiece_line (c : Cmd) : c.nextPiece.2.2 ≤ 128 - c.nextPiece.2.1 % 128 := Nat.min_le_right _ _

/-! ## Output lines -/

/-- A command whose line has been written goes on, or ends after its last one. -/
def State.lineDone (u : State) (cmd : Nat) (c d : Cmd) : State :=
  let v := u.modCmd cmd fun _ => d
  if d.allWritten = false then v
  else match d.stop with
    | some e => v.lineFault d e.1 e.2
    | none => v.finishCmd cmd 0 c.total

section
include hc

theorem outputLine_not_runnable (hr : s.runnable c = false) : exec (.engineOutputLine cmd) s = .next s := by
  simp [exec, execEngineOutputLine, hc, hr]

theorem outputLine_none (ho : c.nextOut = none) : exec (.engineOutputLine cmd) s = .next s := by
  simp only [exec, execEngineOutputLine, hc, ho]
  split_ifs
  · rfl
  · cases s.blockOf c <;> rfl

variable {l : Launch} {b : Block} {o : OutLine} (hr : s.runnable c = true) (hb : s.blockOf c = some (l, b))
  (ho : c.nextOut = some o)
include hr hb ho

theorem outputLine_rcp {d : BitVec 6} {a : BitVec 4} {x : BitVec 6} (hi : c.instr = .rcp d a x) :
    exec (.engineOutputLine cmd) s = .next (s.sendLine c o) := by
  simp [exec, execEngineOutputLine, hc, hr, hb, ho, hi]

variable (hi : ∀ d a x, c.instr ≠ .rcp d a x)
include hi

theorem outputLine_writes {u : State} (hw : s.writeLine l b o = .ok u) :
    exec (.engineOutputLine cmd) s = .next (u.lineDone cmd c (c.wrote o)) := by
  simp only [exec, execEngineOutputLine, hc, hr, hb, ho, hw, Bool.not_true, Bool.false_eq_true, if_false]
  unfold State.lineDone
  cases (c.wrote o).allWritten
  · rfl
  · cases (c.wrote o).stop <;> rfl

theorem outputLine_fails {er : FaultCode} (hw : s.writeLine l b o = .error er) :
    exec (.engineOutputLine cmd) s = .next (s.lineFault c er o.addr) := by
  simp only [exec, execEngineOutputLine, hc, hr, hb, ho, hw, Bool.not_true, Bool.false_eq_true, if_false]

end

end

section
variable {s : State} {l : Launch} {b : Block} {o : OutLine}

theorem writeLine_held (hs : o.scratch = true) (he : b.allExited = false) : s.writeLine l b o =
    .ok ((s.healScratch l.id b.index o).modBlock l.id b.index fun x => { x with heldLines := x.heldLines ++ [o] }) := by
  simp [State.writeLine, hs, he]

theorem writeLine_landed (hs : o.scratch = true) (he : b.allExited = true) : s.writeLine l b o =
    .ok ((s.healScratch l.id b.index o).modBlock l.id b.index fun x => x.landLine o) := by
  simp [State.writeLine, hs, he]

theorem writeLine_memory (hs : o.scratch = false) {pa : Nat} (h : s.translate none l.tenant .store o.addr = .ok pa) :
    s.writeLine l b o = .ok (s.outsideWrite none pa o.bytes) := by
  simp [State.writeLine, hs, h]

theorem writeLine_fault (hs : o.scratch = false) {er : FaultCode}
    (h : s.translate none l.tenant .store o.addr = .error er) : s.writeLine l b o = .error er := by
  simp [State.writeLine, hs, h]

end

/-! ## Quiesce -/

section
variable {s : State} {cmd : Nat} {c : Cmd} {ln : Launch} (hl : s.launch? c.launch = some ln)
include hl

/-- A command of suspended work stops at its resumable point (R256, R257). -/
theorem quiesces_iff : s.quiesces c = true ↔ ln.suspended = true ∧ c.isLaunch = false ∧
    (c.phase = .running ∨ c.phase = .staged) ∧ c.resumable = true := by
  simp [State.quiesces, hl, and_assoc]

end

theorem quiesceStop_eq {s : State} {cmd : Nat} {c : Cmd} (hc : s.cmd? cmd = some c) :
    exec (.engineQuiesceStop cmd) s =
      if s.quiesces c = true then .next (s.modCmd cmd fun x => { x with phase := .held }) else .next s := by
  simp [exec, execEngineQuiesceStop, hc]

/-! ## What a source byte is -/

section
variable {s : State} {l : Launch} {c : Cmd} {sp a pa : Nat} {bs : List Byte}

theorem unlanded_length : (c.unlanded pa bs).length = bs.length := by
  unfold Cmd.unlanded
  split <;> simp

/-- A byte that the launch's own commits have changed is the one the command found (R248, R401). -/
theorem getD_unlanded {i : Nat} (hi : i < bs.length) : (c.unlanded pa bs).getD i 0 =
    (((c.before.find? fun x => x.1 == pa / 128).bind fun x => x.2.getD (pa % 128 + i) none).getD (bs.getD i 0)) := by
  unfold Cmd.unlanded
  split
  next h => rw [h]; rfl
  next x h => simp [h, List.getD, hi]

theorem sourceBytes_memory (hsp : sp ≠ 1)
    (h : s.translate none l.tenant (if sp = 3 then .constLoad else .load) a = .ok pa) :
    s.sourceBytes l c sp a bs = c.unlanded pa bs := by
  simp [State.sourceBytes, hsp, h]

end

/-- Settles O48: the lemmas on source lines, output lines and quiesce give each outcome, and `getD_unlanded` what a source byte
is. -/
theorem engineEvents : Obligations.EngineEvents := by
  unfold Obligations.EngineEvents
  intro s cmd
  refine ⟨fun hc => by simp [exec, execEngineSourceLine, execEngineOutputLine, execEngineQuiesceStop, hc], fun c hc => ?_⟩
  refine ⟨fun hr => ⟨sourceLine_not_runnable hc hr, outputLine_not_runnable hc hr⟩, fun l b hr hb => ?_, fun ln hl => ?_,
    fun l a bs => if_pos rfl, fun l sp a bs pa hsp h => ?_⟩
  · refine ⟨sourceLine_done hc hr hb, fun ho hd => ⟨nextPiece_line c, fun bs => sourceLine_reads hc hr hb ho hd, fun er her =>
      ⟨sourceLine_fails hc hr hb ho hd her, fun d a x => sourceLine_fails_scat hc hr hb ho hd her⟩⟩, sourceLine_outs hc,
      outputLine_none hc, fun o ho => ⟨fun d a x => outputLine_rcp hc hr hb ho, fun hi => ?_⟩⟩
    exact ⟨fun hs he => outputLine_writes hc hr hb ho hi (writeLine_held hs he),
      fun hs he => outputLine_writes hc hr hb ho hi (writeLine_landed hs he),
      fun hs => ⟨fun pa h => outputLine_writes hc hr hb ho hi (writeLine_memory hs h),
        fun er h => outputLine_fails hc hr hb ho hi (writeLine_fault hs h)⟩⟩
  · dsimp only
    rw [quiesceStop_eq hc, ← quiesces_iff hl]
    exact ⟨fun h => if_pos h, fun h => if_neg h⟩
  · rw [sourceBytes_memory hsp h]
    refine ⟨unlanded_length, fun i hi => (getD_unlanded hi).trans ?_⟩
    split
    next old hold => rw [hold]; rfl
    next hnone => rw [hnone]; rfl

end Sys2Proof.Machine
end

section
/-!
# Words on the fibres that act

Which fibres of a fragment act, what a word leaves of each, and what it does when its meaning is one result of which its table
holds (R17, R87, R120).
-/

namespace Sys2Proof.Machine

theorem ready_wf {e : Env} {i : Instr} (hr : e.ready i = true) : i.wf = true := by
  simp only [Env.ready, Bool.and_eq_true] at hr
  exact hr.1.1

/-- The fragment's fibres exist, at the chain's start and now. -/
theorem ready_fibres {e : Env} {i : Instr} (hr : e.ready i = true) {id : Nat} (hid : id ∈ e.is.live) :
    ∃ v c, e.b.fibre? id = some v ∧ e.cur? id = some c := by
  simp only [Env.ready, Bool.and_eq_true, List.all_eq_true] at hr
  have allowed := hr.2 id hid
  split at allowed
  next v c hv hc => exact ⟨v, c, hv, hc⟩
  next => cases allowed

/-! ## The fibres that act -/

/-- The fibres that act, as the chain found them (R17). -/
theorem actives_fst {e : Env} {i : Instr} (hr : e.ready i = true) :
    e.actives.map Prod.fst = (e.is.live.filterMap e.b.fibre?).filter e.active := by
  rw [Env.actives, List.map_filterMap, List.filter_filterMap]
  refine List.filterMap_congr fun id hid => ?_
  obtain ⟨v, c, hv, hc⟩ := ready_fibres hr hid
  simp only [hv, hc]
  cases h : e.active v <;> simp [Option.filter, h]

theorem mem_actives {e : Env} {y : Fibre × Fibre} : y ∈ e.actives ↔
    ∃ id ∈ e.is.live, e.b.fibre? id = some y.1 ∧ e.cur? id = some y.2 ∧ e.active y.1 = true := by
  rw [Env.actives, List.mem_filterMap]
  refine exists_congr fun id => and_congr_right fun _ => ?_
  cases e.b.fibre? id with
  | none => simp
  | some v =>
    cases e.cur? id with
    | none => simp
    | some c => grind

/-- A word leaves every fibre that does not act. -/
theorem updOn_inactive {e : Env} {i : Instr} {F : Fibre → Fibre → Eff} {f : Fibre}
    (h : f.id ∉ e.actives.map fun y => y.1.id) : e.updOn i F e.is.live f = f := by
  unfold Env.updOn
  split_ifs with live
  · split
    next v c hv hc =>
      split_ifs with hact
      · have mem : (v, c) ∈ e.actives := mem_actives.2 ⟨f.id, live, hv, hc, hact⟩
        exact absurd (List.mem_map.2 ⟨_, mem, fibre_key hv⟩) h
      · rfl
    next => rfl
  · rfl

/-- A word leaves of a fibre that acts what its effect says. -/
theorem updOn_active {e : Env} {i : Instr} {F : Fibre → Fibre → Eff} {y : Fibre × Fibre} (h : y ∈ e.actives) :
    e.updOn i F e.is.live y.2 = e.marked i y.2 (F y.1 y.2).fibre := by
  obtain ⟨id, live, hv, hc, hact⟩ := mem_actives.1 h
  simp only [Env.updOn, cur_id hc, live, if_true, hv, hc, hact]

/-! ## What is marked -/

/-- A word without a result marks nothing (R76, R338). -/
theorem marked_of_no_result (e : Env) {i : Instr} (hf : i.fourCycle = false) (hb : boardWrites i = []) (c g : Fibre) :
    e.marked i c g = g := by
  simp [Env.marked, hf, hb, Fibre.markBusy]

/-- A result of another class than the four-cycle one changes the scoreboard alone (R76, R338). -/
theorem busy_of_marked {e : Env} {i : Instr} (hf : i.fourCycle = false) (c g : Fibre) :
    e.marked i c g = { g with busy := (e.marked i c g).busy } := by
  unfold Env.marked Fibre.markBusy
  simp only [hf, Bool.false_eq_true, if_false]
  split_ifs <;> rfl

/-! ## From a result to the table -/

/-- What holds of each active fibre after a word may be weakened. -/
theorem acts_imp {e : Env} {s t : State} {P Q : Fibre → Fibre → Fibre → Prop} (h : e.acts s t P)
    (hpq : ∀ v c g, P v c g → Q v c g) : e.acts s t Q := by
  obtain ⟨upd, ht, outside, inside⟩ := h
  refine ⟨upd, ht, outside, fun id hid v c hv hc => ?_⟩
  have step := inside id hid v c hv hc
  split_ifs at step ⊢
  · exact hpq _ _ _ step
  · exact step

/-- A word that acts on fibres alone keeps the open chain and the cores. -/
theorem acts_keeps {e : Env} {s t : State} {P} (h : e.acts s t P) : t.issue = s.issue ∧ t.cores = s.cores := by
  obtain ⟨upd, rfl, -, -⟩ := h
  exact ⟨rfl, rfl⟩

/-- A word with one 32-bit result, of which its table holds. -/
theorem word_gives {s : State} {e : Env} {i : Instr} {d : BitVec 6} {v : Env → Fibre → Word}
    {tab : Env → Fibre → Instr → Option (BitVec 6 × (Word → Prop))} (he : s.env? = some e) (hr : e.ready i = true)
    (hx : exec i s = s.setReg i d v) (ht : ∀ f, ∃ p, tab e f i = some (d, p) ∧ p (v e f))
    (hw : i.writesNow = [d.toNat] := by rfl)
    (hv : ∀ ls bl cs ga sp lt f, v (e.moved ls bl cs ga sp lt) f = v e f := by intros; rfl) :
    ∃ t, exec i s = .next t ∧ e.acts s t fun f c g =>
      ∃ d p w, tab e f i = some (d, p) ∧ p w ∧ c.wrote g [(d.toNat, w)] := by
  obtain ⟨t, next, acts⟩ := setReg_gives he hr hw hv
  refine ⟨t, hx.trans next, acts_imp acts fun f c g wrote => ?_⟩
  obtain ⟨p, entry, holds⟩ := ht f
  exact ⟨d, p, v e f, entry, holds, wrote⟩

/-- A word with one 64-bit result, of which its table holds. -/
theorem pair_gives {s : State} {e : Env} {i : Instr} {d : BitVec 6} {v : Env → Fibre → DWord}
    {tab : Env → Fibre → Instr → Option (BitVec 6 × (DWord → Prop))} (he : s.env? = some e) (hr : e.ready i = true)
    (hx : exec i s = s.setPair i d v) (hd : i.wf = true → d.toNat % 2 = 0)
    (ht : ∀ f, ∃ p, tab e f i = some (d, p) ∧ p (v e f))
    (hw : i.writesNow = [d.toNat, d.toNat + 1] := by rfl)
    (hv : ∀ ls bl cs ga sp lt f, v (e.moved ls bl cs ga sp lt) f = v e f := by intros; rfl) :
    ∃ t, exec i s = .next t ∧ e.acts s t fun f c g =>
      ∃ d p w, tab e f i = some (d, p) ∧ p w ∧ c.wrote g [(d.toNat, loOf w), (d.toNat + 1, hiOf w)] := by
  have even := hd (ready_wf hr)
  have lt := d.isLt
  obtain ⟨t, next, acts⟩ := setPair_gives he hr hw (by omega) hv
  refine ⟨t, hx.trans next, acts_imp acts fun f c g wrote => ?_⟩
  obtain ⟨p, entry, holds⟩ := ht f
  exact ⟨d, p, v e f, entry, holds, wrote⟩

end Sys2Proof.Machine
end

section
/-!
# 32-bit integer words

Each operation on patterns stands for one on integers, modulo the width (R136).
-/

namespace Sys2Proof.Machine

section
variable {w : Nat} (a b : BitVec w)

theorem add_eq_ofInt : a + b = BitVec.ofInt w (a.toInt + b.toInt) := by
  rw [BitVec.ofInt_add, BitVec.ofInt_toInt, BitVec.ofInt_toInt]

theorem sub_eq_ofInt : a - b = BitVec.ofInt w (a.toInt - b.toInt) := by
  rw [sub_eq_add_neg a.toInt, BitVec.ofInt_add, BitVec.ofInt_neg, BitVec.ofInt_toInt, BitVec.ofInt_toInt, sub_eq_add_neg]

theorem mul_eq_ofInt : a * b = BitVec.ofInt w (a.toInt * b.toInt) := by
  rw [BitVec.ofInt_mul, BitVec.ofInt_toInt, BitVec.ofInt_toInt]

theorem mul_add_eq_ofInt (t : BitVec w) : a * b + t = BitVec.ofInt w (a.toInt * b.toInt + t.toInt) := by
  rw [BitVec.ofInt_add, ← mul_eq_ofInt, BitVec.ofInt_toInt]

theorem neg_eq_ofInt : 0 - a = BitVec.ofInt w (0 - a.toInt) := by
  rw [zero_sub, zero_sub, BitVec.ofInt_neg, BitVec.ofInt_toInt]

theorem smin_eq_ofInt : smin w a b = BitVec.ofInt w (min a.toInt b.toInt) := by
  unfold smin
  split_ifs with h
  · rw [min_eq_left h, BitVec.ofInt_toInt]
  · rw [min_eq_right (le_of_not_ge h), BitVec.ofInt_toInt]

theorem smax_eq_ofInt : smax w a b = BitVec.ofInt w (max a.toInt b.toInt) := by
  unfold smax
  split_ifs with h
  · rw [max_eq_right h, BitVec.ofInt_toInt]
  · rw [max_eq_left (le_of_not_ge h), BitVec.ofInt_toInt]

/-- A pattern stands for its unsigned value, too. -/
theorem eq_ofInt_toNat : a = BitVec.ofInt w (a.toNat : Nat) := by
  rw [BitVec.ofInt_natCast, BitVec.ofNat_toNat, BitVec.setWidth_eq]

theorem umin_eq_ofInt : umin w a b = BitVec.ofInt w (min a.toNat b.toNat : Nat) := by
  unfold umin
  split_ifs with h
  · rw [Nat.min_eq_left h, ← eq_ofInt_toNat]
  · rw [Nat.min_eq_right (Nat.le_of_not_le h), ← eq_ofInt_toNat]

theorem umax_eq_ofInt : umax w a b = BitVec.ofInt w (max a.toNat b.toNat : Nat) := by
  unfold umax
  split_ifs with h
  · rw [Nat.max_eq_right h, ← eq_ofInt_toNat]
  · rw [Nat.max_eq_left (Nat.le_of_not_le h), ← eq_ofInt_toNat]

theorem sabs_eq_ofInt : sabs w a = BitVec.ofInt w (a.toInt.natAbs : Nat) := by
  unfold sabs
  split_ifs with h
  · rw [Int.ofNat_natAbs_of_nonpos h.le, BitVec.ofInt_neg, BitVec.ofInt_toInt]
  · rw [Int.natAbs_of_nonneg (not_lt.1 h), BitVec.ofInt_toInt]

end

/-- The clamp of the model is `Sat` of R136 on a range that is not empty. -/
theorem clampInt_eq_satInt (x : Int) {lo hi : Int} (h : lo ≤ hi) : clampInt x lo hi = satInt x lo hi := by
  unfold clampInt satInt
  split_ifs <;> omega

theorem is32_sat32 (x : Int) {lo hi : Int} (h : lo ≤ hi) : is32 (satInt x lo hi) (sat32 x lo hi) :=
  congrArg (BitVec.ofInt 32) (clampInt_eq_satInt x h)

/-- Settles O9: each word of the table computes the pattern of the table's integer, by the lemmas above. -/
theorem integerWords : Obligations.IntegerWords := by
  unfold Obligations.IntegerWords
  intro s e i he hr hi
  cases i with
  | iadd d a b => exact word_gives he hr rfl fun f => ⟨_, rfl, add_eq_ofInt _ _⟩
  | isub d a b => exact word_gives he hr rfl fun f => ⟨_, rfl, sub_eq_ofInt _ _⟩
  | imul d a b => exact word_gives he hr rfl fun f => ⟨_, rfl, mul_eq_ofInt _ _⟩
  | imulhi d a b => exact word_gives he hr rfl fun f => ⟨_, rfl, rfl⟩
  | imulhin d a b => exact word_gives he hr rfl fun f => ⟨_, rfl, rfl⟩
  | imad d a b => exact word_gives he hr rfl fun f => ⟨_, rfl, mul_add_eq_ofInt _ _ _⟩
  | imin d a b => exact word_gives he hr rfl fun f => ⟨_, rfl, smin_eq_ofInt _ _⟩
  | imax d a b => exact word_gives he hr rfl fun f => ⟨_, rfl, smax_eq_ofInt _ _⟩
  | iminn d a b => exact word_gives he hr rfl fun f => ⟨_, rfl, umin_eq_ofInt _ _⟩
  | imaxn d a b => exact word_gives he hr rfl fun f => ⟨_, rfl, umax_eq_ofInt _ _⟩
  | iabs d a => exact word_gives he hr rfl fun f => ⟨_, rfl, sabs_eq_ofInt _⟩
  | ineg d a => exact word_gives he hr rfl fun f => ⟨_, rfl, neg_eq_ofInt _⟩
  | iadds d a b => exact word_gives he hr rfl fun f => ⟨_, rfl, is32_sat32 _ (by decide)⟩
  | isubs d a b => exact word_gives he hr rfl fun f => ⟨_, rfl, is32_sat32 _ (by decide)⟩
  | iaddsn d a b => exact word_gives he hr rfl fun f => ⟨_, rfl, is32_sat32 _ (by decide)⟩
  | isubsn d a b => exact word_gives he hr rfl fun f => ⟨_, rfl, is32_sat32 _ (by decide)⟩
  | _ => exact absurd (hi default) Bool.false_ne_true

end Sys2Proof.Machine
end

section
/-!
# Logic, immediates and moves

Shifts as products and quotients, and the other results bit by bit (R138, R139, R141, R143, R144, R146, R205).
-/

namespace Sys2Proof.Machine

section
variable {w : Nat} (a : BitVec w) (n : Nat)

theorem shiftLeft_eq_ofInt : a <<< n = BitVec.ofInt w (a.toNat * 2 ^ n : Nat) := by
  rw [BitVec.ofInt_natCast]
  exact BitVec.eq_of_toNat_eq (by rw [BitVec.toNat_shiftLeft, Nat.shiftLeft_eq, BitVec.toNat_ofNat])

theorem ushiftRight_eq_ofInt : a >>> n = BitVec.ofInt w (a.toNat / 2 ^ n : Nat) := by
  rw [BitVec.ofInt_natCast]
  refine BitVec.eq_of_toNat_eq ?_
  rw [BitVec.toNat_ushiftRight, Nat.shiftRight_eq_div_pow, BitVec.toNat_ofNat,
    Nat.mod_eq_of_lt ((Nat.div_le_self _ _).trans_lt a.isLt)]

theorem sshiftRight_eq_ofInt : a.sshiftRight n = BitVec.ofInt w (a.toInt / 2 ^ n) := by
  rw [← BitVec.ofInt_toInt (x := a.sshiftRight n), BitVec.toInt_sshiftRight, Int.shiftRight_eq_div_pow]
  push_cast
  rfl

end

/-! ## Counts of bits (R138) -/

theorem popCount_eq (k : Nat) : ∀ n, popCount k n = ((List.range k).filter n.testBit).length := by
  induction k with
  | zero => intro n; rfl
  | succ k ih =>
    intro n
    have tail : n.testBit ∘ Nat.succ = (n / 2).testBit := funext fun j => Nat.testBit_succ n j
    rw [popCount, ih, List.range_succ_eq_map, List.filter_cons, List.filter_map, tail, Nat.testBit_zero]
    rcases Nat.mod_two_eq_zero_or_one n with h | h <;> simp [h, Nat.add_comm]

theorem trailZeros_eq (k : Nat) : ∀ n, trailZeros k n = ((List.range k).takeWhile fun j => !n.testBit j).length := by
  induction k with
  | zero => intro n; rfl
  | succ k ih =>
    intro n
    have tail : (fun j => !n.testBit j) ∘ Nat.succ = fun j => !(n / 2).testBit j :=
      funext fun j => congrArg not (Nat.testBit_succ n j)
    rw [trailZeros, ih, List.range_succ_eq_map, List.takeWhile_cons, List.takeWhile_map, tail, Nat.testBit_zero]
    rcases Nat.mod_two_eq_zero_or_one n with h | h <;> simp [h]

theorem leadZeros_eq (k n : Nat) : leadZeros k n = ((List.range k).takeWhile fun j => !n.testBit (k - 1 - j)).length := by
  induction k with
  | zero => rfl
  | succ k ih =>
    have tail : (fun j => !n.testBit (k + 1 - 1 - j)) ∘ Nat.succ = fun j => !n.testBit (k - 1 - j) :=
      funext fun j => by simp only [Function.comp_apply]; congr 2; omega
    rw [leadZeros, ih, List.range_succ_eq_map, List.takeWhile_cons, List.takeWhile_map, tail,
      Nat.testBit_eq_decide_div_mod_eq]
    rcases Nat.mod_two_eq_zero_or_one (n / 2 ^ k) with h | h <;> simp [h]

/-! ## Bit order (R138) -/

theorem reverseBits_lt (k : Nat) : ∀ n, reverseBits k n < 2 ^ k := by
  induction k with
  | zero => intro n; exact Nat.one_pos
  | succ k ih =>
    intro n
    have low := ih (n / 2)
    have top : n % 2 * 2 ^ k ≤ 1 * 2 ^ k := Nat.mul_le_mul_right _ (Nat.lt_succ_iff.1 (Nat.mod_lt n Nat.two_pos))
    rw [reverseBits, Nat.pow_succ]
    omega

theorem testBit_reverseBits (k : Nat) : ∀ n j, j < k → (reverseBits k n).testBit j = n.testBit (k - 1 - j) := by
  induction k with
  | zero => intro n j h; omega
  | succ k ih =>
    intro n j h
    rw [reverseBits, Nat.mul_comm, Nat.testBit_two_pow_mul_add _ (reverseBits_lt k (n / 2))]
    split_ifs with hj
    · rw [ih _ _ hj, ← Nat.testBit_succ]
      congr 1
      omega
    · obtain rfl : j = k := by omega
      simp [Nat.testBit_zero]

theorem testBit_ofLe : ∀ (bs : List Byte) (k : Nat), (ofLe bs).testBit k = (bs.getD (k / 8) 0).getLsbD (k % 8)
  | [], k => by simp [ofLe]
  | b :: bs, k => by
    rw [ofLe, Nat.add_comm, show 256 = 2 ^ 8 from rfl, Nat.testBit_two_pow_mul_add _ b.isLt]
    split_ifs with h
    · rw [Nat.div_eq_of_lt h, Nat.mod_eq_of_lt h]
      rfl
    · obtain ⟨m, rfl⟩ : ∃ m, k = m + 8 := ⟨k - 8, by omega⟩
      rw [Nat.add_sub_cancel, testBit_ofLe bs m, Nat.add_div_right _ (by decide), Nat.add_mod_right]
      rfl

theorem getLsbD_leBytes : ∀ (k n i j : Nat), i < k → j < 8 → ((leBytes k n).getD i 0).getLsbD j = n.testBit (8 * i + j)
  | k + 1, n, 0, j, _, hj => by
    rw [leBytes, List.getD_cons_zero, BitVec.getLsbD_ofNat, decide_eq_true hj, Bool.true_and, Nat.mul_zero, Nat.zero_add]
  | k + 1, n, i + 1, j, hi, hj => by
    have index : 8 * (i + 1) + j = 8 * i + j + 8 := by omega
    rw [leBytes, List.getD_cons_succ, getLsbD_leBytes k (n / 256) i j (by omega) hj, index,
      show 256 = 2 ^ 8 from rfl, Nat.testBit_div_two_pow]

theorem getLsbD_bswapWord (a : Word) {k : Nat} (hk : k < 32) :
    (bswapWord a).getLsbD k = a.getLsbD (8 * (3 - k / 8) + k % 8) := by
  have len : (leBytes 4 a.toNat).length = 4 := Kzas.leBytes_length 4 a.toNat
  have byte : (leBytes 4 a.toNat).reverse.getD (k / 8) 0 = (leBytes 4 a.toNat).getD (3 - k / 8) 0 := by
    rw [List.getD_eq_getElem?_getD, List.getElem?_reverse (by omega), len, ← List.getD_eq_getElem?_getD]
  rw [bswapWord, BitVec.getLsbD_ofNat, testBit_ofLe, byte, getLsbD_leBytes _ _ _ _ (by omega) (Nat.mod_lt _ (by decide)),
    decide_eq_true hk, Bool.true_and]
  rfl

/-! ## Rotations (R138) -/

theorem getLsbD_rotl (a : Word) (r : Nat) {k : Nat} (hk : k < 32) :
    (a.rotateLeft (r % 32)).getLsbD k = a.getLsbD ((k + 32 - r % 32) % 32) := by
  rw [BitVec.getLsbD_rotateLeft, Nat.mod_mod]
  by_cases h : k < r % 32
  · simp only [h, decide_true, cond_true]
    congr 1
    omega
  · simp only [h, decide_false, cond_false, hk, decide_true, Bool.true_and]
    congr 1
    omega

theorem getLsbD_rotr (a : Word) (r : Nat) {k : Nat} (hk : k < 32) :
    (a.rotateRight (r % 32)).getLsbD k = a.getLsbD ((k + r % 32) % 32) := by
  rw [BitVec.getLsbD_rotateRight, Nat.mod_mod]
  by_cases h : k < 32 - r % 32
  · simp only [h, decide_true, cond_true]
    congr 1
    omega
  · simp only [h, decide_false, cond_false, hk, decide_true, Bool.true_and]
    congr 1
    omega

/-! ## Bit fields (R139) -/

/-- A field ends at its position and width (R139). -/
theorem fieldPos_add_fieldWidth (c : Word) : fieldPos c + fieldWidth c = (fieldOf c).2.1 := by
  have lt : c.toNat % 32 < 32 := Nat.mod_lt _ (by decide)
  simp only [fieldWidth, fieldOf, fieldPos]
  omega

/-- The bits of a field that is cut out. -/
theorem testBit_field (n pos width k : Nat) :
    (n / 2 ^ pos % 2 ^ width).testBit k = (decide (k < width) && n.testBit (pos + k)) := by
  rw [Nat.testBit_mod_two_pow, Nat.testBit_div_two_pow, Nat.add_comm]

theorem getLsbD_bfeWord (a c : Word) {k : Nat} (hk : k < 32) :
    (bfeWord a c).getLsbD k = (decide (k < fieldWidth c) && a.getLsbD (fieldPos c + k)) := by
  rw [bfeWord, BitVec.getLsbD_ofNat, testBit_field, decide_eq_true hk, Bool.true_and]
  rfl

theorem signedOf_eq_toInt {w n : Nat} (hw : 0 < w) (h : n < 2 ^ w) : signedOf w n = (BitVec.ofNat w n).toInt := by
  obtain ⟨m, rfl⟩ : ∃ m, w = m + 1 := ⟨w - 1, by omega⟩
  rw [BitVec.toInt_eq_toNat_cond, BitVec.toNat_ofNat, Nat.mod_eq_of_lt h, signedOf, Nat.add_sub_cancel, Nat.pow_succ]
  push_cast
  split_ifs <;> omega

theorem getLsbD_bfesWord (a c : Word) {k : Nat} (hk : k < 32) : (bfesWord a c).getLsbD k =
    (decide (0 < fieldWidth c) && a.getLsbD (fieldPos c + min k (fieldWidth c - 1))) := by
  unfold bfesWord
  split_ifs with h0
  · simp [h0]
  · have pos : 0 < fieldWidth c := Nat.pos_of_ne_zero h0
    have bit (j : Nat) : (BitVec.ofNat (fieldWidth c) (a.toNat / 2 ^ fieldPos c % 2 ^ fieldWidth c)).getLsbD j =
        (decide (j < fieldWidth c) && a.getLsbD (fieldPos c + j)) := by
      rw [BitVec.getLsbD_ofNat, testBit_field, ← Bool.and_assoc, Bool.and_self]
      rfl
    rw [signedOf_eq_toInt pos (Nat.mod_lt _ (Nat.two_pow_pos _)), ← BitVec.signExtend, BitVec.getLsbD_signExtend,
      BitVec.msb_eq_getLsbD_last, bit, bit, decide_eq_true hk, decide_eq_true pos, Bool.true_and, Bool.true_and]
    split_ifs with hlt
    · rw [decide_eq_true hlt, Bool.true_and, Nat.min_eq_left (by omega)]
    · rw [decide_eq_true (by omega), Bool.true_and, Nat.min_eq_right (by omega)]

theorem getLsbD_bfiWord (a c t : Word) {k : Nat} (hk : k < 32) : (bfiWord a c t).getLsbD k =
    if (fieldOf c).1 ≤ k ∧ k < (fieldOf c).2.1 then a.getLsbD (k - (fieldOf c).1) else t.getLsbD k := by
  have mask : (BitVec.ofNat 32 ((2 ^ fieldWidth c - 1) * 2 ^ fieldPos c)).getLsbD k =
      decide ((fieldOf c).1 ≤ k ∧ k < (fieldOf c).2.1) := by
    have start : fieldPos c = (fieldOf c).1 := rfl
    have stop := fieldPos_add_fieldWidth c
    rw [BitVec.getLsbD_ofNat, Nat.testBit_mul_two_pow, Nat.testBit_two_pow_sub_one, decide_eq_true hk, Bool.true_and,
      ← Bool.decide_and]
    exact decide_eq_decide.2 (by omega)
  rw [bfiWord, BitVec.getLsbD_or, BitVec.getLsbD_and, BitVec.getLsbD_and, BitVec.getLsbD_not, mask,
    BitVec.getLsbD_shiftLeft]
  split_ifs with h
  · have low : ¬ k < fieldPos c := not_lt.2 h.1
    simp only [decide_eq_true h, decide_eq_true hk, decide_eq_false low, Bool.not_true, Bool.and_false, Bool.false_or,
      Bool.not_false, Bool.true_and, Bool.and_true]
    rfl
  · simp [h, hk]

/-! ## Immediates (R141, R143) -/

/-- A sign-extended immediate, bit by bit. -/
theorem getLsbD_imm (imm : BitVec 11) {k : Nat} (hk : k < 32) : (imm.signExtend 32).getLsbD k = imm.getLsbD (min k 10) := by
  rw [BitVec.getLsbD_signExtend, BitVec.msb_eq_getLsbD_last, decide_eq_true hk, Bool.true_and]
  split_ifs with h
  · rw [Nat.min_eq_left (by omega)]
  · rw [Nat.min_eq_right (by omega)]

theorem add_imm_eq_ofInt (a : Word) (imm : BitVec 11) : a + imm.signExtend 32 = BitVec.ofInt 32 (a.toInt + imm.toInt) := by
  rw [BitVec.ofInt_add, BitVec.ofInt_toInt, BitVec.signExtend]

/-- The upper 15 bits above the lower 17 of a register. -/
theorem shiftLeft_or_and_eq_ofInt (imm : BitVec 15) (r : Word) :
    (imm.setWidth 32 <<< 17) ||| (r &&& 0x0001FFFF) = BitVec.ofInt 32 (imm.toNat * 2 ^ 17 + r.toNat % 2 ^ 17 : Nat) := by
  have himm := imm.isLt
  have low : r.toNat % 2 ^ 17 < 2 ^ 17 := Nat.mod_lt _ (by decide)
  have upper : (imm.setWidth 32 <<< 17).toNat = 2 ^ 17 * imm.toNat := by
    rw [BitVec.toNat_shiftLeft, BitVec.toNat_setWidth, Nat.shiftLeft_eq]
    omega
  have lower : (r &&& 0x0001FFFF).toNat = r.toNat % 2 ^ 17 := by
    rw [BitVec.toNat_and, ← Nat.and_two_pow_sub_one_eq_mod]
    rfl
  rw [BitVec.ofInt_natCast]
  refine BitVec.eq_of_toNat_eq ?_
  rw [BitVec.toNat_or, upper, lower, ← Nat.two_pow_add_eq_or_of_lt low, BitVec.toNat_ofNat, Nat.mul_comm imm.toNat]
  exact (Nat.mod_eq_of_lt (by omega)).symm

/-! ## Moves -/

theorem getLsbD_pwordOf (f : Fibre) {k : Nat} (hk : k < 32) :
    (pwordOf f.preds).getLsbD k = (k == 0 || (decide (k < 16) && f.pred k)) := by
  rw [pwordOf, BitVec.getLsbD_setWidth, BitVec.getLsbD_or, BitVec.getLsbD_one, Fibre.pred]
  by_cases h0 : k = 0
  · simp [h0]
  · by_cases h : k < 16
    · simp [h0, h, hk]
    · simp [h0, h, BitVec.getLsbD_of_ge f.preds k (Nat.le_of_not_lt h)]

/-! ## Bit by bit -/

/-- A count as an integer. -/
theorem is32_ofNat {m n : Nat} (h : m = n) : is32 (n : Int) (BitVec.ofNat 32 m) := by
  rw [is32, h, BitVec.ofInt_natCast]

section
variable (a b : Word) {k : Nat} (hk : k < 32)
include hk

theorem getLsbD_not_of_lt : (~~~a).getLsbD k = !a.getLsbD k := by
  rw [BitVec.getLsbD_not, decide_eq_true hk, Bool.true_and]

theorem getLsbD_andn : (a &&& ~~~b).getLsbD k = (a.getLsbD k && !b.getLsbD k) := by
  rw [BitVec.getLsbD_and, getLsbD_not_of_lt b hk]

theorem getLsbD_orn : (a ||| ~~~b).getLsbD k = (a.getLsbD k || !b.getLsbD k) := by
  rw [BitVec.getLsbD_or, getLsbD_not_of_lt b hk]

theorem getLsbD_xnor : (~~~(a ^^^ b)).getLsbD k = (a.getLsbD k == b.getLsbD k) := by
  rw [getLsbD_not_of_lt _ hk, BitVec.getLsbD_xor]
  cases a.getLsbD k <;> cases b.getLsbD k <;> rfl

theorem getLsbD_reverseBits : (BitVec.ofNat 32 (reverseBits 32 a.toNat)).getLsbD k = a.getLsbD (31 - k) := by
  rw [BitVec.getLsbD_ofNat, testBit_reverseBits _ _ _ hk, decide_eq_true hk, Bool.true_and]
  rfl

end

section
variable (a : Word) (imm : BitVec 11) {k : Nat} (hk : k < 32)
include hk

theorem getLsbD_and_imm : (a &&& imm.signExtend 32).getLsbD k = (a.getLsbD k && imm.getLsbD (min k 10)) := by
  rw [BitVec.getLsbD_and, getLsbD_imm imm hk]

theorem getLsbD_or_imm : (a ||| imm.signExtend 32).getLsbD k = (a.getLsbD k || imm.getLsbD (min k 10)) := by
  rw [BitVec.getLsbD_or, getLsbD_imm imm hk]

theorem getLsbD_xor_imm : (a ^^^ imm.signExtend 32).getLsbD k = (a.getLsbD k != imm.getLsbD (min k 10)) := by
  rw [BitVec.getLsbD_xor, getLsbD_imm imm hk]

end

/-! ## The words -/

theorem writesLogic : writesWord Env.logic := by
  intro s e i he hr hi
  cases i with
  | and d a b => exact word_gives he hr rfl fun f => ⟨_, rfl, fun _ _ => BitVec.getLsbD_and⟩
  | or d a b => exact word_gives he hr rfl fun f => ⟨_, rfl, fun _ _ => BitVec.getLsbD_or⟩
  | xor d a b => exact word_gives he hr rfl fun f => ⟨_, rfl, fun _ _ => BitVec.getLsbD_xor⟩
  | andn d a b => exact word_gives he hr rfl fun f => ⟨_, rfl, fun _ => getLsbD_andn _ _⟩
  | orn d a b => exact word_gives he hr rfl fun f => ⟨_, rfl, fun _ => getLsbD_orn _ _⟩
  | xnor d a b => exact word_gives he hr rfl fun f => ⟨_, rfl, fun _ => getLsbD_xnor _ _⟩
  | not d a => exact word_gives he hr rfl fun f => ⟨_, rfl, fun _ => getLsbD_not_of_lt _⟩
  | shl d a b => exact word_gives he hr rfl fun f => ⟨_, rfl, shiftLeft_eq_ofInt _ _⟩
  | shr d a b => exact word_gives he hr rfl fun f => ⟨_, rfl, ushiftRight_eq_ofInt _ _⟩
  | sra d a b => exact word_gives he hr rfl fun f => ⟨_, rfl, sshiftRight_eq_ofInt _ _⟩
  | rotl d a b => exact word_gives he hr rfl fun f => ⟨_, rfl, fun _ => getLsbD_rotl _ _⟩
  | rotr d a b => exact word_gives he hr rfl fun f => ⟨_, rfl, fun _ => getLsbD_rotr _ _⟩
  | popc d a => exact word_gives he hr rfl fun f => ⟨_, rfl, is32_ofNat (popCount_eq _ _)⟩
  | clz d a => exact word_gives he hr rfl fun f => ⟨_, rfl, is32_ofNat (leadZeros_eq _ _)⟩
  | ctz d a => exact word_gives he hr rfl fun f => ⟨_, rfl, is32_ofNat (trailZeros_eq _ _)⟩
  | brev d a => exact word_gives he hr rfl fun f => ⟨_, rfl, fun _ => getLsbD_reverseBits _⟩
  | bfe d a b => exact word_gives he hr rfl fun f => ⟨_, rfl, fun _ => getLsbD_bfeWord _ _⟩
  | bfes d a b => exact word_gives he hr rfl fun f => ⟨_, rfl, fun _ => getLsbD_bfesWord _ _⟩
  | bfi d a b => exact word_gives he hr rfl fun f => ⟨_, rfl, fun _ => getLsbD_bfiWord _ _ _⟩
  | bswap d a => exact word_gives he hr rfl fun f => ⟨_, rfl, fun _ => getLsbD_bswapWord _⟩
  | _ => exact absurd (hi default) Bool.false_ne_true

theorem writesImmediate : writesWord Env.immediate := by
  intro s e i he hr hi
  cases i with
  | iaddi d a imm => exact word_gives he hr rfl fun f => ⟨_, rfl, add_imm_eq_ofInt _ _⟩
  | andi d a imm => exact word_gives he hr rfl fun f => ⟨_, rfl, fun _ => getLsbD_and_imm _ _⟩
  | ori d a imm => exact word_gives he hr rfl fun f => ⟨_, rfl, fun _ => getLsbD_or_imm _ _⟩
  | xori d a imm => exact word_gives he hr rfl fun f => ⟨_, rfl, fun _ => getLsbD_xor_imm _ _⟩
  | shli d a n => exact word_gives he hr rfl fun f => ⟨_, rfl, shiftLeft_eq_ofInt _ _⟩
  | shri d a n => exact word_gives he hr rfl fun f => ⟨_, rfl, ushiftRight_eq_ofInt _ _⟩
  | srai d a n => exact word_gives he hr rfl fun f => ⟨_, rfl, sshiftRight_eq_ofInt _ _⟩
  | movi d imm => exact word_gives he hr rfl fun f => ⟨_, rfl, rfl⟩
  | movhi d imm => exact word_gives he hr rfl fun f => ⟨_, rfl, shiftLeft_or_and_eq_ofInt _ _⟩
  | _ => exact absurd (hi default) Bool.false_ne_true

theorem writesMove : writesWord Env.move := by
  intro s e i he hr hi
  cases i with
  | mov d a => exact word_gives he hr rfl fun f => ⟨_, rfl, rfl⟩
  | isel d a b => exact word_gives he hr rfl fun f => ⟨_, rfl, if_congr BitVec.toNat_ne_iff_ne.symm rfl rfl⟩
  | pword d => exact word_gives he hr rfl fun f => ⟨_, rfl, fun _ => getLsbD_pwordOf f⟩
  | movb d bi => exact word_gives he hr rfl fun f => ⟨_, rfl, rfl⟩
  | _ => exact absurd (hi default) Bool.false_ne_true

/-- Settles O11: each table's words compute what it says of the bits, or of the integer, of the result. -/
theorem logicImmediateAndMoveWords : Obligations.LogicImmediateAndMoveWords := by
  unfold Obligations.LogicImmediateAndMoveWords
  exact ⟨writesLogic, writesImmediate, writesMove⟩

end Sys2Proof.Machine
end

section
/-!
# Lanes and bitmaps

Counts and positions among the set bits of a lane mask or a bitmap (R147, R148).
-/

namespace Sys2Proof.Machine

/-! ## Positions of set bits -/

/-- Bit `j` is set bit number `n` (R148). -/
def isSetBit (x n j : Nat) : Bool := x.testBit j && popCount j x == n

theorem isSetBit_zero (x n : Nat) : isSetBit x n 0 = true ↔ x % 2 = 1 ∧ n = 0 := by
  rw [isSetBit, Nat.testBit_zero, popCount, Bool.and_eq_true, decide_eq_true_eq, beq_iff_eq, eq_comm (a := 0)]

/-- Without its lowest bit a number has one set bit less below any other, if that bit was set. -/
theorem isSetBit_succ {x m n : Nat} (h : n = x % 2 + m) : isSetBit x n ∘ Nat.succ = isSetBit (x / 2) m := by
  funext j
  rw [Function.comp_apply, isSetBit, isSetBit, Nat.testBit_succ, Nat.succ_eq_add_one, popCount, h]
  congr 1
  rw [Bool.eq_iff_iff, beq_iff_eq, beq_iff_eq, Nat.add_left_cancel_iff]

theorem find_range_succ (p : Nat → Bool) (k : Nat) :
    (List.range (k + 1)).find? p = if p 0 = true then some 0 else ((List.range k).find? (p ∘ Nat.succ)).map Nat.succ := by
  rw [List.range_succ_eq_map, List.find?_cons, List.find?_map]
  cases p 0 <;> rfl

/-- The search of `bxpos` finds the bit by its number. -/
theorem nthSet_eq (k : Nat) : ∀ i n x, nthSet k i n x = (((List.range k).find? (isSetBit x n)).map (i + ·)).getD 64 := by
  induction k with
  | zero => intro i n x; rfl
  | succ k ih =>
    intro i n x
    have later (m : Nat) (h : n = x % 2 + m) : nthSet k (i + 1) m (x / 2) =
        ((((List.range k).find? (isSetBit x n ∘ Nat.succ)).map Nat.succ).map (i + ·)).getD 64 := by
      rw [ih, isSetBit_succ h, Option.map_map]
      exact congrArg (fun g => (Option.map g _).getD 64) (funext fun j => Nat.add_right_comm i 1 j)
    simp only [nthSet, find_range_succ, isSetBit_zero, ite_and]
    split_ifs with odd zero
    · rfl
    · exact later (n - 1) (by omega)
    · exact later n (by omega)

/-! ## Pairs (R87) -/

theorem loOf_pairOf (lo hi : Word) : loOf (pairOf lo hi) = lo := by
  unfold loOf pairOf
  have := lo.isLt
  have := hi.isLt
  refine BitVec.eq_of_toNat_eq ?_
  simp only [BitVec.toNat_ofNat]
  omega

theorem hiOf_pairOf (lo hi : Word) : hiOf (pairOf lo hi) = hi := by
  unfold hiOf pairOf
  have := lo.isLt
  have := hi.isLt
  refine BitVec.eq_of_toNat_eq ?_
  simp only [BitVec.toNat_ofNat]
  omega

/-! ## Lane masks and bitmaps -/

theorem setBelow_eq (x : DWord) (n : Nat) : setBelow x n = popCount n x.toNat := (popCount_eq n x.toNat).symm

/-- The mask of a list of lanes. -/
theorem getLsbD_foldl_or (p : List Nat) : ∀ (m : DWord) {k : Nat}, k < 64 →
    (p.foldl (fun m i => m ||| 1#64 <<< i) m).getLsbD k = (m.getLsbD k || p.contains k) := by
  induction p with
  | nil => intro m k _; simp
  | cons i p ih =>
    intro m k hk
    have bit : (1#64 <<< i).getLsbD k = (k == i) := by
      rw [BitVec.getLsbD_shiftLeft, BitVec.getLsbD_one, decide_eq_true hk]
      grind
    rw [List.foldl_cons, ih _ hk, BitVec.getLsbD_or, bit, List.contains_cons, Bool.or_assoc]

/-- The lanes that count, in rising order (R147). -/
theorem setLanes_eq (e : Env) (f : Fibre) (a : BitVec 6) : e.setLanes f a = (List.range 64).filter (e.flagged f a) := by
  rw [Env.setLanes, Env.liveLanes, List.filter_filter]
  exact List.filter_congr fun i _ => Bool.and_comm _ _

theorem filter_setLanes_lt (e : Env) (f : Fibre) (a : BitVec 6) : (e.setLanes f a).filter (· < f.lane) =
    (List.range 64).filter fun i => decide (i < f.lane) && e.flagged f a i := by
  rw [setLanes_eq, List.filter_filter]

theorem popCount_and (x y : DWord) : popCount 64 (x &&& y).toNat =
    ((List.range 64).filter fun k => x.getLsbD k && y.getLsbD k).length := by
  rw [popCount_eq]
  exact congrArg (fun p => ((List.range 64).filter p).length) (funext fun k => BitVec.getLsbD_and)

theorem bits64_ballot (e : Env) (f : Fibre) (a : BitVec 6) :
    bits64 (e.flagged f a) ((e.setLanes f a).foldl (fun m i => m ||| 1#64 <<< i) 0) := by
  intro k hk
  rw [getLsbD_foldl_or _ _ hk, setLanes_eq, Bool.eq_iff_iff]
  simp [hk]

/-- Position and count of `bxpos` (R148). -/
theorem bxpos_spec (x : DWord) (n : Word) :
    let w := pairOf (BitVec.ofNat 32 (nthSet 64 0 n.toNat x.toNat)) (BitVec.ofNat 32 (popCount 64 x.toNat))
    loOf w = BitVec.ofNat 32 (((List.range 64).find? fun k => x.getLsbD k && setBelow x k == n.toNat).getD 64) ∧
      hiOf w = BitVec.ofNat 32 (setBelow x 64) := by
  have numbered : (fun k => x.getLsbD k && setBelow x k == n.toNat) = isSetBit x.toNat n.toNat :=
    funext fun k => by rw [isSetBit, setBelow_eq]; rfl
  refine ⟨?_, ?_⟩
  · rw [loOf_pairOf, numbered, nthSet_eq]
    simp only [Nat.zero_add, Option.map_id']
  · rw [hiOf_pairOf, setBelow_eq]

/-! ## The words -/

theorem writesLane32 : writesWord Env.lane32 := by
  intro s e i he hr hi
  cases i with
  | lshfl d a b => exact word_gives he hr rfl fun f => ⟨_, rfl, rfl⟩
  | lrank d a => exact word_gives he hr rfl fun f => ⟨_, rfl, is32_ofNat (congrArg List.length (filter_setLanes_lt e f a))⟩
  | lfirst d a =>
    exact word_gives he hr rfl fun f => ⟨_, rfl, is32_ofNat (by
      rw [setLanes_eq, List.headD_eq_head?_getD, List.head?_filter])⟩
  | _ => exact absurd (hi default) Bool.false_ne_true

theorem writesBitmap32 : writesWord Env.bitmap32 := by
  intro s e i he hr hi
  cases i with
  | bxcnt d a b => exact word_gives he hr rfl fun f => ⟨_, rfl, is32_ofNat (popCount_and _ _)⟩
  | bmpre d a b => exact word_gives he hr rfl fun f => ⟨_, rfl, is32_ofNat (setBelow_eq _ _).symm⟩
  | _ => exact absurd (hi default) Bool.false_ne_true

theorem writesBitmap64 : writesPair Env.bitmap64 := by
  intro s e i he hr hi
  cases i with
  | lballot d a => exact pair_gives he hr rfl (fun h => of_decide_eq_true h) fun f => ⟨_, rfl, bits64_ballot e f a⟩
  | bxpos d a b => exact pair_gives he hr rfl (fun h => (of_decide_eq_true h).2) fun f => ⟨_, rfl, bxpos_spec _ _⟩
  | bmerge d a b =>
    exact pair_gives he hr rfl (fun h => (of_decide_eq_true h).2.2) fun f => ⟨_, rfl, fun _ _ => BitVec.getLsbD_or⟩
  | _ => exact absurd (hi default) Bool.false_ne_true

/-- Settles O12: the lanes that count are a filter of the home group's lanes, and `popCount_eq` and `nthSet_eq` read
the bitmaps. -/
theorem laneAndBitmapWords : Obligations.LaneAndBitmapWords := by
  unfold Obligations.LaneAndBitmapWords
  exact ⟨writesLane32, writesBitmap32, writesBitmap64⟩

end Sys2Proof.Machine
end

section
/-!
# `nop` and `yield`

Words without effect on a fibre, and the age of a cohort's context (R123, R319).
-/

namespace Sys2Proof.Machine

/-- A word without effect, where marking its results changes nothing. -/
theorem idle_acts {s : State} {e : Env} {i : Instr} (he : s.env? = some e) (hr : e.ready i = true)
    (hm : ∀ c, e.marked i c c = c) :
    e.acts s (s.actEach i fun _ _ f => own (.ok f)) fun _ c g => g = c :=
  acts_of_local (fun _ c => { fibre := c }) he hr (fun _ _ _ _ _ _ _ _ _ _ _ _ _ => ⟨rfl, rfl, rfl, rfl, rfl⟩)
    fun _ _ _ c _ _ _ => ⟨rfl, rfl, rfl, rfl, hm c⟩

/-- Whether a fibre acts. -/
theorem actives_eq_nil {e : Env} {i : Instr} (hr : e.ready i = true) :
    e.actives = [] ↔ (e.is.live.filterMap e.b.fibre?).any e.active = false := by
  rw [← List.map_eq_nil_iff (f := Prod.fst), actives_fst hr, List.filter_eq_nil_iff, List.any_eq_false]

/-- The cores after a cohort has become the youngest of its core (R123, R319). -/
theorem modCore_youngest (s : State) (n l b g : Nat) : (s.modCore n fun k => k.youngest l b g) =
    { s with cores := s.cores.map fun k => if k.num = n ∧ k.policy = .gto then
        { k with nextAge := k.nextAge + 1, contexts := k.contexts.map fun (x : Context) =>
            if x.launch = l ∧ x.block = b ∧ x.group = g then { x with age := k.nextAge, streak := 0 } else x }
        else k } := by
  refine congrArg (fun cs => { s with cores := cs }) (List.map_congr_left fun k _ => ?_)
  simp only [Core.youngest, ite_and]

/-- A `yield` changes its core if a fibre acts (R123). -/
theorem yield_next {s : State} {e : Env} (he : s.env? = some e) (hr : e.ready .yield = true) : ∃ t0 : State,
    (e.acts s t0 fun _ c g => g = c) ∧ exec .yield s = .next (if e.actives = [] then t0
      else t0.modCore (e.b.coreOf e.is.group) fun k => k.youngest e.is.launch e.is.block e.is.group) := by
  have acts := idle_acts he hr fun c => marked_of_no_result e rfl rfl c c
  have issue := (acts_keeps acts).1.trans (env_eq he).1
  refine ⟨_, acts, ?_⟩
  simp only [exec, execYield, he, issue, actives_eq_nil hr]
  cases (e.is.live.filterMap e.b.fibre?).any e.active <;> rfl

/-- Settles O28: `idle_acts` is the effect on fibres, and `yield_next` the one on the core. -/
theorem nopAndYield : Obligations.NopAndYield := by
  unfold Obligations.NopAndYield
  intro s e he
  refine ⟨fun hr => ⟨_, rfl, idle_acts he hr fun c => marked_of_no_result e rfl rfl c c⟩, fun hr => ?_⟩
  obtain ⟨t0, acts, next⟩ := yield_next he hr
  refine ⟨t0, acts, fun idle => ?_, fun acting => ?_⟩
  · rw [next, if_pos idle]
  · rw [next, if_neg acting, modCore_youngest, (acts_keeps acts).2]

end Sys2Proof.Machine
end

section
/-!
# Special registers

Reading by `movs` (R145), and writing trap registers and the latency tolerance by `movsw` (R380).
-/

namespace Sys2Proof.Machine

/-! ## Reading (R145) -/

/-- The fibre that `movs` writes to: a read of `clock` has set its latch (R145). -/
def Fibre.latched (c : Fibre) (sr : BitVec 6) (cycle : Nat) : Fibre :=
  if sr = 12 then { c with clockh := BitVec.ofNat 32 (cycle / 2 ^ 32) } else c

theorem latched_takes (c : Fibre) (sr : BitVec 6) (cycle : Nat) (ns : List Nat) : (c.latched sr cycle).takes ns = c.takes ns := by
  unfold Fibre.latched
  split_ifs <;> rfl

theorem latched_id (c : Fibre) (sr : BitVec 6) (cycle : Nat) : (c.latched sr cycle).id = c.id := by
  unfold Fibre.latched
  split_ifs <;> rfl

theorem movs_gives {s : State} {e : Env} {d sr : BitVec 6} (he : s.env? = some e) (hr : e.ready (.movs d sr) = true) :
    ∃ t, exec (.movs d sr) s = .next t ∧
      e.acts s t fun v c g => (c.latched sr e.is.cycle).wrote g [(d.toNat, e.special v sr.toNat)] := by
  have key : ∀ id ∈ e.is.live, ∀ v c, e.b.fibre? id = some v → e.cur? id = some c → e.active v = true →
      ∃ g, (c.latched sr e.is.cycle).write [(d.toNat, e.special v sr.toNat)] = .ok g ∧
        (c.latched sr e.is.cycle).wrote g [(d.toNat, e.special v sr.toNat)] ∧ g.id = c.id := by
    intro id hid v c hv hc ha
    obtain ⟨g, hg, wrote, same⟩ := write_ok (f := c.latched sr e.is.cycle) (ws := [(d.toNat, e.special v sr.toNat)])
      ((latched_takes c sr _ _).trans (ready_takes hr hid hv hc ha)) (by simpa using d.isLt)
    exact ⟨g, hg, wrote, same.trans (latched_id c sr _)⟩
  refine ⟨_, rfl, acts_of_local (fun v c => effOf ((c.latched sr e.is.cycle).write [(d.toNat, e.special v sr.toNat)]))
    he hr ?_ ?_⟩
  · intro ls bl cs ga sp lt id hid v c hv hc ha
    obtain ⟨g, hg, -, same⟩ := key id hid v c hv hc ha
    refine ⟨own_ok hg, ?_⟩
    simpa only [hg, effOf, true_and] using same
  · intro id hid v c hv hc ha
    obtain ⟨g, hg, wrote, -⟩ := key id hid v c hv hc ha
    simp only [hg, effOf, true_and]
    exact wrote_marked e _ wrote

theorem special_region (e : Env) (f : Fibre) {r : Region} (h : e.s.region? e.l.rcb = some r) :
    e.special f 15 = BitVec.ofNat 32 r.regionid ∧ e.special f 23 = BitVec.ofNat 32 r.ltolSeen := by
  simp [Env.special, h]

/-! ## Writing the trap registers (R380) -/

theorem put_mode (t : TrapRegs) (sr : Nat) (w : Word) : (t.put sr w).mode = t.mode := by
  unfold TrapRegs.put
  split <;> rfl

theorem put_fields (t : TrapRegs) (sr : BitVec 6) (w : Word) :
    (t.put sr.toNat w).epc = (if sr = 18 then w else t.epc) ∧
    (t.put sr.toNat w).ecause = (if sr = 19 then w else t.ecause) ∧
    (t.put sr.toNat w).einfo0 = (if sr = 20 then w else t.einfo0) ∧
    (t.put sr.toNat w).einfo1 = (if sr = 21 then w else t.einfo1) := by
  simp only [BitVec.toNat_eq]
  unfold TrapRegs.put
  split <;> simp_all

/-- A trap register written; the step-start values are kept (R380, R32). -/
def Fibre.putTrap (c : Fibre) (sr : BitVec 6) (w : Word) : Fibre :=
  { c with trapSaved := some (c.trapSaved.getD c.trap), trap := c.trap.put sr.toNat w }

theorem orElse_some {α : Type} (o : Option α) (x : α) : (o.orElse fun _ => some x) = some (o.getD x) := by
  cases o <;> rfl

/-- What a `movsw` of the latency tolerance does for a fibre: its write joins the step buffer (log 55). -/
def Env.ltolEff (e : Env) (b : BitVec 6) (v c : Fibre) : Eff :=
  { fibre := { c with seq := c.seq + 1 }, ltols := [(c.id, c.seq, (e.srcB v b).toNat)] }

/-- A `movsw` acts for each fibre, and then once for the region if it writes the latency tolerance (R380). -/
theorem execMovsw_spec (s : State) (sr b : BitVec 6) : ∃ eff,
    (∀ (e : Env) (v c : Fibre), eff e v c =
      .ok (if sr = 23 then e.ltolEff b v c else { fibre := c.putTrap sr (e.srcB v b) })) ∧
    ∀ (e : Env) (is : Issue), s.env? = some e → (s.actEach (.movsw sr b) eff).issue = some is →
      exec (.movsw sr b) s = .next (if sr = 23 then
          State.setLtols e b (is.live.filterMap e.b.fibre?) (s.actEach (.movsw sr b) eff)
        else s.actEach (.movsw sr b) eff) := by
  refine ⟨fun e r f => if sr = 23 then .ok (e.ltolEff b r f) else own (.ok { f with
    trapSaved := f.trapSaved.orElse fun _ => some f.trap, trap := f.trap.put sr.toNat (e.srcB r b) }), fun e v c => ?_,
    fun e is he issue => ?_⟩
  · split_ifs
    · rfl
    · simp only [own, orElse_some]
      rfl
  · show execMovsw sr b s = _
    unfold execMovsw
    dsimp only
    split
    next e' is' he' issue' =>
      cases he.symm.trans he'
      cases issue.symm.trans issue'
      split_ifs <;> rfl
    next missing => exact (missing e is he issue).elim

theorem movsw_trap_acts {s : State} {e : Env} {sr b : BitVec 6} (he : s.env? = some e)
    (hr : e.ready (.movsw sr b) = true) (h : sr ≠ 23) : ∃ t, exec (.movsw sr b) s = .next t ∧
      e.acts s t fun v c g => g = { c.putTrap sr (e.srcB v b) with busy := g.busy } := by
  obtain ⟨eff, heff, next⟩ := execMovsw_spec s sr b
  have acts : e.acts s (s.actEach (.movsw sr b) eff) fun v c g => g = { c.putTrap sr (e.srcB v b) with busy := g.busy } :=
    acts_of_local (fun v c => { fibre := c.putTrap sr (e.srcB v b) }) he hr
      (fun ls bl cs ga sp lt _ _ v c _ _ _ => ⟨by rw [heff, if_neg h]; rfl, rfl, rfl, rfl, rfl⟩)
      fun _ _ v c _ _ _ => ⟨rfl, rfl, rfl, rfl, busy_of_marked rfl c _⟩
  refine ⟨_, next e e.is he ((acts_keeps acts).1.trans (env_eq he).1), ?_⟩
  rw [if_neg h]
  exact acts

/-! ## Writing the latency tolerance (R380) -/

theorem setLtol_setLtol (s : State) (rcb : Nat) (x y : Word) : (s.setLtol rcb x).setLtol rcb y = s.setLtol rcb y := by
  refine congrArg (fun rs => { s with regions := rs }) ?_
  exact map_mod_mod Region.rcb (fun r => { r with ltol := y.toNat }) (fun r => { r with ltol := x.toNat }) rcb
    (fun _ => rfl) s.regions

/-- Of several writes the last holds (R380, R20). -/
theorem setLtols_eq (e : Env) (b : BitVec 6) : ∀ (fs : List Fibre) (s : State), State.setLtols e b fs s =
    (fs.filter e.active).getLast?.elim s fun v => s.setLtol e.l.rcb (e.srcB v b)
  | [], s => rfl
  | f :: fs, s => by
    rw [State.setLtols, setLtols_eq e b fs]
    cases hf : e.active f
    · rw [List.filter_cons_of_neg (by simp [hf])]
      rfl
    · rw [List.filter_cons_of_pos hf, List.getLast?_cons]
      cases (fs.filter e.active).getLast? with
      | none => rfl
      | some v => exact setLtol_setLtol s e.l.rcb _ _

theorem movsw_ltol_next {s : State} {e : Env} {b : BitVec 6} (he : s.env? = some e) (hr : e.ready (.movsw 23 b) = true)
    {v c : Fibre} (last : e.actives.getLast? = some (v, c)) : exec (.movsw 23 b) s = .next
      ((s.modBlock e.is.launch e.is.block (e.after (.movsw 23 b) (e.ltolEff b) e.is.live)).setLtol e.l.rcb (e.srcB v b)) := by
  obtain ⟨eff, heff, next⟩ := execMovsw_spec s 23 b
  have block := actEach_local (e.ltolEff b) he hr fun _ _ _ _ _ _ _ _ _ _ _ _ _ => ⟨heff _ _ _, rfl, rfl, rfl, rfl⟩
  have lastFibre : ((e.is.live.filterMap e.b.fibre?).filter e.active).getLast? = some v := by
    rw [← actives_fst hr, List.getLast?_map, last]
    rfl
  rw [block] at next
  rw [next e e.is he (env_eq he).1, if_pos rfl, setLtols_eq, lastFibre, Option.elim_some]

/-- The block after a `movsw` of the latency tolerance. -/
theorem after_ltol (e : Env) (b : BitVec 6) (x : Block) : e.after (.movsw 23 b) (e.ltolEff b) e.is.live x =
    { x with fibres := x.fibres.map (e.updOn (.movsw 23 b) (e.ltolEff b) e.is.live),
             ltols := x.ltols ++ e.actives.map fun y => (y.2.id, y.2.seq, (e.srcB y.1 b).toNat) } := by
  have nothing {α : Type} : (e.actives.map fun _ => ([] : List α)).flatten = [] := by simp
  simp only [Env.after, effsOn_live, List.map_map, Function.comp_def, Env.ltolEff, nothing, List.append_nil]
  rw [← List.flatMap_def, ← List.map_eq_flatMap]

/-- Settles O17: `movs_gives` is the read, `special_region` the registers of a region, `movsw_trap_acts` the write of a trap
register, and `movsw_ltol_next` with `after_ltol` that of the latency tolerance. -/
theorem specialRegisters : Obligations.SpecialRegisters := by
  unfold Obligations.SpecialRegisters
  refine ⟨fun s e d sr he hr => movs_gives he hr, fun e f => ?_, fun s e sr b he hr h => ?_,
    fun s e b v c he hr last => ⟨_, movsw_ltol_next he hr last, rfl, e.updOn (.movsw 23 b) (e.ltolEff b) e.is.live, ?_,
      fun f => updOn_inactive, fun y hy => ?_⟩⟩
  · exact ⟨rfl, rfl, rfl, rfl, rfl, rfl, rfl, rfl, rfl, rfl, rfl, rfl, rfl, rfl, rfl, rfl, rfl, rfl, rfl, rfl, rfl, rfl,
      fun r => special_region e f, rfl⟩
  · obtain ⟨t, next, acts⟩ := movsw_trap_acts he hr h
    refine ⟨t, next, acts_imp acts fun v c g hg => ?_⟩
    have trap : g.trap = c.trap.put sr.toNat (e.srcB v b) := by rw [hg]; rfl
    rw [trap]
    exact ⟨hg, put_mode _ _ _, put_fields _ _ _⟩
  · rw [← modBlock_congr (after_ltol e b)]
    rfl
  · rw [updOn_active hy, busy_of_marked rfl]
    rfl

end Sys2Proof.Machine
end

section
/-!
# The reset state

What stands in the machine after reset.
-/

namespace Sys2Proof.Machine

/-- Settles O5: the tables are written out in `State.reset`, and every core and port is one of the same kind. -/
theorem resetState : Obligations.ResetState := by
  unfold Obligations.ResetState
  have length {α : Type} (f : Nat → α) (n : Nat) : ((List.range n).map f).length = n :=
    (List.length_map _).trans List.length_range
  refine ⟨rfl, rfl, rfl, rfl, rfl, rfl, rfl, rfl, rfl, rfl, rfl, rfl, length _ 216, fun k hk => ?_, length _ 96,
    fun p hp => ?_, length _ 24, length _ 12, List.length_replicate, rfl⟩
  · obtain ⟨n, -, rfl⟩ := List.mem_map.1 hk
    exact ⟨rfl, rfl⟩
  · obtain ⟨n, -, rfl⟩ := List.mem_map.1 hp
    rfl

end Sys2Proof.Machine
end

section
/-!
# Rounding

What R157 leaves of an exact value, and what a pattern that it delivers reads as (R154 to R158).
-/

namespace Sys2Proof.Machine

/-! ## Patterns made of a sign and a magnitude -/

theorem mag_signed {f : Fmt} (neg : Bool) {g : Nat} (h : g < f.signBit) : f.mag (f.signed neg g) = g := by
  unfold Fmt.mag Fmt.signed
  split_ifs
  · rw [Nat.add_mod_left, Nat.mod_eq_of_lt h]
  · exact Nat.mod_eq_of_lt h

theorem negBit_signed {f : Fmt} (neg : Bool) {g : Nat} (h : g < f.signBit) : f.negBit (f.signed neg g) = neg := by
  have hS : 0 < f.signBit := Nat.two_pow_pos _
  unfold Fmt.negBit Fmt.signed
  cases neg
  · rw [if_neg Bool.false_ne_true, Nat.div_eq_of_lt h]
    rfl
  · rw [if_pos rfl, Nat.add_div_left _ hS, Nat.div_eq_of_lt h]
    rfl

theorem signed_mag {f : Fmt} {b : Nat} (h : b < 2 ^ f.width) : f.signed (f.negBit b) (f.mag b) = b := by
  have hdiv := Nat.div_add_mod b f.signBit
  rw [two_pow_width, Nat.mul_comm] at h
  have hq := Nat.div_lt_of_lt_mul h
  unfold Fmt.signed Fmt.negBit Fmt.mag
  generalize b / f.signBit = k at *
  interval_cases k <;> simp_all

theorem signed_lt {f : Fmt} (neg : Bool) {g : Nat} (h : g < f.signBit) : f.signed neg g < 2 ^ f.width := by
  rw [two_pow_width]
  unfold Fmt.signed
  split_ifs <;> omega

theorem infBits_lt_signBit (f : Fmt) : f.infBits < f.signBit := by
  rw [Fmt.signBit, Nat.pow_add]
  exact Nat.mul_lt_mul_of_pos_right (Nat.sub_one_lt (Nat.two_pow_pos _).ne') (Nat.two_pow_pos _)

theorem infBits_pos {f : Fmt} (he : 0 < f.ebits) : 0 < f.infBits :=
  Nat.mul_pos (Nat.sub_pos_of_lt (Nat.one_lt_two_pow he.ne')) (Nat.two_pow_pos _)

theorem read_signed_inf (f : Fmt) (neg : Bool) : f.read (f.signed neg f.infBits) = .inf neg := by
  rw [read_eq, mag_signed neg (infBits_lt_signBit f), negBit_signed neg (infBits_lt_signBit f), Fmt.infBits,
    Nat.mul_div_cancel _ (Nat.two_pow_pos _), if_pos rfl, Nat.mul_mod_left, if_pos rfl]

theorem read_signed_zero {f : Fmt} (he : 0 < f.ebits) (neg : Bool) : f.read (f.signed neg 0) = .zero neg := by
  have hS : 0 < f.signBit := Nat.two_pow_pos _
  have htop : 0 ≠ 2 ^ f.ebits - 1 := (Nat.sub_pos_of_lt (Nat.one_lt_two_pow he.ne')).ne
  rw [read_eq, mag_signed neg hS, negBit_signed neg hS, Nat.zero_div, if_neg htop, if_pos rfl, Nat.zero_mod, if_pos rfl]

/-- A magnitude below an infinity's is no NaN. -/
theorem isNan_signed {f : Fmt} (neg : Bool) {g : Nat} (h : g < f.infBits) : f.isNan (f.signed neg g) = false := by
  have htop : g / 2 ^ f.fbits ≠ 2 ^ f.ebits - 1 := (Nat.div_lt_of_lt_mul (Nat.mul_comm _ _ ▸ h)).ne
  rw [Fmt.isNan, read_eq, mag_signed neg (h.trans (infBits_lt_signBit f)), if_neg htop]
  split_ifs <;> rfl

/-- The sign of a number. -/
def signOf (K : Type) [Ring K] (neg : Bool) : K := if neg = true then -1 else 1

/-- A nonzero magnitude below an infinity's reads as its number of units, with its sign (R155). -/
theorem read_signed_fin {f : Fmt} (K : Type) [Field K] [CharZero K] (neg : Bool) {g : Nat} (h0 : g ≠ 0)
    (h : g < f.infBits) : ∃ a x, f.read (f.signed neg g) = .fin a x ∧
      (a : K) * (2 : K) ^ x = signOf K neg * (f.units g * (2 : K) ^ f.qmin) := by
  have hS := h.trans (infBits_lt_signBit f)
  rcases read_cases (isNan_signed neg h) with ⟨-, mag⟩ | ⟨-, mag⟩ | ⟨k, x, read, units, -⟩
  · exact absurd (mag_signed neg hS ▸ mag) h.ne
  · exact absurd (mag_signed neg hS ▸ mag) h0
  · rw [mag_signed neg hS] at units
    refine ⟨_, _, read, ?_⟩
    rw [negBit_signed neg hS, ← units, zpow_add₀ two_ne_zero, zpow_natCast, signOf]
    split_ifs <;> push_cast <;> ring

/-! ## The largest finite value -/

/-- The units of a significand n whose last bit weighs d binades more than a subnormal's; n may be the next power of two. -/
theorem units_significand (f : Fmt) {d n : Nat} (hle : n ≤ 2 ^ (f.fbits + 1)) (hge : d ≠ 0 → 2 ^ f.fbits ≤ n) :
    f.units (d * 2 ^ f.fbits + n) = n * 2 ^ d := by
  have hP : 0 < 2 ^ f.fbits := Nat.two_pow_pos _
  rw [Nat.pow_succ] at hle
  rcases Nat.lt_or_ge n (2 ^ f.fbits) with small | normal
  · obtain rfl : d = 0 := by by_contra hd; exact absurd (hge hd) (Nat.not_le.2 small)
    have := units_eq f (ex := 0) small
    simpa using this
  · obtain ⟨r, rfl⟩ := Nat.exists_eq_add_of_le normal
    rcases Nat.lt_or_ge r (2 ^ f.fbits) with inside | carry
    · rw [show d * 2 ^ f.fbits + (2 ^ f.fbits + r) = 2 ^ f.fbits * (d + 1) + r by ring, units_eq f inside,
        if_neg d.succ_ne_zero, Nat.add_sub_cancel, Nat.add_comm r]
    · obtain rfl : r = 2 ^ f.fbits := by omega
      rw [show d * 2 ^ f.fbits + (2 ^ f.fbits + 2 ^ f.fbits) = 2 ^ f.fbits * (d + 2) + 0 by ring, units_eq f hP,
        if_neg (d + 1).succ_ne_zero]
      rw [Nat.zero_add, show d + 2 - 1 = d + 1 from rfl]
      ring

/-- The largest finite value, as R154 gives it. -/
def Fmt.largest (f : Fmt) (K : Type) [Field K] : K := (2 - (2 : K) ^ (-(f.fbits : Int))) * (2 : K) ^ f.bias

theorem largest_eq {f : Fmt} (he : 2 ≤ f.ebits) (K : Type) [Field K] [CharZero K] :
    f.largest K = f.units (f.infBits - 1) * (2 : K) ^ f.qmin := by
  obtain ⟨b, hb⟩ : ∃ b, f.ebits = b + 2 := ⟨f.ebits - 2, by omega⟩
  have hP : 0 < 2 ^ f.fbits := Nat.two_pow_pos _
  have hB : 0 < 2 ^ b := Nat.two_pow_pos _
  have pattern : f.infBits - 1 = (2 ^ f.ebits - 3) * 2 ^ f.fbits + (2 ^ (f.fbits + 1) - 1) := by
    obtain ⟨t, ht⟩ : ∃ t, 2 ^ f.ebits = t + 3 := ⟨2 ^ f.ebits - 3, by rw [hb, pow_add]; omega⟩
    rw [Fmt.infBits, ht, pow_succ, show t + 3 - 1 = t + 2 by omega, show t + 3 - 3 = t by omega, Nat.add_mul]
    omega
  have exponent : f.bias = f.qmin + (2 ^ f.ebits - 3 : Nat) + f.fbits := by
    rw [Fmt.qmin, Fmt.emin, Fmt.bias, hb, Nat.cast_sub (by rw [pow_add]; omega), show b + 2 - 1 = b + 1 from rfl]
    push_cast
    ring
  rw [pattern, units_significand f (Nat.sub_le _ _) (fun _ => by rw [pow_succ]; omega), Fmt.largest, exponent,
    zpow_add₀ two_ne_zero, zpow_add₀ two_ne_zero, zpow_neg, zpow_natCast, zpow_natCast, Nat.cast_mul, Nat.cast_pow,
    Nat.cast_sub Nat.one_le_two_pow, pow_succ]
  push_cast
  field_simp

/-! ## Overflow -/

/-- The largest finite pattern reads as the largest finite value (R154, R158). -/
theorem read_largest {f : Fmt} (he : 2 ≤ f.ebits) (neg : Bool) : ∃ a g, f.read (f.signed neg (f.infBits - 1)) = .fin a g ∧
    (f.read (f.signed neg (f.infBits - 1))).toRat = (if neg = true then -1 else 1) * f.largest ℚ := by
  have pos : 0 < f.infBits := infBits_pos (by omega)
  have big : 1 < f.infBits := by
    have := Nat.mul_le_mul (Nat.sub_le_sub_right (Nat.pow_le_pow_right two_pos he) 1) (Nat.one_le_two_pow (n := f.fbits))
    unfold Fmt.infBits
    omega
  obtain ⟨a, g, read, value⟩ := read_signed_fin (f := f) ℚ neg (g := f.infBits - 1) (by omega) (by omega)
  exact ⟨a, g, read, by rw [read, largest_eq he]; exact value⟩

theorem two_le_ebits {f : Fmt} (hf : f ∈ [f16, bf16, f32, f64]) : 2 ≤ f.ebits := by
  revert f
  decide

/-- Settles O39: overflow delivers an infinity or the largest finite pattern, by `read_signed_inf` and `read_largest`. -/
theorem overflowTable : Obligations.OverflowTable := by
  unfold Obligations.OverflowTable
  intro f hf
  refine ⟨read_signed_inf f false, read_signed_inf f true, read_signed_inf f false, read_signed_inf f true, ?_⟩
  rintro mode neg (rfl | rfl | ⟨rfl, rfl⟩ | ⟨rfl, rfl⟩)
  · exact read_largest (two_le_ebits hf) neg
  · exact read_largest (two_le_ebits hf) neg
  · exact read_largest (two_le_ebits hf) true
  · exact read_largest (two_le_ebits hf) false

/-! ## The choice of R157 -/

/-- A quotient by its integer part and its remainder. -/
theorem cast_div_eq (m d : Nat) (hd : 0 < d) : (m : ℚ) / d = (m / d : Nat) + ((m % d : Nat) : ℚ) / d := by
  have hd' : (d : ℚ) ≠ 0 := by exact_mod_cast hd.ne'
  field_simp
  exact_mod_cast (Nat.div_add_mod m d).symm

/-- A rounding decision on a quotient is the choice of R157. -/
theorem roundUnit_eq_chooseInt (mode : RMode) (neg : Bool) (m : Nat) {d : Nat} (hd : 0 < d) :
    roundUnit mode neg (m / d) (m % d) d = chooseInt mode neg ((m : ℚ) / d) := by
  have hd' : (0 : ℚ) < d := by exact_mod_cast hd
  have exact_iff : (m : ℚ) / d = (m / d : Nat) ↔ m % d = 0 := by
    rw [cast_div_eq m d hd, add_eq_left, div_eq_zero_iff, or_iff_left hd'.ne', Nat.cast_eq_zero]
  have above : 1 / 2 < (m : ℚ) / d - (m / d : Nat) ↔ d < 2 * (m % d) := by
    rw [cast_div_eq m d hd, add_sub_cancel_left, div_lt_div_iff₀ two_pos hd', one_mul, mul_comm]
    exact_mod_cast Iff.rfl
  have tie : (m : ℚ) / d - (m / d : Nat) = 1 / 2 ↔ 2 * (m % d) = d := by
    rw [cast_div_eq m d hd, add_sub_cancel_left, div_eq_div_iff hd'.ne' two_ne_zero, one_mul, mul_comm]
    exact_mod_cast Iff.rfl
  unfold roundUnit chooseInt
  dsimp only
  rw [Nat.floor_div_eq_div]
  simp only [exact_iff, above, tie]
  by_cases exact : m % d = 0
  · rw [if_pos exact, if_pos exact]
  · rw [if_neg exact, if_neg exact]
    cases mode with
    | rne => simp
    | _ => rfl

theorem chooseInt_natCast (mode : RMode) (neg : Bool) (n : Nat) : chooseInt mode neg (n : ℚ) = n := by
  simp [chooseInt]

theorem chooseInt_cases (mode : RMode) (neg : Bool) (t : ℚ) :
    chooseInt mode neg t = ⌊t⌋₊ ∨ chooseInt mode neg t = ⌊t⌋₊ + 1 := by
  unfold chooseInt
  cases mode <;> dsimp only <;> split_ifs <;> simp

theorem chooseInt_le {mode : RMode} {neg : Bool} {t : ℚ} {n : Nat} (h0 : 0 ≤ t) (h : t < n) : chooseInt mode neg t ≤ n := by
  have := (Nat.floor_lt h0).2 h
  rcases chooseInt_cases mode neg t with c | c <;> omega

theorem le_chooseInt {mode : RMode} {neg : Bool} {t : ℚ} {n : Nat} (h : (n : ℚ) ≤ t) : n ≤ chooseInt mode neg t := by
  have := Nat.le_floor h
  rcases chooseInt_cases mode neg t with c | c <;> omega

/-- To nearest, a tie goes to the even neighbour (R157). -/
theorem chooseInt_nearest (neg : Bool) {t : ℚ} (h0 : 0 ≤ t) :
    |t - chooseInt .rne neg t| < 1 / 2 ∨ (|t - chooseInt .rne neg t| = 1 / 2 ∧ chooseInt .rne neg t % 2 = 0) := by
  have lo := Nat.floor_le h0
  have hi := Nat.lt_floor_add_one t
  unfold chooseInt
  dsimp only
  split_ifs with exact up
  · rw [← exact]
    left
    norm_num
  · push_cast
    rw [abs_sub_comm, abs_of_pos (by linarith)]
    rcases up with above | ⟨tie, odd⟩
    · left
      linarith
    · exact Or.inr ⟨by linarith, by omega⟩
  · rw [abs_of_nonneg (by linarith)]
    rcases lt_trichotomy (t - ⌊t⌋₊) (1 / 2) with below | tie | above
    · exact Or.inl below
    · exact Or.inr ⟨tie, by have : ¬ ⌊t⌋₊ % 2 = 1 := fun odd => up (Or.inr ⟨tie, odd⟩); omega⟩
    · exact absurd (Or.inl above) up

/-! ## Rounding an exact value m × 2^e -/

section
variable {K : Type} [Field K] [LinearOrder K] [IsStrictOrderedRing K] [FloorSemiring K]

/-- The logarithm of a value between two powers of two. -/
theorem log_eq_of_bounds {x : K} {k : Int} (lo : (2 : K) ^ k ≤ x) (hi : x < (2 : K) ^ (k + 1)) : Int.log 2 x = k := by
  have pos : 0 < x := lt_of_lt_of_le (by positivity) lo
  have above := (Int.lt_zpow_iff_log_lt Nat.one_lt_two pos).1 (by exact_mod_cast hi)
  have below := (Int.zpow_le_iff_le_log Nat.one_lt_two pos).1 (by exact_mod_cast lo)
  omega

/-- The logarithm of a value whose first bits are n. -/
theorem log_eq_of_mem {n : Nat} (hn : n ≠ 0) {e : Int} {x : K} (lo : (n : K) * (2 : K) ^ e ≤ x)
    (hi : x < (n + 1) * (2 : K) ^ e) : Int.log 2 x = Nat.log2 n + e := by
  have pos : (0 : K) < (2 : K) ^ e := by positivity
  refine log_eq_of_bounds (le_trans ?_ lo) (lt_of_lt_of_le hi ?_)
  · rw [zpow_add₀ two_ne_zero, zpow_natCast]
    exact mul_le_mul_of_nonneg_right (by exact_mod_cast Nat.log2_self_le hn) pos.le
  · rw [add_right_comm, zpow_add₀ two_ne_zero]
    refine mul_le_mul_of_nonneg_right ?_ pos.le
    exact_mod_cast Nat.succ_le_of_lt (Nat.lt_log2_self (n := n))

theorem log_dyadic {m : Nat} (hm : m ≠ 0) (e : Int) : Int.log 2 ((m : K) * (2 : K) ^ e) = Nat.log2 m + e :=
  log_eq_of_mem hm le_rfl (mul_lt_mul_of_pos_right (lt_add_one _) (by positivity))

end

/-- The weight of the last significand bit, as a power of two, for a value below 2^(k+1) (R157). -/
def Fmt.lastBit (f : Fmt) (k : Int) : Int := max k f.emin - f.fbits

theorem qmin_le_lastBit (f : Fmt) (k : Int) : f.qmin ≤ f.lastBit k := by
  unfold Fmt.qmin Fmt.lastBit
  omega

/-- The multiple of 2^q that a mode chooses for m × 2^e (R157). -/
def chooseSteps (mode : RMode) (neg : Bool) (m : Nat) (e q : Int) : Nat :=
  if q ≤ e then m * 2 ^ (e - q).toNat
  else roundUnit mode neg (m / 2 ^ (q - e).toNat) (m % 2 ^ (q - e).toNat) (2 ^ (q - e).toNat)

theorem zpow_of_le {K : Type} [DivisionRing K] {q e : Int} (h : q ≤ e) :
    (2 : K) ^ (e - q) = ((2 ^ (e - q).toNat : Nat) : K) := by
  rw [Nat.cast_pow, ← zpow_natCast, Int.toNat_of_nonneg (by omega)]
  rfl

theorem chooseSteps_eq (mode : RMode) (neg : Bool) (m : Nat) (e q : Int) :
    chooseSteps mode neg m e q = chooseInt mode neg ((m : ℚ) * (2 : ℚ) ^ e / (2 : ℚ) ^ q) := by
  unfold chooseSteps
  split_ifs with h
  · rw [mul_div_assoc, ← zpow_sub₀ two_ne_zero, zpow_of_le h, ← Nat.cast_mul, chooseInt_natCast]
  · rw [roundUnit_eq_chooseInt mode neg m (Nat.two_pow_pos _), ← zpow_of_le (by omega), zpow_sub₀ two_ne_zero,
      div_div_eq_mul_div]

section
variable (f : Fmt) (mode : RMode) (neg : Bool) {m : Nat} (hm : m ≠ 0) (e : Int)

/-- The steps of the last bit of m × 2^e. -/
def Fmt.steps (m : Nat) : Nat := chooseSteps mode neg m e (f.lastBit (Nat.log2 m + e))

include hm

theorem steps_le : f.steps mode neg e m ≤ 2 ^ (f.fbits + 1) := by
  have hlog := log_dyadic (K := ℚ) hm e
  rw [Fmt.steps, chooseSteps_eq]
  refine chooseInt_le (by positivity) ?_
  rw [div_lt_iff₀ (by positivity), Nat.cast_pow, ← zpow_natCast, Nat.cast_ofNat, ← zpow_add₀ two_ne_zero]
  refine lt_of_lt_of_le (Int.lt_zpow_succ_log_self Nat.one_lt_two _) ?_
  rw [hlog]
  refine zpow_le_zpow_right₀ one_le_two ?_
  unfold Fmt.lastBit
  push_cast
  omega

theorem le_steps (h : f.lastBit (Nat.log2 m + e) ≠ f.qmin) : 2 ^ f.fbits ≤ f.steps mode neg e m := by
  have hlog := log_dyadic (K := ℚ) hm e
  rw [Fmt.steps, chooseSteps_eq]
  refine le_chooseInt ?_
  rw [le_div_iff₀ (by positivity), Nat.cast_pow, ← zpow_natCast, Nat.cast_ofNat, ← zpow_add₀ two_ne_zero]
  refine le_trans ?_ (Int.zpow_log_le_self Nat.one_lt_two (by positivity))
  rw [hlog]
  refine zpow_le_zpow_right₀ one_le_two ?_
  unfold Fmt.lastBit Fmt.qmin at *
  omega

end

/-- The pattern of a rounded value: the binades of its last bit above a subnormal's, and its steps (R157). -/
theorem round_eq_steps (f : Fmt) (mode : RMode) (neg : Bool) (m : Nat) (e : Int) : f.round mode neg m e =
    let bits := (f.lastBit (Nat.log2 m + e) - f.qmin).toNat * 2 ^ f.fbits + f.steps mode neg e m
    if f.infBits ≤ bits then f.overflow mode neg else f.signed neg bits := rfl

section
variable {f : Fmt} (he : 2 ≤ f.ebits) (mode : RMode) (neg : Bool) {m : Nat} (hm : m ≠ 0) (e : Int)
include he hm

/-- A rounded value is one of overflow, or the pattern of its steps (R157). -/
theorem round_cases (K : Type) [Field K] [LinearOrder K] [IsStrictOrderedRing K] :
    let r : K := f.steps mode neg e m * (2 : K) ^ f.lastBit (Nat.log2 m + e)
    (f.largest K < r ∧ f.round mode neg m e = f.overflow mode neg) ∨
    (r ≤ f.largest K ∧ ∃ g < f.infBits, f.round mode neg m e = f.signed neg g ∧ r = f.units g * (2 : K) ^ f.qmin) := by
  intro r
  have above := qmin_le_lastBit f (Nat.log2 m + e)
  have hge := le_steps f mode neg hm e
  have hle := steps_le f mode neg hm e
  have round := round_eq_steps f mode neg m e
  dsimp only at round
  have value : r = f.steps mode neg e m * (2 : K) ^ f.lastBit (Nat.log2 m + e) := rfl
  have pos : 0 < f.infBits := infBits_pos (by omega)
  have unit : (0 : K) < (2 : K) ^ f.qmin := by positivity
  generalize f.steps mode neg e m = n at *
  generalize f.lastBit (Nat.log2 m + e) = q at *
  obtain ⟨d, rfl⟩ : ∃ d : Nat, q = f.qmin + d := ⟨(q - f.qmin).toNat, by omega⟩
  rw [add_sub_cancel_left, Int.toNat_natCast] at round
  have units := units_significand f (d := d) hle fun hd => hge (by omega)
  have inUnits : r = f.units (d * 2 ^ f.fbits + n) * (2 : K) ^ f.qmin := by
    rw [value, units, zpow_add₀ two_ne_zero, zpow_natCast]
    push_cast
    ring
  rw [round, largest_eq he, inUnits]
  split_ifs with top
  · refine Or.inl ⟨mul_lt_mul_of_pos_right (Nat.cast_lt.2 (units_strictMono f ?_)) unit, rfl⟩
    omega
  · refine Or.inr ⟨mul_le_mul_of_nonneg_right (Nat.cast_le.2 ((units_strictMono f).monotone ?_)) unit.le, _, by omega,
      rfl, rfl⟩
    omega

end

/-- What a magnitude reads as whose value is n steps of 2^q. -/
theorem read_steps {f : Fmt} (he : 2 ≤ f.ebits) (K : Type) [Field K] [CharZero K] (neg : Bool) {g n : Nat} {q : Int}
    (hg : g < f.infBits) (h : (n : K) * (2 : K) ^ q = f.units g * (2 : K) ^ f.qmin) :
    (n = 0 → f.read (f.signed neg g) = .zero neg) ∧
    (n ≠ 0 → ∃ a x, f.read (f.signed neg g) = .fin a x ∧ (a : K) * (2 : K) ^ x = signOf K neg * (n * (2 : K) ^ q)) := by
  have zero_iff : n = 0 ↔ g = 0 := by
    have hq : (2 : K) ^ q ≠ 0 := zpow_ne_zero _ two_ne_zero
    have hu : (2 : K) ^ f.qmin ≠ 0 := zpow_ne_zero _ two_ne_zero
    have inj : f.units g = 0 ↔ g = 0 := (units_strictMono f).injective.eq_iff' (units_zero f)
    rw [← inj, ← Nat.cast_eq_zero (R := K), ← Nat.cast_eq_zero (R := K) (n := f.units g), ← mul_eq_zero_iff_right hq, h,
      mul_eq_zero_iff_right hu]
  refine ⟨fun h0 => ?_, fun h0 => ?_⟩
  · rw [zero_iff.1 h0]
    exact read_signed_zero (by omega) neg
  · rw [h]
    exact read_signed_fin K neg (mt zero_iff.2 h0) hg

/-- Settles O38: the steps are the choice of R157, and `round_cases` and `read_steps` tell the pattern they give. -/
theorem roundingRule : Obligations.RoundingRule := by
  unfold Obligations.RoundingRule
  intro f hf mode neg m e hm
  have he := two_le_ebits hf
  dsimp only
  rw [log_dyadic hm.ne', ← Fmt.lastBit, ← chooseSteps_eq, ← Fmt.steps]
  rcases round_cases he mode neg hm.ne' e ℚ with ⟨above, round⟩ | ⟨fits, g, hg, round, value⟩
  · exact ⟨fun _ => round, fun fits => absurd above (not_lt.2 fits)⟩
  · obtain ⟨zero, fin⟩ := read_steps he ℚ neg hg value
    refine ⟨fun above => absurd fits (not_le.2 above), fun _ => ?_⟩
    rw [round]
    refine ⟨signed_lt neg (hg.trans (infBits_lt_signBit f)), zero, fun h0 => ?_⟩
    obtain ⟨a, x, read, val⟩ := fin h0
    exact ⟨a, x, read, by rw [read]; exact val⟩

end Sys2Proof.Machine
end

section
/-!
# Correctly rounded functions

Quotients and roots are truncations with a sticky bit, which round as the exact results do; the special cases of R165.
-/

namespace Sys2Proof.Machine

/-! ## To nearest -/

/-- A rounded dyadic is the nearest pattern (R157). -/
theorem nearest_round {f : Fmt} (he : 2 ≤ f.ebits) (neg : Bool) {m : Nat} (hm : m ≠ 0) (e : Int) :
    f.nearest neg ((m : ℝ) * (2 : ℝ) ^ e) (f.round .rne neg m e) := by
  unfold Fmt.nearest
  dsimp only
  rw [log_dyadic hm, ← Fmt.lastBit]
  refine ⟨f.steps .rne neg e m, ?_, ?_⟩
  · rw [Fmt.steps, chooseSteps_eq]
    have near := chooseInt_nearest neg (t := (m : ℚ) * (2 : ℚ) ^ e / (2 : ℚ) ^ f.lastBit (Nat.log2 m + e)) (by positivity)
    have cast : (m : ℝ) * (2 : ℝ) ^ e / (2 : ℝ) ^ f.lastBit (Nat.log2 m + e) =
        (((m : ℚ) * (2 : ℚ) ^ e / (2 : ℚ) ^ f.lastBit (Nat.log2 m + e) : ℚ) : ℝ) := by push_cast; rfl
    rw [cast]
    generalize (m : ℚ) * (2 : ℚ) ^ e / (2 : ℚ) ^ f.lastBit (Nat.log2 m + e) = t at *
    refine near.imp (fun h => ?_) fun ⟨h, even⟩ => ⟨?_, even⟩
    · have := (Rat.cast_lt (K := ℝ)).2 h
      push_cast at this
      exact this
    · have := congrArg (Rat.cast (K := ℝ)) h
      push_cast at this
      exact this
  · rcases round_cases he .rne neg hm e ℝ with ⟨above, round⟩ | ⟨fits, g, hg, round, value⟩
    · exact ⟨fun _ => round, fun fits => absurd above (not_lt.2 fits)⟩
    · refine ⟨fun above => absurd fits (not_le.2 above), fun _ => ?_⟩
      rw [round]
      exact read_steps he ℝ neg hg value

/-! ## A truncated value and a sticky bit -/

/-- Where no half step lies between N and N + 1, every value between them has the nearest step of the midpoint. -/
theorem nearest_between {N n D : Nat} {X : ℝ} (lo : (N : ℝ) < X) (hi : X < N + 1)
    (h : |(2 * N + 1 : ℝ) / (4 * D) - n| ≤ 1 / 2) (hD : 0 < D) : |X / (2 * D) - n| < 1 / 2 := by
  have hD' : (0 : ℝ) < D := by exact_mod_cast hD
  obtain ⟨below, above⟩ := abs_le.1 h
  have below' : 2 * (2 * n * D) ≤ 2 * N + 1 + 2 * D := by
    rw [← @Nat.cast_le ℝ]
    push_cast
    have := (le_div_iff₀ (by positivity : (0 : ℝ) < 4 * D)).1 (by linarith : (n : ℝ) - 1 / 2 ≤ (2 * N + 1) / (4 * D))
    linarith
  have above' : 2 * N + 1 ≤ 2 * (2 * n * D) + 2 * D := by
    rw [← @Nat.cast_le ℝ]
    push_cast
    have := (div_le_iff₀ (by positivity : (0 : ℝ) < 4 * D)).1 (by linarith : (2 * N + 1) / (4 * D) ≤ (n : ℝ) + 1 / 2)
    linarith
  have lower : ((2 * n * D : Nat) : ℝ) ≤ (N + D : Nat) := Nat.cast_le.2 (by omega)
  have upper : ((N + 1 : Nat) : ℝ) ≤ (2 * n * D + D : Nat) := Nat.cast_le.2 (by omega)
  push_cast at lower upper
  rw [abs_lt, lt_sub_iff_add_lt, sub_lt_iff_lt_add, lt_div_iff₀ (by positivity), div_lt_iff₀ (by positivity)]
  exact ⟨by linarith, by linarith⟩

/-- What lies strictly between N and N + 1 units rounds as their midpoint, where N has at least two bits more than the format. -/
theorem nearest_of_midpoint {f : Fmt} {neg : Bool} {N p : Nat} (hN : 2 ^ (f.fbits + 2) ≤ N) {e : Int} {x : ℝ}
    (lo : N * (2 : ℝ) ^ e < x) (hi : x < (N + 1) * (2 : ℝ) ^ e) (near : f.nearest neg ((2 * N + 1) / 2 * (2 : ℝ) ^ e) p) :
    f.nearest neg x p := by
  have hN0 : N ≠ 0 := ((Nat.two_pow_pos _).trans_le hN).ne'
  have pos : (0 : ℝ) < (2 : ℝ) ^ e := by positivity
  have bits : f.fbits + 2 ≤ Nat.log2 N := (Nat.le_log2 hN0).2 hN
  unfold Fmt.nearest at near ⊢
  dsimp only at near ⊢
  rw [log_eq_of_mem hN0 (e := e) (mul_le_mul_of_nonneg_right (by linarith) pos.le)
    (mul_lt_mul_of_pos_right (by linarith) pos)] at near
  rw [log_eq_of_mem hN0 lo.le hi]
  obtain ⟨D, hD, step⟩ : ∃ D : Nat, 0 < D ∧
      (2 : ℝ) ^ (max (Nat.log2 N + e) f.emin - f.fbits) = 2 * D * (2 : ℝ) ^ e := by
    refine ⟨2 ^ (max (Nat.log2 N + e) f.emin - f.fbits - e - 1).toNat, Nat.two_pow_pos _, ?_⟩
    rw [Nat.cast_pow, ← zpow_natCast, Int.toNat_of_nonneg (by omega), Nat.cast_ofNat, ← zpow_one_add₀ two_ne_zero,
      ← zpow_add₀ two_ne_zero]
    congr 1
    ring
  rw [step] at near ⊢
  obtain ⟨n, half, rest⟩ := near
  have midpoint : (2 * N + 1) / 2 * (2 : ℝ) ^ e / (2 * D * (2 : ℝ) ^ e) = (2 * N + 1) / (4 * D) := by
    field_simp
    norm_num
  have scaled : x / (2 * D * (2 : ℝ) ^ e) = x / (2 : ℝ) ^ e / (2 * D) := by field_simp
  rw [midpoint] at half
  rw [scaled]
  exact ⟨n, Or.inl (nearest_between ((lt_div_iff₀ pos).2 lo) ((div_lt_iff₀ pos).2 hi)
    (half.elim (fun h => h.le) fun h => h.1.le) hD), rest⟩

theorem roundSticky_eq (f : Fmt) (neg : Bool) {N : Nat} (hN : N ≠ 0) (e : Int) (sticky : Bool) :
    f.roundSticky neg N e sticky = f.round .rne neg (2 * N + if sticky then 1 else 0) (e - 1) := by
  unfold Fmt.roundSticky Fmt.roundDy
  cases neg
  · rw [if_neg (by split_ifs <;> omega), if_neg (by decide), Int.natAbs_natCast, decide_eq_false (by split_ifs <;> omega)]
  · rw [if_neg (by split_ifs <;> omega), if_pos rfl, Int.natAbs_neg, Int.natAbs_natCast,
      decide_eq_true (by split_ifs <;> omega)]

/-- A truncation with its sticky bit rounds as the exact value when it holds at least two bits more than the format. -/
theorem nearest_roundSticky {f : Fmt} (he : 2 ≤ f.ebits) (neg : Bool) {N : Nat} (hN : 2 ^ (f.fbits + 2) ≤ N) {e : Int}
    {x : ℝ} {sticky : Bool} (exact : sticky = false → x = N * (2 : ℝ) ^ e)
    (cut : sticky = true → N * (2 : ℝ) ^ e < x ∧ x < (N + 1) * (2 : ℝ) ^ e) :
    f.nearest neg x (f.roundSticky neg N e sticky) := by
  have hN0 : N ≠ 0 := ((Nat.two_pow_pos _).trans_le hN).ne'
  have near := nearest_round he neg (m := 2 * N + if sticky then 1 else 0) (by omega) (e - 1)
  rw [← roundSticky_eq f neg hN0] at near
  have value : ((2 * N + if sticky then 1 else 0 : Nat) : ℝ) * (2 : ℝ) ^ (e - 1) =
      (2 * N + if sticky then 1 else 0) / 2 * (2 : ℝ) ^ e := by
    rw [zpow_sub_one₀ two_ne_zero]
    push_cast
    ring
  rw [value] at near
  cases sticky
  · rw [exact rfl]
    simpa using near
  · obtain ⟨lo, hi⟩ := cut rfl
    exact nearest_of_midpoint hN lo hi near

/-! ## Quotients -/

/-- The significand and exponent of a finite value (R155). -/
theorem read_fin_bounds {f : Fmt} {b : Nat} {m e : Int} (h : f.read b = .fin m e) :
    m ≠ 0 ∧ m.natAbs < 2 ^ (f.fbits + 1) ∧ f.qmin ≤ e ∧ e < f.qmin + 2 ^ f.ebits := by
  have hfrac : b % 2 ^ f.fbits < 2 ^ f.fbits := Nat.mod_lt _ (Nat.two_pow_pos _)
  have hex : b / 2 ^ f.fbits % 2 ^ f.ebits < 2 ^ f.ebits := Nat.mod_lt _ (Nat.two_pow_pos _)
  have castP : ((2 ^ f.fbits : Nat) : Int) = 2 ^ f.fbits := by push_cast; rfl
  have castE : ((2 ^ f.ebits : Nat) : Int) = 2 ^ f.ebits := by push_cast; rfl
  unfold Fmt.read at h
  dsimp only at h
  rw [pow_succ, ← castE]
  rw [← castP] at h
  generalize b % 2 ^ f.fbits = frac at *
  generalize b / 2 ^ f.fbits % 2 ^ f.ebits = ex at *
  split_ifs at h <;> cases h <;> omega

/-- A truncated quotient with its sticky bit rounds as the quotient. -/
theorem nearest_quotient {f : Fmt} (he : 2 ≤ f.ebits) (neg : Bool) {n d : Nat} (hd : 0 < d) (bits : 2 ^ (f.fbits + 2) * d ≤ n)
    (e : Int) : f.nearest neg ((n : ℝ) / d * (2 : ℝ) ^ e) (f.roundSticky neg (n / d) e (n % d != 0)) := by
  have pos : (0 : ℝ) < (2 : ℝ) ^ e := by positivity
  have hd' : (0 : ℝ) < d := by exact_mod_cast hd
  have division := Nat.div_add_mod' n d
  have rem := Nat.mod_lt n hd
  refine nearest_roundSticky he neg ((Nat.le_div_iff_mul_le hd).2 bits) (fun exact => ?_) fun inexact => ⟨?_, ?_⟩
  · have : n % d = 0 := by simpa using exact
    rw [Nat.cast_div (Nat.dvd_of_mod_eq_zero this) hd'.ne']
  · have : n % d ≠ 0 := by simpa using inexact
    refine mul_lt_mul_of_pos_right ((lt_div_iff₀ hd').2 ?_) pos
    exact_mod_cast (by omega : n / d * d < n)
  · refine mul_lt_mul_of_pos_right ((div_lt_iff₀ hd').2 ?_) pos
    exact_mod_cast (by rw [Nat.succ_mul]; omega : n < (n / d + 1) * d)

/-- A significand scaled by the bits the model takes leaves a quotient with two bits more than the format. -/
theorem quotient_bits {p n : Nat} (hn : n < 2 ^ (p + 1)) : 2 ^ (p + 2) * n ≤ 2 ^ (2 * p + 16) :=
  calc 2 ^ (p + 2) * n ≤ 2 ^ (p + 2) * 2 ^ (p + 1) := Nat.mul_le_mul_left _ hn.le
    _ = 2 ^ (2 * p + 3) := by rw [← pow_add]; congr 1; omega
    _ ≤ 2 ^ (2 * p + 16) := Nat.pow_le_pow_right two_pos (by omega)

theorem nearest_div {f : Fmt} (he : 2 ≤ f.ebits) {a b : Nat} {m e n g : Int} (ha : f.read a = .fin m e)
    (hb : f.read b = .fin n g) : f.nearest (decide (m < 0) != decide (n < 0))
      (|(m : ℝ) * (2 : ℝ) ^ e / ((n : ℝ) * (2 : ℝ) ^ g)|) (f.div a b) := by
  obtain ⟨m0, -⟩ := read_fin_bounds ha
  obtain ⟨n0, nlt, -⟩ := read_fin_bounds hb
  have hm : 0 < m.natAbs := Int.natAbs_pos.2 m0
  have hn : 0 < n.natAbs := Int.natAbs_pos.2 n0
  have value : |(m : ℝ) * (2 : ℝ) ^ e / ((n : ℝ) * (2 : ℝ) ^ g)| =
      ((m.natAbs * 2 ^ (2 * f.fbits + 16) : Nat) : ℝ) / n.natAbs * (2 : ℝ) ^ (e - g - (2 * f.fbits + 16 : Nat)) := by
    rw [zpow_sub₀ two_ne_zero, zpow_sub₀ two_ne_zero, zpow_natCast, abs_div, abs_mul, abs_mul, abs_zpow, abs_zpow, abs_two,
      Nat.cast_mul, Nat.cast_natAbs, Nat.cast_natAbs]
    push_cast
    field_simp
  have quotient : f.div a b = f.roundSticky (decide (m < 0) != decide (n < 0))
      (m.natAbs * 2 ^ (2 * f.fbits + 16) / n.natAbs) (e - g - (2 * f.fbits + 16 : Nat))
      (m.natAbs * 2 ^ (2 * f.fbits + 16) % n.natAbs != 0) := by
    simp only [Fmt.div, ha, hb]
  rw [value, quotient]
  exact nearest_quotient he _ hn ((quotient_bits nlt).trans (Nat.le_mul_of_pos_left _ hm)) _

theorem nearest_rcp {f : Fmt} (he : 2 ≤ f.ebits) {a : Nat} {m e : Int} (ha : f.read a = .fin m e) :
    f.nearest (decide (m < 0)) (|((m : ℝ) * (2 : ℝ) ^ e)⁻¹|) (f.rcp a) := by
  obtain ⟨m0, mlt, -⟩ := read_fin_bounds ha
  have value : |((m : ℝ) * (2 : ℝ) ^ e)⁻¹| =
      ((2 ^ (2 * f.fbits + 16) : Nat) : ℝ) / m.natAbs * (2 : ℝ) ^ (-e - (2 * f.fbits + 16 : Nat)) := by
    rw [zpow_sub₀ two_ne_zero, zpow_neg, zpow_natCast, abs_inv, abs_mul, abs_zpow, abs_two, Nat.cast_natAbs]
    push_cast
    field_simp
  have quotient : f.rcp a = f.roundSticky (decide (m < 0)) (2 ^ (2 * f.fbits + 16) / m.natAbs)
      (-e - (2 * f.fbits + 16 : Nat)) (2 ^ (2 * f.fbits + 16) % m.natAbs != 0) := by
    simp only [Fmt.rcp, ha]
  rw [value, quotient]
  exact nearest_quotient he _ (Int.natAbs_pos.2 m0) (quotient_bits mlt) _

/-! ## Roots -/

/-- The search by bits ends at the largest r with r × r × d ≤ n. -/
theorem rsqrtBits_spec (n d : Nat) : ∀ k acc, acc * acc * d ≤ n → n < (acc + 2 ^ k) * (acc + 2 ^ k) * d →
    rsqrtBits k n d acc * rsqrtBits k n d acc * d ≤ n ∧ n < (rsqrtBits k n d acc + 1) * (rsqrtBits k n d acc + 1) * d
  | 0, acc, lo, hi => ⟨lo, hi⟩
  | k + 1, acc, lo, hi => by
    rw [rsqrtBits]
    split_ifs with fits
    · exact rsqrtBits_spec n d k _ fits (by rwa [Nat.add_assoc, ← Nat.two_mul, ← pow_succ'])
    · exact rsqrtBits_spec n d k _ lo (Nat.not_le.1 fits)

theorem sqrtBits_eq (n : Nat) : ∀ k acc, sqrtBits k n acc = rsqrtBits k n 1 acc
  | 0, acc => rfl
  | k + 1, acc => by
    rw [sqrtBits, rsqrtBits, sqrtBits_eq n k, Nat.mul_one]

/-- A number whose square is in range is at most the root. -/
theorem le_root {n d r b : Nat} (hi : n < (r + 1) * (r + 1) * d) (h : b * b * d ≤ n) : b ≤ r := by
  by_contra small
  have above : r + 1 ≤ b := Nat.not_le.1 small
  exact absurd (hi.trans_le ((Nat.mul_le_mul_right d (Nat.mul_le_mul above above)).trans h)) (Nat.lt_irrefl _)

/-- A truncated root with its sticky bit rounds as the root. -/
theorem nearest_root {f : Fmt} (he : 2 ≤ f.ebits) {n d r : Nat} (hd : 0 < d) (lo : r * r * d ≤ n)
    (hi : n < (r + 1) * (r + 1) * d) (bits : 2 ^ (f.fbits + 2) ≤ r) (e : Int) :
    f.nearest false (√((n : ℝ) / d) * (2 : ℝ) ^ e) (f.roundSticky false r e (r * r * d != n)) := by
  have pos : (0 : ℝ) < (2 : ℝ) ^ e := by positivity
  have hd' : (0 : ℝ) < d := by exact_mod_cast hd
  refine nearest_roundSticky he false bits (fun exact => ?_) fun inexact => ⟨?_, ?_⟩
  · have square : r * r * d = n := by simpa using exact
    rw [← square, Nat.cast_mul, mul_div_cancel_right₀ _ hd'.ne', Nat.cast_mul, Real.sqrt_mul_self r.cast_nonneg]
  · have square : r * r * d ≠ n := by simpa using inexact
    refine mul_lt_mul_of_pos_right ((Real.lt_sqrt r.cast_nonneg).2 ((lt_div_iff₀ hd').2 ?_)) pos
    rw [pow_two]
    exact_mod_cast lt_of_le_of_ne lo square
  · refine mul_lt_mul_of_pos_right ((Real.sqrt_lt' (by positivity)).2 ((div_lt_iff₀ hd').2 ?_)) pos
    rw [pow_two]
    exact_mod_cast hi

/-- A dyadic with an even exponent, as the roots take it: the significand is doubled where the exponent is odd. -/
theorem even_exponent {m : Int} (hm : 0 < m) {p : Nat} (hp : m.natAbs < 2 ^ p) (e : Int) : ∃ (h : Int) (n : Nat),
    (if e % 2 != 0 then e - 1 else e) = 2 * h ∧ (if e % 2 != 0 then 2 * m.natAbs else m.natAbs) = n ∧ 0 < n ∧
      n ≤ 2 ^ (p + 1) ∧ (m : ℝ) * (2 : ℝ) ^ e = n * ((2 : ℝ) ^ h) ^ 2 := by
  have square (h : Int) : ((2 : ℝ) ^ h) ^ 2 = (2 : ℝ) ^ (2 * h) := by
    rw [← zpow_natCast, ← zpow_mul, mul_comm h]
    rfl
  obtain ⟨n, rfl⟩ := Int.eq_ofNat_of_zero_le hm.le
  rw [Int.natAbs_natCast] at *
  rw [pow_succ]
  rcases Int.emod_two_eq_zero_or_one e with even | odd
  · obtain ⟨h, rfl⟩ : ∃ h, e = 2 * h := ⟨e / 2, by omega⟩
    exact ⟨h, n, by simp, by simp, by omega, by omega, by rw [square]; rfl⟩
  · obtain ⟨h, rfl⟩ : ∃ h, e = 2 * h + 1 := ⟨e / 2, by omega⟩
    refine ⟨h, 2 * n, by simp [odd], by simp [odd], by omega, by omega, ?_⟩
    rw [square, zpow_add_one₀ two_ne_zero]
    push_cast
    ring

section
variable {f : Fmt} (he : 2 ≤ f.ebits) {a : Nat} {m e : Int} (ha : f.read a = .fin m e) (hm : 0 < m)
include he ha hm

theorem nearest_sqrt : f.nearest false √((m : ℝ) * (2 : ℝ) ^ e) (f.sqrt a) := by
  obtain ⟨-, mlt, -⟩ := read_fin_bounds ha
  obtain ⟨h, n, exponent, significand, n0, nle, value⟩ := even_exponent hm mlt e
  rw [value]
  simp only [Fmt.sqrt, ha, if_neg (not_lt.2 hm.le), exponent, significand, sqrtBits_eq]
  have lower : 2 ^ (2 * f.fbits + 16) ≤ n * 2 ^ (2 * f.fbits + 16) := Nat.le_mul_of_pos_left _ n0
  have upper : n * 2 ^ (2 * f.fbits + 16) < 2 ^ (2 * f.fbits + 16) * 2 ^ (2 * f.fbits + 16) :=
    Nat.mul_lt_mul_of_pos_right (nle.trans_lt (Nat.pow_lt_pow_right one_lt_two (by omega))) (Nat.two_pow_pos _)
  obtain ⟨lo, hi⟩ := rsqrtBits_spec (n * 2 ^ (2 * f.fbits + 16)) 1 (2 * f.fbits + 16) 0 (by omega) (by simpa using upper)
  generalize rsqrtBits (2 * f.fbits + 16) (n * 2 ^ (2 * f.fbits + 16)) 1 0 = r at *
  have bits : 2 ^ (f.fbits + 2) ≤ r := le_root hi <| by
    rw [← pow_add, Nat.mul_one]
    exact (Nat.pow_le_pow_right two_pos (by omega)).trans lower
  have half : (2 * h - (2 * (f.fbits : Int) + 16)) / 2 = h - (f.fbits + 8 : Nat) := by push_cast; omega
  have square : (2 : ℝ) ^ (2 * f.fbits + 16) = ((2 : ℝ) ^ (f.fbits + 8)) ^ 2 := by
    rw [← pow_mul]
    congr 1
    ring
  have root : √((n : ℝ) * ((2 : ℝ) ^ h) ^ 2) =
      √(((n * 2 ^ (2 * f.fbits + 16) : Nat) : ℝ) / (1 : Nat)) * (2 : ℝ) ^ (h - (f.fbits + 8 : Nat)) := by
    rw [Nat.cast_mul, Nat.cast_pow, Nat.cast_ofNat, Nat.cast_one, div_one, square, Real.sqrt_mul n.cast_nonneg,
      Real.sqrt_mul n.cast_nonneg, Real.sqrt_sq (by positivity), Real.sqrt_sq (by positivity), mul_assoc,
      zpow_sub₀ two_ne_zero, zpow_natCast, mul_div_cancel₀ _ (by positivity)]
  have near := nearest_root he one_pos lo hi bits (h - (f.fbits + 8 : Nat))
  rw [half, root]
  rwa [Nat.mul_one] at near

theorem nearest_rsq : f.nearest false (√((m : ℝ) * (2 : ℝ) ^ e))⁻¹ (f.rsq a) := by
  obtain ⟨-, mlt, -⟩ := read_fin_bounds ha
  obtain ⟨h, n, exponent, significand, n0, nle, value⟩ := even_exponent hm mlt e
  rw [value]
  simp only [Fmt.rsq, ha, if_neg (not_lt.2 hm.le), exponent, significand]
  have upper : 2 ^ (2 * (2 * f.fbits + 20)) < (0 + 2 ^ (2 * f.fbits + 20 + 1)) * (0 + 2 ^ (2 * f.fbits + 20 + 1)) * n := by
    rw [Nat.zero_add, ← pow_add]
    exact (Nat.pow_lt_pow_right one_lt_two (by omega)).trans_le (Nat.le_mul_of_pos_right _ n0)
  obtain ⟨lo, hi⟩ := rsqrtBits_spec (2 ^ (2 * (2 * f.fbits + 20))) n (2 * f.fbits + 20 + 1) 0 (by simp) upper
  generalize rsqrtBits (2 * f.fbits + 20 + 1) (2 ^ (2 * (2 * f.fbits + 20))) n 0 = r at *
  have bits : 2 ^ (f.fbits + 2) ≤ r := le_root hi <| by
    refine (Nat.mul_le_mul_left _ nle).trans ?_
    rw [← pow_add, ← pow_add]
    exact Nat.pow_le_pow_right two_pos (by omega)
  have square : (2 : ℝ) ^ (2 * (2 * f.fbits + 20)) = ((2 : ℝ) ^ (2 * f.fbits + 20)) ^ 2 := by rw [← pow_mul, mul_comm]
  have root : (√((n : ℝ) * ((2 : ℝ) ^ h) ^ 2))⁻¹ = √(((2 ^ (2 * (2 * f.fbits + 20)) : Nat) : ℝ) / n) *
      (2 : ℝ) ^ (-h - (2 * f.fbits + 20 : Nat)) := by
    rw [Nat.cast_pow, Nat.cast_ofNat, square, Real.sqrt_div (by positivity), Real.sqrt_mul n.cast_nonneg,
      Real.sqrt_sq (by positivity), Real.sqrt_sq (by positivity), zpow_sub₀ two_ne_zero, zpow_neg, zpow_natCast]
    field_simp
  rw [root, Int.mul_ediv_cancel_left h two_ne_zero]
  exact nearest_root he n0 lo hi bits _

end

/-! ## Exact results -/

theorem toRat_neg_iff (m e : Int) : (FVal.fin m e).toRat < 0 ↔ m < 0 := by
  have : (0 : ℚ) < (2 : ℚ) ^ e := by positivity
  rw [FVal.toRat, mul_neg_iff, and_iff_left this, or_iff_right fun h => lt_asymm this h.2, Int.cast_lt_zero]

/-- A dyadic of no more bits than the format, and in its range, is rounded to itself. -/
theorem toRat_round {f : Fmt} (he : 2 ≤ f.ebits) (neg : Bool) {m : Nat} (hm : m ≠ 0) {e : Int}
    (bits : f.lastBit (Nat.log2 m + e) ≤ e) (range : (m : ℚ) * (2 : ℚ) ^ e ≤ f.largest ℚ) :
    (f.read (f.round .rne neg m e)).toRat = signOf ℚ neg * (m * (2 : ℚ) ^ e) := by
  have value : (f.steps .rne neg e m : ℚ) * (2 : ℚ) ^ f.lastBit (Nat.log2 m + e) = m * (2 : ℚ) ^ e := by
    rw [Fmt.steps, chooseSteps, if_pos bits, Nat.cast_mul, ← zpow_of_le bits, mul_assoc, ← zpow_add₀ two_ne_zero,
      sub_add_cancel]
  have nonzero : f.steps .rne neg e m ≠ 0 := by
    intro h0
    rw [h0, Nat.cast_zero, zero_mul, eq_comm, mul_eq_zero, Nat.cast_eq_zero] at value
    exact value.elim hm (zpow_ne_zero _ two_ne_zero)
  rcases round_cases he .rne neg hm e ℚ with ⟨above, -⟩ | ⟨-, g, hg, round, units⟩
  · rw [value] at above
    exact absurd range (not_le.2 above)
  · obtain ⟨a, x, read, val⟩ := (read_steps he ℚ neg hg units).2 nonzero
    rw [round, read, ← value]
    exact val

theorem le_largest_f32 {x : ℚ} (h : x ≤ 2 ^ (127 : Int)) : x ≤ f32.largest ℚ := by
  refine h.trans ?_
  have bias : f32.bias = 127 := rfl
  rw [Fmt.largest, bias]
  refine le_mul_of_one_le_left (by positivity) ?_
  have : (2 : ℚ) ^ (-(f32.fbits : Int)) ≤ 1 := zpow_le_one_of_nonpos₀ one_le_two (by decide)
  linarith

theorem toRat_round_two_pow {k : Int} (lo : -149 ≤ k) (hi : k ≤ 127) :
    (f32.read (f32.round .rne false 1 k)).toRat = (2 : ℚ) ^ k := by
  have lastBit : f32.lastBit ((Nat.log2 1 : Nat) + k) ≤ k := by
    have emin : f32.emin = -126 := rfl
    have fbits : f32.fbits = 23 := rfl
    have log : Nat.log2 1 = 0 := rfl
    rw [Fmt.lastBit, emin, fbits, log]
    omega
  rw [toRat_round (by decide) false one_ne_zero lastBit
    (le_largest_f32 (by rw [Nat.cast_one, one_mul]; exact zpow_le_zpow_right₀ one_le_two hi))]
  simp [signOf]

/-- Integers of FP32 are rounded to themselves, a zero without a sign. -/
theorem toRat_roundDy_int {k : Int} (h : k.natAbs < 2 ^ 8) : (f32.read (f32.roundDy .rne k 0 false)).toRat = k ∧
    (k = 0 → f32.read (f32.roundDy .rne k 0 false) = .zero false) := by
  by_cases h0 : k = 0
  · subst h0
    have zero : f32.read (f32.roundDy .rne 0 0 false) = .zero false := read_signed_zero (by decide) false
    exact ⟨by rw [zero]; rfl, fun _ => zero⟩
  · refine ⟨?_, fun h => absurd h h0⟩
    have k0 : k.natAbs ≠ 0 := Int.natAbs_ne_zero.2 h0
    have log : Nat.log2 k.natAbs < 8 := (Nat.log2_lt k0).2 h
    have lastBit : f32.lastBit ((Nat.log2 k.natAbs : Nat) + 0) ≤ 0 := by
      have emin : f32.emin = -126 := rfl
      have fbits : f32.fbits = 23 := rfl
      rw [Fmt.lastBit, emin, fbits]
      omega
    have range : (k.natAbs : ℚ) * (2 : ℚ) ^ (0 : Int) ≤ 2 ^ (127 : Int) := by
      rw [zpow_zero, mul_one]
      have : (k.natAbs : ℚ) < 2 ^ 8 := by exact_mod_cast h
      refine this.le.trans ?_
      norm_num
    rw [Fmt.roundDy, if_neg h0, toRat_round (by decide) _ k0 lastBit (le_largest_f32 range), signOf, zpow_zero, mul_one,
      Nat.cast_natAbs]
    rcases lt_or_gt_of_ne h0 with neg | pos
    · rw [if_pos (decide_eq_true neg), abs_of_neg neg]
      push_cast
      ring
    · rw [if_neg (by simpa using pos.le), abs_of_pos pos, one_mul]

/-- A dyadic that is an integer, by the sign of its exponent. -/
theorem integer_dyadic {m e k : Int} (h : (m : ℚ) * (2 : ℚ) ^ e = k) :
    (0 ≤ e → m * 2 ^ e.toNat = k) ∧ (e < 0 → m = k * (2 ^ (-e).toNat : Nat)) := by
  refine ⟨fun he => ?_, fun he => ?_⟩
  · rw [← Int.toNat_of_nonneg he, zpow_natCast] at h
    exact_mod_cast h
  · have hp : (2 : ℚ) ^ e ≠ 0 := zpow_ne_zero _ two_ne_zero
    have inverse : ((2 ^ (-e).toNat : Nat) : ℚ) = ((2 : ℚ) ^ e)⁻¹ := by
      rw [Nat.cast_pow, ← zpow_natCast, Int.toNat_of_nonneg (by omega), zpow_neg, Nat.cast_ofNat]
    have : (m : ℚ) = k * (2 ^ (-e).toNat : Nat) := by rw [inverse, ← h, mul_inv_cancel_right₀ hp]
    exact_mod_cast this

/-- The first bit of a dyadic that is a small integer. -/
theorem log_lt_of_abs_lt {m e k : Int} (hm : m ≠ 0) (h : (m : ℚ) * (2 : ℚ) ^ e = k) (hk : |k| < 2 ^ 8) :
    e + Nat.log2 m.natAbs < 8 := by
  have value : (m.natAbs : ℚ) * (2 : ℚ) ^ e = |(k : ℚ)| := by
    rw [← h, abs_mul, abs_zpow, abs_two, Nat.cast_natAbs]
    push_cast
    rfl
  have pos : (0 : ℚ) < (m.natAbs : ℚ) * (2 : ℚ) ^ e := by
    have : 0 < m.natAbs := Int.natAbs_pos.2 hm
    positivity
  have bound : (m.natAbs : ℚ) * (2 : ℚ) ^ e < ((2 : Nat) : ℚ) ^ (8 : Int) := by
    rw [value]
    exact_mod_cast hk
  rw [add_comm, ← log_dyadic (K := ℚ) (Int.natAbs_ne_zero.2 hm) e]
  exact (Int.lt_zpow_iff_log_lt one_lt_two pos).1 bound

/-- 2^x of an integer x is exact (R165). -/
theorem exp2Bits_integer {a : Nat} {m e k : Int} (ha : f32.read a = .fin m e) (h : (m : ℚ) * (2 : ℚ) ^ e = k)
    (lo : -149 ≤ k) (hi : k ≤ 127) : exp2Bits a = f32.round .rne false 1 k := by
  obtain ⟨m0, -⟩ := read_fin_bounds ha
  obtain ⟨whole, shifted⟩ := integer_dyadic h
  have small : ¬ f32.fbits + 40 < (e + Nat.log2 m.natAbs).toNat := by
    have top := log_lt_of_abs_lt m0 h (abs_lt.2 ⟨by omega, by omega⟩)
    have fbits : f32.fbits = 23 := rfl
    omega
  have floor : (if 0 ≤ e then m * 2 ^ e.toNat else m / 2 ^ (-e).toNat) = k := by
    split_ifs with he
    · exact whole he
    · rw [shifted (not_le.1 he), Nat.cast_pow]
      exact Int.mul_ediv_cancel _ (by positivity)
  have fraction : (if 0 ≤ e then 0 else (m % 2 ^ (-e).toNat).toNat) = 0 := by
    split_ifs with he
    · rfl
    · rw [shifted (not_le.1 he), Nat.cast_pow]
      exact congrArg Int.toNat (Int.mul_emod_left _ _)
  have notAbove : ¬ 1024 < k := by omega
  have notBelow : ¬ k < -1024 := by omega
  simp only [exp2Bits, ha, if_neg small, floor, fraction, if_true, if_neg notAbove, if_neg notBelow]

/-- log2 x of a power of two is exact (R165). -/
theorem log2Bits_two_pow {a : Nat} {m e k : Int} (ha : f32.read a = .fin m e) (h : (m : ℚ) * (2 : ℚ) ^ e = (2 : ℚ) ^ k) :
    log2Bits a = f32.roundDy .rne k 0 false ∧ k.natAbs < 2 ^ 8 := by
  obtain ⟨m0, mlt, elo, ehi⟩ := read_fin_bounds ha
  have hp : (0 : ℚ) < (2 : ℚ) ^ e := by positivity
  have pos : 0 < m := by
    have : (0 : ℚ) < m := pos_of_mul_pos_left (h ▸ by positivity) hp.le
    exact_mod_cast this
  obtain ⟨n, rfl⟩ := Int.eq_ofNat_of_zero_le pos.le
  have n0 : n ≠ 0 := by omega
  rw [Int.cast_natCast] at h
  have top : (Nat.log2 n : Int) + e = k := by
    rw [← log_dyadic (K := ℚ) n0 e, h]
    exact Int.log_zpow one_lt_two k
  have power : n = 2 ^ Nat.log2 n := by
    have : (n : ℚ) = (2 : ℚ) ^ ((Nat.log2 n : Nat) : Int) := by
      rw [← mul_right_cancel_iff_of_pos hp, h, ← top, zpow_add₀ two_ne_zero]
    exact_mod_cast this
  have log : Nat.log2 n < 24 := (Nat.log2_lt n0).2 mlt
  have qmin : f32.qmin = -149 := rfl
  have ebits : f32.ebits = 8 := rfl
  rw [qmin] at elo ehi
  rw [ebits] at ehi
  refine ⟨?_, by omega⟩
  simp only [log2Bits, ha, if_neg (not_lt.2 pos.le), Int.natAbs_natCast, if_pos power]
  rw [add_comm e, top]

/-- The sine of a whole number of half turns is zero (R165). -/
theorem sinPiDy_integer (j : Int) (k : Nat) (zneg : Bool) : sinPiDy (j * (2 ^ k : Nat)) k zneg = f32.signed zneg 0 := by
  have pos : (0 : Int) < (2 ^ k : Nat) := by exact_mod_cast Nat.two_pow_pos k
  have rest : j * (2 ^ k : Nat) % (2 * 2 ^ k : Nat) = (2 ^ k : Nat) * (j % 2) := by
    rw [Nat.cast_mul, mul_comm j, Nat.cast_ofNat, mul_comm (2 : Int), Int.mul_emod_mul_of_pos _ _ pos]
  have halfTurns : (j * (2 ^ k : Nat) % (2 * 2 ^ k : Nat)).toNat = 0 ∨
      (j * (2 ^ k : Nat) % (2 * 2 ^ k : Nat)).toNat = 2 ^ k := by
    rw [rest]
    rcases Int.emod_two_eq_zero_or_one j with even | odd
    · exact Or.inl (by rw [even, mul_zero]; rfl)
    · exact Or.inr (by rw [odd, mul_one]; rfl)
  unfold sinPiDy
  exact if_pos (by simpa only [Bool.or_eq_true, decide_eq_true_eq] using halfTurns)

theorem sinPiBits_integer {a : Nat} {m e k : Int} (ha : f32.read a = .fin m e) (h : (m : ℚ) * (2 : ℚ) ^ e = k) :
    sinPiBits a = f32.signed (decide (m < 0)) 0 := by
  simp only [sinPiBits, ha]
  split_ifs with he
  · rfl
  · rw [congrArg (fun n => sinPiDy n _ _) ((integer_dyadic h).2 (not_le.1 he))]
    exact sinPiDy_integer _ _ _

/-- The cosine of an odd number of quarter turns is +0 (R165). -/
theorem cosPiBits_half {a : Nat} {m e k : Int} (ha : f32.read a = .fin m e) (h : (m : ℚ) * (2 : ℚ) ^ e = k + 1 / 2) :
    cosPiBits a = f32.signed false 0 := by
  obtain ⟨whole, shifted⟩ := integer_dyadic (m := 2 * m) (e := e) (k := 2 * k + 1) (by
    push_cast
    rw [mul_assoc, h]
    ring)
  have fraction : ¬ 0 ≤ e := fun he => by
    have := whole he
    rw [mul_assoc] at this
    omega
  have quarters : (2 ^ (-e).toNat : Nat) - 2 * m = -k * (2 ^ ((-e).toNat + 1) : Nat) := by
    rw [shifted (not_le.1 fraction), pow_succ]
    push_cast
    ring
  simp only [cosPiBits, ha, if_neg fraction, quarters]
  exact sinPiDy_integer _ _ _

/-! ## Special cases (R165) -/

theorem cast_toRat_fin (m e : Int) : ((FVal.fin m e).toRat : ℝ) = (m : ℝ) * (2 : ℝ) ^ e := by
  rw [FVal.toRat]
  push_cast
  rfl

/-- What is below 0 is a finite value with a negative significand. -/
theorem fin_of_toRat_neg {x : FVal} (h : x.toRat < 0) : ∃ m e, x = .fin m e ∧ m < 0 := by
  cases x with
  | fin m e => exact ⟨m, e, rfl, (toRat_neg_iff m e).1 h⟩
  | _ => exact absurd h (Std.lt_irrefl (a := (0 : ℚ)))

theorem div_nan {f : Fmt} {a b : Nat} (h : f.read a = .nan ∨ f.read b = .nan) : f.div a b = f.nan := by
  rcases h with h | h
  · simp only [Fmt.div, h]
  · cases ha : f.read a <;> simp only [Fmt.div, ha, h]

/-- Settles O43: `nearest_div`, `nearest_sqrt`, `nearest_rcp` and `nearest_rsq` are the rounded results; the other clauses are
the special cases of R165, and the exact powers, logarithms, sines and cosines. -/
theorem correctRounding : Obligations.CorrectRounding := by
  unfold Obligations.CorrectRounding
  intro neg
  have negFin (m e : Int) : neg (.fin m e) = decide (m < 0) := decide_eq_decide.2 (toRat_neg_iff m e)
  constructor
  · intro f hf a b
    dsimp only
    have he : 2 ≤ f.ebits := by
      revert f
      decide
    have zero (s : Bool) : f.read (f.signed s 0) = .zero s := read_signed_zero (by omega) s
    have inf (s : Bool) : f.read (f.signed s f.infBits) = .inf s := read_signed_inf f s
    refine ⟨fun m e n g hx hy => ?_, fun m e hx hm => ?_, div_nan, fun hx => ?_, fun m e t hx hy => ?_, fun s t hx hy => ?_,
      fun s t hx hy => ?_, fun m e t hx hy => ?_, fun s t hx hy => ?_, fun s n g hx hy => ?_, fun s hx => ?_, fun h => ?_,
      fun hx => ?_⟩
    · rw [hx, hy, negFin, negFin, Rat.cast_div, cast_toRat_fin, cast_toRat_fin]
      exact nearest_div he hx hy
    · rw [hx, cast_toRat_fin]
      exact nearest_sqrt he hx hm
    · simp only [Fmt.sqrt, hx]
    · simp only [Fmt.div, hx, hy, inf, negFin]
    · simp only [Fmt.div, hx, hy]
    · simp only [Fmt.div, hx, hy]
    · simp only [Fmt.div, hx, hy, zero, negFin]
    · simp only [Fmt.div, hx, hy, zero]
    · simp only [Fmt.div, hx, hy, zero, negFin]
    · simp only [Fmt.sqrt, hx, zero]
    · rcases h with negative | hx
      · obtain ⟨m, e, hx, hm⟩ := fin_of_toRat_neg (of_decide_eq_true negative)
        simp only [Fmt.sqrt, hx, if_pos hm]
      · simp only [Fmt.sqrt, hx]
    · simp only [Fmt.sqrt, hx]
      exact inf false
  · intro a
    dsimp only
    have zero (s : Bool) : f32.read (f32.signed s 0) = .zero s := read_signed_zero (by decide) s
    have inf (s : Bool) : f32.read (f32.signed s f32.infBits) = .inf s := read_signed_inf f32 s
    refine ⟨fun m e hx => ?_, fun m e hx hm => ?_, fun hx => ?_, fun s hx => ?_, fun s hx => ?_, fun hx => ?_, fun hx => ?_,
      fun negative => ?_, fun m e k hx hk => ?_, fun m e k hx hk => ?_, fun m e k hx hk => ?_⟩
    · rw [hx, negFin, Rat.cast_inv, cast_toRat_fin]
      exact nearest_rcp (by decide) hx
    · rw [hx, cast_toRat_fin]
      exact nearest_rsq (by decide) hx hm
    · simp only [Fmt.rcp, Fmt.rsq, exp2Bits, log2Bits, sinPiBits, cosPiBits, hx, true_and]
    · simp only [Fmt.rcp, Fmt.rsq, exp2Bits, log2Bits, sinPiBits, cosPiBits, hx, inf, zero, true_and]
    · simp only [Fmt.rcp, sinPiBits, cosPiBits, hx, zero, true_and]
    · simp only [Fmt.rsq, exp2Bits, log2Bits, hx]
      exact ⟨zero false, inf false, inf false⟩
    · simp only [Fmt.rsq, exp2Bits, log2Bits, hx, true_and, and_true]
      exact zero false
    · obtain ⟨m, e, hx, hm⟩ := fin_of_toRat_neg (of_decide_eq_true negative)
      simp only [Fmt.rsq, log2Bits, hx, if_pos hm, true_and]
    · rw [hx] at hk
      rw [hx, negFin, sinPiBits_integer hx hk]
      exact ⟨fun lo hi => by rw [exp2Bits_integer hx hk lo hi, toRat_round_two_pow lo hi], zero _⟩
    · rw [hx] at hk
      obtain ⟨log, small⟩ := log2Bits_two_pow hx hk
      rw [log]
      exact toRat_roundDy_int small
    · rw [hx] at hk
      rw [cosPiBits_half hx hk]
      exact zero false

end Sys2Proof.Machine
end

section
/-!
# Floating-point words

Signs and order keys bit by bit (R166, R167, R182), and the tables of R179 to R184.
-/

namespace Sys2Proof.Machine

/-! ## Bits of patterns -/

theorem negBit_eq_testBit (f : Fmt) (b : Nat) : f.negBit b = b.testBit (f.ebits + f.fbits) := by
  rw [Fmt.negBit, Nat.testBit_eq_decide_div_mod_eq]
  rfl

theorem negBit_iff {f : Fmt} {b : Nat} : f.negBit b = true ↔ b / f.signBit % 2 = 1 := beq_iff_eq

theorem testBit_mag (f : Fmt) (b k : Nat) : (f.mag b).testBit k = (decide (k < f.ebits + f.fbits) && b.testBit k) :=
  Nat.testBit_mod_two_pow b _ k

theorem testBit_signed {f : Fmt} (neg : Bool) {g k : Nat} (hg : g < f.signBit) (hk : k < f.width) :
    (f.signed neg g).testBit k = if k = f.ebits + f.fbits then neg else g.testBit k := by
  have top : g.testBit (f.ebits + f.fbits) = false := Nat.testBit_lt_two_pow hg
  unfold Fmt.width at hk
  unfold Fmt.signed Fmt.signBit
  rcases eq_or_ne k (f.ebits + f.fbits) with rfl | low
  · rw [if_pos rfl]
    split_ifs with h
    · rw [Nat.testBit_two_pow_add_eq, top, h]
      rfl
    · rw [top, Bool.eq_false_iff.2 h]
  · rw [if_neg low]
    split_ifs
    · exact Nat.testBit_two_pow_add_gt (by omega) g
    · rfl

section
variable {f : Fmt} {b : Nat} (hb : b < 2 ^ f.width)
include hb

theorem negate_eq : f.negate b = f.signed (!f.negBit b) (f.mag b) := by
  have pattern := signed_mag hb
  unfold Fmt.negate
  simp only [← negBit_iff]
  cases sign : f.negBit b <;> rw [sign] at pattern
  · exact (Nat.add_comm _ _).trans (congrArg (f.signBit + ·) pattern.symm)
  · exact Nat.sub_eq_of_eq_add' pattern.symm

theorem key_eq_signed : f.key b = if f.negBit b then 2 ^ f.width - (b + 1) else f.signed true (f.mag b) := by
  have hS := mag_lt f b
  rw [key_eq hb]
  split_ifs with h
  · conv_rhs => rw [← signed_mag hb, h]
    rw [two_pow_width]
    simp only [Fmt.signed, if_true]
    omega
  · rfl

theorem keyInv_eq : f.keyInv b = if f.negBit b then f.mag b else 2 ^ f.width - (b + 1) := by
  have hS := mag_lt f b
  unfold Fmt.keyInv
  simp only [← negBit_iff]
  split_ifs with h
  · conv_lhs => rw [← signed_mag hb, h]
    simp [Fmt.signed]
  · omega

end

section
variable {f : Fmt} (a : BitVec f.width) {k : Nat} (hk : k < f.width)
include hk

theorem getLsbD_ofPattern (g : Nat) : (BitVec.ofNat f.width g).getLsbD k = g.testBit k := by
  rw [BitVec.getLsbD_ofNat, decide_eq_true hk, Bool.true_and]

theorem getLsbD_complement : (2 ^ f.width - (a.toNat + 1)).testBit k = !a.getLsbD k := by
  rw [Nat.testBit_two_pow_sub_succ a.isLt, decide_eq_true hk, Bool.true_and]
  rfl

/-- The bits of a pattern with its sign cleared (R182). -/
theorem getLsbD_abs : (BitVec.ofNat f.width (f.abs a.toNat)).getLsbD k =
    (decide (k < f.ebits + f.fbits) && a.getLsbD k) :=
  (getLsbD_ofPattern hk _).trans (testBit_mag f a.toNat k)

/-- The bits of a pattern with its sign turned (R182). -/
theorem getLsbD_negate : (BitVec.ofNat f.width (f.negate a.toNat)).getLsbD k =
    (a.getLsbD k != (k == f.ebits + f.fbits)) := by
  rw [getLsbD_ofPattern hk, negate_eq a.isLt, testBit_signed _ (mag_lt f _) hk, testBit_mag, negBit_eq_testBit]
  rw [Fmt.width] at hk
  split_ifs with top
  · simp [top, BitVec.testBit_toNat]
  · rw [decide_eq_true (by omega), BitVec.testBit_toNat, beq_eq_false_iff_ne.2 top]
    simp

/-- The bits of an order key (R166). -/
theorem getLsbD_key : (BitVec.ofNat f.width (f.key a.toNat)).getLsbD k =
    if a.getLsbD (f.ebits + f.fbits) then !a.getLsbD k else k == f.ebits + f.fbits || a.getLsbD k := by
  rw [getLsbD_ofPattern hk, key_eq_signed a.isLt, negBit_eq_testBit, BitVec.testBit_toNat]
  split_ifs with h
  · exact getLsbD_complement a hk
  · rw [testBit_signed _ (mag_lt f _) hk, testBit_mag, BitVec.testBit_toNat]
    rw [Fmt.width] at hk
    split_ifs with top
    · rw [top, beq_self_eq_true, Bool.true_or]
    · rw [decide_eq_true (by omega), beq_eq_false_iff_ne.2 top, Bool.true_and, Bool.false_or]

/-- The bits of a pattern from its order key (R167). -/
theorem getLsbD_keyInv : (BitVec.ofNat f.width (f.keyInv a.toNat)).getLsbD k =
    if a.getLsbD (f.ebits + f.fbits) then decide (k < f.ebits + f.fbits) && a.getLsbD k else !a.getLsbD k := by
  rw [getLsbD_ofPattern hk, keyInv_eq a.isLt, negBit_eq_testBit, BitVec.testBit_toNat]
  split_ifs
  · exact testBit_mag f _ k
  · exact getLsbD_complement a hk

end

/-! ## The words -/

theorem writesFloat32 : writesWord Env.float32 := by
  intro s e i he hr hi
  cases i with
  | fadd d a b => exact word_gives he hr rfl fun f => ⟨_, rfl, rfl⟩
  | fsub d a b => exact word_gives he hr rfl fun f => ⟨_, rfl, rfl⟩
  | fmul d a b => exact word_gives he hr rfl fun f => ⟨_, rfl, rfl⟩
  | ffma d a b => exact word_gives he hr rfl fun f => ⟨_, rfl, rfl⟩
  | ffms d a b => exact word_gives he hr rfl fun f => ⟨_, rfl, rfl⟩
  | fnfma d a b => exact word_gives he hr rfl fun f => ⟨_, rfl, rfl⟩
  | fmin d a b => exact word_gives he hr rfl fun f => ⟨_, rfl, rfl⟩
  | fmax d a b => exact word_gives he hr rfl fun f => ⟨_, rfl, rfl⟩
  | fabs d a => exact word_gives he hr rfl fun f => ⟨_, rfl, fun _ hk => getLsbD_abs (f := f32) _ hk⟩
  | fneg d a => exact word_gives he hr rfl fun f => ⟨_, rfl, fun _ hk => getLsbD_negate (f := f32) _ hk⟩
  | fdiv d a b => exact word_gives he hr rfl fun f => ⟨_, rfl, rfl⟩
  | fsqrt d a => exact word_gives he hr rfl fun f => ⟨_, rfl, rfl⟩
  | frcp d a => exact word_gives he hr rfl fun f => ⟨_, rfl, rfl⟩
  | frsq d a => exact word_gives he hr rfl fun f => ⟨_, rfl, rfl⟩
  | fexp2 d a => exact word_gives he hr rfl fun f => ⟨_, rfl, rfl⟩
  | flog2 d a => exact word_gives he hr rfl fun f => ⟨_, rfl, rfl⟩
  | fsinpi d a => exact word_gives he hr rfl fun f => ⟨_, rfl, rfl⟩
  | fcospi d a => exact word_gives he hr rfl fun f => ⟨_, rfl, rfl⟩
  | fkey d a => exact word_gives he hr rfl fun f => ⟨_, rfl, fun _ hk => getLsbD_key (f := f32) _ hk⟩
  | fkeyinv d a => exact word_gives he hr rfl fun f => ⟨_, rfl, fun _ hk => getLsbD_keyInv (f := f32) _ hk⟩
  | _ => exact absurd (hi default) Bool.false_ne_true

theorem writesFloat64 : writesPair Env.float64 := by
  intro s e i he hr hi
  cases i with
  | dadd d a b => exact pair_gives he hr rfl (fun h => (of_decide_eq_true h).2.2) fun f => ⟨_, rfl, rfl⟩
  | dsub d a b => exact pair_gives he hr rfl (fun h => (of_decide_eq_true h).2.2) fun f => ⟨_, rfl, rfl⟩
  | dmul d a b => exact pair_gives he hr rfl (fun h => (of_decide_eq_true h).2.2) fun f => ⟨_, rfl, rfl⟩
  | dfma d a b => exact pair_gives he hr rfl (fun h => (of_decide_eq_true h).2.2) fun f => ⟨_, rfl, rfl⟩
  | dmin d a b => exact pair_gives he hr rfl (fun h => (of_decide_eq_true h).2.2) fun f => ⟨_, rfl, rfl⟩
  | dmax d a b => exact pair_gives he hr rfl (fun h => (of_decide_eq_true h).2.2) fun f => ⟨_, rfl, rfl⟩
  | dabs d a =>
    exact pair_gives he hr rfl (fun h => (of_decide_eq_true h).2) fun f => ⟨_, rfl, fun _ hk => getLsbD_abs (f := f64) _ hk⟩
  | dneg d a =>
    exact pair_gives he hr rfl (fun h => (of_decide_eq_true h).2) fun f =>
      ⟨_, rfl, fun _ hk => getLsbD_negate (f := f64) _ hk⟩
  | ddiv d a b => exact pair_gives he hr rfl (fun h => (of_decide_eq_true h).2.2) fun f => ⟨_, rfl, rfl⟩
  | dsqrt d a => exact pair_gives he hr rfl (fun h => (of_decide_eq_true h).2) fun f => ⟨_, rfl, rfl⟩
  | dkey d a =>
    exact pair_gives he hr rfl (fun h => (of_decide_eq_true h).2) fun f => ⟨_, rfl, fun _ hk => getLsbD_key (f := f64) _ hk⟩
  | _ => exact absurd (hi default) Bool.false_ne_true

/-- Settles O13: the bits of signs and keys by the lemmas above; every other word computes the table's function of patterns. -/
theorem floatAndDoubleWords : Obligations.FloatAndDoubleWords := by
  unfold Obligations.FloatAndDoubleWords
  exact ⟨writesFloat32, writesFloat64⟩

end Sys2Proof.Machine
end

section
/-!
# Conversions and fixed point

The conversions of R161 to R164 on the integers and values that patterns stand for, and the words of R186 to R190.
-/

namespace Sys2Proof.Machine

/-! ## Integers of a type (R153) -/

theorem intOf_eq_typeInt (signed : Bool) {bits : Nat} (hb : 0 < bits) (src : Nat) :
    intOf signed bits src = typeInt signed bits src := by
  obtain ⟨n, rfl⟩ := Nat.exists_eq_add_of_lt hb
  have lt : src % 2 ^ (0 + n + 1) < 2 ^ (0 + n + 1) := Nat.mod_lt _ (Nat.two_pow_pos _)
  cases signed
  · rfl
  · simp only [intOf, typeInt, signedOf, if_true, Bool.true_and, Nat.zero_add, Nat.add_sub_cancel] at *
    generalize src % 2 ^ (n + 1) = x at *
    rw [Nat.pow_succ] at lt
    split_ifs with low top top
    · rw [Nat.div_eq_of_lt low] at top
      cases top
    · rfl
    · rfl
    · exact absurd (beq_iff_eq.2 (Nat.div_eq_of_lt_le (by omega) (by omega))) top

theorem typeLo_le_typeHi (signed : Bool) (bits : Nat) : typeLo signed bits ≤ typeHi signed bits := by
  have whole : (0 : Int) < 2 ^ bits := by positivity
  have half : (0 : Int) < 2 ^ (bits - 1) := by positivity
  unfold typeLo typeHi
  split_ifs <;> omega

theorem clampInt_type (x : Int) (signed : Bool) (bits : Nat) :
    clampInt x (intLo signed bits) (intHi signed bits) = satInt x (typeLo signed bits) (typeHi signed bits) :=
  clampInt_eq_satInt x (typeLo_le_typeHi signed bits)

/-- An exact zero has no sign. -/
theorem roundDy_eq_ite (f : Fmt) (mode : RMode) (m e : Int) :
    f.roundDy mode m e false = if m = 0 then 0 else f.roundDy mode m e false := by
  split_ifs with h
  · rw [h]
    rfl
  · rfl

/-! ## Patterns that are kept (R162) -/

theorem eq_signed_of_read {f : Fmt} {b : Nat} (hb : b < 2 ^ f.width) (neg : Bool) :
    (f.read b = .inf neg → b = f.signed neg f.infBits) ∧ (f.read b = .zero neg → b = f.signed neg 0) := by
  have pattern := signed_mag hb
  by_cases h : f.isNan b = true
  · have read : f.read b = .nan := beq_iff_eq.1 h
    rw [read]
    exact ⟨nofun, nofun⟩
  · rcases read_cases (Bool.eq_false_iff.2 h) with ⟨read, mag⟩ | ⟨read, mag⟩ | ⟨k, x, read, -⟩ <;> rw [read]
    · exact ⟨fun same => by cases same; rw [← mag, pattern], nofun⟩
    · exact ⟨nofun, fun same => by cases same; rw [← mag, pattern]⟩
    · exact ⟨nofun, nofun⟩

/-! ## The table of R161 to R164 -/

theorem bits_pos_of_ofCode {c bits : Nat} {signed : Bool} (h : CvtType.ofCode c = .int signed bits) : 0 < bits := by
  unfold CvtType.ofCode at h
  split at h <;> cases h <;> decide

/-- A conversion between float formats (R162, R163). -/
theorem cvtBits_flt_flt (f g : Fmt) (mode : RMode) (src : Nat) :
    cvtBits (.flt g) (.flt f) mode src = cvtResult (.flt g) (.flt f) mode src := by
  have hb : src % 2 ^ f.width < 2 ^ f.width := Nat.mod_lt _ (Nat.two_pow_pos _)
  have kept := fun neg => eq_signed_of_read hb neg
  unfold cvtBits cvtResult
  dsimp only
  by_cases same : f = g
  · subst same
    rw [if_pos rfl, Fmt.integral]
    cases read : f.read (src % 2 ^ f.width) with
    | nan => rfl
    | inf neg => exact (kept neg).1 read
    | zero neg => exact (kept neg).2 read
    | fin m e => exact (if_pos rfl).symm
  · rw [if_neg same]
    cases f.read (src % 2 ^ f.width) with
    | fin m e => exact (if_neg same).symm
    | _ => rfl

/-- A conversion gives what R161 to R164 say, where an integer source type has bits. -/
theorem cvtBits_eq_cvtResult (dt : CvtType) {st : CvtType} (hst : ∀ signed bits, st = .int signed bits → 0 < bits)
    (mode : RMode) (src : Nat) : cvtBits dt st mode src = cvtResult dt st mode src := by
  cases st with
  | int s n =>
    have source := intOf_eq_typeInt s (hst s n rfl) src
    cases dt with
    | int t k => simp only [cvtBits, cvtResult, source, clampInt_type, intBits]
    | flt g =>
      simp only [cvtBits, cvtResult, source]
      exact roundDy_eq_ite g mode _ 0
  | flt f =>
    cases dt with
    | int t k =>
      unfold cvtBits cvtResult
      dsimp only
      match f.read (src % 2 ^ f.width) with
      | .fin m e => exact congrArg (intBits 64) (clampInt_type _ t k)
      | .nan => rfl
      | .inf true => rfl
      | .inf false => rfl
      | .zero _ => rfl
    | flt g => exact cvtBits_flt_flt f g mode src

theorem cvtBits_ofCode (dt st : BitVec 4) (mode : RMode) (src : Nat) :
    cvtBits (.ofCode dt.toNat) (.ofCode st.toNat) mode src = cvtResult (.ofCode dt.toNat) (.ofCode st.toNat) mode src :=
  cvtBits_eq_cvtResult _ (fun _ _ h => bits_pos_of_ofCode h) mode src

/-! ## Fixed point (R190) -/

theorem ofNat_intBits (x : Int) : BitVec.ofNat 64 (intBits 64 x) = BitVec.ofInt 64 x := by
  refine BitVec.eq_of_toNat_eq ?_
  rw [BitVec.toNat_ofNat, BitVec.toNat_ofInt, intBits]
  omega

theorem intOf_toNat (x : DWord) : intOf true 64 x.toNat = x.toInt := by
  rw [intOf, if_pos rfl, Nat.mod_eq_of_lt x.isLt, signedOf_eq_toInt (by decide) x.isLt, BitVec.ofNat_toNat, BitVec.setWidth_eq]

/-- `fix` gives the integer of R161 for x × 2^scale. -/
theorem is64_fix (mode : RMode) (scale : Int) (src : Nat) :
    is64 (match f32.read src with
      | .nan => 0
      | .inf true => -(2 ^ 63)
      | .inf false => 2 ^ 63 - 1
      | .zero _ => 0
      | .fin m x => satInt (roundInt mode m (x + scale)) (-(2 ^ 63)) (2 ^ 63 - 1))
      (BitVec.ofNat 64 (fixBits mode scale src)) := by
  rw [is64, fixBits, ofNat_intBits]
  match f32.read src with
  | .fin m e => exact congrArg (BitVec.ofInt 64) (clampInt_type _ true 64)
  | .nan => rfl
  | .inf true => rfl
  | .inf false => rfl
  | .zero _ => rfl

theorem isNum32_unfix (mode : RMode) (scale : Int) (src : DWord) :
    isNum32 (if src.toInt = 0 then 0 else f32.roundDy mode src.toInt (-scale) false)
      (BitVec.ofNat 32 (unfixBits mode scale src.toNat)) := by
  rw [isNum32, unfixBits, intOf_toNat, ← roundDy_eq_ite]

/-! ## The words -/

theorem writesConvert32 : writesWord Env.convert32 := by
  intro s e i he hr hi
  cases i with
  | cvt d a dt st rm =>
    have narrow : ¬ wide dt = true := fun h => by simpa [Env.convert32, h] using hi default
    refine word_gives he hr (if_neg narrow) (fun f => ⟨_, if_neg narrow, ?_⟩) (if_neg narrow)
    exact congrArg (BitVec.ofNat 32) (cvtBits_ofCode dt st _ _)
  | unfix d a rm scale => exact word_gives he hr rfl fun f => ⟨_, rfl, isNum32_unfix _ _ _⟩
  | _ => exact absurd (hi default) Bool.false_ne_true

theorem writesConvert64 : writesPair Env.convert64 := by
  intro s e i he hr hi
  cases i with
  | cvt d a dt st rm =>
    have isWide : wide dt = true := by
      by_contra h
      simpa [Env.convert64, h] using hi default
    have even (h : (Instr.cvt d a dt st rm).wf = true) : d.toNat % 2 = 0 := by
      obtain ⟨-, -, -, even, -⟩ := of_decide_eq_true h
      exact even isWide
    refine pair_gives he hr (if_pos isWide) even (fun f => ⟨_, if_pos isWide, ?_⟩) (if_pos isWide)
    exact congrArg (BitVec.ofNat 64) (cvtBits_ofCode dt st _ _)
  | fix d a rm scale =>
    exact pair_gives he hr rfl (fun h => (of_decide_eq_true h).1) fun f => ⟨_, rfl, is64_fix _ _ _⟩
  | _ => exact absurd (hi default) Bool.false_ne_true

/-- Settles O15: `cvtBits_eq_cvtResult` is the table of conversions, `is64_fix` and `isNum32_unfix` are fixed point. -/
theorem conversionWords : Obligations.ConversionWords := by
  unfold Obligations.ConversionWords
  exact ⟨writesConvert32, writesConvert64⟩

end Sys2Proof.Machine
end

section
/-!
# The order of values

Float conditions compare what two values stand for (R183); `fmin` and `fmax` choose by that order, −0 below +0 (R181).
-/

namespace Sys2Proof.Machine

/-! ## Numerical order -/

/-- Below, as R183 compares: no NaN, the infinities at the ends, finite values by the numbers they stand for. -/
def FVal.less (x y : FVal) : Prop :=
  ¬ (x = .nan ∨ y = .nan) ∧
    ((x = .inf true ∧ y ≠ .inf true) ∨ (y = .inf false ∧ x ≠ .inf false) ∨
      ((∀ b, x ≠ .inf b) ∧ (∀ b, y ≠ .inf b) ∧ x.toRat < y.toRat))

/-- The exponents of two dyadics need no common last bit. -/
theorem dyAdd_neg_iff_toRat (m e n g : Int) : (dyAdd m e (-n) g).1 < 0 ↔ (FVal.fin m e).toRat < (FVal.fin n g).toRat := by
  obtain ⟨x, hx⟩ : ∃ x : Nat, e = min e g + x := ⟨(e - min e g).toNat, by omega⟩
  obtain ⟨y, hy⟩ : ∃ y : Nat, g = min e g + y := ⟨(g - min e g).toNat, by omega⟩
  generalize min e g = q at hx hy
  subst hx hy
  have unit : (0 : ℚ) < 2 ^ q := by positivity
  have value (k : Int) (z : Nat) : (FVal.fin k (q + z)).toRat = ((k * 2 ^ z : Int) : ℚ) * 2 ^ q := by
    rw [FVal.toRat, zpow_add₀ two_ne_zero, zpow_natCast]
    push_cast
    ring
  rw [dyAdd_neg_iff, value, value, mul_lt_mul_iff_left₀ unit, Int.cast_lt]

theorem toRat_pos_iff (m e : Int) : 0 < (FVal.fin m e).toRat ↔ 0 < m := by
  have unit : (0 : ℚ) < 2 ^ e := by positivity
  rw [FVal.toRat, mul_pos_iff_of_pos_right unit, Int.cast_pos]

/-- The model's comparison is that of R183. -/
theorem lt_iff_less (x y : FVal) : x.lt y = true ↔ x.less y := by
  unfold FVal.less
  match x, y with
  | .nan, _ => simp [FVal.lt]
  | .inf _, .nan | .zero _, .nan | .fin .., .nan => simp [FVal.lt]
  | .inf s, .inf t => cases s <;> cases t <;> simp [FVal.lt]
  | .inf s, .zero _ | .inf s, .fin .. => simp [FVal.lt]
  | .zero _, .inf t | .fin .., .inf t => simp [FVal.lt]
  | .zero _, .zero _ => simp [FVal.lt, FVal.toRat]
  | .zero s, .fin n g =>
    have sign : (FVal.zero s).toRat < (FVal.fin n g).toRat ↔ 0 < n := toRat_pos_iff n g
    simp [FVal.lt, sign]
  | .fin m e, .zero s =>
    have sign : (FVal.fin m e).toRat < (FVal.zero s).toRat ↔ m < 0 := toRat_neg_iff m e
    simp [FVal.lt, sign]
  | .fin m e, .fin n g => simp [FVal.lt, dyAdd_neg_iff_toRat]

/-- Settles O41: each condition of the table in terms of the comparison, which is `FVal.less`. -/
theorem floatCompare : Obligations.FloatCompare := by
  unfold Obligations.FloatCompare
  intro x y un less
  have compare (u v : FVal) : u.lt v = true ↔ less u v := lt_iff_less u v
  have unordered : (x == .nan || y == .nan) = true ↔ un := by simp [un]
  have ordered : less x y ∨ less y x → ¬ un
    | .inl below => below.1
    | .inr above => fun nan => above.1 nan.symm
  simp only [fcond, ← compare, ← unordered] at ordered ⊢
  clear compare unordered
  generalize (x == .nan || y == .nan) = un at *
  generalize x.lt y = lt at *
  generalize y.lt x = gt at *
  revert un lt gt
  decide

/-! ## `fmin` and `fmax` (R181) -/

section
variable {f : Fmt} {a b : Nat} (ha : f.isNan a = false) (hb : f.isNan b = false)

include ha hb in
/-- Patterns with different values are ordered: the converse of `val_lt_of_lt`. -/
theorem lt_of_val_lt (h : f.val a < f.val b) : (f.read a).lt (f.read b) = true := by
  have top : 0 ≤ f.top := Int.natCast_nonneg _
  rcases val_cases ha with ⟨ra, va⟩ | ⟨ra, va⟩ | ⟨m, x, ra, va, loa, hia⟩ <;>
    rcases val_cases hb with ⟨rb, vb⟩ | ⟨rb, vb⟩ | ⟨n, y, rb, vb, lob, hib⟩ <;> rw [ra, rb]
  · grind [FVal.lt]
  · grind [FVal.lt]
  · grind [FVal.lt]
  · grind [FVal.lt]
  · omega
  · have pos : 0 < n := by
      rw [va, vb] at h
      exact pos_of_mul_pos_left h (by positivity)
    exact decide_eq_true pos
  · grind [FVal.lt]
  · have neg : m < 0 := by
      rw [va, vb] at h
      exact neg_of_mul_neg_left h (by positivity)
    exact decide_eq_true neg
  · rw [va, vb] at h
    exact decide_eq_true ((dyAdd_neg_iff m n f.qmin x y).2 h)

variable (he : 0 < f.ebits) (wa : a < 2 ^ f.width) (wb : b < 2 ^ f.width)

include he wa in
theorem read_of_mag_zero (h : f.mag a = 0) : f.read a = .zero (f.negBit a) := by
  rw [← read_signed_zero he, ← h, signed_mag wa]

include wa wb

/-- Patterns of one value are equal but for the sign of a zero. -/
theorem eq_of_val_eq (h : f.val a = f.val b) : a = b ∨ f.negBit a ≠ f.negBit b ∧ f.mag a = 0 ∧ f.mag b = 0 := by
  have inj := (units_strictMono f).injective
  have zero {g : Nat} (hg : f.units g = 0) : g = 0 := inj (hg.trans (units_zero f).symm)
  rcases eq_or_ne (f.negBit a) (f.negBit b) with sign | sign
  · have mag : f.mag a = f.mag b := inj (by unfold Fmt.val at h; grind)
    exact Or.inl (by rw [← signed_mag wa, sign, mag, signed_mag wb])
  · have opposite : f.units (f.mag a) = 0 ∧ f.units (f.mag b) = 0 := by unfold Fmt.val at h; grind
    exact Or.inr ⟨sign, zero opposite.1, zero opposite.2⟩

include he ha hb

/-- Two patterns of which R181 puts neither below are one. -/
theorem eq_of_not_below (hab : ¬ (f.read a).below (f.read b)) (hba : ¬ (f.read b).below (f.read a)) : a = b := by
  have val : f.val a = f.val b :=
    le_antisymm (not_lt.1 fun h => hba (.inl (lt_of_val_lt hb ha h))) (not_lt.1 fun h => hab (.inl (lt_of_val_lt ha hb h)))
  rcases eq_of_val_eq wa wb val with same | ⟨sign, za, zb⟩
  · exact same
  · have ra := read_of_mag_zero he wa za
    have rb := read_of_mag_zero he wb zb
    cases sa : f.negBit a <;> cases sb : f.negBit b <;> rw [sa] at ra <;> rw [sb] at rb
    · exact absurd (sa.trans sb.symm) sign
    · exact absurd (.inr ⟨rb, ra⟩) hba
    · exact absurd (.inr ⟨ra, rb⟩) hab
    · exact absurd (sa.trans sb.symm) sign

end

section
variable {f : Fmt} {a b : Nat}

theorem fmin_eq_ite (ha : f.isNan a = false) (hb : f.isNan b = false) :
    f.fmin a b = if f.key a ≤ f.key b then a else b := if_neg (by simp [ha, hb])

theorem fmax_eq_ite (ha : f.isNan a = false) (hb : f.isNan b = false) :
    f.fmax a b = if f.key a ≤ f.key b then b else a := if_neg (by simp [ha, hb])

variable (he : 0 < f.ebits) (wa : a < 2 ^ f.width) (wb : b < 2 ^ f.width)
include he wa wb

/-- A choice between the operands by their keys is one by the order of R181. -/
theorem minMax_of_key {greater : Prop} {r : Nat} (nan : (f.isNan a || f.isNan b) = true → r = f.nan)
    (low : f.isNan a = false → f.isNan b = false → f.key a ≤ f.key b → (greater → r = b) ∧ (¬ greater → r = a))
    (high : f.isNan a = false → f.isNan b = false → f.key b < f.key a → (greater → r = a) ∧ (¬ greater → r = b)) :
    minMax f greater a b r := by
  refine ⟨fun h => nan (by simpa using h), fun ha hb => ?_⟩
  have pos := infBits_pos he
  refine ⟨fun below => low ha hb (key_lt_of_below pos ha hb wa wb below).le,
    fun above => high ha hb (key_lt_of_below pos hb ha wb wa above), fun hab hba => ?_⟩
  obtain rfl := eq_of_not_below ha hb he wa wb hab hba
  obtain ⟨larger, smaller⟩ := low ha hb le_rfl
  exact ⟨(em greater).elim larger smaller, rfl⟩

theorem minMax_fmin : minMax f False a b (f.fmin a b) :=
  minMax_of_key he wa wb fmin_nan (fun ha hb le => ⟨False.elim, fun _ => (fmin_eq_ite ha hb).trans (if_pos le)⟩)
    fun ha hb lt => ⟨False.elim, fun _ => (fmin_eq_ite ha hb).trans (if_neg lt.not_ge)⟩

theorem minMax_fmax : minMax f True a b (f.fmax a b) :=
  minMax_of_key he wa wb fmax_nan (fun ha hb le => ⟨fun _ => (fmax_eq_ite ha hb).trans (if_pos le), (absurd trivial ·)⟩)
    fun ha hb lt => ⟨fun _ => (fmax_eq_ite ha hb).trans (if_neg lt.not_ge), (absurd trivial ·)⟩

end

/-- Settles O40: both words choose by keys, which `minMax_fmin` and `minMax_fmax` tie to the order of R181. -/
theorem floatMinMax : Obligations.FloatMinMax := by
  unfold Obligations.FloatMinMax
  intro s e d a b he
  have pos : 0 < f32.ebits := by decide
  refine ⟨fun ready => ?_, fun ready => ?_⟩
  · obtain ⟨t, next, acts⟩ := setReg_gives (v := fun e f => bin f32.fmin (e.srcA f a) (e.srcB f b)) he ready rfl
      (by intros; rfl)
    exact ⟨t, next, acts_imp acts fun v c g wrote => ⟨_, minMax_fmin pos (e.srcA v a).isLt (e.srcB v b).isLt, wrote⟩⟩
  · obtain ⟨t, next, acts⟩ := setReg_gives (v := fun e f => bin f32.fmax (e.srcA f a) (e.srcB f b)) he ready rfl
      (by intros; rfl)
    exact ⟨t, next, acts_imp acts fun v c g wrote => ⟨_, minMax_fmax pos (e.srcA v a).isLt (e.srcB v b).isLt, wrote⟩⟩

end Sys2Proof.Machine
end

section
/-!
# Packed halves

A word on packed halves joins two results of 16 bits, so that neither element changes the other (R185).
-/

namespace Sys2Proof.Machine

/-! ## Results fit their format -/

theorem nan_lt (f : Fmt) : f.nan < 2 ^ f.width := by
  have inf := infBits_lt_signBit f
  have quiet : 2 ^ (f.fbits - 1) ≤ f.signBit := Nat.pow_le_pow_right two_pos (by omega)
  rw [two_pow_width, Fmt.nan]
  omega

theorem overflow_lt (f : Fmt) (mode : RMode) (neg : Bool) : f.overflow mode neg < 2 ^ f.width := by
  have inf := infBits_lt_signBit f
  have toInf := signed_lt neg inf
  have toBig := signed_lt neg ((Nat.sub_le f.infBits 1).trans_lt inf)
  cases mode with
  | rne => exact toInf
  | rtz => exact toBig
  | rup => cases neg with
    | false => exact toInf
    | true => exact toBig
  | rdn => cases neg with
    | false => exact toBig
    | true => exact toInf
  | rto => exact toBig

theorem round_lt (f : Fmt) (mode : RMode) (neg : Bool) (m : Nat) (e : Int) : f.round mode neg m e < 2 ^ f.width := by
  rw [round_eq_steps]
  dsimp only
  split_ifs with top
  · exact overflow_lt f mode neg
  · exact signed_lt neg ((Nat.lt_of_not_le top).trans (infBits_lt_signBit f))

theorem roundDy_lt (f : Fmt) (mode : RMode) (m e : Int) (zneg : Bool) : f.roundDy mode m e zneg < 2 ^ f.width := by
  unfold Fmt.roundDy
  split_ifs
  · exact signed_lt zneg (Nat.two_pow_pos _)
  · exact round_lt f mode _ _ e

theorem sum_lt (f : Fmt) (mode : RMode) (ts : List FVal) : f.sum mode ts < 2 ^ f.width := by
  have inf := infBits_lt_signBit f
  unfold Fmt.sum
  dsimp only
  split_ifs
  · exact nan_lt f
  · exact signed_lt false inf
  · exact signed_lt true inf
  · exact roundDy_lt f mode _ _ _

section
variable {f : Fmt} {a b : Nat} (wa : a < 2 ^ f.width)
include wa

theorem key_lt : f.key a < 2 ^ f.width := by
  have low := mag_lt f a
  rw [key_eq wa, two_pow_width]
  split_ifs <;> omega

variable (wb : b < 2 ^ f.width)
include wb

theorem fmin_lt : f.fmin a b < 2 ^ f.width := by
  unfold Fmt.fmin
  split_ifs
  · exact nan_lt f
  · exact wa
  · exact wb

theorem fmax_lt : f.fmax a b < 2 ^ f.width := by
  unfold Fmt.fmax
  split_ifs
  · exact nan_lt f
  · exact wb
  · exact wa

end

/-! ## Elements -/

theorem half_zero (w : Word) : half w 0 = w.toNat % 65536 := by rw [half, pow_zero, Nat.div_one]

theorem half_one (w : Word) : half w 1 = w.toNat / 65536 := by
  have := w.isLt
  rw [half, pow_one]
  omega

theorem half_lt (w : Word) (k : Nat) : half w k < 65536 := Nat.mod_lt _ (by decide)

/-- Two elements that are joined are read back. -/
theorem halvesAre_join {g : Nat → Nat} (hg : ∀ k, g k < 65536) : halvesAre g (BitVec.ofNat 32 (g 0 + 65536 * g 1)) := by
  have low := hg 0
  have high := hg 1
  rw [halvesAre, BitVec.toNat_ofNat]
  omega

section
variable {f : Fmt} (hf : f.width = 16)
include hf

/-- A function of two elements acts element by element, where its results fit the format. -/
theorem halves2_are {g : Nat → Nat → Nat} (a b : Word)
    (hg : ∀ x y, x < 2 ^ f.width → y < 2 ^ f.width → g x y < 2 ^ f.width) :
    halvesAre (fun k => g (half a k) (half b k)) (halves2 g a b) := by
  rw [hf] at hg
  rw [halves2, ← half_zero, ← half_zero, ← half_one, ← half_one]
  exact halvesAre_join (g := fun k => g (half a k) (half b k)) fun k => hg _ _ (half_lt a k) (half_lt b k)

/-- The same for three elements. -/
theorem halves3_are {g : Nat → Nat → Nat → Nat} (a b t : Word) (hg : ∀ x y z, g x y z < 2 ^ f.width) :
    halvesAre (fun k => g (half a k) (half b k) (half t k)) (halves3 g a b t) := by
  rw [hf] at hg
  rw [halves3, ← half_zero, ← half_zero, ← half_zero, ← half_one, ← half_one, ← half_one]
  exact halvesAre_join (g := fun k => g (half a k) (half b k) (half t k)) fun k => hg _ _ _

variable (a b t : Word)

theorem halves_add : halvesAre (fun k => f.add (half a k) (half b k)) (halves2 f.add a b) :=
  halves2_are hf a b fun _ _ _ _ => sum_lt f .rne _

theorem halves_sub : halvesAre (fun k => f.sub (half a k) (half b k)) (halves2 f.sub a b) :=
  halves2_are hf a b fun _ _ _ _ => sum_lt f .rne _

theorem halves_mul : halvesAre (fun k => f.mul (half a k) (half b k)) (halves2 f.mul a b) :=
  halves2_are hf a b fun _ _ _ _ => sum_lt f .rne _

theorem halves_fma : halvesAre (fun k => f.fma (half a k) (half b k) (half t k)) (halves3 f.fma a b t) :=
  halves3_are hf a b t fun _ _ _ => sum_lt f .rne _

theorem halves_fmin : halvesAre (fun k => f.fmin (half a k) (half b k)) (halves2 f.fmin a b) :=
  halves2_are hf a b fun _ _ => fmin_lt

theorem halves_fmax : halvesAre (fun k => f.fmax (half a k) (half b k)) (halves2 f.fmax a b) :=
  halves2_are hf a b fun _ _ => fmax_lt

theorem halves_key : halvesAre (fun k => f.key (half a k)) (halves2 (fun x _ => f.key x) a a) :=
  halves2_are hf a a fun _ _ wa _ => key_lt wa

end

/-! ## The words -/

theorem width_f16 : f16.width = 16 := rfl
theorem width_bf16 : bf16.width = 16 := rfl

/-- Settles O14: each word joins its two elements' results, by the lemmas above for both formats. -/
theorem packedHalfWords : Obligations.PackedHalfWords := by
  unfold Obligations.PackedHalfWords
  intro s e i he hr hi
  cases i with
  | hadd2 d a b => exact word_gives he hr rfl fun f => ⟨_, rfl, halves_add width_f16 _ _⟩
  | hsub2 d a b => exact word_gives he hr rfl fun f => ⟨_, rfl, halves_sub width_f16 _ _⟩
  | hmul2 d a b => exact word_gives he hr rfl fun f => ⟨_, rfl, halves_mul width_f16 _ _⟩
  | hfma2 d a b => exact word_gives he hr rfl fun f => ⟨_, rfl, halves_fma width_f16 _ _ _⟩
  | hmin2 d a b => exact word_gives he hr rfl fun f => ⟨_, rfl, halves_fmin width_f16 _ _⟩
  | hmax2 d a b => exact word_gives he hr rfl fun f => ⟨_, rfl, halves_fmax width_f16 _ _⟩
  | hkey2 d a => exact word_gives he hr rfl fun f => ⟨_, rfl, halves_key width_f16 _⟩
  | badd2 d a b => exact word_gives he hr rfl fun f => ⟨_, rfl, halves_add width_bf16 _ _⟩
  | bsub2 d a b => exact word_gives he hr rfl fun f => ⟨_, rfl, halves_sub width_bf16 _ _⟩
  | bmul2 d a b => exact word_gives he hr rfl fun f => ⟨_, rfl, halves_mul width_bf16 _ _⟩
  | bfma2 d a b => exact word_gives he hr rfl fun f => ⟨_, rfl, halves_fma width_bf16 _ _ _⟩
  | bmin2 d a b => exact word_gives he hr rfl fun f => ⟨_, rfl, halves_fmin width_bf16 _ _⟩
  | bmax2 d a b => exact word_gives he hr rfl fun f => ⟨_, rfl, halves_fmax width_bf16 _ _⟩
  | _ => exact absurd (hi default) Bool.false_ne_true

end Sys2Proof.Machine
end

section
/-!
# Words that fail

What becomes of a word that fails for the one fibre of its fragment: the fibre waits to be parked, or a misaligned access goes on to
its packet's end (R197, R204, R350, R352).
-/

namespace Sys2Proof.Machine

/-! ## A faulting walk -/

/-- From `s` to `t` at most the range tables of cores have changed (R295). -/
def State.walked (s t : State) : Prop :=
  ∃ cores : List Core, t = { s with cores := cores } ∧
    cores.map (fun k => { k with ranges := [] }) = s.cores.map fun k => { k with ranges := [] }

theorem walked_touchRange (s : State) (core tenant va : Nat) : s.walked (s.touchRange core tenant va) := by
  have fill (entry : RangeEntry) :
      s.walked { s with cores := s.cores.map fun k => if k.num = core then k.fillRange entry else k } := by
    refine ⟨_, rfl, ?_⟩
    rw [List.map_map]
    exact List.map_congr_left fun k _ => by
      rw [Function.comp_apply]
      split_ifs <;> rfl
  unfold State.touchRange
  dsimp only
  split
  · exact fill _
  · split
    · exact fill _
    · exact ⟨_, rfl, rfl⟩

theorem walked_walkTrap (s : State) (core tenant : Nat) (tr : Trap) : s.walked (s.walkTrap core tenant tr) := by
  unfold State.walkTrap
  split
  · exact walked_touchRange s core tenant _
  · exact ⟨_, rfl, rfl⟩

/-- The failure of the fragment's one fibre, after the walk that found the fault. -/
theorem failFibre_fails {s u : State} {e : Env} {v c : Fibre} (tr : Trap) (hu : s.walked u) (h1 : e.single v c) :
    e.fails s (u.failFibre e.is v tr) v tr := by
  obtain ⟨cores, rfl, same⟩ := hu
  have nobody : e.is.live.filter (· != v.id) = [] := by simp [h1.1]
  refine ⟨?_, same⟩
  unfold State.failFibre
  rw [nobody]
  rfl

/-! ## Which path a fault takes -/

section
variable {s : State} {e : Env} {i : Instr} {v c : Fibre} {tr : Trap}

theorem raiseFor_parks (h : tr.code ≠ .misaligned ∨
    (c.trap.mode = false ∧ (e.l.trapvec = 0xFFFFFFFF ∨ e.is.hasControl = true))) :
    s.raiseFor e i v c tr = s.failFibre e.is v tr := by
  unfold State.raiseFor
  rcases h with other | ⟨outside, vec | control⟩
  · rw [if_neg fun h => other h.1, if_neg fun h => other h.1]
  · rw [if_neg (by simp [outside]), if_neg (by simp [vec])]
  · rw [if_neg (by simp [outside]), if_neg (by simp [control])]

theorem raiseFor_doubles (hm : tr.code = .misaligned) (inside : c.trap.mode = true) :
    s.raiseFor e i v c tr =
      s.failFibre e.is v { code := .doubleTrap, info0 := FaultCode.misaligned.num, info1 := 0 } := by
  unfold State.raiseFor
  rw [if_pos ⟨hm, inside⟩, Fibre.trapOf, if_pos ⟨hm, inside⟩]

/-- A fibre whose misaligned access waits for its packet's end (R204). -/
def Env.misalign (e : Env) (tr : Trap) (f : Fibre) : Fibre :=
  if f.ctl.isSome then f else { f with ctl := some (.misaligned tr.info0 tr.info1, e.is.word, e.is.pos) }

theorem raiseFor_waits (mem : i.isMem = true) (hm : tr.code = .misaligned) (outside : c.trap.mode = false)
    (vec : e.l.trapvec ≠ 0xFFFFFFFF) (control : e.is.hasControl = false) :
    s.raiseFor e i v c tr = s.modFibre e.is.launch e.is.block v.id (e.misalign tr) := by
  unfold State.raiseFor
  rw [if_neg (by simp [outside]), if_pos ⟨hm, mem, vec, by rw [control]; rfl⟩]
  rfl

/-! ## A word whose effect is a fault -/

variable {eff : Env → Fibre → Fibre → Except Trap Eff} (he : s.env? = some e)
include he

/-- `runFibre_acts` for an effect that faults. -/
theorem runFibre_raises {id : Nat} (hv : e.b.fibre? id = some v) (hc : e.cur? id = some c) (ha : e.allows i v c = true)
    (hact : e.active v = true) (hx : eff e v c = .error tr) :
    State.runFibre i eff id s = (s.walkTrap (e.b.coreOf c.group) e.l.tenant tr).raiseFor e i v c tr := by
  obtain ⟨-, hes, -, -, -, -⟩ := env_eq he
  obtain ⟨guard, named⟩ := allows_settled ha hact
  have reads : ((i.newestReads e.is.mods).all (v.settled e.is.cycle)) = true := by
    rw [List.all_append, Bool.and_eq_true] at named
    exact named.1
  have hc' : ((s.launch? e.is.launch).bind (·.block? e.is.block)).bind (·.fibre? id) = some c := hes ▸ hc
  have hcheck : (if e.is.mods.gq = 0 then none else regCheck v [64 + e.is.mods.gq.toNat]) = none := by
    split_ifs with hq
    · rfl
    · rw [if_neg hq] at guard
      exact regCheck_settled guard
  have hpass : (v.pred e.is.mods.gq.toNat == e.is.mods.gn) = false := by simpa [Env.active] using hact
  have hself : ({ e with s := ({ s with free := s.free } : State) } : Env) = e := by rw [← hes]
  unfold State.runFibre
  simp only [he, hv]
  simp only [hc', hcheck, earlyView_settled guard, hpass, regCheck_settled named, earlyView_settled reads, hself, hx,
    Bool.false_eq_true, if_false]

variable (hr : e.ready i = true) (h1 : e.single v c) (hx : eff e v c = .error tr)
include hr h1 hx

/-- A word that fails for the fragment's one fibre. -/
theorem actEach_raises :
    s.actEach i eff = (s.walkTrap (e.b.coreOf c.group) e.l.tenant tr).raiseFor e i v c tr := by
  obtain ⟨live, hv, hc, hact⟩ := h1
  have ha : e.allows i v c = true := by
    simp only [Env.ready, Bool.and_eq_true, List.all_eq_true, live, List.mem_singleton, forall_eq, hv, hc] at hr
    exact hr.2
  rw [State.actEach, (env_eq he).1]
  simp only [live, State.eachFibre]
  exact runFibre_raises he hv hc ha hact hx

/-- A fault of the park path (R352). -/
theorem actEach_parks (h : tr.code ≠ .misaligned ∨
    (c.trap.mode = false ∧ (e.l.trapvec = 0xFFFFFFFF ∨ e.is.hasControl = true))) : e.fails s (s.actEach i eff) v tr := by
  rw [actEach_raises he hr h1 hx, raiseFor_parks h]
  exact failFibre_fails tr (walked_walkTrap ..) h1

/-- A misaligned access inside a trap routine (R350). -/
theorem actEach_doubles (hm : tr.code = .misaligned) (inside : c.trap.mode = true) :
    e.fails s (s.actEach i eff) v { code := .doubleTrap, info0 := FaultCode.misaligned.num, info1 := 0 } := by
  rw [actEach_raises he hr h1 hx, raiseFor_doubles hm inside]
  exact failFibre_fails _ (walked_walkTrap ..) h1

/-- A misaligned access that waits for its packet's end (R204). -/
theorem actEach_waits (mem : i.isMem = true) (unwalked : tr.walked = none) (hm : tr.code = .misaligned)
    (outside : c.trap.mode = false) (vec : e.l.trapvec ≠ 0xFFFFFFFF) (control : e.is.hasControl = false) :
    e.acts s (s.actEach i eff) fun _ c g => g = e.misalign tr c := by
  rw [actEach_raises he hr h1 hx, raiseFor_waits mem hm outside vec control, State.walkTrap, unwalked]
  obtain ⟨live, hv, -, hact⟩ := h1
  refine ⟨fun f => if f.id = v.id then e.misalign tr f else f, rfl, fun f hf => if_neg (by simpa [live] using hf), ?_⟩
  intro id hid v' c' hv' hc'
  obtain rfl : id = v.id := by simpa [live] using hid
  obtain rfl : v = v' := Option.some.inj (hv.symm.trans hv')
  rw [if_pos hact]
  exact if_pos (cur_id hc')

end

end Sys2Proof.Machine
end

section
/-!
# Faults of accesses and of capability words

Which effect a check of a load, a store, a `fadr` or a capability word that fails has (R197, R206 to R208, R211).
-/

namespace Sys2Proof.Machine

/-! ## Which checks find an access misaligned -/

/-- Checks 1 to 4 do not walk. -/
theorem access_walked {e : Env} {f : Fibre} {q : BitVec 4} {x : BitVec 6} {size : BitVec 3} {op : MemOp} {tr : Trap}
    (h : e.access f q x size op = .error tr) : tr.walked = none := by
  have raised {code : FaultCode} (ht : Except.error (e.accessTrap f x code) = (Except.error tr : Except Trap Acc)) :
      tr.walked = none := by
    cases ht; rfl
  cases hv : capValid e.l (f.tag q.toNat) (capOf (f.quad q.toNat)) with
  | false => exact raised ((access_of_invalid e f q x size op hv).symm.trans h)
  | true =>
    cases hs : spaceCheck (capOf (f.quad q.toNat)) op e.l.sup with
    | some code => exact raised ((access_of_space e f q x size op hv hs).symm.trans h)
    | none =>
      by_cases out : (capOf (f.quad q.toNat)).len < e.accessOff f x size + sizeBytes size.toNat ∨
          2 ^ 48 < (capOf (f.quad q.toNat)).base + e.accessOff f x size + sizeBytes size.toNat
      · exact raised ((access_of_bounds e f q x size op hv hs out).symm.trans h)
      · obtain ⟨len, top⟩ := not_or.1 out
        rw [access_of_inside e f q x size op hv hs (Nat.not_lt.1 len) (Nat.not_lt.1 top)] at h
        split_ifs at h
        exact raised h

theorem uncorrectable_ne_misaligned : FaultCode.memUncorrectable ≠ .misaligned := by decide

theorem walkFrom_error (s : State) (t : Tenant) (u fuel lo hi : Nat) {code : FaultCode}
    (h : s.walkFrom t u fuel lo hi = .error code) : code ≠ .misaligned := by
  induction fuel generalizing lo hi with
  | zero => cases h; decide
  | succ fuel ih =>
    simp only [State.walkFrom] at h
    split_ifs at h
    · cases h; decide
    · cases h; decide
    · cases h; decide
    · exact ih _ _ h
    · exact ih _ _ h

theorem walk_error {s : State} {tenant va : Nat} {code : FaultCode} (h : s.walk tenant va = .error code) :
    code ≠ .misaligned := by
  unfold State.walk at h
  split at h
  · cases h; decide
  · exact walkFrom_error _ _ _ _ _ _ h

theorem translate_error {s : State} {core : Option Nat} {tenant va : Nat} {op : Access} {code : FaultCode}
    (h : s.translate core tenant op va = .error code) : code ≠ .misaligned := by
  simp only [State.translate] at h
  split at h
  next found =>
    cases h
    split at found
    · cases found
    · exact walk_error found
  next => split_ifs at h <;> (cases h; decide)

section
variable {e : Env} {f : Fibre} {tr : Trap}

/-- Check 5 finds no access misaligned. -/
theorem phys_error {op : Access} {va : Nat} (h : e.phys f op va = .error tr) : tr.code ≠ .misaligned := by
  unfold Env.phys at h
  split at h
  · cases h
  next found =>
    cases h
    exact translate_error found

theorem pendingAny_code : ∀ {ns : List Nat}, f.pendingAny ns = some tr → tr.code = .pendingRound
  | [], h => by cases h
  | n :: ns, h => by
    simp only [Fibre.pendingAny] at h
    split at h
    next pending =>
      cases h
      unfold Fibre.pendingRound at pending
      split_ifs at pending
      · split at pending <;> cases pending
        rfl
      · cases pending; rfl
    next => exact pendingAny_code h

/-- Checks 5 and 6 of a load find no access misaligned. -/
theorem loadData_error {a : Acc} {hint : Nat} (h : e.loadData f a hint = .error tr) : tr.code ≠ .misaligned := by
  simp only [Env.loadData] at h
  split at h
  · split_ifs at h
    cases h; exact uncorrectable_ne_misaligned
  · split_ifs at h
    cases h; exact uncorrectable_ne_misaligned
  · split at h
    next pending =>
      cases h
      rw [pendingAny_code pending]
      decide
    next => cases h
  · split at h
    next found =>
      cases h
      exact phys_error found
    next =>
      split_ifs at h
      cases h; exact uncorrectable_ne_misaligned

end

/-! ## The effects -/

section
variable (s : State) (d : BitVec 6) (cap : BitVec 4) (x : BitVec 6) (size : BitVec 3) (fl : BitVec 1)

theorem execLd_fault (hint : BitVec 3) :
    ∃ eff, exec (.ld d cap x size hint fl) s = .next (s.actEach (.ld d cap x size hint fl) eff) ∧
      ∀ (e : Env) (v c : Fibre) (tr : Trap), (e.access v cap x size .load = .error tr ∨
        ∃ a, e.access v cap x size .load = .ok a ∧ e.loadData v a hint.toNat = .error tr) → eff e v c = .error tr := by
  refine ⟨_, rfl, fun e v c tr h => ?_⟩
  rcases h with h | ⟨a, h, data⟩
  · simp only [h]
  · simp only [h, data]

theorem execSt_fault (rule : BitVec 3) :
    ∃ eff, exec (.st d cap x size rule fl) s = .next (s.actEach (.st d cap x size rule fl) eff) ∧
      ∀ (e : Env) (v c : Fibre) (tr : Trap), (e.access v cap x size (.store rule.toNat) = .error tr ∨
        ∃ a, e.access v cap x size (.store rule.toNat) = .ok a ∧ (a.cap.space = 0 ∨ a.cap.space = 5) ∧
          e.phys c .store a.addr = .error tr) → eff e v c = .error tr := by
  refine ⟨_, rfl, fun e v c tr h => ?_⟩
  rcases h with h | ⟨a, h, global | lease, found⟩
  · simp only [h]
  · simp only [h, global, found]
  · simp only [h, lease, found]

/-- What fails a `fadr` after its access: its line of scratch, or its address in memory (R203). -/
def Env.fadrFault (e : Env) (c : Fibre) (a : Acc) (tr : Trap) : Prop :=
  (a.cap.space = 1 ∧ e.s.scratchPoison.contains (e.l.id, e.b.index, a.addr / 128) = true ∧
      tr = addrTrap .memUncorrectable a.addr) ∨
    (a.cap.space = 0 ∧ (e.phys c .store a.addr = .error tr ∨
      ∃ pa, e.phys c .store a.addr = .ok pa ∧ e.s.poisoned pa = true ∧ tr = walkedTrap .memUncorrectable a.addr))

theorem fadrFault_code {e : Env} {c : Fibre} {a : Acc} {tr : Trap} (h : e.fadrFault c a tr) : tr.code ≠ .misaligned := by
  rcases h with ⟨-, -, rfl⟩ | ⟨-, found | ⟨-, -, -, rfl⟩⟩
  · exact uncorrectable_ne_misaligned
  · exact phys_error found
  · exact uncorrectable_ne_misaligned

theorem execFadr_fault :
    ∃ eff, exec (.fadr d cap x size fl) s = .next (s.actEach (.fadr d cap x size fl) eff) ∧
      ∀ (e : Env) (v c : Fibre) (tr : Trap), (e.access v cap x size .fadr = .error tr ∨
        ∃ a, e.access v cap x size .fadr = .ok a ∧ e.fadrFault c a tr) → eff e v c = .error tr := by
  refine ⟨_, rfl, fun e v c tr h => ?_⟩
  rcases h with h | ⟨a, h, ⟨scratch, poison, rfl⟩ | ⟨global, found | ⟨pa, found, poison, rfl⟩⟩⟩
  · simp only [h]
  · simp only [h, scratch, poison, if_true]
  · simp only [h, global, found, Nat.zero_ne_one, if_false]
  · simp only [h, global, found, poison, Nat.zero_ne_one, if_false, if_true]

end

/-- The paths of a memory word that fails a check (R197, R204, R350, R352). -/
theorem memWord_fails {s : State} {e : Env} {v c : Fibre} {i : Instr} {tr : Trap}
    {eff : Env → Fibre → Fibre → Except Trap Eff} (he : s.env? = some e) (hr : e.ready i = true) (h1 : e.single v c)
    (mem : i.isMem = true) (hexec : exec i s = .next (s.actEach i eff)) (hx : eff e v c = .error tr)
    (unwalked : tr.code = .misaligned → tr.walked = none) :
    ((tr.code ≠ .misaligned ∨ (c.trap.mode = false ∧ (e.l.trapvec = 0xFFFFFFFF ∨ e.is.hasControl = true))) →
      ∃ t, exec i s = .next t ∧ e.fails s t v tr) ∧
    (tr.code = .misaligned → c.trap.mode = true →
      ∃ t, exec i s = .next t ∧ e.fails s t v { code := .doubleTrap, info0 := FaultCode.misaligned.num, info1 := 0 }) ∧
    (tr.code = .misaligned → c.trap.mode = false → e.l.trapvec ≠ 0xFFFFFFFF → e.is.hasControl = false → c.ctl = none →
      ∃ t, exec i s = .next t ∧ e.acts s t fun _ c g =>
        g = { c with ctl := some (.misaligned tr.info0 tr.info1, e.is.word, e.is.pos) }) := by
  refine ⟨fun h => ⟨_, hexec, actEach_parks he hr h1 hx h⟩, fun hm inside => ⟨_, hexec, actEach_doubles he hr h1 hx hm inside⟩,
    fun hm outside vec control free => ⟨_, hexec, ?_⟩⟩
  obtain ⟨upd, next, others, fibres⟩ := actEach_waits he hr h1 hx mem (unwalked hm) hm outside vec control
  refine ⟨upd, next, others, fun id hid v' c' hv' hc' => ?_⟩
  obtain ⟨live, -, hc, -⟩ := h1
  obtain rfl : id = v.id := by simpa [live] using hid
  obtain rfl : c = c' := Option.some.inj (hc.symm.trans hc')
  have updated := fibres v.id hid v' c hv' hc'
  simpa only [Env.misalign, free, Option.isSome_none, Bool.false_eq_true, if_false] using updated

/-! ## Capability words -/

section
variable {e : Env} {v : Fibre} {a : BitVec 4}

theorem deriveCap_of_invalid (hv : capValid e.l (v.tag a.toNat) (capOf (v.quad a.toNat)) = false) :
    e.deriveCap v a = .error (e.capTrap .capTag) := by
  simp only [Env.deriveCap, hv, Bool.not_false, if_true]

variable (hv : capValid e.l (v.tag a.toNat) (capOf (v.quad a.toNat)) = true)
include hv

theorem deriveCap_of_perm (hp : (capOf (v.quad a.toNat)).hasSub = false ∨
    ((capOf (v.quad a.toNat)).isSup = true ∧ e.l.sup = false)) : e.deriveCap v a = .error (e.capTrap .capPerm) := by
  have refused : (!(capOf (v.quad a.toNat)).hasSub || ((capOf (v.quad a.toNat)).isSup && !e.l.sup)) = true := by
    rcases hp with hp | ⟨sup, ordinary⟩
    · rw [hp]; rfl
    · rw [sup, ordinary]; exact Bool.or_true _
  simp only [Env.deriveCap, hv, refused, Bool.not_true, Bool.false_eq_true, if_false, if_true]

theorem deriveCap_ok (sub : (capOf (v.quad a.toNat)).hasSub = true)
    (sup : (capOf (v.quad a.toNat)).isSup = false ∨ e.l.sup = true) : e.deriveCap v a = .ok (capOf (v.quad a.toNat)) := by
  have allowed : (!(capOf (v.quad a.toNat)).hasSub || ((capOf (v.quad a.toNat)).isSup && !e.l.sup)) = false := by
    rw [sub]
    rcases sup with sup | sup <;> simp [sup]
  simp only [Env.deriveCap, hv, allowed, Bool.not_true, Bool.false_eq_true, if_false]

end

/-- The bounds that `capsub` checks (R207). -/
def Cap.outside (k : Cap) (o n : Nat) : Prop := k.len < o + n ∨ 2 ^ 48 < k.base + o + n

theorem outside_iff (k : Cap) (o n : Nat) : (k.len < o + n || 2 ^ 48 < k.base + o + n) = true ↔ k.outside o n := by
  rw [Bool.or_eq_true, decide_eq_true_eq, decide_eq_true_eq, Cap.outside]

/-- What `capsub` derives from a capability (R207). -/
def Cap.sub (k : Cap) (o n : Nat) : Cap := { k with base := k.base + o, len := n }

theorem execCapsub_spec (s : State) (d a : BitVec 4) (b : BitVec 6) :
    ∃ eff, exec (.capsub d a b) s = .next (s.actEach (.capsub d a b) eff) ∧ ∀ (e : Env) (v c : Fibre),
      (∀ tr, e.deriveCap v a = .error tr → eff e v c = .error tr) ∧
      (∀ k, e.deriveCap v a = .ok k →
        (k.outside (v.pair b.toNat).toNat (v.pair (b.toNat + 2)).toNat → eff e v c = .error (e.capTrap .capBounds)) ∧
        (¬ k.outside (v.pair b.toNat).toNat (v.pair (b.toNat + 2)).toNat →
          eff e v c = own (c.writeCap d.toNat (k.sub (v.pair b.toNat).toNat (v.pair (b.toNat + 2)).toNat).num))) := by
  refine ⟨_, rfl, fun e v c => ⟨fun tr h => by simp only [h], fun k h => ⟨fun out => ?_, fun inside => ?_⟩⟩⟩
  · simp only [h]
    exact if_pos ((outside_iff ..).2 out)
  · simp only [h]
    exact if_neg fun out => inside ((outside_iff ..).1 out)

theorem execCapperm_spec (s : State) (d a : BitVec 4) (b : BitVec 6) :
    ∃ eff, exec (.capperm d a b) s = .next (s.actEach (.capperm d a b) eff) ∧ ∀ (e : Env) (v c : Fibre),
      (∀ tr, e.deriveCap v a = .error tr → eff e v c = .error tr) ∧
      (∀ k, e.deriveCap v a = .ok k →
        eff e v c = own (c.writeCap d.toNat { k with perm := narrowPerm k.perm (v.reg b.toNat).toNat }.num)) := by
  refine ⟨_, rfl, fun e v c => ⟨fun tr h => ?_, fun k h => ?_⟩⟩ <;> simp only [h]

theorem execCapmint_spec (s : State) (d : BitVec 4) (b : BitVec 6) :
    ∃ eff, exec (.capmint d b) s = .next (s.actEach (.capmint d b) eff) ∧ ∀ (e : Env) (v c : Fibre),
      ((capOf (v.image b.toNat)).wellFormed = false → eff e v c = .error (e.capTrap .capTag)) ∧
      ((capOf (v.image b.toNat)).wellFormed = true →
        eff e v c = own (c.writeCap d.toNat (minted (v.image b.toNat)))) := by
  refine ⟨_, rfl, fun e v c => ⟨fun h => ?_, fun h => ?_⟩⟩
  · exact if_neg (by rw [h]; exact Bool.false_ne_true)
  · exact if_pos h

/-- A capability word that fails a check parks its fibre (R206, R352). -/
theorem capWord_fails {s : State} {e : Env} {v c : Fibre} {i : Instr} {code : FaultCode}
    {eff : Env → Fibre → Fibre → Except Trap Eff} (he : s.env? = some e) (hr : e.ready i = true) (h1 : e.single v c)
    (hexec : exec i s = .next (s.actEach i eff)) (hx : eff e v c = .error (e.capTrap code)) (hm : code ≠ .misaligned) :
    ∃ t, exec i s = .next t ∧ e.fails s t v { code := code, info0 := e.is.word, info1 := 0 } :=
  ⟨_, hexec, actEach_parks he hr h1 hx (.inl hm)⟩

/-- Settles O22: `memWord_fails` has the paths of a fault, and the effects' lemmas say that a failed check is one. -/
theorem accessFaults : Obligations.AccessFaults := by
  unfold Obligations.AccessFaults
  refine ⟨fun s e v c i tr he hr h1 h => ?_, fun s e v c d a b he h1 => ⟨fun hr => ?_, fun hr => ?_, fun hr hwf => ?_⟩⟩
  · cases i with
    | ld d cap x size hint fl =>
      obtain ⟨eff, hexec, heff⟩ := execLd_fault s d cap x size fl hint
      refine memWord_fails he hr h1 rfl hexec (heff e v c tr h) fun hm => ?_
      rcases h with h | ⟨a, -, data⟩
      · exact access_walked h
      · exact absurd hm (loadData_error data)
    | st d cap x size rule fl =>
      obtain ⟨eff, hexec, heff⟩ := execSt_fault s d cap x size fl rule
      refine memWord_fails he hr h1 rfl hexec (heff e v c tr h) fun hm => ?_
      rcases h with h | ⟨a, -, -, found⟩
      · exact access_walked h
      · exact absurd hm (phys_error found)
    | fadr d cap x size fl =>
      obtain ⟨eff, hexec, heff⟩ := execFadr_fault s d cap x size fl
      refine memWord_fails he hr h1 rfl hexec (heff e v c tr h) fun hm => ?_
      rcases h with h | ⟨a, -, fault⟩
      · exact access_walked h
      · exact absurd hm (fadrFault_code fault)
    | _ => exact h.elim
  · obtain ⟨eff, hexec, heff⟩ := execCapsub_spec s d a b
    obtain ⟨refused, derived⟩ := heff e v c
    refine ⟨fun hv => ?_, fun hv hp => ?_, fun hv sub sup out => ?_⟩
    · exact capWord_fails he hr h1 hexec (refused _ (deriveCap_of_invalid hv)) (by decide)
    · exact capWord_fails he hr h1 hexec (refused _ (deriveCap_of_perm hv hp)) (by decide)
    · exact capWord_fails he hr h1 hexec ((derived _ (deriveCap_ok hv sub sup)).1 out) (by decide)
  · obtain ⟨eff, hexec, heff⟩ := execCapperm_spec s d a b
    obtain ⟨refused, -⟩ := heff e v c
    refine ⟨fun hv => ?_, fun hv hp => ?_⟩
    · exact capWord_fails he hr h1 hexec (refused _ (deriveCap_of_invalid hv)) (by decide)
    · exact capWord_fails he hr h1 hexec (refused _ (deriveCap_of_perm hv hp)) (by decide)
  · obtain ⟨eff, hexec, heff⟩ := execCapmint_spec s d b
    exact capWord_fails he hr h1 hexec ((heff e v c).1 hwf) (by decide)

end Sys2Proof.Machine
end

section
/-!
# Capability words

What a write of a capability to a quad leaves (R194, R206), the fields and permissions of the results (R193, R207 to R209, R211), and
the words in each active fibre.
-/

namespace Sys2Proof.Machine

/-! ## A capability written to a quad -/

/-- The register writes of a capability (R206). -/
def capWrites (q n : Nat) : List (Nat × Word) := (List.range 4).map fun i => (4 * q + i, BitVec.ofNat 32 (n / 2 ^ (32 * i)))

theorem capWrites_regs (q n : Nat) : (capWrites q n).map Prod.fst = [4 * q, 4 * q + 1, 4 * q + 2, 4 * q + 3] := rfl

theorem capWrites_quad {q n : Nat} : ∀ w ∈ capWrites q n, w.1 / 4 = q := by
  intro w hw
  obtain ⟨i, hi, rfl⟩ := List.mem_map.1 hw
  have := List.mem_range.1 hi
  dsimp only
  omega

theorem written_of_ne : ∀ {ws : List (Nat × Word)} {n : Nat} {old : Word}, (∀ w ∈ ws, w.1 ≠ n) → written ws n old = old
  | [], _, _, _ => rfl
  | w :: ws, n, old, h => by
    rw [written, if_neg (h w (by simp))]
    exact written_of_ne fun x hx => h x (List.mem_cons_of_mem _ hx)

/-- The four registers hold the capability's words, low word first. -/
theorem written_capWrites (q v n : Nat) (old : Word) :
    written (capWrites q v) n old = if n / 4 = q then BitVec.ofNat 32 (v / 2 ^ (32 * (n % 4))) else old := by
  split_ifs with hq
  · have parts : n = 4 * q + n % 4 := by omega
    have lt : n % 4 < 4 := Nat.mod_lt _ (by decide)
    generalize n % 4 = k at parts lt
    subst parts
    interval_cases k <;> simp [capWrites, List.range_succ, written]
  · exact written_of_ne fun w hw hn => hq (hn ▸ capWrites_quad w hw)

/-- A capability write that a fibre can take (R30, R31, R55, R206). -/
theorem writeCap_ok {f : Fibre} {q : Nat} (v : Nat) (hq : q < 16) (h : f.takes [4 * q, 4 * q + 1, 4 * q + 2, 4 * q + 3] = true) :
    ∃ g, f.writeCap q v = .ok g ∧ f.wroteCap g q v ∧ g.id = f.id := by
  have inside : ∀ w ∈ capWrites q v, w.1 < 64 := fun w hw => by
    have := capWrites_quad w hw
    omega
  obtain ⟨g, hg, ⟨regs, tags, start, rest⟩, hid⟩ := write_ok (ws := capWrites q v) (by rw [capWrites_regs]; exact h) inside
  have wrote : f.write ((List.range 4).map fun i => (4 * q + i, BitVec.ofNat 32 (v / 2 ^ (32 * i)))) = .ok g := hg
  refine ⟨g.putTag q true, by rw [Fibre.writeCap, wrote], ⟨fun n => ?_, fun r => ?_, start, rest⟩, hid⟩
  · exact (regs n).trans (written_capWrites q v n _)
  · have other : q ≠ r → ((capWrites q v).any fun w => w.1 / 4 == r) = false := fun hr => by
      rw [List.any_eq_false]
      exact fun w hw => by simpa [capWrites_quad w hw] using hr
    have tag : (g.putTag q true).tag r = if q = r ∧ r < 16 then true else g.tag r := getLsbD_setBit16 _ _ _ _
    rw [tag, tags r]
    by_cases hr : q = r
    · rw [if_pos ⟨hr, hr ▸ hq⟩, hr, beq_self_eq_true, Bool.true_or]
    · rw [if_neg fun h => hr h.1, other hr, Bool.not_false, Bool.and_true, beq_false_of_ne (Ne.symm hr), Bool.false_or]

/-- The marks of when results can be read change nothing that `wroteCap` speaks of. -/
theorem wroteCap_marked {f g c : Fibre} {q v : Nat} (e : Env) (i : Instr) (h : f.wroteCap g q v) :
    f.wroteCap (e.marked i c g) q v := by
  unfold Env.marked Fibre.markBusy
  split_ifs
  · exact h
  · exact h
  · exact h

/-- A word that writes a capability to quad q of each active fibre and nothing else. -/
theorem capWord_acts {s : State} {e : Env} {i : Instr} {eff : Env → Fibre → Fibre → Except Trap Eff} {q : Nat}
    {val : Fibre → Nat} (he : s.env? = some e) (hr : e.ready i = true) (hq : q < 16)
    (hw : i.writesNow = [4 * q, 4 * q + 1, 4 * q + 2, 4 * q + 3])
    (heff : ∀ ls bl cs ga sp lt, ∀ y ∈ e.actives,
      eff (e.moved ls bl cs ga sp lt) y.1 y.2 = own (y.2.writeCap q (val y.1))) :
    e.acts s (s.actEach i eff) fun v c g => c.wroteCap g q (val v) := by
  have wrote : ∀ id ∈ e.is.live, ∀ v c, e.b.fibre? id = some v → e.cur? id = some c → e.active v = true →
      ∃ g, c.writeCap q (val v) = .ok g ∧ c.wroteCap g q (val v) ∧ g.id = c.id := fun id hid v c hv hc ha =>
    writeCap_ok (val v) hq (hw ▸ ready_takes hr hid hv hc ha)
  refine acts_of_local (fun v c => effOf (c.writeCap q (val v))) he hr ?_ ?_
  · intro ls bl cs ga sp lt id hid v c hv hc ha
    obtain ⟨g, hg, -, hgid⟩ := wrote id hid v c hv hc ha
    have step := heff ls bl cs ga sp lt (v, c) (mem_actives.2 ⟨id, hid, hv, hc, ha⟩)
    simp only [step, hg, own, effOf, true_and]
    exact hgid
  · intro id hid v c hv hc ha
    obtain ⟨g, hg, cap, -⟩ := wrote id hid v c hv hc ha
    simp only [hg, effOf, true_and]
    exact wroteCap_marked e i cap

/-! ## Permissions and fields -/

theorem testBit_sub_mod_two (n k : Nat) : (n - n % 2).testBit k = (decide (k ≠ 0) && n.testBit k) := by
  have even : n - n % 2 = 2 * (n / 2) := by omega
  rw [even]
  cases k with
  | zero => simp
  | succ k => simp [Nat.testBit_succ]

/-- What `capperm` keeps of each permission (R208). -/
theorem testBit_narrowPerm (p m k : Nat) : (narrowPerm p m).testBit k =
    (let wo := (m % 256).testBit 2 && p.testBit 1
     decide (k < 7) && (if k = 0 then p.testBit 0 && (m % 256).testBit 0 && !wo
       else if k = 2 then (p.testBit 2 && (m % 256).testBit 2) || wo else p.testBit k && (m % 256).testBit k)) := by
  have asked : (m / 4 % 2 = 1 ∧ p / 2 % 2 = 1) ↔ ((m % 256).testBit 2 && p.testBit 1) = true := by
    rw [Bool.and_eq_true, Nat.testBit_eq_decide_div_mod_eq, Nat.testBit_eq_decide_div_mod_eq, decide_eq_true_eq,
      decide_eq_true_eq]
    omega
  have writeOnly : (4 : Nat).testBit k = decide (2 = k) := Nat.testBit_two_pow (n := 2)
  rw [narrowPerm]
  dsimp only
  rw [show (128 : Nat) = 2 ^ 7 from rfl, Nat.testBit_mod_two_pow]
  by_cases wo : ((m % 256).testBit 2 && p.testBit 1) = true
  · rw [if_pos (asked.2 wo), wo, testBit_sub_mod_two, Nat.testBit_or, Nat.testBit_and, writeOnly]
    by_cases h0 : k = 0
    · simp [h0]
    · by_cases h2 : k = 2 <;> simp [h0, h2, eq_comm (a := 2)]
  · rw [if_neg fun h => wo (asked.1 h), Bool.eq_false_iff.2 wo, Nat.testBit_and]
    by_cases h0 : k = 0
    · simp [h0]
    · by_cases h2 : k = 2 <;> simp [h0, h2]

theorem tagOf_iff {l : Launch} {tag : Bool} {c : Cap} :
    l.tagOf tag c = true ↔ tag = true ∧ (c.space = 5 → ∃ x ∈ l.leases, x.num = c.objid) := by
  simp [Launch.tagOf, imp_iff_not_or]

/-- The plain selectors of R209. -/
theorem capField_eq (n : Nat) (tag : Bool) : ∀ sel : Nat, capField n tag sel = BitVec.ofNat 32
    (if sel = 0 then (capOf n).base % 2 ^ 32 else if sel = 1 then (capOf n).base / 2 ^ 32
     else if sel = 2 then (capOf n).len % 2 ^ 32 else if sel = 3 then (capOf n).len / 2 ^ 32
     else if sel = 4 then (capOf n).space + 16 * (capOf n).perm + 4096 * (capOf n).objid
     else if tag = true then 1 else 0)
  | 0 => BitVec.eq_of_toNat_eq (by simp [capField, capOf, bitsOf])
  | 1 => congrArg (BitVec.ofNat 32) (show bitsOf n 47 32 = (capOf n).base / 2 ^ 32 by simp only [capOf, bitsOf]; omega)
  | 2 => congrArg (BitVec.ofNat 32) (show bitsOf n 79 48 = (capOf n).len % 2 ^ 32 by simp only [capOf, bitsOf]; omega)
  | 3 => congrArg (BitVec.ofNat 32) (show bitsOf n 87 80 = (capOf n).len / 2 ^ 32 by simp only [capOf, bitsOf]; omega)
  | 4 => congrArg (BitVec.ofNat 32) (show bitsOf n 91 88 + bitsOf n 99 92 * 2 ^ 4 + bitsOf n 115 100 * 2 ^ 12 =
      (capOf n).space + 16 * (capOf n).perm + 4096 * (capOf n).objid by simp only [capOf, bitsOf]; omega)
  | k + 5 => by cases tag <;> rfl

theorem image_lt (f : Fibre) (a : Nat) : f.image a < 2 ^ 128 := by
  have low := (f.pair a).isLt
  have high := (f.pair (a + 2)).isLt
  rw [Fibre.image]
  omega

/-- `capmint` writes its image with bit 99, the bit 7 of the permissions, as 0 (R193, R211). -/
theorem minted_eq {n : Nat} (hn : n < 2 ^ 128) : minted n = 2 ^ 100 * (n / 2 ^ 100) + n % 2 ^ 99 := by
  simp only [minted, Cap.num, capOf, bitsOf]
  omega

theorem testBit_minted {n : Nat} (hn : n < 2 ^ 128) (k : Nat) : (minted n).testBit k = (k != 99 && n.testBit k) := by
  have low : n % 2 ^ 99 < 2 ^ 100 := by omega
  rw [minted_eq hn, Nat.testBit_two_pow_mul_add _ low]
  split_ifs with hk
  · rw [Nat.testBit_mod_two_pow]
    have below : decide (k < 99) = (k != 99) := by
      rw [bne, Bool.eq_iff_iff]
      simp only [decide_eq_true_eq, Bool.not_eq_true', beq_eq_false_iff_ne]
      omega
    rw [below]
  · have other : (k != 99) = true := by
      rw [bne_iff_ne]
      omega
    rw [Nat.testBit_div_two_pow, other, Bool.true_and, Nat.sub_add_cancel (by omega)]

/-! ## The words -/

section
variable {s : State} {e : Env} {a : BitVec 4} (he : s.env? = some e)
include he

theorem capsub_acts {d : BitVec 4} {b : BitVec 6} (hr : e.ready (.capsub d a b) = true)
    (ok : ∀ x ∈ e.actives, e.deriveCap x.1 a = .ok (capOf (x.1.quad a.toNat)) ∧
      ¬ (capOf (x.1.quad a.toNat)).outside (x.1.pair b.toNat).toNat (x.1.pair (b.toNat + 2)).toNat) :
    ∃ t, exec (.capsub d a b) s = .next t ∧ e.acts s t fun v c g => c.wroteCap g d.toNat
      ((capOf (v.quad a.toNat)).sub (v.pair b.toNat).toNat (v.pair (b.toNat + 2)).toNat).num := by
  obtain ⟨eff, hexec, heff⟩ := execCapsub_spec s d a b
  refine ⟨_, hexec, capWord_acts he hr d.isLt rfl fun ls bl cs ga sp lt y hy => ?_⟩
  obtain ⟨derived, inside⟩ := ok y hy
  exact ((heff (e.moved ls bl cs ga sp lt) y.1 y.2).2 _ derived).2 inside

theorem capperm_acts {d : BitVec 4} {b : BitVec 6} (hr : e.ready (.capperm d a b) = true)
    (ok : ∀ x ∈ e.actives, e.deriveCap x.1 a = .ok (capOf (x.1.quad a.toNat))) :
    ∃ t, exec (.capperm d a b) s = .next t ∧ e.acts s t fun v c g => c.wroteCap g d.toNat
      (Cap.num { capOf (v.quad a.toNat) with perm := narrowPerm (capOf (v.quad a.toNat)).perm (v.reg b.toNat).toNat }) := by
  obtain ⟨eff, hexec, heff⟩ := execCapperm_spec s d a b
  exact ⟨_, hexec, capWord_acts he hr d.isLt rfl fun ls bl cs ga sp lt y hy =>
    (heff (e.moved ls bl cs ga sp lt) y.1 y.2).2 _ (ok y hy)⟩

theorem capmint_acts {d : BitVec 4} {b : BitVec 6} (hr : e.ready (.capmint d b) = true)
    (ok : ∀ x ∈ e.actives, (capOf (x.1.image b.toNat)).wellFormed = true) :
    ∃ t, exec (.capmint d b) s = .next t ∧ e.acts s t fun v c g => c.wroteCap g d.toNat (minted (v.image b.toNat)) := by
  obtain ⟨eff, hexec, heff⟩ := execCapmint_spec s d b
  exact ⟨_, hexec, capWord_acts he hr d.isLt rfl fun ls bl cs ga sp lt y hy =>
    (heff (e.moved ls bl cs ga sp lt) y.1 y.2).2 (ok y hy)⟩

variable {d : BitVec 6}

/-- The capability of the memory that a fibre has to itself, or of its register window (R200, R209). -/
theorem capget_whole {sel : BitVec 6} (hs : sel = 16 ∨ sel = 17) (hr : e.ready (.capget d a sel) = true) :
    ∃ t, exec (.capget d a sel) s = .next t ∧ e.acts s t fun _ c g => c.wroteCap g (d.toNat % 16)
      (if sel = 16 then privateCap e.l.privSize else windowCap e.l.window).num := by
  have quad : (BitVec.ofNat 4 d.toNat).toNat = d.toNat % 16 := BitVec.toNat_ofNat ..
  refine ⟨_, rfl, capWord_acts he hr (Nat.mod_lt _ (by decide)) ?_ fun ls bl cs ga sp lt y _ => ?_⟩
  · rw [← quad]
    rcases hs with rfl | rfl <;> rfl
  · rcases hs with rfl | rfl <;> rfl

/-- A field of a capability (R209). -/
theorem capget_field {sel : BitVec 6} (hr : e.ready (.capget d a sel) = true) (hp : sel ≠ 16) (hwin : sel ≠ 17) :
    ∃ t, exec (.capget d a sel) s = .next t ∧ e.acts s t fun v c g => c.wrote g [(d.toNat,
      capField (v.quad a.toNat) (e.l.tagOf (v.tag a.toNat) (capOf (v.quad a.toNat))) sel.toNat)] := by
  have plain : ¬ 16 ≤ sel.toNat := by
    have hwf := ready_wf hr
    rw [Instr.wf, decide_eq_true_eq] at hwf
    rcases hwf with small | ⟨special | special, -⟩
    · omega
    · exact absurd (BitVec.eq_of_toNat_eq special) hp
    · exact absurd (BitVec.eq_of_toNat_eq special) hwin
  refine ⟨_, rfl, writes_give he hr (fun ls bl cs ga sp lt v c => ?_) (fun _ => ?_) fun _ w hw => ?_⟩
  · rw [if_neg hp, if_neg hwin]
    rfl
  · exact (if_neg plain).symm
  · rw [List.mem_singleton] at hw
    rw [hw]
    exact d.isLt

end

/-- Settles O23: each word writes one capability or one field, and `testBit_narrowPerm`, `capField_eq` and `testBit_minted` read
the value. -/
theorem capabilityWords : Obligations.CapabilityWords := by
  unfold Obligations.CapabilityWords
  refine ⟨fun s e d a b he hr ok => ?_, fun s e d a b he hr ok => ?_, fun s e d a sel he hr => ?_, fun s e d a he hr ok => ?_⟩
  · refine capsub_acts he hr fun x hx => ?_
    obtain ⟨valid, sub, sup, len, top⟩ := ok x hx
    exact ⟨deriveCap_ok valid sub sup, not_or.2 ⟨len.not_gt, top.not_gt⟩⟩
  · obtain ⟨t, next, acts⟩ := capperm_acts he hr fun x hx =>
      let ⟨valid, sub, sup⟩ := ok x hx
      deriveCap_ok valid sub sup
    exact ⟨t, next, acts_imp acts fun v c g wrote => ⟨_, wrote, testBit_narrowPerm _ _⟩⟩
  · by_cases hs : sel = 16 ∨ sel = 17
    · have whole := capget_whole he hs hr
      rcases hs with rfl | rfl
      · exact whole
      · exact whole
    · obtain ⟨hp, hwin⟩ := not_or.1 hs
      obtain ⟨t, next, acts⟩ := capget_field he hr hp hwin
      refine ⟨t, next, acts_imp acts fun v c g wrote => ?_⟩
      have code (k : BitVec 6) : sel = k ↔ sel.toNat = k.toNat := BitVec.toNat_eq
      rw [capField_eq] at wrote
      simp only [tagOf_iff] at wrote
      simp only [hp, hwin, if_false]
      simp only [code]
      exact wrote
  · obtain ⟨t, next, acts⟩ := capmint_acts he hr ok
    exact ⟨t, next, acts_imp acts fun v c g wrote => ⟨_, wrote, testBit_minted (image_lt v _)⟩⟩

end Sys2Proof.Machine
end

section
/-!
# Pre-emption

A step that is aborted (R361, R362), work that leaves its core at a blocking point (R333, R336), and the end of a grace period.
-/

namespace Sys2Proof.Machine

/-! ## Step abort -/

/-- Each register of a journal gets back the value that the journal holds; the others keep theirs (R31). -/
theorem getD_foldl_set {j : List (Nat × Word)} (distinct : (j.map Prod.fst).Nodup) {n : Nat} :
    ∀ {rs : List Word}, n < rs.length → (j.foldl (fun rs x => rs.set x.1 x.2) rs).getD n 0 =
      ((j.find? fun x => x.1 == n).map Prod.snd).getD (rs.getD n 0) := by
  induction j with
  | nil => exact fun _ => rfl
  | cons x j ih =>
    intro rs hn
    rw [List.map_cons, List.nodup_cons] at distinct
    obtain ⟨fresh, distinct⟩ := distinct
    rw [List.foldl_cons, ih distinct (by rwa [List.length_set]), List.find?_cons]
    by_cases same : x.1 = n
    · have gone : j.find? (fun y => y.1 == n) = none :=
        List.find?_eq_none.2 fun y hy e => fresh (List.mem_map.2 ⟨y, hy, (beq_iff_eq.1 e).trans same.symm⟩)
      simp [gone, same, hn]
    · simp [same, beq_false_of_ne same]

theorem goesBack_iff (f : Fibre) : f.goesBack = true ↔ f.startStatus = .running ∨ ∃ k, f.startStatus = .parked k := by
  unfold Fibre.goesBack
  cases f.startStatus <;> simp

theorem abort_of_goesBack {f : Fibre} (h : f.goesBack = true) (step : Nat) : f.abort step = f.rollBack step := if_pos h
theorem abort_of_stays {f : Fibre} (h : f.goesBack = false) (step : Nat) : f.abort step = f := by simp [Fibre.abort, h]

/-- The line of a load that an abort drops is still on its way to its core (R218). -/
theorem abortBlock_strays {s : State} {l : Nat} {b : Block} {f : Fibre} {p : PendLoad} (hf : f ∈ b.fibres) (back : f.goesBack = true)
    (hp : p ∈ f.loads) (later : s.clock < p.due) :
    ∃ x ∈ (s.abortBlock l b).strays, x.core = p.core ∧ x.line = p.line ∧ x.va = p.va ∧ x.due = p.due := by
  have stray : ∀ tenant, ∃ x ∈ b.straysOf tenant f, x.core = p.core ∧ x.line = p.line ∧ x.va = p.va ∧ x.due = p.due :=
    fun tenant => ⟨_, List.mem_map.2 ⟨p, hp, rfl⟩, rfl, rfl, rfl, rfl⟩
  obtain ⟨x, hx, core, line, va, due⟩ := stray (((s.launch? l).map Launch.tenant).getD 0)
  refine ⟨x, List.mem_filter.2 ⟨List.mem_append_right _ ?_, decide_eq_true (due ▸ later)⟩, core, line, va, due⟩
  exact List.mem_flatMap.2 ⟨f, List.mem_filter.2 ⟨hf, back⟩, hx⟩

/-! ## The events -/

/-- A block whose grace period is over is stopped; before, and without one, nothing happens (R333). -/
theorem gracePeriodEnd_exec {s : State} {l b : Nat} {ln : Launch} {bl : Block} (hl : s.launch? l = some ln)
    (hb : ln.block? b = some bl) :
    exec (.gracePeriodEnd l b) s = .next (if s.graceOver bl = true then s.stopBlock l bl else s) := by
  have found : (s.launch? l).bind (·.block? b) = some bl := by rw [hl, Option.bind_some, hb]
  change execGracePeriodEnd l b s = _
  simp only [execGracePeriodEnd, found]
  split <;> rfl

theorem graceOver_some {s : State} {bl : Block} {t : Nat} (h : bl.graceEnd = some t) : s.graceOver bl = decide (t ≤ s.clock) := by
  simp [State.graceOver, h]
theorem graceOver_none {s : State} {bl : Block} (h : bl.graceEnd = none) : s.graceOver bl = false := by simp [State.graceOver, h]

theorem scoreboardWaitThreshold_exec {s : State} {l b g : Nat} {ln : Launch} {bl : Block} {gr : Group}
    (hl : s.launch? l = some ln) (hb : ln.block? b = some bl) (hg : bl.group? g = some gr) :
    exec (.scoreboardWaitThreshold l b g) s = .next (if s.longWait ln bl gr = true then s.evictGroup gr else s) := by
  change execScoreboardWaitThreshold l b g s = _
  simp only [execScoreboardWaitThreshold, hl, hb, hg]
  split <;> rfl

theorem bound_of_longWait {s : State} {l : Launch} {b : Block} {g : Group} (h : s.longWait l b g = true) : g.bound = true := by
  simp only [State.longWait, Bool.and_eq_true] at h
  exact h.1.1.2

/-- A group is unbound once: not while its record waits in its core's ring (R336). -/
theorem evictGroup_bound {s : State} {g : Group} (bound : g.bound = true) :
    s.evictGroup g = if s.evicting g = true then s else s.modCore g.core fun k => k.push (unbindOf g) := by
  cases h : s.evicting g <;> simp [State.evictGroup, bound, h]

theorem timeSliceExpiry_exec {s : State} {core : Nat} {k : Core} (hk : s.core? core = some k) :
    exec (.timeSliceExpiry core) s = .next (s.preempt core ((s.blocksOn core).filter (s.sliceOver k))) := by
  change execTimeSliceExpiry core s = _
  simp only [execTimeSliceExpiry, hk]

/-! ## What has to leave a core (R333) -/

section
variable {s : State} {c : Cand} {here : List Group}

theorem giveGrace_blocked (h : c.b.blocked = true) : s.giveGrace c here = s.evictBlock c.l.id c.b.index := if_pos h

theorem giveGrace_all (h : c.b.blocked = false) (all : here.filter (s.groupBlocked c.l c.b) = here) :
    s.giveGrace c here = s.evictGroups here := by
  simp [State.giveGrace, h, all]

theorem giveGrace_rest (h : c.b.blocked = false) (rest : here.filter (s.groupBlocked c.l c.b) ≠ here) :
    s.giveGrace c here = (s.evictGroups (here.filter (s.groupBlocked c.l c.b))).modBlock c.l.id c.b.index fun b =>
      { b with graceEnd := some (s.clock + 20 * s.power.clock) } := by
  have fewer : (here.filter (s.groupBlocked c.l c.b)).length ≠ here.length := fun e => rest (List.filter_sublist.eq_of_length e)
  simp only [State.giveGrace, h, fewer, State.cyclesOf, if_false, Bool.false_eq_true]

end

/-- Settles O50: the events choose among the states of `stopBlock`, `evictGroup` and `giveGrace`; `getD_foldl_set` reads a register
that an abort gives back. -/
theorem preemptionEvents : Obligations.PreemptionEvents := by
  unfold Obligations.PreemptionEvents
  refine ⟨fun s l b ln bl hl hb => ⟨fun t ht => ?_, fun ungraced => ?_, ?_, fun g gr hg => ⟨fun long idle => ?_, fun h => ?_⟩⟩,
    fun f step distinct => ⟨fun back => ?_, fun ran parked => ?_⟩, fun s core k hk => ⟨fun unused => ?_, fun c one => ?_⟩⟩
  · rw [gracePeriodEnd_exec hl hb, graceOver_some ht]
    refine ⟨fun past free => ?_, fun past blocked => ?_, fun early => ?_⟩
    · rw [if_pos (decide_eq_true past), State.stopBlock, free, if_neg Bool.false_ne_true]
    · rw [if_pos (decide_eq_true past), State.stopBlock, if_pos blocked]
    · rw [if_neg (by simpa using early)]
  · rw [gracePeriodEnd_exec hl hb, graceOver_none ungraced, if_neg Bool.false_ne_true]
  · rintro u rfl
    exact ⟨rfl, fun f hf back p hp later => abortBlock_strays hf back hp later⟩
  · rw [scoreboardWaitThreshold_exec hl hb hg, if_pos long, evictGroup_bound (bound_of_longWait long), idle,
      if_neg Bool.false_ne_true]
    rfl
  · rw [scoreboardWaitThreshold_exec hl hb hg]
    split
    next long => rw [evictGroup_bound (bound_of_longWait long), if_pos (h.resolve_left (by simp [long]))]
    next => rfl
  · rw [abort_of_goesBack ((goesBack_iff f).2 back)]
    exact ⟨fun n hn => getD_foldl_set distinct hn, rfl, rfl, rfl, rfl, rfl, rfl, rfl⟩
  · exact abort_of_stays (Bool.eq_false_iff.2 fun back => ((goesBack_iff f).1 back).elim ran fun ⟨k, hk⟩ => parked k hk) step
  · rw [timeSliceExpiry_exec hk, List.filter_eq_nil_iff.2 fun c hc => by simp [unused c hc]]
    rfl
  · rw [timeSliceExpiry_exec hk, one, State.preempt, State.preempt]
    exact ⟨fun blocked => by rw [giveGrace_blocked blocked],
      fun free all => by rw [giveGrace_all free all], fun free rest => by rw [giveGrace_rest free rest]⟩

end Sys2Proof.Machine
end

section
/-!
# The watchdog and placement

When a block is overdue and what its event does (R344, R354); what a placement decision does first (R332, R337, R372), and the order
and the choice of victims (R337).
-/

namespace Sys2Proof.Machine

/-! ## The watchdog (R344) -/

section
variable {s : State} {l b : Nat} {ln : Launch} {bl : Block}

theorem lastCheck_le (s : State) : s.lastCheck ≤ s.clock := Nat.div_mul_le_self ..

/-- The last check lies less than a microsecond back. -/
theorem lt_lastCheck_add (h : 0 < s.power.clock) : s.clock < s.lastCheck + s.power.clock := by
  simpa [State.lastCheck, State.cyclesOf] using Nat.lt_div_mul_add (a := s.clock) h

theorem overdue_iff : s.overdue ln bl = true ↔
    ln.ended = false ∧ ln.suspended = false ∧ (∀ r, s.region? ln.rcb = some r → r.suspended = false) ∧
      s.eff ln.rcb 6 Region.watchdog ≠ 0 ∧ (bl.status = .bound ∧ ∃ g ∈ bl.groups, g.bound = true) ∧
      (∀ f ∈ bl.fibres, f.isParked = false) ∧ (∃ f ∈ bl.fibres, f.live = true ∧ f.isAtRstop = false) ∧
      bl.lastCommit + s.eff ln.rcb 6 Region.watchdog * s.power.clock ≤ s.lastCheck := by
  have region : (s.region? ln.rcb).any Region.suspended = false ↔ ∀ r, s.region? ln.rcb = some r → r.suspended = false := by
    cases s.region? ln.rcb <;> simp
  unfold State.overdue State.cyclesOf
  simp only [Block.holdsCore, Fibre.holdsStep, Bool.and_eq_true, Bool.not_eq_true', region,
    bne_iff_ne, beq_iff_eq, List.any_eq_true, List.any_eq_false, Bool.not_eq_true, decide_eq_true_eq, and_assoc]

theorem watchdog_exec (hl : s.launch? l = some ln) (hb : ln.block? b = some bl) :
    exec (.watchdog l b) s = .next (if (s.overdue ln bl && !s.overdueBefore ln bl) = true then s.regionPath ln bl
      else ((s.region? ln.rcb).map s.recordDue).getD s) := by
  change execWatchdog l b s = _
  simp only [execWatchdog, hl, hb]
  split <;> rfl

/-- The block that comes first of those overdue takes the region path. -/
theorem watchdog_fires (hl : s.launch? l = some ln) (hb : ln.block? b = some bl) (due : s.overdue ln bl = true)
    (first : s.overdueBefore ln bl = false) : exec (.watchdog l b) s = .next (s.regionPath ln bl) := by
  rw [watchdog_exec hl hb, if_pos (by rw [due, first]; rfl)]

/-- A block that is not overdue leaves to the event a record that waits. -/
theorem watchdog_quiet (hl : s.launch? l = some ln) (hb : ln.block? b = some bl) (quiet : s.overdue ln bl = false) :
    exec (.watchdog l b) s = .next (((s.region? ln.rcb).map s.recordDue).getD s) := by
  rw [watchdog_exec hl hb, if_neg (by simp [quiet])]

theorem overdue_false (h : s.eff ln.rcb 6 Region.watchdog = 0 ∨
    s.clock < bl.lastCommit + s.eff ln.rcb 6 Region.watchdog * s.power.clock ∨ ln.suspended = true ∨ bl.status ≠ .bound ∨
      ∃ f ∈ bl.fibres, f.isParked = true) : s.overdue ln bl = false := by
  refine Bool.eq_false_iff.2 fun overdue => ?_
  obtain ⟨-, runs, -, period, ⟨bound, -⟩, unparked, -, late⟩ := overdue_iff.1 overdue
  rcases h with off | early | suspended | unbound | ⟨f, hf, parked⟩
  · exact period off
  · exact absurd (late.trans (lastCheck_le s)) early.not_ge
  · exact Bool.false_ne_true (runs.symm.trans suspended)
  · exact unbound bound
  · exact Bool.false_ne_true ((unparked f hf).symm.trans parked)

theorem recordDue_none {r : Region} (h : r.due = none) : s.recordDue r = s := by simp only [State.recordDue, h]

theorem recordDue_some {r : Region} {x : FRec} (h : r.due = some x) :
    s.recordDue r = if (r.suspended && s.cmdsRun r.rcb) = true then s
      else (s.modRegion r.rcb fun y => { y with due := none }).report x := by
  simp only [State.recordDue, h]

end

/-! ## A placement decision -/

section
variable {s : State} {slice : Nat}

theorem placementDecision_exec (s : State) (slice : Nat) :
    exec (.placementDecision slice) s = .next ((s.place slice).getD s).extendShort.noteUsage := rfl

/-- Nothing is placed while a record waits. -/
theorem place_pending (h : ∃ k ∈ s.cores, k.pending ≠ 0) : s.place slice = none :=
  if_pos (List.any_eq_true.2 (by simpa using h))

/-- What exceeds a budget leaves first (R372). -/
theorem place_excess {v : Victim} (applied : ∀ k ∈ s.cores, k.pending = 0) (h : s.excess = some v) :
    s.place slice = some (s.evictVictims [v]) := by
  rw [State.place, if_neg (by simpa using applied), h]

theorem place_within (applied : ∀ k ∈ s.cores, k.pending = 0) (h : s.excess = none) :
    s.place slice = (s.placeFirst (s.candidates slice)).or (s.evictFirst (s.candidates slice)) := by
  rw [State.place, if_neg (by simpa using applied), h]
  dsimp only
  cases s.placeFirst (s.candidates slice) <;> rfl

theorem placeFirst_eq_findSome? (cs : List Cand) :
    s.placeFirst cs = cs.findSome? fun c => (s.planFor c.l c.b).map fun p => s.enactPlan c.l c.b p.1 p.2 := by
  induction cs with
  | nil => rfl
  | cons c cs ih =>
    rw [State.placeFirst, List.findSome?_cons, ih]
    cases s.planFor c.l c.b <;> rfl

theorem evictFirst_eq_findSome? (cs : List Cand) :
    s.evictFirst cs = cs.findSome? fun c => (s.victimsFor c (s.victims c) []).map s.evictVictims := by
  induction cs with
  | nil => rfl
  | cons c cs ih =>
    rw [State.evictFirst, List.findSome?_cons, ih]
    cases s.victimsFor c (s.victims c) [] <;> rfl

/-- A search that fails before an element that answers gives that answer. -/
theorem findSome?_append_cons {α β : Type} {f : α → Option β} {before after : List α} {a : α} {y : β}
    (fails : ∀ x ∈ before, f x = none) (answers : f a = some y) : (before ++ a :: after).findSome? f = some y := by
  rw [List.findSome?_append, List.findSome?_eq_none_iff.2 fails, Option.none_or, List.findSome?_cons, answers]

theorem placeFirst_none {cs : List Cand} (h : ∀ x ∈ cs, ¬ (s.planFor x.l x.b).isSome = true) : s.placeFirst cs = none := by
  rw [placeFirst_eq_findSome?, List.findSome?_eq_none_iff]
  exact fun x hx => by rw [Option.not_isSome_iff_eq_none.1 (h x hx), Option.map_none]

theorem placeFirst_some {before cs : List Cand} {c : Cand} {p : Plan} {cores : List Nat}
    (h : ∀ x ∈ before, ¬ (s.planFor x.l x.b).isSome = true) (plan : s.planFor c.l c.b = some (p, cores)) :
    s.placeFirst (before ++ c :: cs) = some (s.enactPlan c.l c.b p cores) := by
  rw [placeFirst_eq_findSome?]
  exact findSome?_append_cons (fun x hx => by rw [Option.not_isSome_iff_eq_none.1 (h x hx), Option.map_none])
    (by rw [plan, Option.map_some])

theorem evictFirst_none {cs : List Cand} (h : ∀ x ∈ cs, s.victimsFor x (s.victims x) [] = none) : s.evictFirst cs = none := by
  rw [evictFirst_eq_findSome?, List.findSome?_eq_none_iff]
  exact fun x hx => by rw [h x hx, Option.map_none]

theorem evictFirst_some {before cs : List Cand} {c : Cand} {vs : List Victim}
    (h : ∀ x ∈ before, s.victimsFor x (s.victims x) [] = none) (found : s.victimsFor c (s.victims c) [] = some vs) :
    s.evictFirst (before ++ c :: cs) = some (s.evictVictims vs) := by
  rw [evictFirst_eq_findSome?]
  exact findSome?_append_cons (fun x hx => by rw [h x hx, Option.map_none]) (by rw [found, Option.map_some])

/-! ## What a block offers, and what exceeds a budget -/

/-- A block at a blocking point offers itself, another one its groups at theirs (R336, R337). -/
theorem mem_victimsOf {v : Victim} {l : Launch} {b : Block} (h : v ∈ s.victimsOf l b) :
    v.l = l ∧ v.b = b ∧ (v.g = none → b.blocked = true) ∧
      ∀ g, v.g = some g → b.blocked = false ∧ s.groupBlocked l b g = true := by
  unfold State.victimsOf at h
  split at h
  next blocked =>
    rw [List.mem_singleton] at h
    subst h
    exact ⟨rfl, rfl, fun _ => blocked, nofun⟩
  next free =>
    obtain ⟨g, hg, rfl⟩ := List.mem_map.1 h
    obtain ⟨-, blocked⟩ := List.mem_filter.1 hg
    refine ⟨rfl, rfl, nofun, fun x hx => ⟨Bool.not_eq_true _ ▸ free, ?_⟩⟩
    exact Option.some.inj hx ▸ blocked

theorem excess_none (h : ∀ l ∈ s.launches, l.ended = false → s.withinBudgets l.rcb = true) : s.excess = none := by
  refine List.findSome?_eq_none_iff.2 fun l hl => ?_
  obtain ⟨mem, above⟩ := List.mem_filter.1 hl
  simp only [Bool.and_eq_true, Bool.not_eq_true'] at above
  exact absurd ((h l mem above.1).symm.trans above.2) (by decide)

/-- What exceeds a budget is offered by a bound block of a launch whose region holds too much (R372). -/
theorem excess_some {v : Victim} (h : s.excess = some v) :
    ∃ l ∈ s.launches, l.ended = false ∧ s.withinBudgets l.rcb = false ∧ ∃ b ∈ l.blockList, v ∈ s.victimsOf l b := by
  obtain ⟨l, hl, h⟩ := List.exists_of_findSome?_eq_some h
  obtain ⟨b, hb, h⟩ := List.exists_of_findSome?_eq_some h
  obtain ⟨mem, above⟩ := List.mem_filter.1 hl
  simp only [Bool.and_eq_true, Bool.not_eq_true'] at above
  exact ⟨l, mem, above.1, above.2, b, List.mem_of_mem_filter hb, List.mem_of_mem_head? h⟩

/-! ## The order of victims (R337) -/

/-- What may leave for a candidate, before it is put in order. -/
def State.offers (s : State) (c : Cand) : List Victim :=
  (s.launches.filter fun l => !l.ended && (l.rcb == c.l.rcb || decide (s.eff l.rcb 0 Region.prio < s.candPrio c))).flatMap fun l =>
    (l.blockList.filter fun b => b.groups.any Group.bound).flatMap (s.victimsOf l)

theorem victims_eq (s : State) (c : Cand) : s.victims c = (s.offers c).foldl (fun vs v => s.insertVictim v vs) [] := by
  rw [State.offers, List.foldl_flatMap, State.victims]
  simp only [List.foldl_flatMap, List.foldl_filter]

theorem mem_insertVictim {v w : Victim} {vs : List Victim} : w ∈ s.insertVictim v vs ↔ w = v ∨ w ∈ vs := by
  induction vs with
  | nil => rw [State.insertVictim, List.mem_singleton, or_iff_left List.not_mem_nil]
  | cons x xs ih =>
    rw [State.insertVictim]
    split
    next => exact List.mem_cons
    next => rw [List.mem_cons, ih, List.mem_cons, or_left_comm]

theorem mem_foldl_insertVictim {w : Victim} {vs : List Victim} :
    ∀ {acc : List Victim}, w ∈ vs.foldl (fun vs v => s.insertVictim v vs) acc ↔ w ∈ vs ∨ w ∈ acc := by
  induction vs with
  | nil => simp
  | cons v vs ih =>
    intro acc
    rw [List.foldl_cons, ih, mem_insertVictim, List.mem_cons, or_assoc, or_left_comm]

theorem mem_victims {c : Cand} {v : Victim} : v ∈ s.victims c ↔ v ∈ s.offers c := by
  rw [victims_eq, mem_foldl_insertVictim, or_iff_left List.not_mem_nil]

theorem mem_offers {c : Cand} {v : Victim} (h : v ∈ s.offers c) :
    v.l.ended = false ∧ (v.l.rcb = c.l.rcb ∨ s.eff v.l.rcb 0 Region.prio < s.candPrio c) ∧ v ∈ s.victimsOf v.l v.b := by
  obtain ⟨l, hl, h⟩ := List.mem_flatMap.1 h
  obtain ⟨b, -, h⟩ := List.mem_flatMap.1 h
  obtain ⟨rfl, rfl, -, -⟩ := mem_victimsOf h
  obtain ⟨-, may⟩ := List.mem_filter.1 hl
  simp only [Bool.and_eq_true, Bool.not_eq_true', Bool.or_eq_true, beq_iff_eq, decide_eq_true_eq] at may
  exact ⟨may.1, may.2, h⟩

theorem victimBefore_iff {x y : Victim} : s.victimBefore x y = true ↔
    s.eff x.l.rcb 0 Region.prio < s.eff y.l.rcb 0 Region.prio ∨
      s.eff x.l.rcb 0 Region.prio = s.eff y.l.rcb 0 Region.prio ∧ y.b.bindOrder < x.b.bindOrder := by
  simp only [State.victimBefore, Bool.or_eq_true, Bool.and_eq_true, decide_eq_true_eq, beq_iff_eq]

theorem victimBefore_asymm {x y : Victim} (h : s.victimBefore x y = true) : s.victimBefore y x = false := by
  rw [Bool.eq_false_iff, ne_eq, victimBefore_iff]
  rw [victimBefore_iff] at h
  omega

theorem victimBefore_trans {x y z : Victim} (hxy : s.victimBefore x y = true) (hyz : s.victimBefore y z = true) :
    s.victimBefore x z = true := by
  rw [victimBefore_iff] at *
  omega

/-- Putting one more victim in its place keeps a list in order. -/
theorem insertVictim_pairwise {v : Victim} {vs : List Victim} (h : vs.Pairwise fun x y => s.victimBefore y x = false) :
    (s.insertVictim v vs).Pairwise fun x y => s.victimBefore y x = false := by
  induction vs with
  | nil => exact List.pairwise_singleton _ _
  | cons w ws ih =>
    obtain ⟨first, rest⟩ := List.pairwise_cons.1 h
    rw [State.insertVictim]
    split
    next before =>
      refine List.pairwise_cons.2 ⟨fun y hy => ?_, h⟩
      rcases List.mem_cons.1 hy with rfl | hy
      · exact victimBefore_asymm before
      · exact Bool.eq_false_iff.2 fun after => Bool.false_ne_true ((first y hy).symm.trans (victimBefore_trans after before))
    next notBefore =>
      refine List.pairwise_cons.2 ⟨fun y hy => ?_, ih rest⟩
      rcases mem_insertVictim.1 hy with rfl | hy
      · exact Bool.eq_false_iff.2 notBefore
      · exact first y hy

theorem victims_pairwise (s : State) (c : Cand) : (s.victims c).Pairwise fun x y => s.victimBefore y x = false := by
  rw [victims_eq]
  exact List.foldlRecOn _ _ List.Pairwise.nil fun _ ordered _ _ => insertVictim_pairwise ordered

end

/-! ## The choice of victims (R337) -/

/-- The victims chosen are the shortest run of those offered without which the candidate fits. -/
theorem victimsFor_some {c : Cand} {vs : List Victim} : ∀ {s : State} {done out : List Victim}, s.victimsFor c vs done = some out →
    ∃ ys, out = done ++ ys ∧ ys <+: vs ∧ ys ≠ [] ∧ ((ys.foldl State.without s).planFor c.l c.b).isSome = true ∧
      ∀ ws, ws <+: ys → ws ≠ [] → ws ≠ ys → ¬ ((ws.foldl State.without s).planFor c.l c.b).isSome = true := by
  induction vs with
  | nil => nofun
  | cons v vs ih =>
    intro s done out h
    rw [State.victimsFor] at h
    split at h
    next fits =>
      refine ⟨[v], (Option.some.inj h).symm, List.prefix_append _ _, List.cons_ne_nil _ _, fits, fun ws part nonempty less => ?_⟩
      exact absurd (part.eq_of_length_le (List.length_pos_iff.2 nonempty)) less
    next tight =>
      obtain ⟨ys, rfl, run, -, fits, least⟩ := ih h
      refine ⟨v :: ys, List.append_assoc .., List.cons_prefix_cons.2 ⟨rfl, run⟩, List.cons_ne_nil _ _, fits,
        fun ws part nonempty less => ?_⟩
      obtain _ | ⟨w, ws⟩ := ws
      · exact absurd rfl nonempty
      · obtain ⟨rfl, tail⟩ := List.cons_prefix_cons.1 part
        by_cases one : ws = []
        · rw [one]
          exact tight
        · exact least ws tail one fun e => less (e ▸ rfl)

/-- Settles O51: `overdue_iff` and `recordDue_some` say what the watchdog does, `place_excess` and `place_within` what is placed, and
`victimsFor_some` and `victims_pairwise` who leaves. -/
theorem watchdogAndPlacement : Obligations.WatchdogAndPlacement := by
  unfold Obligations.WatchdogAndPlacement
  refine ⟨fun s l b ln bl hl hb => ⟨?_, fun quiet => ⟨fun unset => ?_, fun r x hr due => ?_⟩, lastCheck_le s, lt_lastCheck_add⟩,
    fun s slice => ⟨fun idle => ?_, fun v applied excess => ⟨?_, ?_⟩, excess_none,
      fun applied within => ⟨?_, fun tight => ⟨?_, ?_⟩⟩, fun c vs found => ?_, fun c v hv => ?_, victims_pairwise s⟩⟩
  · exact fun runs active regionActive period bound holds unparked waiting late first =>
      watchdog_fires hl hb (overdue_iff.2 ⟨runs, active, regionActive, period, ⟨bound, holds⟩, unparked, waiting, late⟩) first
  · rw [watchdog_quiet hl hb (overdue_false quiet)]
    cases hr : s.region? ln.rcb with
    | none => rfl
    | some r => rw [Option.map_some, Option.getD_some, recordDue_none (unset r hr)]
  · rw [watchdog_quiet hl hb (overdue_false quiet), hr, Option.map_some, Option.getD_some, recordDue_some due]
    refine ⟨fun suspended run => ?_, fun h => ?_⟩
    · rw [suspended, run]
      rfl
    · rw [if_neg (by simpa using fun suspended => h.resolve_left (by simp [suspended]))]
  · have nothing : s.place slice = none := by
      by_cases pending : ∃ k ∈ s.cores, k.pending ≠ 0
      · exact place_pending pending
      · obtain ⟨within, empty⟩ := idle.resolve_left pending
        rw [place_within (by simpa using pending) within, empty]
        rfl
    rw [placementDecision_exec, nothing]
    rfl
  · rw [placementDecision_exec, place_excess applied excess]
    rfl
  · obtain ⟨l, mem, runs, above, b, -, offered⟩ := excess_some excess
    obtain ⟨rfl, rfl, block, group⟩ := mem_victimsOf offered
    exact ⟨mem, runs, above, block, group⟩
  · intro before c cs p cores parts tight plan
    rw [placementDecision_exec, place_within applied within, parts, placeFirst_some tight plan]
    rfl
  · intro before c cs vs parts without found
    rw [placementDecision_exec, place_within applied within, placeFirst_none tight, parts, evictFirst_some without found]
    rfl
  · intro without
    rw [placementDecision_exec, place_within applied within, placeFirst_none tight, evictFirst_none without]
    rfl
  · obtain ⟨ys, rfl, run, nonempty, fits, least⟩ := victimsFor_some found
    exact ⟨run, nonempty, fits, least⟩
  · obtain ⟨runs, may, offered⟩ := mem_offers (mem_victims.1 hv)
    obtain ⟨-, -, block, group⟩ := mem_victimsOf offered
    exact ⟨runs, may, block, fun g hg => (group g hg).2⟩

end Sys2Proof.Machine
end

section
/-!
# The order of dispatch, and checks made in order

The requests of a step are dispatched in the order of their keys (R237); the first check that fails gives a command its status (R261).
-/

namespace Sys2Proof.Machine

/-! ## The order of requests (R237, R242) -/

/-- A request's key comes before another's, or is the same. -/
def CmdReq.upTo (x y : CmdReq) : Prop := x.fibre < y.fibre ∨ (x.fibre = y.fibre ∧ x.seq ≤ y.seq)

theorem CmdReq.upTo_trans {x y z : CmdReq} (hxy : x.upTo y) (hyz : y.upTo z) : x.upTo z := by
  unfold CmdReq.upTo at *
  omega

theorem upTo_of_lexLt {x y : CmdReq} (h : lexLt [x.fibre, x.seq] [y.fibre, y.seq] = true) : x.upTo y := by
  simp [lexLt] at h
  unfold CmdReq.upTo
  omega

theorem upTo_of_not_lexLt {x y : CmdReq} (h : ¬ lexLt [x.fibre, x.seq] [y.fibre, y.seq] = true) : y.upTo x := by
  simp [lexLt] at h
  unfold CmdReq.upTo
  omega

theorem insertReq_perm (r : CmdReq) (qs : List CmdReq) : (insertReq r qs).Perm (r :: qs) := by
  induction qs with
  | nil => rfl
  | cons x xs ih =>
    unfold insertReq
    split
    · rfl
    · exact (ih.cons x).trans (List.Perm.swap r x xs)

theorem insertReq_pairwise (r : CmdReq) {qs : List CmdReq} (sorted : qs.Pairwise CmdReq.upTo) :
    (insertReq r qs).Pairwise CmdReq.upTo := by
  induction qs with
  | nil => exact List.pairwise_singleton ..
  | cons x xs ih =>
    obtain ⟨first, sorted'⟩ := List.pairwise_cons.1 sorted
    unfold insertReq
    split
    next before =>
      refine List.pairwise_cons.2 ⟨fun y hy => ?_, sorted⟩
      rcases List.mem_cons.1 hy with rfl | hy
      · exact upTo_of_lexLt before
      · exact CmdReq.upTo_trans (upTo_of_lexLt before) (first y hy)
    next after =>
      refine List.pairwise_cons.2 ⟨fun y hy => ?_, ih sorted'⟩
      rcases List.mem_cons.1 ((insertReq_perm r xs).mem_iff.1 hy) with rfl | hy
      · exact upTo_of_not_lexLt after
      · exact first y hy

theorem sortReqs_perm (qs : List CmdReq) : (sortReqs qs).Perm qs := by
  induction qs with
  | nil => rfl
  | cons r qs ih => exact (insertReq_perm r _).trans (ih.cons r)

theorem sortReqs_pairwise (qs : List CmdReq) : (sortReqs qs).Pairwise CmdReq.upTo := by
  induction qs with
  | nil => exact List.Pairwise.nil
  | cons r qs ih => exact insertReq_pairwise r ih

/-! ## A command after an update -/

theorem cmd_key {s : State} {n : Nat} {c : Cmd} (h : s.cmd? n = some c) : c.id = n := find_key h

/-- The command of a number after an update that keeps its number. -/
theorem cmd_modCmd {s : State} {n : Nat} {c : Cmd} (h : s.cmd? n = some c) {f : Cmd → Cmd} (hf : (f c).id = n) :
    (s.modCmd n f).cmd? n = some (f c) := by
  unfold State.cmd? State.modCmd at *
  generalize s.cmds = cs at h
  induction cs with
  | nil => simp at h
  | cons x xs ih =>
    by_cases hx : x.id = n
    · obtain rfl : x = c := by simpa [hx] using h
      simp [hx, hf]
    · rw [List.map_cons, if_neg hx, List.find?_cons_of_neg (by simpa using hx)]
      exact ih (by simpa [hx] using h)

theorem cmd_finishCmd {s : State} {id : Nat} {c : Cmd} (h : s.cmd? id = some c) (status count : Nat) :
    (s.finishCmd id status count).cmd? id =
      some { c with phase := .finished, status := status, count := count, outs := [] } :=
  cmd_modCmd h (show c.id = id from cmd_key h)

/-! ## Checks in order (R261) -/

/-- A check of the model decides a condition of a statement and gives its status. -/
def Decides (c : Bool × Nat) (p : Prop × Nat) : Prop := (c.1 = true ↔ p.1) ∧ c.2 = p.2

/-- Where checks decide conditions one by one, a status of the first that holds is the outcome of the conditions in order. -/
theorem inOrder_firstStatus {o : Option Nat} {cs : List (Bool × Nat)} {ps : List (Prop × Nat)} {r : State} {ends : Nat → State}
    {passed : Prop} (status : o = firstStatus cs) (same : List.Forall₂ Decides cs ps) (failed : ∀ k, o = some k → r = ends k)
    (pass : o = none → passed) : inOrder r ends passed ps := by
  subst status
  induction same with
  | nil => exact pass rfl
  | @cons c p cs ps one _ ih =>
    obtain ⟨holds, n⟩ := c
    obtain ⟨iff, rfl⟩ := one
    cases holds with
    | true => exact ⟨fun _ => failed _ rfl, fun no => absurd (iff.1 rfl) no⟩
    | false => exact ⟨fun yes => absurd (iff.2 yes) Bool.false_ne_true, fun _ => ih failed pass⟩

/-- A command that its checks end, or that goes on as `x`. -/
theorem inOrder_checks {cs : List (Bool × Nat)} {ps : List (Prop × Nat)} {r x : State} {ends : Nat → State} {passed : Prop}
    (run : r = match firstStatus cs with
      | some k => ends k
      | none => x)
    (same : List.Forall₂ Decides cs ps) (rest : r = x → passed) : inOrder r ends passed ps :=
  inOrder_firstStatus rfl same (fun k failed => by rw [run, failed]) fun pass => rest (by rw [run, pass])

/-- Conditions that are tried once the others have passed. -/
theorem inOrder_append {r : State} {ends : Nat → State} {passed : Prop} {ps qs : List (Prop × Nat)}
    (h : inOrder r ends (inOrder r ends passed qs) ps) : inOrder r ends passed (ps ++ qs) := by
  induction ps with
  | nil => exact h
  | cons p ps ih => exact ⟨h.1, fun no => ih (h.2 no)⟩

/-- A capability operand fits its role (R261 order 3). -/
def Launch.usable (l : Launch) (x : Cap) (write : Bool) (spaces : List Nat) : Prop :=
  (if write = true then x.canW = true else x.canR = true) ∧ x.hasEng = true ∧ x.space ∈ spaces ∧ (x.isSup = true → l.sup = true)

theorem roleOk_iff (l : Launch) (x : Cap) (write : Bool) (spaces : List Nat) :
    roleOk l x write spaces = true ↔ l.usable x write spaces := by
  cases write <;> simp [roleOk, Launch.usable, and_assoc, imp_iff_not_or]

theorem zeros_iff (c : Cmd) (i n : Nat) : c.zeros i n = true ↔ c.num i n = 0 := beq_iff_eq

theorem mem_dedupNat (n : Nat) (l : List Nat) : n ∈ dedupNat l ↔ n ∈ l := by
  induction l with
  | nil => rfl
  | cons a l ih =>
    by_cases h : n = a <;> simp [dedupNat, ih, h]

theorem cptPair_iff (st tf : Nat) : cptPair st tf = true ↔ (tf = 3 ↔ st = 3) := by
  unfold cptPair
  split <;> simp [*]

end Sys2Proof.Machine
end

section
/-!
# The engine words at their dispatch

The checks of each engine word in the order of R261, and what one that passes them does (R245 to R250, R264 to R275).
-/

namespace Sys2Proof.Machine

section
variable {s : State} {l : Launch} {b : Block} {c : Cmd}

/-! ## Reading at dispatch (R237) -/

theorem bytes_append (m : Memory) (k n : Nat) : ∀ a, m.bytes a (k + n) = m.bytes a k ++ m.bytes (a + k) n := by
  induction k with
  | zero => intro a; simp [Memory.bytes]
  | succ k ih =>
    intro a
    rw [Nat.add_right_comm, Memory.bytes, Memory.bytes, ih (a + 1), Nat.add_assoc a 1 k, Nat.add_comm 1 k, List.cons_append]

section
variable (clean : ∀ p ∈ s.scratchPoison, ¬ (p.1 = l.id ∧ p.2.1 = b.index))
include clean

theorem engBytes_scratch (a n : Nat) : s.engBytes l b 1 a n = .ok (Memory.bytes b.scratch a n) := by
  have unpoisoned : ¬ (s.scratchPoison.any fun p => p.1 == l.id && p.2.1 == b.index && p.2.2 == a / 128) = true := by
    simp only [List.any_eq_true, Bool.and_eq_true, beq_iff_eq]
    exact fun ⟨p, hp, mine, _⟩ => clean p hp mine
  rw [State.engBytes, if_pos rfl, if_neg unpoisoned]

theorem engRun_scratch (fuel : Nat) : ∀ a n, n = 0 ∨ n + a % 128 ≤ 128 * fuel →
    s.engRun l b 1 fuel a n = .ok (Memory.bytes b.scratch a n) := by
  induction fuel with
  | zero =>
    intro a n h
    obtain rfl : n = 0 := by omega
    rfl
  | succ fuel ih =>
    intro a n h
    unfold State.engRun
    split
    next empty => rw [empty]; rfl
    next more =>
      have rest := ih (a + min n (128 - a % 128)) (n - min n (128 - a % 128)) (by omega)
      simp only [engBytes_scratch clean, rest]
      rw [← bytes_append, Nat.add_sub_cancel' (Nat.min_le_left ..)]

/-- Scratch without an error is read as it stands. -/
theorem engAll_scratch (a n : Nat) : s.engAll l b 1 a n = .ok (Memory.bytes b.scratch a n) :=
  engRun_scratch clean _ a n (by omega)

end

/-- A command with no scratch source to read goes on as it is. -/
theorem startCmd_unread (h : c.sourceDone = true ∨ c.nextPiece.1 ≠ 1) : s.startCmd l b c = s.modCmd c.id fun _ => c := by
  have stops : (c.sourceDone || c.nextPiece.1 != 1) = true := by simpa using h
  simp only [State.startCmd, State.readScratch, stops, if_true]

/-! ## One word of a step -/

section
variable {n i : Nat} {q : CmdReq} (hl : s.launch? n = some l) (hb : l.block? i = some b)
include hl

theorem dispatchOne_ended (h : l.ended = true) : s.dispatchOne n i q = s := by
  simp [State.dispatchOne, hl, h]

variable (live : l.ended = false)
include hb live

theorem dispatchOne_cp {d w x o z} (hi : q.instr = .cp d w x o z) :
    let c := q.cmd n i s.clock (b.status == .terminated)
    s.dispatchOne n i q = { s with cmds := s.cmds ++ [c] }.startCmd l b
      { c with protect := c.lanes.flatMap fun (y : Nat × Nat × Nat × Nat × Nat) =>
          [(capOf y.2.1).range y.2.2.2.1 (4 * 2 ^ z.toNat), (capOf y.2.2.1).range y.2.2.2.2 (4 * 2 ^ z.toNat)] } := by
  simp only [State.dispatchOne, hl, hb, live, hi, State.dispatchCp, List.flatMap_def]
  rfl

variable (hi : ∀ d w x o z, q.instr ≠ .cp d w x o z)
include hi

/-- A word whose parameter block is in memory or scratch takes effect once that is read (R237, log 47). -/
theorem dispatchOne_reads :
    let c := q.cmd n i s.clock (b.status == .terminated)
    let u : State := { s with cmds := s.cmds ++ [c] }
    let read := u.engAll l b (capOf q.cap).space c.capBase (if c.isLaunch = true then 128 else 64)
    (∀ bs, read = .ok bs →
      s.dispatchOne n i q = (u.modCmd q.id fun _ => { c with params := bs }).dispatchRead l b { c with params := bs }) ∧
    ∀ er, read = .error er → s.dispatchOne n i q = u.lineFault c er.1 er.2 := by
  intro c u read
  simp only [State.dispatchOne, hl, hb, live, Bool.false_eq_true, if_false, read, u, c]
  exact ⟨fun bs h => by rw [h]; rfl, fun er h => by rw [h]⟩

end

/-! ## `digest`, `cpt`, `gath` and `scat` -/

/-- `digest` (R248, R271, R272). -/
theorem dispatchDigest_inOrder (t0 t1 : Bool) :
    let r := s.dispatchDigest l b c t0 t1
    inOrder r (s.finishCmd c.id · 0)
      (r = s.startCmd l b { c with protect := [c.cap0.range (c.num 40 8) (c.num 48 8), c.cap1.range (c.num 56 8) 32] })
      [(c.num 32 8 ≠ 0 ∨ 2 ^ 40 ≤ c.num 48 8, FaultCode.illegalField.num),
       (capValid l t0 c.cap0 = false ∨ capValid l t1 c.cap1 = false, FaultCode.capTag.num),
       (¬ l.usable c.cap0 false [0, 1, 3, 5] ∨ ¬ l.usable c.cap1 true [0, 1, 5], FaultCode.capPerm.num),
       (c.cap0.len < c.num 40 8 + c.num 48 8 ∨ c.cap1.len < c.num 56 8 + 32, FaultCode.capBounds.num)] := by
  refine inOrder_checks rfl ?_ id
  simp [Decides, ← roleOk_iff, ← zeros_iff]

/-- `cpt` (R246, R264, R265). -/
theorem dispatchCpt_inOrder (t0 : Bool) :
    let rows := c.num 36 2
    let kb := c.num 38 2
    let blk := blockBytes (c.num 33 1)
    let ps := c.planes (rows * kb) (c.num 34 1) true
    let prot := (List.range rows).map (fun i => c.cap0.range (c.num 40 8 + i * c.num 48 4) (kb * blk))
      ++ ps.map fun p => c.capC.range p.1 p.2.1
    let r := s.dispatchCpt l b c t0
    inOrder r (s.finishCmd c.id · 0)
      ((c.num 32 1 = 0 → r = s.startCmd l b { c with protect := prot }) ∧
        (c.num 32 1 = 1 → ∃ y : Cmd, { y with buf := c.buf, outs := c.outs } = { c with protect := prot } ∧
          (r = (s.modCmd c.id fun _ => y) ∨ ∃ code pa, r = (s.modCmd c.id fun _ => y).lineFault y code pa)))
      [(1 < c.num 32 1 ∨ 6 < c.num 33 1 ∨ 3 < c.num 34 1 ∨ 4 < c.num 35 1 ∨ 64 < kb ∨ c.num 16 16 ≠ 0 ∨
          c.num 48 4 < kb * blk ∨ planesBad ps = true, FaultCode.illegalField.num),
       (capValid l t0 c.cap0 = false, FaultCode.capTag.num),
       (¬ l.usable c.cap0 (c.num 32 1 == 1) [0, 1, 5] ∨ c.capC.space ≠ 1, FaultCode.capPerm.num),
       (rows * kb = 0, 0),
       (¬ (c.num 34 1 = 3 ↔ c.num 33 1 = 3), FaultCode.format.num),
       (c.cap0.len < c.num 40 8 + (rows - 1) * c.num 48 4 + kb * blk ∨ planesOut c.capC.len ps = true,
          FaultCode.capBounds.num)] := by
  refine inOrder_checks rfl ?_ fun run => ⟨fun into => run.trans (if_pos into), fun out => ?_⟩
  · simp [Decides, ← roleOk_iff, ← zeros_iff, ← cptPair_iff, or_assoc, Nat.add_assoc]
  · rw [run, if_neg (by omega)]
    dsimp only
    generalize s.engAll l b 1 (c.capC.base + c.num 60 4) _ = bm
    cases bm with
    | error e => exact ⟨_, rfl, .inr ⟨_, _, rfl⟩⟩
    | ok bm =>
      dsimp only
      generalize s.liveUnits l b (c.capC.base + c.num 52 4) _ _ = es
      generalize s.liveUnits l b (c.capC.base + c.num 56 4) _ _ = xs
      cases es with
      | error e => exact ⟨_, rfl, .inr ⟨_, _, rfl⟩⟩
      | ok es =>
        cases xs with
        | error e => exact ⟨_, rfl, .inr ⟨_, _, rfl⟩⟩
        | ok xs => exact ⟨_, rfl, .inl rfl⟩

/-- `gath` and `scat` (R249, R250, R270). -/
theorem dispatchGather_inOrder {scat : Bool} {isScat : Prop} (kind : scat = true ↔ isScat) (t0 t1 : Bool) :
    let n := c.num 36 2
    let size := c.num 38 2
    let rule := c.num 32 1
    let es := sizeBytes (c.num 33 1)
    let unfit : Prop := c.num 35 1 ≠ 0 ∨ 4096 < n ∨ size = 0 ∨ 4096 < size ∨ c.num 48 4 < size ∨ c.num 60 4 < size ∨
      c.num 52 4 % 4 ≠ 0
    let illegal : Prop := 6 < rule ∨ c.num 33 1 = 0 ∨ 4 < c.num 33 1 ∨ 1 < c.num 34 1 ∨
      rule49 rule (c.num 33 1) (c.num 34 1) = false ∨ (2 ≤ rule ∧ rule ≤ 5 ∧
        ∃ v ∈ [size, c.num 48 4, c.num 60 4, c.cap0.base + c.num 40 8, c.cap1.base + c.num 56 4], v % es ≠ 0)
    let r := s.dispatchGather l b c t0 t1 scat
    inOrder r (s.finishCmd c.id · 0)
      ((∀ er, s.engAll l b c.capC.space (c.capC.base + c.num 52 4) (4 * n) = .error er → r = s.lineFault c er.1 er.2) ∧
        ∀ raw, s.engAll l b c.capC.space (c.capC.base + c.num 52 4) (4 * n) = .ok raw →
          let idx := (List.range n).map fun i => numAt raw (4 * i) 4
          ((∃ i ∈ idx, 2 ^ 31 ≤ i ∨ c.cap0.len < c.num 40 8 + i * c.num 48 4 + size) →
            r = s.finishCmd c.id FaultCode.capBounds.num 0) ∧
          ((∀ i ∈ idx, i < 2 ^ 31 ∧ c.num 40 8 + i * c.num 48 4 + size ≤ c.cap0.len) →
            ∃ y : Cmd, r = s.startCmd l b y ∧ { y with protect := c.protect } = { c with lanes := idx.map fun i => (i, 0, 0, 0, 0) } ∧
              ∀ p, p ∈ y.protect ↔ p = c.capC.range (c.num 52 4) (4 * n) ∨
                (∃ i ∈ idx, p = c.cap0.range (c.num 40 8 + i * c.num 48 4) size) ∨
                ∃ i < n, p = c.cap1.range (c.num 56 4 + i * c.num 60 4) size))
      [(unfit ∨ (isScat ∧ illegal) ∨ (¬ isScat ∧ c.num 32 3 ≠ 0), FaultCode.illegalField.num),
       (capValid l t0 c.cap0 = false ∨ capValid l t1 c.cap1 = false, FaultCode.capTag.num),
       (¬ (isScat → l.usable c.cap0 true [0, 1, 5] ∧ l.usable c.cap1 false [0, 1, 3, 5]) ∨
          ¬ (¬ isScat → l.usable c.cap0 false [0, 1, 5] ∧ l.usable c.cap1 true [0, 1, 5]), FaultCode.capPerm.num),
       (n = 0, 0),
       (c.capC.len < c.num 52 4 + 4 * n ∨ c.cap1.len < c.num 56 4 + (n - 1) * c.num 60 4 + size, FaultCode.capBounds.num)] := by
  refine inOrder_checks rfl ?_ fun run => ⟨fun er failed => by rw [run, failed], fun raw read => ?_⟩
  · rw [← kind]
    cases scat <;> simp [Decides, ← roleOk_iff, ← zeros_iff, or_assoc, and_assoc, imp_iff_not_or]
  · rw [read] at run
    refine ⟨fun outside => run.trans (if_pos ?_), fun inside => ⟨_, run.trans (if_neg ?_), rfl, fun p => ?_⟩⟩
    · simpa using outside
    · simpa using inside
    · simp [mem_dedupNat, eq_comm]

/-! ## Sparse copies, leases and remote copies -/

/-- `cpd` and `cps` (R247, R269). -/
theorem dispatchSparse_inOrder {store : Bool} {isStore : Prop} (kind : store = true ↔ isStore) (t0 t1 : Bool) {rc dc : Cap}
    (region : rc = (c.sparseCaps store).1) (dense : dc = (c.sparseCaps store).2) :
    let rule := c.num 32 1
    let ext := c.extents
    let org := c.origin
    let r := s.dispatchSparse l b c t0 t1 store
    inOrder r (s.finishCmd c.id · 0)
      ((s.sparse? (skey l.tenant rc.objid) = none →
          r = s.finishCmd c.id (if rc.space = 4 then FaultCode.capTag.num else FaultCode.capPerm.num) 0) ∧
        ∀ sp, s.sparse? (skey l.tenant rc.objid) = some sp →
          let y := s.rdesc sp
          let size := typeSize y.typ
          inOrder r (s.finishCmd c.id · 0)
            (∃ (u : State) (z : Cmd), u = s.noteHolder l.id sp ∧
              z.protect = [.region sp.num, dc.range (c.num 60 4) (c.boxCount * size)] ∧
              { z with protect := c.protect, outs := c.outs, count := c.count, stop := c.stop } = c ∧
              (isStore → z.count = c.boxCount * size ∧ r = u.startCmd l b z) ∧
              (¬ isStore → r = (u.modCmd c.id fun _ => z) ∨ r = u.finishCmd c.id FaultCode.format.num 0 ∨
                ∃ code pa, r = (u.modCmd c.id fun _ => z).lineFault z code pa))
            [(¬ l.usable rc store [4] ∨ ¬ l.usable dc (!store) [0, 1, 5], FaultCode.capPerm.num),
             ((∃ i < 4, y.rank ≤ i ∧ (ext.getD i 0 ≠ 1 ∨ org.getD i 0 ≠ 0)) ∨ (dc.base + c.num 60 4) % size ≠ 0 ∨
                (isStore ∧ tstOk y.typ rule (2 ≤ rule && rule ≤ 5 && 2 ≤ y.typ) = false), FaultCode.illegalField.num),
             (c.boxCount = 0, 0),
             (dc.len < c.num 60 4 + c.boxCount * size, FaultCode.capBounds.num),
             (∃ i < 4, i < y.rank ∧ y.ext.getD i 1 < org.getD i 0 + ext.getD i 0, FaultCode.sparseCoord.num)])
      [((isStore ∧ (6 < c.num 32 1 ∨ 1 < c.num 33 1 ∨ c.num 34 2 ≠ 0)) ∨ (¬ isStore ∧ c.num 32 4 ≠ 0),
          FaultCode.illegalField.num),
       (capValid l t0 c.cap0 = false ∨ capValid l t1 c.cap1 = false, FaultCode.capTag.num)] := by
  subst region dense
  rw [← kind]
  refine inOrder_checks rfl ?_ fun run => ⟨fun absent => by rw [run, absent], fun sp found => ?_⟩
  · cases store <;> simp [Decides, ← zeros_iff, or_assoc]
  · rw [found] at run
    refine inOrder_checks run ?_ fun run => ?_
    · simp [Decides, ← roleOk_iff, or_assoc]
    · cases store with
      | true => refine ⟨_, _, rfl, ?_, ?_, fun _ => ⟨?_, run⟩, fun no => absurd rfl no⟩ <;> rfl
      | false =>
        replace run := run.trans (if_neg Bool.false_ne_true)
        generalize s.boxValues _ _ c _ = values at run
        obtain ⟨bytes, stop⟩ := values
        cases stop with
        | none => refine ⟨_, _, rfl, ?_, ?_, nofun, fun _ => .inl run⟩ <;> rfl
        | some error =>
          cases error with
          | format =>
            let y : Cmd := { c with protect :=
              [.region sp.num, (c.sparseCaps false).2.range (c.num 60 4) (c.boxCount * typeSize (s.rdesc sp).typ)] }
            refine ⟨_, y, rfl, ?_, ?_, nofun, fun _ => .inr (.inl run)⟩ <;> rfl
          | memory | owner =>
            dsimp only at run
            split at run
            · refine ⟨_, _, rfl, ?_, ?_, nofun, fun _ => .inr (.inr ⟨_, _, run⟩)⟩ <;> rfl
            · refine ⟨_, _, rfl, ?_, ?_, nofun, fun _ => .inl run⟩ <;> rfl

/-- The number of a lease that a launch is given: the lowest that is free (R274). -/
theorem freeLease_some {m : Nat} (low : 1 ≤ m) (high : m ≤ 4095) (free : ∀ y ∈ l.leases, y.num ≠ m)
    (below : ∀ j, 1 ≤ j → j < m → ∃ y ∈ l.leases, y.num = j) : l.freeLease = some m := by
  refine List.find?_eq_some_iff_getElem.2 ⟨by simpa using free, m - 1, by simpa using by omega, ?_, fun j hj => ?_⟩
  · simp; omega
  · obtain ⟨y, hy, taken⟩ := below (j + 1) (by omega) (by omega)
    simpa using ⟨y, hy, taken⟩

theorem freeLease_none (all : ∀ j, 1 ≤ j → j ≤ 4095 → ∃ y ∈ l.leases, y.num = j) : l.freeLease = none := by
  refine List.find?_eq_none.2 fun j hj => ?_
  obtain ⟨i, hi, rfl⟩ := List.mem_map.1 hj
  obtain ⟨y, hy, taken⟩ := all (i + 1) (by omega) (by simpa using List.mem_range.1 hi)
  simpa using ⟨y, hy, taken⟩

/-- `lease` (R229, R274). -/
theorem dispatchLease_inOrder (t0 : Bool) :
    let base := c.cap0.base + c.num 40 8
    let n := c.num 48 8
    let out (v : Nat) (tagged : Bool) : OutLine :=
      { scratch := c.capScratch, addr := c.capBase + 16, bytes := (leBytes 16 v).map some, tag := tagged && c.capScratch,
        done := 0, need := 0 }
    let gives (v : Nat) (tagged : Bool) (k : Nat) : Cmd :=
      { c with outs := [out v tagged], count := k, protect := [.bytes c.capScratch (c.capBase + 16) 16] }
    let r := s.dispatchLease l c t0
    inOrder r (s.finishCmd c.id · 0)
      ((∀ er, s.badLoad l.tenant (n / 128 + 2) base n = some er → r = s.lineFault c er.1 er.2) ∧
        (s.badLoad l.tenant (n / 128 + 2) base n = none →
          (∀ m, 1 ≤ m → m ≤ 4095 → (∀ y ∈ l.leases, y.num ≠ m) →
            (∀ j, 1 ≤ j → j < m → ∃ y ∈ l.leases, y.num = j) → s.leaseFits l.tenant base n = true →
            r = (s.modLaunch l.id fun y => { y with leases := y.leases ++
                [{ num := m, base := base, len := n, last := if c.num 36 4 = 0 then none else some (l.round + c.num 36 4) }]
                }).modCmd c.id fun _ => gives
                  (Cap.num { base := base, len := n, space := 5, perm := c.cap0.perm &&& 0x73, objid := m, zero := 0 }) true (n / 128)) ∧
          (s.leaseFits l.tenant base n = false ∨ (∀ j, 1 ≤ j → j ≤ 4095 → ∃ y ∈ l.leases, y.num = j) →
            r = s.modCmd c.id fun _ => gives 0 false 0)))
      [(c.num 32 4 ≠ 0 ∨ c.num 56 8 ≠ 0 ∨ n % 128 ≠ 0 ∨ n = 0 ∨ base % 128 ≠ 0, FaultCode.illegalField.num),
       (capValid l t0 c.cap0 = false, FaultCode.capTag.num),
       (¬ l.usable c.cap0 false [0] ∨ c.capC.canW = false ∨ c.capC.hasCaps = false, FaultCode.capPerm.num),
       (c.cap0.len < c.num 40 8 + n, FaultCode.capBounds.num)] := by
  refine inOrder_checks rfl ?_ fun run => ⟨fun er bad => by rw [run, bad], fun good => ?_⟩
  · simp [Decides, ← roleOk_iff, ← zeros_iff, or_assoc]
  · rw [good] at run
    refine ⟨fun m low high free below fits => ?_, fun refused => ?_⟩
    · rw [freeLease_some low high free below] at run
      exact run.trans (if_pos fits)
    · rcases refused with full | all
      · cases free : l.freeLease <;> simp [run, free, full]
      · rw [run, freeLease_none all]

/-- `unlease` (R275). -/
theorem dispatchUnlease_inOrder (t0 : Bool) :
    let r := s.dispatchUnlease l c t0
    inOrder r (s.finishCmd c.id · 0)
      (∃ y ∈ l.leases, y.num = c.cap0.objid ∧
        r = (s.modLaunch l.id fun z => { z with leases := z.leases.filter fun u => u.num != c.cap0.objid }).finishCmd c.id 0
          (y.len / 128))
      [(c.num 16 48 ≠ 0, FaultCode.illegalField.num),
       (capValid l t0 c.cap0 = false, FaultCode.capTag.num),
       (c.cap0.hasEng = false ∨ c.cap0.space ≠ 5 ∨ (c.cap0.isSup = true ∧ l.sup = false), FaultCode.capPerm.num),
       (∀ y ∈ l.leases, y.num ≠ c.cap0.objid, FaultCode.capTag.num)] := by
  refine inOrder_append (ps := [_, _, _]) (qs := [_]) (inOrder_checks rfl ?_ fun run => ⟨fun unknown => ?_, fun known => ?_⟩)
  · simp [Decides, ← zeros_iff, or_assoc]
  · rw [run, List.find?_eq_none.2 fun y hy => by simpa using unknown y hy]
  · obtain ⟨y, found⟩ := Option.ne_none_iff_exists'.1 fun h : l.leases.find? (·.num == c.cap0.objid) = .none =>
      known fun y hy => by simpa using List.find?_eq_none.1 h y hy
    exact ⟨y, List.mem_of_find?_eq_some found, find_key found, by rw [run, found]; rfl⟩

/-- `rcp` (R271, R273, R390). -/
theorem dispatchRcp_inOrder (t0 t1 : Bool) :
    let rule := c.num 32 1
    let es := sizeBytes (c.num 33 1)
    let r := s.dispatchRcp l b c t0 t1
    inOrder r (s.finishCmd c.id · 0) (r = s.startCmd l b { c with protect := [c.cap0.range (c.num 40 8) (c.num 48 8)] })
      [((rule ≠ 0 ∧ rule ≠ 3) ∨ (rule = 3 ∧ c.num 33 1 ≠ 3 ∧ c.num 33 1 ≠ 4) ∨ (rule ≠ 3 ∧ c.num 33 1 ≠ 0) ∨
          1 < c.num 34 1 ∨ c.num 35 5 ≠ 0 ∨ 2 ^ 40 ≤ c.num 48 8 ∨
          (rule = 3 ∧ (c.num 48 8 % es ≠ 0 ∨ (c.cap0.base + c.num 40 8) % es ≠ 0 ∨ c.num 56 8 % es ≠ 0)),
          FaultCode.illegalField.num),
       (capValid l t0 c.cap0 = false ∨ capValid l t1 c.cap1 = false, FaultCode.capTag.num),
       (¬ l.usable c.cap0 false [0, 1, 5] ∨ ¬ l.usable c.cap1 true [7], FaultCode.capPerm.num),
       (c.cap0.len < c.num 40 8 + c.num 48 8 ∨ c.cap1.len < c.num 56 8 + c.num 48 8, FaultCode.capBounds.num),
       (s.importOf c = none ∨ ∃ i, s.importOf c = some i ∧ s.routeUp i.module = false, FaultCode.fabric.num)] := by
  refine inOrder_append (ps := [_, _, _, _]) (qs := [_]) (inOrder_checks rfl ?_ fun run => ?_)
  · simp [Decides, ← roleOk_iff, ← zeros_iff, or_assoc, ite_prop_iff_or]
  · cases known : s.importOf c with
    | none => exact ⟨fun _ => by rw [run, known], fun other => (other (.inl rfl)).elim⟩
    | some i =>
      rw [known] at run
      cases up : s.routeUp i.module with
      | false => exact ⟨fun _ => run.trans (if_pos (by rw [up]; rfl)), fun other => (other (.inr ⟨i, rfl, up⟩)).elim⟩
      | true => exact ⟨fun down => by simp [up] at down, fun _ => run.trans (if_neg (by simp [up]))⟩

/-! ## The matrix words -/

/-- What a matrix word reads of scratch (R237). -/
def State.matrixRead (u : State) (l : Launch) (b : Block) (c : Cmd) : Except (FaultCode × Nat) (List Byte) :=
  match c.instr with
  | .mmb .. => u.tileRead l b c (c.num 33 1) 0 (c.num 36 2 * c.num 38 2) false
  | .mma .. => u.tileRead l b c (c.num 35 1) (c.num 48 4 * c.num 38 2) (c.num 36 2 * c.num 38 2) true
  | _ => .ok []

/-- A matrix word that has read its bytes is staged with them, and takes its place in its port's queue if it may (R253, R255); where it
cannot read them its block ends (R257). -/
def State.stageRead (u : State) (c : Cmd) : Except (FaultCode × Nat) (List Byte) → State
  | .error e => u.lineFault c e.1 e.2
  | .ok bs =>
    let y : Cmd := { c with phase := .staged, port := some (u.portOf c), buf := bs, protect := c.matrixRanges }
    let v := u.modCmd c.id fun _ => y
    if v.mayEnqueue y = true then v.enqueue y else v

section
variable {u : State} (hu : s.ensurePorts (s.clusterOf c / 48) = u)
include hu

theorem dispatchMatrix_ends {n : Nat} (h : u.matrixStatus l c = some n) : s.dispatchMatrix l b c = u.finishCmd c.id n 0 := by
  simp only [State.dispatchMatrix, hu, h]

theorem dispatchMatrix_passes {read : Except (FaultCode × Nat) (List Byte)} (reads : u.matrixRead l b c = read)
    (pass : u.matrixStatus l c = none) : s.dispatchMatrix l b c = u.stageRead c read := by
  subst reads
  simp only [State.dispatchMatrix, hu, pass]
  rfl

/-- The same for a word that reads scratch, by what it reads. -/
theorem dispatchMatrix_reads {read : Except (FaultCode × Nat) (List Byte)} (reads : u.matrixRead l b c = read)
    (pass : u.matrixStatus l c = none) :
    (∀ er, read = .error er → s.dispatchMatrix l b c = u.lineFault c er.1 er.2) ∧
      ∀ bs, read = .ok bs → s.dispatchMatrix l b c = u.stageRead c (.ok bs) := by
  rw [dispatchMatrix_passes hu reads pass]
  exact ⟨fun er failed => by rw [failed]; rfl, fun bs done => by rw [done]⟩

end

section
variable {u : State} (hu : s.ensurePorts (s.clusterOf c / 48) = u) {d x : BitVec 6} {a : BitVec 4}
include hu

/-- `mmz` (R276). -/
theorem dispatchMmz_inOrder (hi : c.instr = .mmz d a x) :
    let r := s.dispatchMatrix l b c
    inOrder r (u.finishCmd c.id · 0) (r = u.stageRead c (.ok []))
      [(1 < c.num 32 1 ∨ 7 < c.num 33 1 ∨ c.num 34 30 ≠ 0 ∨ c.num 0 32 ≠ 0 ∨
          (c.num 32 1 = 1 ∧ u.wholeFor l.rcb (u.clusterOf c) = true), FaultCode.illegalField.num),
       (u.eff l.rcb 3 Region.mehalves = 0, FaultCode.privilege.num)] := by
  refine inOrder_firstStatus (o := u.matrixStatus l c) (by simp only [State.matrixStatus, hi]; rfl) ?_ (fun n => dispatchMatrix_ends hu)
    (dispatchMatrix_passes hu (by simp only [State.matrixRead, hi]))
  simp [Decides, ← zeros_iff, or_assoc]

/-- `mmb` (R264, R266). -/
theorem dispatchMmb_inOrder (hi : c.instr = .mmb d a x) :
    let code := c.num 32 1
    let m := c.num 36 2
    let kb := c.num 38 2
    let ps := c.planes (m * kb) (c.num 33 1) false
    let read := u.tileRead l b c (c.num 33 1) 0 (m * kb) false
    let r := s.dispatchMatrix l b c
    inOrder r (u.finishCmd c.id · 0)
      ((∀ er, read = .error er → r = u.lineFault c er.1 er.2) ∧ ∀ bs, read = .ok bs → r = u.stageRead c (.ok bs))
      [(2 < code ∨ 3 < c.num 33 1 ∨ c.num 34 2 ≠ 0 ∨ 1024 < m ∨ residentKb (c.num 33 1) * (if code = 2 then 2 else 1) < kb ∨
          c.num 40 12 ≠ 0 ∨ c.num 60 4 ≠ 0 ∨ c.num 0 32 ≠ 0 ∨ planesBad ps = true, FaultCode.illegalField.num),
       (c.capC.space ≠ 1, FaultCode.capPerm.num), (m * kb = 0, 0),
       (u.eff l.rcb 3 Region.mehalves = 0, FaultCode.privilege.num),
       (planesOut c.capC.len ps = true, FaultCode.capBounds.num)] := by
  refine inOrder_firstStatus (o := u.matrixStatus l c) (by simp only [State.matrixStatus, hi]; rfl) ?_ (fun n => dispatchMatrix_ends hu)
    (dispatchMatrix_reads hu (by simp only [State.matrixRead, hi]))
  simp [Decides, ← zeros_iff, or_assoc]

/-- `mma` (R264, R267). -/
theorem dispatchMma_inOrder (hi : c.instr = .mma d a x) :
    let code := c.num 32 1
    let m := c.num 36 2
    let kb := c.num 38 2
    let ps := c.planes ((c.num 48 4 + m) * kb) (c.num 35 1) true
    let read := u.tileRead l b c (c.num 35 1) (c.num 48 4 * kb) (m * kb) true
    let r := s.dispatchMatrix l b c
    inOrder r (u.finishCmd c.id · 0)
      ((∀ er, read = .error er → r = u.lineFault c er.1 er.2) ∧ ∀ bs, read = .ok bs → r = u.stageRead c (.ok bs))
      [(1 < code ∨ 7 < c.num 33 1 ∨ 1 < c.num 34 1 ∨ 3 < c.num 35 1 ∨ 16 < m ∨ 64 < kb ∨ c.num 0 32 ≠ 0 ∨
          planesBad ps = true ∨ (code = 1 ∧ u.wholeFor l.rcb (u.clusterOf c) = true), FaultCode.illegalField.num),
       (c.capC.space ≠ 1, FaultCode.capPerm.num), (m = 0, 0),
       (u.eff l.rcb 3 Region.mehalves = 0, FaultCode.privilege.num),
       (∀ y, u.tileFor l.rcb (u.portOf c) = some y → y.fmt ≠ c.num 35 1 ∨ y.kb < kb, FaultCode.format.num),
       (planesOut c.capC.len ps = true, FaultCode.capBounds.num)] := by
  refine inOrder_firstStatus (o := u.matrixStatus l c) (by simp only [State.matrixStatus, hi]; rfl) ?_ (fun n => dispatchMatrix_ends hu)
    (dispatchMatrix_reads hu (by simp only [State.matrixRead, hi]))
  cases u.tileFor l.rcb (u.portOf c) <;> simp [Decides, ← zeros_iff, or_assoc]

/-- `mmd` (R268). -/
theorem dispatchMmd_inOrder (hi : c.instr = .mmd d a x) :
    let code := c.num 32 1
    let m := c.num 36 2
    let kb := c.num 38 2
    let size := if c.num 34 1 = 6 then 4 else 2
    let r := s.dispatchMatrix l b c
    inOrder r (u.finishCmd c.id · 0) (r = u.stageRead c (.ok []))
      [(1 < code ∨ 7 < c.num 33 1 ∨ c.num 34 1 ∉ [4, 5, 6] ∨ 4 < c.num 35 1 ∨ 16 < m ∨ 1024 < kb ∨ c.num 40 8 ≠ 0 ∨
          c.num 48 4 < kb * size ∨ c.num 52 4 % size ≠ 0 ∨ c.num 56 8 ≠ 0 ∨ c.num 0 32 ≠ 0 ∨
          (code = 1 ∧ u.wholeFor l.rcb (u.clusterOf c) = true), FaultCode.illegalField.num),
       (c.capC.space ≠ 1, FaultCode.capPerm.num), (m * kb = 0, 0),
       (u.eff l.rcb 3 Region.mehalves = 0, FaultCode.privilege.num),
       (c.capC.len < c.num 52 4 + (m - 1) * c.num 48 4 + kb * size, FaultCode.capBounds.num)] := by
  refine inOrder_firstStatus (o := u.matrixStatus l c) (by simp only [State.matrixStatus, hi]; rfl) ?_ (fun n => dispatchMatrix_ends hu)
    (dispatchMatrix_passes hu (by simp only [State.matrixRead, hi]))
  simp [Decides, ← zeros_iff, or_assoc, and_assoc]

end

/-! ## Which word it is -/

theorem dispatchRead_gather {d a x} (hi : c.instr = .gath d a x ∨ c.instr = .scat d a x) :
    let tag (i : Nat) : Bool := c.capScratch && b.scratchTags.contains (c.capBase + 16 * i)
    s.dispatchRead l b c = s.dispatchGather l b c (tag 0) (tag 1) (c.instr == .scat d a x) := by
  rcases hi with hi | hi
  · simp only [State.dispatchRead, hi]
    rfl
  · simp only [State.dispatchRead, hi, beq_self_eq_true]

theorem dispatchRead_sparse {d a x} (hi : c.instr = .cpd d a x ∨ c.instr = .cps d a x) :
    let tag (i : Nat) : Bool := c.capScratch && b.scratchTags.contains (c.capBase + 16 * i)
    s.dispatchRead l b c = s.dispatchSparse l b c (tag 0) (tag 1) (c.instr == .cps d a x) := by
  rcases hi with hi | hi
  · simp only [State.dispatchRead, hi]
    rfl
  · simp only [State.dispatchRead, hi, beq_self_eq_true]

theorem dispatchRead_matrix {d a x}
    (hi : c.instr = .mmz d a x ∨ c.instr = .mmb d a x ∨ c.instr = .mma d a x ∨ c.instr = .mmd d a x) :
    s.dispatchRead l b c = s.dispatchMatrix l b c := by
  rcases hi with hi | hi | hi | hi <;> simp only [State.dispatchRead, hi]

theorem dispatchOne_scratch {n i : Nat} {q : CmdReq} (hl : s.launch? n = some l) (hb : l.block? i = some b) (live : l.ended = false)
    (hi : ∀ d w x o z, q.instr ≠ .cp d w x o z) (scratch : (capOf q.cap).space = 1)
    (clean : ∀ p ∈ s.scratchPoison, ¬ (p.1 = l.id ∧ p.2.1 = b.index)) :
    let c := q.cmd n i s.clock (b.status == .terminated)
    let u : State := { s with cmds := s.cmds ++ [c] }
    let size := if c.isLaunch = true then 128 else 64
    s.dispatchOne n i q = (u.modCmd q.id fun _ => { c with params := Memory.bytes b.scratch c.capBase size }).dispatchRead l b
      { c with params := Memory.bytes b.scratch c.capBase size } := by
  intro c u size
  have read := engAll_scratch (s := u) clean c.capBase size
  rw [← scratch] at read
  exact (dispatchOne_reads hl hb live hi).1 _ read

end

/-- Settles O35: each engine word's checks are tried in the order of R261, and `dispatchRead` chooses among the words. -/
theorem engineDispatch : Obligations.EngineDispatch := by
  unfold Obligations.EngineDispatch
  refine ⟨fun qs => ⟨sortReqs_perm qs, sortReqs_pairwise qs⟩, fun s id n k c found => ⟨rfl, cmd_finishCmd found n k⟩,
    fun s l b q ln bl hl hb => ⟨⟨rfl, rfl, rfl, rfl, rfl, rfl, rfl⟩, dispatchOne_ended hl, fun live => ⟨fun d w x o z =>
      dispatchOne_cp hl hb live, fun hi => ⟨fun scratch clean => ?_, ?_⟩⟩⟩, fun s l b c => ⟨startCmd_unread, fun d a x hi => ?_,
    fun d a x hi => ?_, fun d a x hi => ?_, fun d a x hi => ?_, fun d a x hi => ?_, fun d a x hi => ?_, fun d a x hi => ?_,
    fun d a x hi => ?_, fun d a x hi => ?_, fun d a x hi => ?_, fun d a x hi => ?_⟩⟩
  · exact dispatchOne_scratch hl hb live hi scratch clean
  · exact (dispatchOne_reads hl hb live hi).2
  · rw [show s.dispatchRead l b c = s.dispatchDigest l b c _ _ by simp only [State.dispatchRead, hi]; rfl]
    exact dispatchDigest_inOrder _ _
  · rw [show s.dispatchRead l b c = s.dispatchCpt l b c _ by simp only [State.dispatchRead, hi]; rfl]
    exact dispatchCpt_inOrder _
  · rw [dispatchRead_gather hi]
    exact dispatchGather_inOrder beq_iff_eq _ _
  · rw [dispatchRead_sparse hi]
    refine dispatchSparse_inOrder beq_iff_eq _ _ ?_ ?_ <;> simp only [Cmd.sparseCaps, beq_iff_eq] <;> split <;> rfl
  · rw [show s.dispatchRead l b c = s.dispatchLease l c _ by simp only [State.dispatchRead, hi]; rfl]
    exact dispatchLease_inOrder _
  · rw [show s.dispatchRead l b c = s.dispatchUnlease l c _ by simp only [State.dispatchRead, hi]; rfl]
    exact dispatchUnlease_inOrder _
  · rw [show s.dispatchRead l b c = s.dispatchRcp l b c _ _ by simp only [State.dispatchRead, hi]; rfl]
    exact dispatchRcp_inOrder _ _
  · rw [dispatchRead_matrix (.inl hi)]
    exact dispatchMmz_inOrder rfl hi
  · rw [dispatchRead_matrix (.inr (.inl hi))]
    exact dispatchMmb_inOrder rfl hi
  · rw [dispatchRead_matrix (.inr (.inr (.inl hi)))]
    exact dispatchMma_inOrder rfl hi
  · rw [dispatchRead_matrix (.inr (.inr (.inr hi)))]
    exact dispatchMmd_inOrder rfl hi

end Sys2Proof.Machine
end

section
/-!
# The matrix ports

What a port keeps and gives up as commands enter its queue (R253, R255), and the words of a port after a grant (R253, R266 to R268, R276).
-/

namespace Sys2Proof.Machine

/-! ## Ports of a number, and at a place -/

theorem port_key {s : State} {n : Nat} {x : Port} (h : s.port? n = some x) : x.num = n := find_key h

/-- A port after an update of all ports that keeps their numbers. -/
theorem port_map {s t : State} {f : Port → Port} (ht : t.ports = s.ports.map f) (hf : ∀ x, (f x).num = x.num) {n : Nat} {x : Port}
    (h : s.port? n = some x) : t.port? n = some (f x) := by
  rw [State.port?, ht, find_map_keep (β := Nat) Port.num f hf, ← State.port?, h, Option.map_some]

theorem ports_getElem {s t : State} {f : Port → Port} (ht : t.ports = s.ports.map f) {k : Nat} {x : Port} (h : s.ports[k]? = some x) :
    t.ports[k]? = some (f x) := by
  rw [ht, List.getElem?_map, h, Option.map_some]

/-! ## Taking a port (R255) -/

@[simp] theorem take_num (x : Port) (r : Nat) : (x.take r).num = x.num := by unfold Port.take; split <;> rfl
@[simp] theorem take_queue (x : Port) (r : Nat) : (x.take r).queue = x.queue := by unfold Port.take; split <;> rfl

/-- A region that takes a port finds there what it had, held or saved. -/
theorem take_content (x : Port) (r : Nat) : (x.take r).holder = some r ∧ (x.take r).words = (x.viewFor r).words ∧
    (x.take r).btile = (x.viewFor r).btile ∧ (x.take r).whole = (x.viewFor r).whole := by
  unfold Port.take
  split
  next held => simp [Port.viewFor, held]
  next => exact ⟨rfl, rfl, rfl, rfl⟩

@[simp] theorem release_holder (x : Port) : x.release.holder = none := by
  unfold Port.release
  split
  next free => exact free
  next => rfl

@[simp] theorem release_num (x : Port) : x.release.num = x.num := by unfold Port.release; split <;> rfl

/-! ## STAGED_COMMAND_ENQUEUE -/

/-- A port as a command enters its queue or takes it with another. -/
def Port.entered (x : Port) (s : State) (c : Cmd) : Port :=
  let y := if x.num ∈ s.portsFor c then x.take (s.regionOf c) else x
  if x.num = s.portOf c then { y with queue := y.queue ++ [c.id] } else y

theorem enqueue_ports (s : State) (c : Cmd) : (s.enqueue c).ports = s.ports.map fun x => x.entered s c := by
  simp [State.enqueue, Port.entered]

theorem entered_queue (x : Port) (s : State) (c : Cmd) :
    (x.entered s c).queue = if x.num = s.portOf c then x.queue ++ [c.id] else x.queue := by
  unfold Port.entered
  split_ifs <;> simp

theorem entered_content {x : Port} {s : State} {c : Cmd} (h : x.num ∈ s.portsFor c) : (x.entered s c).holder = some (s.regionOf c) ∧
    (x.entered s c).words = (x.viewFor (s.regionOf c)).words ∧ (x.entered s c).btile = (x.viewFor (s.regionOf c)).btile ∧
      (x.entered s c).whole = (x.viewFor (s.regionOf c)).whole := by
  unfold Port.entered
  rw [if_pos h]
  split <;> exact take_content x _

theorem entered_other {x : Port} {s : State} {c : Cmd} (h : x.num ∉ s.portsFor c) : { x.entered s c with queue := x.queue } = x := by
  unfold Port.entered
  rw [if_neg h]
  split <;> rfl

theorem stagedCommandEnqueue_exec {s : State} {cmd : Nat} {c : Cmd} (hc : s.cmd? cmd = some c) :
    exec (.stagedCommandEnqueue cmd) s = .next (if s.mayEnqueue c = true then s.enqueue c else s) := by
  change execStagedCommandEnqueue cmd s = _
  simp only [execStagedCommandEnqueue, hc]
  split <;> rfl

/-! ## MATRIX_PORT_GRANT -/

section
variable {s u : State} {port : Nat} {x : Port} (hx : s.port? port = some x)
  (hu : (if s.mustRelease x = true then s.modPort port Port.release else s) = u)
include hx hu

theorem portGrant_held (held : (u.port? port).bind Port.holder ≠ none) : exec (.matrixPortGrant port) s = .next u := by
  obtain ⟨h, held⟩ := Option.ne_none_iff_exists'.1 held
  change execMatrixPortGrant port s = _
  simp only [execMatrixPortGrant, hx, hu, held]

theorem portGrant_unwanted (nobody : u.nextForPort port = none) : exec (.matrixPortGrant port) s = .next u := by
  change execMatrixPortGrant port s = _
  simp only [execMatrixPortGrant, hx, hu, nobody]
  cases (u.port? port).bind Port.holder <;> rfl

theorem portGrant_given (free : (u.port? port).bind Port.holder = none) {c : Cmd} (first : u.nextForPort port = some c) :
    exec (.matrixPortGrant port) s = .next (if u.mayEnqueue c = true then u.enqueue c else u) := by
  change execMatrixPortGrant port s = _
  simp only [execMatrixPortGrant, hx, hu, free, first]

end

theorem mustRelease_held {s : State} {x : Port} (h : s.mustRelease x = true) : x.holder ≠ none := by
  intro free
  simp [State.mustRelease, free] at h

theorem port_modPort {s : State} {n : Nat} {x : Port} (h : s.port? n = some x) {f : Port → Port} (hf : ∀ x, (f x).num = x.num) :
    (s.modPort n f).port? n = some (f x) := by
  rw [port_map (f := fun y => if y.num = n then f y else y) rfl (fun y => by split <;> simp [hf]) h, if_pos (port_key h)]

theorem port_released {s : State} {port : Nat} {x : Port} (hx : s.port? port = some x) :
    (s.modPort port Port.release).port? port = some x.release :=
  port_modPort hx release_num

/-! ## Words of a port -/

theorem slotWord_cons (w : Nat × Nat) (ws : List (Nat × Nat)) (i : Nat) :
    slotWord (w :: ws) i = if w.1 = i then w.2 else slotWord ws i := by
  by_cases h : w.1 = i
  · simp [slotWord, h]
  · simp [slotWord, h, beq_false_of_ne h]

/-- Words that a condition on their places selects. -/
theorem slotWord_filter (p : Nat → Bool) (ws : List (Nat × Nat)) (i : Nat) :
    slotWord (ws.filter fun w => p w.1) i = if p i = true then slotWord ws i else 0 := by
  induction ws with
  | nil => exact (ite_self 0).symm
  | cons w ws ih =>
    by_cases here : w.1 = i <;> cases kept : p w.1 <;> simp_all [slotWord_cons]

theorem slotWord_append_left {ws vs : List (Nat × Nat)} {i : Nat} (absent : ∀ w ∈ ws, w.1 ≠ i) :
    slotWord (ws ++ vs) i = slotWord vs i := by
  induction ws with
  | nil => rfl
  | cons w ws ih =>
    rw [List.cons_append, slotWord_cons, if_neg (absent w List.mem_cons_self), ih fun v hv => absent v (List.mem_cons_of_mem w hv)]

theorem slotWord_absent {ws : List (Nat × Nat)} {i : Nat} (absent : ∀ w ∈ ws, w.1 ≠ i) : slotWord ws i = 0 := by
  rw [← List.append_nil ws, slotWord_append_left absent]
  rfl

theorem slotWord_append_right {ws vs : List (Nat × Nat)} {i : Nat} (absent : ∀ v ∈ vs, v.1 ≠ i) :
    slotWord (ws ++ vs) i = slotWord ws i := by
  induction ws with
  | nil => exact slotWord_absent absent
  | cons w ws ih => rw [List.cons_append, slotWord_cons, slotWord_cons, ih]

/-- What a port lists of a row's values from a place on: those that are not 0. -/
def listed (lo n : Nat) (vs : List Nat) : List (Nat × Nat) :=
  ((vs.zipIdx n).map fun v => (lo + v.2, v.1)).filter fun w => w.2 != 0

theorem listed_place {lo n : Nat} {vs : List Nat} {w : Nat × Nat} (hw : w ∈ listed lo n vs) :
    lo + n ≤ w.1 ∧ w.1 < lo + n + vs.length := by
  obtain ⟨v, hv, rfl⟩ := List.mem_map.1 (List.mem_of_mem_filter hw)
  have place := List.mem_zipIdx hv
  exact ⟨by omega, by omega⟩

theorem listed_cons (lo n v : Nat) (vs : List Nat) :
    listed lo n (v :: vs) = if v = 0 then listed lo (n + 1) vs else (lo + n, v) :: listed lo (n + 1) vs := by
  by_cases zero : v = 0 <;> simp [listed, zero]

theorem slotWord_listed (lo : Nat) (vs : List Nat) : ∀ n j, slotWord (listed lo n vs) (lo + n + j) = vs.getD j 0 := by
  induction vs with
  | nil => exact fun n j => rfl
  | cons v vs ih =>
    intro n j
    rw [listed_cons]
    cases j with
    | zero =>
      have absent : slotWord (listed lo (n + 1) vs) (lo + n) = 0 :=
        slotWord_absent fun w hw => by have := listed_place hw; omega
      by_cases zero : v = 0 <;> simp [zero, slotWord_cons, absent]
    | succ j =>
      have rest := ih (n + 1) j
      rw [show lo + (n + 1) + j = lo + n + (j + 1) by omega] at rest
      by_cases zero : v = 0 <;> simp [zero, slotWord_cons, rest]

theorem slotWord_putRow (ws : List (Nat × Nat)) (slot row : Nat) (vs : List Nat) (i : Nat) :
    let lo := wordIdx slot row 0
    slotWord (putRow ws slot row vs) i = if lo ≤ i ∧ i < lo + vs.length then vs.getD (i - lo) 0 else slotWord ws i := by
  intro lo
  change slotWord ((ws.filter fun w => !(decide (lo ≤ w.1) && decide (w.1 < lo + vs.length))) ++ listed lo 0 vs) i = _
  split
  next inside =>
    rw [slotWord_append_left fun w hw => ?_]
    · have value := slotWord_listed lo vs 0 (i - lo)
      rwa [show lo + 0 + (i - lo) = i by omega] at value
    · rintro rfl
      simp [inside] at hw
  next outside =>
    rw [slotWord_append_right fun v hv same => outside (by have := listed_place hv; omega),
      slotWord_filter fun k => !(decide (lo ≤ k) && decide (k < lo + vs.length)), if_pos (by simp; omega)]

end Sys2Proof.Machine
end

section
/-!
# Row grants

What a grant of a port's row does for each matrix word (R252, R253, R266 to R268, R276, R399).
-/

namespace Sys2Proof.Machine

/-! ## The physical port holds the content (R399) -/

/-- A port as some ports' contents are brought into the physical ports that serve them. -/
def Port.hosted (s : State) (ps : List Nat) (x : Port) : Port :=
  if ps.contains x.num then { x with loaded := true }
  else if (ps.map s.hostPort).contains x.host then { x with loaded := false } else x

theorem hosted_eq (s : State) (ps : List Nat) (x : Port) : x.hosted s ps = { x with loaded := (x.hosted s ps).loaded } := by
  unfold Port.hosted
  split_ifs <;> rfl

theorem hosted_loaded {s : State} {ps : List Nat} {x : Port} (h : x.num ∈ ps) : (x.hosted s ps).loaded = true := by
  simp [Port.hosted, h]

@[simp] theorem hosted_num (s : State) (ps : List Nat) (x : Port) : (x.hosted s ps).num = x.num := by rw [hosted_eq]
@[simp] theorem hosted_holder (s : State) (ps : List Nat) (x : Port) : (x.hosted s ps).holder = x.holder := by rw [hosted_eq]
@[simp] theorem hosted_btile (s : State) (ps : List Nat) (x : Port) : (x.hosted s ps).btile = x.btile := by rw [hosted_eq]
@[simp] theorem hosted_words (s : State) (ps : List Nat) (x : Port) : (x.hosted s ps).words = x.words := by rw [hosted_eq]
@[simp] theorem hosted_queue (s : State) (ps : List Nat) (x : Port) : (x.hosted s ps).queue = x.queue := by rw [hosted_eq]
@[simp] theorem hosted_perfRows (s : State) (ps : List Nat) (x : Port) : (x.hosted s ps).perfRows = x.perfRows := by rw [hosted_eq]
@[simp] theorem hosted_perfSteps (s : State) (ps : List Nat) (x : Port) : (x.hosted s ps).perfSteps = x.perfSteps := by rw [hosted_eq]
@[simp] theorem hosted_perfCmds (s : State) (ps : List Nat) (x : Port) : (x.hosted s ps).perfCmds = x.perfCmds := by rw [hosted_eq]

theorem getElem_modPort_other {s : State} {n k : Nat} {x : Port} (h : s.ports[k]? = some x) (other : x.num ≠ n) {f : Port → Port} :
    (s.modPort n f).ports[k]? = some x := by
  rw [ports_getElem (f := fun y => if y.num = n then f y else y) rfl h, if_neg other]

theorem loadPorts_ports (s : State) (ps : List Nat) : (s.loadPorts ps).ports = s.ports.map (Port.hosted s ps) := rfl

theorem port_loadPorts {s : State} {n : Nat} {x : Port} (h : s.port? n = some x) (ps : List Nat) :
    (s.loadPorts ps).port? n = some (x.hosted s ps) := port_map rfl (hosted_num s ps) h

theorem port_dequeue {s : State} {n : Nat} {x : Port} (h : s.port? n = some x) (id : Nat) :
    (s.dequeue n id).port? n = some { x with queue := x.queue.filter fun q => q != id } := port_modPort h fun _ => rfl

/-! ## The picked command -/

section
variable {s : State} {port : Nat} {c : Cmd} (pick : s.pickRow port = some c)
include pick

theorem rowGrant_mma {d a x} (hi : c.instr = .mma d a x) :
    exec (.matrixRowGrant port) s = .next ((s.loadPorts (s.portsFor c)).grantRow port c) := by
  change execMatrixRowGrant port s = _
  simp only [execMatrixRowGrant, pick, hi]

theorem rowGrant_mmb {d a x} (hi : c.instr = .mmb d a x) :
    exec (.matrixRowGrant port) s = .next ((s.loadPorts (s.portsFor c)).grantLoad port c) := by
  change execMatrixRowGrant port s = _
  simp only [execMatrixRowGrant, pick, hi]

theorem rowGrant_mmd {d a x} (hi : c.instr = .mmd d a x) :
    exec (.matrixRowGrant port) s = .next ((s.loadPorts (s.portsFor c)).grantDrain port c) := by
  change execMatrixRowGrant port s = _
  simp only [execMatrixRowGrant, pick, hi]

theorem rowGrant_mmz {d a x} (hi : c.instr = .mmz d a x) :
    exec (.matrixRowGrant port) s = .next ((s.loadPorts (s.portsFor c)).grantZero port c) := by
  change execMatrixRowGrant port s = _
  simp only [execMatrixRowGrant, pick, hi]

end

/-! ## Places of words -/

theorem wordIdx_inside {slot row col slot' row' n : Nat} (hr : row < 16) (hc : col < 1024) (hr' : row' < 16) (hn : n ≤ 1024) :
    (wordIdx slot' row' 0 ≤ wordIdx slot row col ∧ wordIdx slot row col < wordIdx slot' row' 0 + n) ↔
      slot = slot' ∧ row = row' ∧ col < n := by
  unfold wordIdx
  omega

theorem wordIdx_rows {slot row col slot' n : Nat} (hr : row < 16) (hc : col < 1024) (hn : n ≤ 16) :
    (wordIdx slot' 0 0 ≤ wordIdx slot row col ∧ wordIdx slot row col < wordIdx slot' n 0) ↔ slot = slot' ∧ row < n := by
  unfold wordIdx
  omega

/-! ## `mma` -/

section
variable (c : Cmd)

/-- The exponents of the A tile that an `mma` has read, then the bits of its bitmap (R237). -/
def Cmd.aExps : List Byte := c.buf.drop (32 * tileElem (c.num 35 1) * (c.num 36 2 * c.num 38 2))
def Cmd.aBits : List Byte := c.aExps.drop (if c.num 35 1 = 3 then 0 else 2 * (c.num 36 2 * c.num 38 2))

/-- The k-blocks of a row that neither bitmap skips (R252). -/
def Cmd.rowSteps (m : Nat) : List Nat :=
  (List.range (c.num 38 2)).filter fun b => c.aBits.getD (m * c.num 38 2 + b) 0 != 0 && c.num 40 8 / 2 ^ b % 2 == 1

/-- A word with the product of one k-block. -/
def Cmd.rowAdd (t : BTile) (m acc col b : Nat) : Nat :=
  if c.num 35 1 = 3 then dotInt acc (psbAt (c.num 35 1) c.buf c.aExps (m * c.num 38 2 + b)) (t.block col b)
  else dotPsb (c.num 35 1) acc (psbAt (c.num 35 1) c.buf c.aExps (m * c.num 38 2 + b)) (t.block col b)

/-- The words before a row: a command that overwrites begins its first row with its slot's rows at 0. -/
def Cmd.rowStart (ws : List (Nat × Nat)) (m : Nat) : List (Nat × Nat) :=
  if m = 0 ∧ c.num 34 1 = 1 then
    ws.filter fun w => !(decide (wordIdx (c.num 33 1) 0 0 ≤ w.1) && decide (w.1 < wordIdx (c.num 33 1) (c.num 36 2) 0))
  else ws

end

section
variable {c : Cmd} {t : BTile} {ws : List (Nat × Nat)} {m : Nat}

theorem rowSteps_eq : c.rowSteps m = (List.range (c.num 38 2)).filter fun b =>
    c.buf.getD (32 * tileElem (c.num 35 1) * (c.num 36 2 * c.num 38 2) +
      (if c.num 35 1 = 3 then 0 else 2 * (c.num 36 2 * c.num 38 2)) + m * c.num 38 2 + b) 0 != 0 && c.num 40 8 / 2 ^ b % 2 == 1 := by
  simp only [Cmd.rowSteps, Cmd.aBits, Cmd.aExps, List.getD_eq_getElem?_getD, List.getElem?_drop, Nat.add_assoc]

/-- A row with no step leaves its words; another one replaces them. -/
theorem rowResult_eq : c.rowResult t ws m =
    if (c.rowSteps m).isEmpty = true then (c.rowStart ws m, 0)
    else (putRow (c.rowStart ws m) (c.num 33 1) m ((List.range t.n).map fun n =>
      (c.rowSteps m).foldl (fun acc b => c.rowAdd t m acc n b) (slotWord (c.rowStart ws m) (wordIdx (c.num 33 1) m n))),
      (c.rowSteps m).length) := by
  rw [rowSteps_eq]
  rfl

theorem rowResult_steps : (c.rowResult t ws m).2 = (c.rowSteps m).length := by
  rw [rowResult_eq]
  split
  next skipped => rw [List.isEmpty_iff.1 skipped]; rfl
  next => rfl

theorem slotWord_rowStart {slot row col : Nat} (hr : row < 16) (hc : col < 1024) (rows : c.num 36 2 ≤ 16) :
    slotWord (c.rowStart ws m) (wordIdx slot row col) =
      if slot = c.num 33 1 ∧ row < c.num 36 2 ∧ m = 0 ∧ c.num 34 1 = 1 then 0 else slotWord ws (wordIdx slot row col) := by
  unfold Cmd.rowStart
  split
  next first =>
    rw [slotWord_filter fun k => !(decide (wordIdx (c.num 33 1) 0 0 ≤ k) && decide (k < wordIdx (c.num 33 1) (c.num 36 2) 0))]
    simp only [Bool.not_eq_true', Bool.and_eq_false_imp, decide_eq_true_eq, decide_eq_false_iff_not, ← not_and,
      wordIdx_rows hr hc rows, first, and_true]
    exact ite_not ..
  next later => rw [if_neg fun h => later h.2.2]

/-- A word after a row is granted: one of the row gains the row's steps, in k-block order (R252, R267). -/
theorem slotWord_rowResult {slot row col start : Nat} (hr : row < 16) (hc : col < 1024) (hm : m < 16) (ht : t.n ≤ 1024)
    (before : slotWord (c.rowStart ws m) (wordIdx slot row col) = start) :
    slotWord (c.rowResult t ws m).1 (wordIdx slot row col) =
      if slot = c.num 33 1 ∧ row = m ∧ col < t.n then (c.rowSteps m).foldl (fun acc b => c.rowAdd t m acc col b) start
      else start := by
  subst before
  rw [rowResult_eq]
  split
  next skipped => rw [List.isEmpty_iff.1 skipped, List.foldl_nil, ite_self]
  next =>
    rw [slotWord_putRow, List.length_map, List.length_range]
    simp only [wordIdx_inside hr hc hm ht]
    split
    next inside =>
      obtain ⟨rfl, rfl, hcol⟩ := inside
      rw [show wordIdx (c.num 33 1) row col - wordIdx (c.num 33 1) row 0 = col by unfold wordIdx; omega]
      simp [List.getD_eq_getElem?_getD, hcol]
    next => rfl

end

/-- A port that has been granted a row, from the row's words and steps. -/
def Cmd.rowGranted (c : Cmd) (r : List (Nat × Nat) × Nat) (y : Port) : Port :=
  let last := c.progress + 1 == c.num 36 2
  { y with words := r.1, perfRows := y.perfRows + 1, perfSteps := y.perfSteps + r.2,
           perfCmds := y.perfCmds + (if last then 1 else 0) }

section
variable {s : State} {port : Nat} {c : Cmd} {x : Port} (hx : s.port? port = some x)
include hx

theorem grantRow_misfit (h : ∀ tl, x.btile = some tl → tl.fmt ≠ c.num 35 1 ∨ tl.kb < c.num 38 2) :
    s.grantRow port c = (s.dequeue port c.id).finishCmd c.id FaultCode.format.num c.count := by
  simp only [State.grantRow, hx]
  cases tile : x.btile with
  | none => rfl
  | some tl => exact if_pos (h tl tile)

variable {tl : BTile} (tile : x.btile = some tl) (fits : tl.fmt = c.num 35 1 ∧ c.num 38 2 ≤ tl.kb)
include tile fits

theorem grantRow_last (last : c.progress + 1 = c.num 36 2) :
    let r := c.rowResult tl x.words c.progress
    s.grantRow port c = ((s.modPort port (c.rowGranted r)).dequeue port c.id).finishCmd c.id 0 (c.count + r.2) := by
  intro r
  simp only [State.grantRow, hx, tile]
  rw [if_neg (by omega), if_pos last]
  rfl

theorem grantRow_next (more : c.progress + 1 ≠ c.num 36 2) :
    let r := c.rowResult tl x.words c.progress
    s.grantRow port c = (s.modPort port (c.rowGranted r)).modCmd c.id fun y =>
      { y with progress := c.progress + 1, count := c.count + r.2 } := by
  intro r
  simp only [State.grantRow, hx, tile]
  rw [if_neg (by omega), if_neg more]
  rfl

end

/-! ## `mmb` -/

section
variable (x : Port) (r : Nat) (f : PortCtx → PortCtx)

@[simp] theorem modFor_num : (x.modFor r f).num = x.num := by unfold Port.modFor; split <;> rfl
@[simp] theorem modFor_queue : (x.modFor r f).queue = x.queue := by unfold Port.modFor; split <;> rfl
@[simp] theorem modFor_holder : (x.modFor r f).holder = x.holder := by unfold Port.modFor; split <;> rfl
@[simp] theorem modFor_loaded : (x.modFor r f).loaded = x.loaded := by unfold Port.modFor; split <;> rfl

theorem viewFor_held (held : x.holder = some r) :
    x.viewFor r = { region := r, whole := x.whole, btile := x.btile, words := x.words } := if_pos held

theorem modFor_words (h : ∀ v, (f v).words = v.words) : (x.modFor r f).words = x.words := by
  unfold Port.modFor
  split
  next held => exact (h _).trans (congrArg PortCtx.words (viewFor_held x r held))
  next => rfl

theorem modFor_held (held : x.holder = some r) :
    (x.modFor r f).btile = (f (x.viewFor r)).btile ∧ (x.modFor r f).whole = (f (x.viewFor r)).whole := by
  rw [Port.modFor, if_pos held]
  exact ⟨rfl, rfl⟩

end

/-- A port of the engine as an `mmb` is granted (R266): its own port has the new B; where the load is whole, or was, the other port has
none. -/
def Port.tileLoaded (s : State) (p : Nat) (c : Cmd) (tile : BTile) (x : Port) : Port :=
  let r := s.regionOf c
  let both := c.num 32 1 == 2
  let y := x.modFor r fun v => { v with whole := both && x.num % 2 == 0 }
  if x.num / 2 ≠ s.clusterOf c then x
  else if x.num = p then { y.modFor r fun v => { v with btile := some tile } with perfCmds := x.perfCmds + 1 }
  else if (both || s.wholeFor r (s.clusterOf c)) = true then y.modFor r fun v => { v with btile := none }
  else y

/-- The B that an `mmb` has read. -/
def Cmd.tile (c : Cmd) : BTile :=
  let ne := 32 * tileElem (c.num 33 1) * (c.num 36 2 * c.num 38 2)
  { n := c.num 36 2, kb := c.num 38 2, fmt := c.num 33 1, elems := c.buf.take ne, exps := c.buf.drop ne }

section
variable {s : State} {p : Nat} {c : Cmd} {tile : BTile} {x : Port}

theorem tileLoaded_keeps (x : Port) : (x.tileLoaded s p c tile).num = x.num ∧ (x.tileLoaded s p c tile).queue = x.queue ∧
    (x.tileLoaded s p c tile).holder = x.holder ∧ (x.tileLoaded s p c tile).words = x.words ∧
      (x.tileLoaded s p c tile).loaded = x.loaded := by
  unfold Port.tileLoaded
  dsimp only
  split_ifs <;> simp [modFor_words]

theorem tileLoaded_own (own : x.num = p) (engine : p / 2 = s.clusterOf c) (held : x.holder = some (s.regionOf c)) :
    (x.tileLoaded s p c tile).btile = some tile ∧ (x.tileLoaded s p c tile).whole = (c.num 32 1 == 2 && p % 2 == 0) := by
  unfold Port.tileLoaded
  rw [if_neg (not_not_intro (own ▸ engine)), if_pos own, ← own]
  refine ⟨(modFor_held _ _ _ (by simpa using held)).1, (modFor_held _ _ _ (by simpa using held)).2.trans ?_⟩
  dsimp only
  rw [viewFor_held _ _ (by simpa using held)]
  exact (modFor_held _ _ _ held).2

theorem tileLoaded_other (other : x.num / 2 ≠ s.clusterOf c) : x.tileLoaded s p c tile = x := if_pos other

theorem tileLoaded_whole (engine : x.num / 2 = s.clusterOf c) (other : x.num ≠ p) (whole : c.num 32 1 = 2)
    (held : x.holder = some (s.regionOf c)) : (x.tileLoaded s p c tile).btile = none := by
  unfold Port.tileLoaded
  rw [if_neg (not_not_intro engine), if_neg other, if_pos (by simp [whole])]
  exact (modFor_held _ _ _ (by simpa using held)).1

end

theorem grantLoad_own {s : State} {p : Nat} {c : Cmd} {x : Port} (hx : s.port? p = some x) : (s.grantLoad p c).port? p =
    some { x.tileLoaded s p c c.tile with queue := x.queue.filter fun q => q != c.id } := by
  obtain ⟨-, queue, -⟩ := tileLoaded_keeps (s := s) (p := p) (c := c) (tile := c.tile) x
  rw [← queue]
  exact port_dequeue (s := { s with ports := s.ports.map (Port.tileLoaded s p c c.tile) })
    (port_map rfl (fun y => (tileLoaded_keeps y).1) hx) c.id

theorem grantLoad_other {s : State} {p : Nat} {c : Cmd} {k : Nat} {x : Port} (hk : s.ports[k]? = some x) (other : x.num ≠ p) :
    (s.grantLoad p c).ports[k]? = some (x.tileLoaded s p c c.tile) := by
  have loaded : ({ s with ports := s.ports.map (Port.tileLoaded s p c c.tile) } : State).ports[k]? = _ := ports_getElem rfl hk
  exact getElem_modPort_other loaded ((tileLoaded_keeps x).1.trans_ne other)

/-! ## `mmz` -/

/-- A port whose slot an `mmz` has cleared. -/
def Port.zeroed (slot : Nat) (x : Port) : Port :=
  let lo := wordIdx slot 0 0
  { x with words := x.words.filter fun w => !(decide (lo ≤ w.1) && decide (w.1 < lo + 16384)), perfCmds := x.perfCmds + 1 }

theorem grantZero_eq (s : State) (p : Nat) (c : Cmd) :
    s.grantZero p c = ((s.modPort p (Port.zeroed (c.num 33 1))).dequeue p c.id).finishCmd c.id 0 16 := rfl

theorem slotWord_zeroed (x : Port) {slot slot' row col : Nat} (hr : row < 16) (hc : col < 1024) :
    slotWord (x.zeroed slot').words (wordIdx slot row col) = if slot = slot' then 0 else slotWord x.words (wordIdx slot row col) := by
  unfold Port.zeroed
  dsimp only
  rw [slotWord_filter fun k => !(decide (wordIdx slot' 0 0 ≤ k) && decide (k < wordIdx slot' 0 0 + 16384))]
  rw [show wordIdx slot' 0 0 + 16384 = wordIdx slot' 16 0 by unfold wordIdx; omega]
  simp only [Bool.not_eq_true', Bool.and_eq_false_imp, decide_eq_true_eq, decide_eq_false_iff_not, ← not_and,
    wordIdx_rows hr hc (Nat.le_refl 16), hr, and_true]
  exact ite_not ..

/-! ## `mmd` -/

section
variable {s : State} {p : Nat} {c : Cmd} {x : Port} (hx : s.port? p = some x)
include hx

theorem grantDrain_eq :
    let row (m : Nat) : List Byte := ((List.range (c.num 38 2)).map fun k =>
      drainWord (c.num 34 1) (rmode (c.num 35 1)) (slotWord x.words (wordIdx (c.num 33 1) m k))).flatten
    let line (m : Nat) : List OutLine := outRun 1 (c.capC.base + c.num 52 4 + m * c.num 48 4) (row m)
      (fun o => if o = (row m).length then m + 1 else m) fun _ => 0
    let outs := ((List.range (c.num 36 2)).map line).flatten
    s.grantDrain p c = ((s.dequeue p c.id).modPort p fun y => { y with perfCmds := y.perfCmds + 1 }).modCmd c.id fun y =>
      { y with outs := outs, phase := .running, count := c.num 36 2 } := by
  simp only [State.grantDrain, hx]

end

/-! ## The events -/

/-- A row of a port is granted, which changes ports and commands alone. -/
def State.rowGrants (s : State) (port : Nat) (t : State) : Prop :=
  exec (.matrixRowGrant port) s = .next t ∧ { t with ports := s.ports, cmds := s.cmds } = s

section
variable {s : State} {port : Nat} {c : Cmd} {x : Port} (pick : s.pickRow port = some c) (hc : s.cmd? c.id = some c)
  (hx : s.port? port = some x) {d y : BitVec 6} {a : BitVec 4}
include pick hc hx

/-- An `mma` without a B tile that fits it. -/
theorem rowGrant_misfit (hi : c.instr = .mma d a y)
    (misfit : ∀ tl, x.btile = some tl → tl.fmt ≠ c.num 35 1 ∨ tl.kb < c.num 38 2) : ∃ t, s.rowGrants port t ∧
    t.cmd? c.id = some { c with phase := .finished, status := FaultCode.format.num, count := c.count, outs := [] } := by
  have run := grantRow_misfit (c := c) (port_loadPorts hx (s.portsFor c)) (by simpa using misfit)
  exact ⟨_, ⟨(rowGrant_mma pick hi).trans (congrArg _ run), by cases s; rfl⟩, cmd_finishCmd hc ..⟩

/-- A row of an `mma` on a B tile that fits: its last row ends the command, another one counts. -/
theorem rowGrant_row (hi : c.instr = .mma d a y) {tl : BTile} (tile : x.btile = some tl)
    (fits : tl.fmt = c.num 35 1 ∧ c.num 38 2 ≤ tl.kb) :
    let r := c.rowResult tl x.words c.progress
    ∃ (t : State) (queue : List Nat), s.rowGrants port t ∧
      t.port? port = some { c.rowGranted r (x.hosted s (s.portsFor c)) with queue := queue } ∧
      (c.progress + 1 = c.num 36 2 → queue = (x.queue.filter fun q => q != c.id) ∧
        t.cmd? c.id = some { c with phase := .finished, status := 0, count := c.count + r.2, outs := [] }) ∧
      (c.progress + 1 ≠ c.num 36 2 → queue = x.queue ∧
        t.cmd? c.id = some { c with progress := c.progress + 1, count := c.count + r.2 }) := by
  intro r
  have hu := port_loadPorts hx (s.portsFor c)
  have granted := port_modPort hu (f := c.rowGranted r) fun _ => rfl
  have tile' : (x.hosted s (s.portsFor c)).btile = some tl := by rwa [hosted_btile]
  by_cases last : c.progress + 1 = c.num 36 2
  · have run := grantRow_last hu tile' fits last
    rw [hosted_words] at run
    refine ⟨_, _, ⟨(rowGrant_mma pick hi).trans (congrArg _ run), by cases s; rfl⟩, port_dequeue granted c.id,
      fun _ => ⟨?_, cmd_finishCmd hc ..⟩, fun more => (more last).elim⟩
    exact congrArg (List.filter fun q => q != c.id) (hosted_queue ..)
  · have run := grantRow_next hu tile' fits last
    rw [hosted_words] at run
    refine ⟨_, x.queue, ⟨(rowGrant_mma pick hi).trans (congrArg _ run), by cases s; rfl⟩, ?_,
      fun final => (last final).elim, fun _ => ⟨rfl, cmd_modCmd hc rfl⟩⟩
    rw [← hosted_queue s (s.portsFor c) x]
    exact granted

/-- The port of an `mmb`. -/
theorem rowGrant_tile (hi : c.instr = .mmb d a y) (held : x.holder = some (s.regionOf c)) (engine : port / 2 = s.clusterOf c) :
    ∃ t z, (s.rowGrants port t ∧ t = (s.loadPorts (s.portsFor c)).grantLoad port c) ∧
      t.cmd? c.id = some { c with phase := .finished, status := 0, count := c.num 36 2 * c.num 38 2, outs := [] } ∧
      t.port? port = some z ∧ z.btile = some c.tile ∧ z.whole = (c.num 32 1 == 2 && port % 2 == 0) ∧ z.words = x.words ∧
      z.queue = (x.queue.filter fun q => q != c.id) ∧ z.holder = x.holder ∧ (port ∈ s.portsFor c → z.loaded = true) := by
  have num := (hosted_num s (s.portsFor c) x).trans (port_key hx)
  obtain ⟨btile, whole⟩ := tileLoaded_own (s := s.loadPorts (s.portsFor c)) (tile := c.tile) num engine
    ((hosted_holder ..).trans held)
  obtain ⟨-, -, holder, words, loaded⟩ := tileLoaded_keeps (s := s.loadPorts (s.portsFor c)) (p := port) (c := c)
    (tile := c.tile) (x.hosted s (s.portsFor c))
  exact ⟨_, _, ⟨⟨rowGrant_mmb pick hi, by cases s; rfl⟩, rfl⟩, cmd_finishCmd hc ..,
    grantLoad_own (port_loadPorts hx (s.portsFor c)), btile, whole, words.trans (hosted_words ..),
    congrArg (List.filter fun q => q != c.id) (hosted_queue ..), holder.trans (hosted_holder ..),
    fun mine => loaded.trans (hosted_loaded (port_key hx ▸ mine))⟩

/-- The output lines of an `mmd` are the words as they stand. -/
theorem rowGrant_lines (hi : c.instr = .mmd d a y) :
    let row (m : Nat) : List Byte := ((List.range (c.num 38 2)).map fun k =>
      drainWord (c.num 34 1) (rmode (c.num 35 1)) (slotWord x.words (wordIdx (c.num 33 1) m k))).flatten
    let line (m : Nat) : List OutLine := outRun 1 (c.capC.base + c.num 52 4 + m * c.num 48 4) (row m)
      (fun o => if o = (row m).length then m + 1 else m) fun _ => 0
    let outs := ((List.range (c.num 36 2)).map line).flatten
    ∃ t z, s.rowGrants port t ∧ t.cmd? c.id = some { c with outs := outs, phase := .running, count := c.num 36 2 } ∧
      t.port? port = some z ∧ z.words = x.words ∧ z.btile = x.btile ∧ z.queue = x.queue.filter fun q => q != c.id := by
  have hu := port_loadPorts hx (s.portsFor c)
  have run := grantDrain_eq (c := c) hu
  rw [hosted_words] at run
  exact ⟨_, _, ⟨(rowGrant_mmd pick hi).trans (congrArg _ run), by cases s; rfl⟩, cmd_modCmd hc rfl,
    port_modPort (port_dequeue hu c.id) fun _ => rfl, hosted_words .., hosted_btile ..,
    congrArg (List.filter fun q => q != c.id) (hosted_queue ..)⟩

/-- The slot of an `mmz` holds 0. -/
theorem rowGrant_cleared (hi : c.instr = .mmz d a y) : ∃ t z, s.rowGrants port t ∧
    t.cmd? c.id = some { c with phase := .finished, status := 0, count := 16, outs := [] } ∧ t.port? port = some z ∧
    z.queue = (x.queue.filter fun q => q != c.id) ∧
    ∀ slot row col, row < 16 → col < 1024 → slotWord z.words (wordIdx slot row col) =
      if slot = c.num 33 1 then 0 else slotWord x.words (wordIdx slot row col) := by
  have zeroed := port_modPort (port_loadPorts hx (s.portsFor c)) (f := Port.zeroed (c.num 33 1)) fun _ => rfl
  refine ⟨_, _, ⟨(rowGrant_mmz pick hi).trans (congrArg _ (grantZero_eq ..)), by cases s; rfl⟩, cmd_finishCmd hc ..,
    port_dequeue zeroed c.id, congrArg (List.filter fun q => q != c.id) (hosted_queue ..), fun slot row col hrow hcol => ?_⟩
  rw [← hosted_words s (s.portsFor c) x]
  exact slotWord_zeroed _ hrow hcol

end

/-- Another port as an `mmb` is granted. -/
theorem tileLoaded_elsewhere {s : State} {port k : Nat} {c : Cmd} {u : Port} (engine : port / 2 = s.clusterOf c)
    (hk : s.ports[k]? = some u) (other : u.num ≠ port) :
    ∃ v : Port, ((s.loadPorts (s.portsFor c)).grantLoad port c).ports[k]? = some v ∧
      v.queue = u.queue ∧ v.holder = u.holder ∧ v.words = u.words ∧ (u.num / 2 ≠ port / 2 → { v with loaded := u.loaded } = u) ∧
      (u.num / 2 = port / 2 → u.holder = some (s.regionOf c) → c.num 32 1 = 2 → v.btile = none) := by
  have num := hosted_num s (s.portsFor c) u
  obtain ⟨-, queue, holder, words, -⟩ := tileLoaded_keeps (s := s.loadPorts (s.portsFor c)) (p := port) (c := c)
    (tile := c.tile) (u.hosted s (s.portsFor c))
  refine ⟨_, grantLoad_other (ports_getElem (loadPorts_ports ..) hk) (num.trans_ne other), queue.trans (hosted_queue ..),
    holder.trans (hosted_holder ..), words.trans (hosted_words ..), fun away => ?_, fun near held whole => ?_⟩
  · rw [tileLoaded_other (by rw [num]; exact away.trans_eq engine), hosted_eq]
  · exact tileLoaded_whole ((congrArg (· / 2) num).trans (near.trans engine)) (num.trans_ne other) whole
      ((hosted_holder ..).trans held)

theorem portGrant_cases {s : State} {port : Nat} {x : Port} (hx : s.port? port = some x) :
    let given (u : State) (c : Cmd) : State := if u.mayEnqueue c = true then u.enqueue c else u
    let u := s.modPort port Port.release
    (s.mustRelease x = false → x.holder ≠ none → exec (.matrixPortGrant port) s = .next s) ∧
    (x.holder = none → s.nextForPort port = none → exec (.matrixPortGrant port) s = .next s) ∧
    (∀ c, x.holder = none → s.nextForPort port = some c → exec (.matrixPortGrant port) s = .next (given s c)) ∧
    (s.mustRelease x = true → u.nextForPort port = none → exec (.matrixPortGrant port) s = .next u) ∧
    (∀ c, s.mustRelease x = true → u.nextForPort port = some c → exec (.matrixPortGrant port) s = .next (given u c)) := by
  intro given u
  have kept (h : s.mustRelease x = false) : (if s.mustRelease x = true then u else s) = s := by simp [h]
  have stays (free : x.holder = none) : s.mustRelease x = false := by
    by_contra h
    exact mustRelease_held (by simpa using h) free
  have holder : (s.port? port).bind Port.holder = x.holder := by rw [hx, Option.bind_some]
  have free : (u.port? port).bind Port.holder = none := by rw [port_released hx, Option.bind_some, release_holder]
  exact ⟨fun h held => portGrant_held hx (kept h) (holder ▸ held), fun h nobody => portGrant_unwanted hx (kept (stays h)) nobody,
    fun c h first => portGrant_given hx (kept (stays h)) (holder.trans h) first, fun h nobody => portGrant_unwanted hx (if_pos h) nobody,
    fun c h first => portGrant_given hx (if_pos h) free first⟩

/-- Settles O49: each event by the state that its grant leaves; `slotWord_rowResult` gives the words after a row. -/
theorem matrixEvents : Obligations.MatrixEvents := by
  unfold Obligations.MatrixEvents
  refine ⟨fun s cmd c hc => ⟨fun no => ?_, fun may => ?_⟩, fun s port idle => ?_, fun s port c x pick hc hx => ?_,
    fun s port x hx => portGrant_cases hx⟩
  · rw [stagedCommandEnqueue_exec hc, if_neg (by simp [no])]
  · refine ⟨s.enqueue c, ?_, by cases s; rfl, fun k x hk => ?_⟩
    · rw [stagedCommandEnqueue_exec hc, if_pos may]
    · exact ⟨_, ports_getElem (enqueue_ports s c) hk, entered_queue x s c, entered_content, entered_other⟩
  · change execMatrixRowGrant port s = _
    simp only [execMatrixRowGrant, idle]
  · intro ran ended left
    refine ⟨fun d a y hi => ⟨rowGrant_misfit pick hc hx hi, fun tl tile fmt kb n more rows => ?_⟩,
      fun d a y hi held engine => ?_, fun d a y hi => rowGrant_lines pick hc hx hi,
      fun d a y hi => rowGrant_cleared pick hc hx hi⟩
    · obtain ⟨t, queue, run, here, last, next⟩ := rowGrant_row pick hc hx hi tile ⟨fmt, kb⟩
      rw [rowResult_steps] at last next
      refine ⟨t, _, run, here, fun slot row col hrow hcol => ?_, hosted_holder .., hosted_btile .., ?_, ?_, ?_,
        fun mine => hosted_loaded (port_key hx ▸ mine), last, next⟩
      · exact slotWord_rowResult hrow hcol (more.trans_le rows) n (slotWord_rowStart hrow hcol rows)
      · exact congrArg (· + 1) (hosted_perfRows ..)
      · exact congrArg₂ (· + ·) (hosted_perfSteps ..) rowResult_steps
      · exact congrArg₂ (· + ·) (hosted_perfCmds ..) (by simp only [beq_iff_eq])
    · obtain ⟨t, z, ⟨run, rfl⟩, done, here, btile, whole, words, queue, holder, loaded⟩ := rowGrant_tile pick hc hx hi held engine
      exact ⟨_, z, run, done, here, btile, whole, words, queue, holder, loaded, fun k u hk => tileLoaded_elsewhere engine hk⟩

end Sys2Proof.Machine
end
